-- ==== Sys2Proof/Word.lean ====
section
/-! DEFINITION. Word.lean: the word types of the X8 and their plainest arithmetic (00, R9; 01, R20, R21). -/
namespace Sys2Proof

/-- A byte of memory or of the scratchpad. -/
abbrev Byte := BitVec 8
/-- An x or f register, a system register, an address while it is computed (R24). -/
abbrev Word := BitVec 64
/-- An instruction word (R52). -/
abbrev IWord := BitVec 32
/-- A private vector register (R24). -/
abbrev VWord := BitVec 256
/-- A long register (R24). -/
abbrev LWord := BitVec 2048
/-- A line of 64 bytes (R292). -/
abbrev Line := BitVec 512
/-- A register number as an instruction names it (R53). -/
abbrev Reg := BitVec 5

/-- `len` bits of the number `w` from bit `lo` upward (R9). -/
def bitsOf (w lo len : Nat) : Nat := w / 2 ^ lo % 2 ^ len

/-- The signed value of the low `n` bits of `v` (R20, sext). -/
def sextNat (v n : Nat) : Int :=
  let u := v % 2 ^ n
  if u < 2 ^ (n - 1) then (u : Int) else (u : Int) - (2 ^ n : Nat)

/-- A word from an integer, wrapping modulo 2^64. -/
def wordOfInt (i : Int) : Word := BitVec.ofInt 64 i

/-- The bit slice hi:lo of a word as a number (R20). -/
def slice (w : Word) (hi lo : Nat) : Nat := bitsOf w.toNat lo (hi + 1 - lo)

/-- 1 for true and 0 for false, as a compare writes it (R88). -/
def boolWord (b : Bool) : Word := if b then 1 else 0

end Sys2Proof
end

