-- ==== Sys2Proof/Config.lean ====
section
/-! DEFINITION. Config.lean: what the spec leaves to a part, its firmware, its host or a peer. Constants without a
body: nothing in the model knows their values. -/
namespace Sys2Proof.Config

/-- The number from which the boot ROM derives the device attestation key: a function of MEAS1 that the fused device secret gives (R381;
log 12, DESIGN CHOICE). -/
opaque attestSecret : BitVec 384 → Nat

/-- The number from which the n-th signature takes its nonce (R321, R326; log 12, DESIGN CHOICE). -/
opaque signNonce : Nat → Nat

/-- The bytes of the boot ROM, of the firmware image and of the firmware configuration (R380; log 5, DESIGN CHOICE). -/
opaque romCode : List Byte
/-- The firmware image. -/
opaque firmware : List Byte
/-- The firmware configuration. -/
opaque firmwareConfig : List Byte

/-- The public key that the image carries and its signature; the key that signs that key, and its signature (R380; log 5, DESIGN
CHOICE). -/
opaque firmwareKey : List Byte
/-- The image's signature. -/
opaque firmwareSignature : List Byte
/-- The key that signs the image's key. -/
opaque keySigner : List Byte
/-- Its signature. -/
opaque keySignature : List Byte

/-- The digest of the Jenoskold root public key that the fuses hold (R380; log 5, DESIGN CHOICE). -/
opaque rootDigest : BitVec 384

/-- The boot ROM can read the fuses (R378, BOOTERR 3; log 5, DESIGN CHOICE). -/
opaque fusesRead : Bool

/-- Digests of the keys that firmware trusts (R379, R328; log 5, DESIGN CHOICE). -/
opaque signers : List (BitVec 384)

/-- The harvest words HMAP0 to HMAP17 that the fuses hold (R379, R39; log 2, DESIGN CHOICE). -/
opaque fuses : Fin 18 → Word

/-- The harvest bits of the cores that firmware holds back as spares (R238, R239; log 5, DESIGN CHOICE). -/
opaque spares : Fin 18 → Word

/-- The die 0 frame in which firmware writes the core map (R239, R379; log 5, DESIGN CHOICE). -/
opaque mapFrame : Fin 65536

/-- The die 0 frame in which firmware places the corrected-error log, and its capacity (R379, R383; log 5, DESIGN CHOICE). -/
opaque logFrame : Fin 65536
/-- Capacity of the corrected-error log. -/
opaque logCapacity : Nat

/-- What a peer's copy engines ask of this device through a port (R374, R375): a write of memory or of a scratchpad, which sets full
bits, or a read; each under a context of this device. -/
inductive PortOp where
  | write (ctx va : Nat) (data : List Byte)
  | writeSp (ctx core off : Nat) (data : List Byte)
  | read (ctx va n : Nat)
  deriving DecidableEq, Repr

/-- What a packet of copy-job data asks, where it asks something: no rule gives the packet's layout (R374; log 17, DESIGN CHOICE). -/
opaque portOp : List Byte → Option PortOp

/-- The n-th byte that a peer device answers with (R374; log 17, DESIGN CHOICE). -/
opaque peerByte : Nat → Byte

/-- The cause with which the peer answers the n-th request of a copy job, or none (R374; log 17, DESIGN CHOICE). -/
opaque peerFault : Nat → Option Nat

/-- Credits that a peer gives each virtual channel of a link when training ends (R367; log 17, DESIGN CHOICE). -/
opaque linkCredits : Nat

/-- What the n-th read of a write-only register gives (R289, R371; log 68, DESIGN CHOICE). -/
opaque freeWord : Nat → Word

/-- The n-th line that no rule gives: the data of a reply whose entry reads no line (R299; log 63, DESIGN CHOICE). -/
opaque freeLine : Nat → Line

/-- The check code of a Halyard packet, over its other bits (R376; log 18, DESIGN CHOICE). -/
opaque halyardCode : BitVec 128 → Byte

end Sys2Proof.Config
end

