-- ==== Sys2Proof/Syntax.lean ====
section
/-! DEFINITION. Syntax.lean: one constructor per row of spec/opcode_table.json: the 228 instruction
words of 03_encoding.md and the 122 events of the device (95_what_each_step_holds.md). -/
namespace Sys2Proof

/-- Element types and formats, codes 0 to 13 of R62. -/
inductive Ty where
  | f64 | f32 | f16 | bf16 | i64 | i32 | i16 | i8 | u64 | u32 | u16 | u8 | e4m3 | e5m2
  deriving DecidableEq, Repr

/-- Scope codes 0 to 4 of R63. -/
inductive Scope where
  | core | cluster | die | package | system
  deriving DecidableEq, Repr

/-- Integer kinds of FCVTFI and FCVTIF (R63). -/
inductive IntKind where
  | i64 | i32 | u64 | u32
  deriving DecidableEq, Repr

/-- Element sizes of VLDBC (R63). -/
inductive Size where
  | s64 | s32 | s16 | s8
  deriving DecidableEq, Repr

/-- Width of an atomic or a watch (R63). -/
inductive Width where
  | w64 | w32
  deriving DecidableEq, Repr

/-- Load qualifiers (R63, R108). -/
inductive LoadQ where
  | plain | f | fe
  deriving DecidableEq, Repr

/-- Store qualifiers (R63, R108). -/
inductive StoreQ where
  | plain | ef | f
  deriving DecidableEq, Repr

/-- Classes of an accumulator tile (R63, R82). -/
inductive TileClass where
  | int | f8 | f32
  deriving DecidableEq, Repr

/-- Operand formats of the MAT major (R63). -/
inductive MatFmt where
  | e4m3 | w2 | w3 | w4 | w5 | w6 | w7 | w8
  deriving DecidableEq, Repr

/-- TLBINV kinds (R59). -/
inductive TlbKind where
  | page | context | all
  deriving DecidableEq, Repr

/-- HMOD modifiers with their values (R68). -/
inductive HMod where
  | rm (mode : BitVec 2)
  | sat (satf8 : Bool)
  | na
  | ftz (ftz daz : Bool)
  deriving DecidableEq, Repr

/-- Who makes a register write that an event carries (R247, R378, R382). -/
inductive Writer where
  | host
  | machine
  | supervisor (ctx : Nat)
  deriving DecidableEq, Repr

/-- One constructor per row of the opcode table. Register fields are named d, a, b, e as in R53. -/
inductive Instr where
  -- INTA (R88)
  | add (d a b : Reg) | sub (d a b : Reg) | and (d a b : Reg) | or (d a b : Reg) | xor (d a b : Reg)
  | andn (d a b : Reg) | sll (d a b : Reg) | srl (d a b : Reg) | sra (d a b : Reg)
  | rol (d a b : Reg) | ror (d a b : Reg) | slt (d a b : Reg) | sltu (d a b : Reg)
  | min (d a b : Reg) | max (d a b : Reg) | minu (d a b : Reg) | maxu (d a b : Reg)
  | mul (d a b : Reg) | mulh (d a b : Reg) | mulhu (d a b : Reg)
  | div (d a b : Reg) | divu (d a b : Reg) | rem (d a b : Reg) | remu (d a b : Reg)
  | addw (d a b : Reg) | subw (d a b : Reg) | mulw (d a b : Reg)
  | cnt (d a : Reg) | clz (d a : Reg) | ctz (d a : Reg) | bswap (d a : Reg)
  | sel (d a b e : Reg)
  -- immediates (R90, R91)
  | addi (d a : Reg) (i : BitVec 16) | andi (d a : Reg) (i : BitVec 16) | ori (d a : Reg) (i : BitVec 16)
  | xori (d a : Reg) (i : BitVec 16) | slti (d a : Reg) (i : BitVec 16) | sltiu (d a : Reg) (i : BitVec 16)
  | slli (d a : Reg) (sh : BitVec 6) | srli (d a : Reg) (sh : BitVec 6) | srai (d a : Reg) (sh : BitVec 6)
  | lui (d : Reg) (i : BitVec 16) | auipc (d : Reg) (i : BitVec 16)
  -- control (R92-R99)
  | follow (l : BitVec 2) | detach
  | sysrd (d : Reg) (id : BitVec 12) | syswr (a : Reg) (id : BitVec 12)
  | beq (a b : Reg) (i : BitVec 16) | bne (a b : Reg) (i : BitVec 16) | blt (a b : Reg) (i : BitVec 16)
  | bge (a b : Reg) (i : BitVec 16) | bltu (a b : Reg) (i : BitVec 16) | bgeu (a b : Reg) (i : BitVec 16)
  | jal (off : BitVec 26) | jalr (d a : Reg) (i : BitVec 16)
  -- loads and stores (R105-R111)
  | ld (d a : Reg) (i : BitVec 16) | lw (d a : Reg) (i : BitVec 16) | lwu (d a : Reg) (i : BitVec 16)
  | lh (d a : Reg) (i : BitVec 16) | lhu (d a : Reg) (i : BitVec 16) | lb (d a : Reg) (i : BitVec 16)
  | lbu (d a : Reg) (i : BitVec 16) | fld (d a : Reg) (i : BitVec 16)
  | sd (a b : Reg) (i : BitVec 16) | sw (a b : Reg) (i : BitVec 16) | sh (a b : Reg) (i : BitVec 16)
  | sb (a b : Reg) (i : BitVec 16) | fsd (a b : Reg) (i : BitVec 16)
  | sld (d a : Reg) (q : LoadQ) (i : BitVec 14) | sst (a b : Reg) (q : StoreQ) (i : BitVec 14)
  | vld (d a b : Reg) | vst (d a b : Reg) | vsld (d a b : Reg) (q : LoadQ) | vsst (d a b : Reg) (q : StoreQ)
  | vldbc (d a b : Reg) (s : Size) | flw (d a b : Reg) | fsw (d a b : Reg)
  | qld (a b e : Reg) | qst (a b e : Reg) | pref (a b : Reg) | cflush (a b : Reg)
  -- atomics (R116-R119)
  | amoadd (d a b : Reg) (w : Width) | amoand (d a b : Reg) (w : Width) | amoor (d a b : Reg) (w : Width)
  | amoxor (d a b : Reg) (w : Width) | amomin (d a b : Reg) (w : Width) | amomax (d a b : Reg) (w : Width)
  | amominu (d a b : Reg) (w : Width) | amomaxu (d a b : Reg) (w : Width) | amoswap (d a b : Reg) (w : Width)
  | amocas (d a b : Reg) (w : Width) | amofadd (d a b : Reg) (w : Width)
  | fence (s : Scope) | fencej (s : Scope) | wfe
  -- messages (R191-R198)
  | send (d a : Reg) (ch : BitVec 6) (len : BitVec 4) | sendv (d a : Reg) (ch : BitVec 6)
  | sendnz (d a : Reg) (ch : BitVec 6) (t : Ty) | hret | hyield
  | hbind (a : Reg) (ch : BitVec 6) (prio : BitVec 4)
  | hunbind (ch : BitVec 6) | hmask (ch : BitVec 6) | hunmask (ch : BitVec 6) | hpend (ch : BitVec 6)
  | hquery (d : Reg) (ch : BitVec 6) | watch (d a : Reg) (ch : BitVec 6) (w : Width)
  | rsend (d : Reg) (ch : BitVec 6) (len : BitVec 4)
  -- jobs, lineage, stash, barriers (R59)
  | japp (a b : Reg) | jwait (a b : Reg) | jpoll (d a : Reg) | jabort (a : Reg) | kapp (a b : Reg) | kwait (a b : Reg)
  | lfork (d a : Reg) | ldrop (a : Reg) | lwr (a b e : Reg) | lrd (d a b : Reg) | lstat (d a : Reg)
  | stash (a b e : Reg) | restore (a b e : Reg) | sstat (d a : Reg)
  | barr (d a : Reg) | bwait (a b : Reg) | barw (a : Reg) | binit (a b e : Reg)
  -- scalar floating point (R127-R134)
  | fadd (d a b : Reg) (t : Ty) | fsub (d a b : Reg) (t : Ty) | fmul (d a b : Reg) (t : Ty) | fdiv (d a b : Reg) (t : Ty)
  | fsqrt (d a : Reg) (t : Ty) | fmin (d a b : Reg) (t : Ty) | fmax (d a b : Reg) (t : Ty)
  | feq (d a b : Reg) (t : Ty) | flt (d a b : Reg) (t : Ty) | fle (d a b : Reg) (t : Ty)
  | fclass (d a : Reg) (t : Ty) | fsgnj (d a b : Reg) (t : Ty) | fsgnjn (d a b : Reg) (t : Ty) | fsgnjx (d a b : Reg) (t : Ty)
  | fcvtf (d a : Reg) (src dst : Ty) | fcvtfi (d a : Reg) (k : IntKind) (t : Ty) | fcvtif (d a : Reg) (k : IntKind) (t : Ty)
  | fmvxf (d a : Reg) (t : Ty) | fmvfx (d a : Reg) (t : Ty)
  | fmaddD (d a b e : Reg) | fmsubD (d a b e : Reg) | fnmaddD (d a b e : Reg) | fnmsubD (d a b e : Reg)
  | fmaddS (d a b e : Reg) | fmsubS (d a b e : Reg) | fnmaddS (d a b e : Reg) | fnmsubS (d a b e : Reg)
  -- vectors (R135-R147)
  | vadd (d a b : Reg) (t : Ty) | vsub (d a b : Reg) (t : Ty) | vmul (d a b : Reg) (t : Ty)
  | vmin (d a b : Reg) (t : Ty) | vmax (d a b : Reg) (t : Ty)
  | vand (d a b : Reg) (t : Ty) | vor (d a b : Reg) (t : Ty) | vxor (d a b : Reg) (t : Ty)
  | vsll (d a b : Reg) (t : Ty) | vsrl (d a b : Reg) (t : Ty) | vsra (d a b : Reg) (t : Ty)
  | vcmpeq (d a b : Reg) (t : Ty) | vcmplt (d a b : Reg) (t : Ty) | vcmple (d a b : Reg) (t : Ty)
  | vsel (d a b : Reg) (t : Ty) | vabs (d a : Reg) (t : Ty) | vneg (d a : Reg) (t : Ty)
  | vcvt (d a : Reg) (src dst : Ty) | vredsum (d a : Reg) (t : Ty) | vredmax (d a : Reg) (t : Ty) | vredmin (d a : Reg) (t : Ty)
  | vperm (d a b : Reg) (t : Ty) | vbcl (d a b : Reg) (t : Ty) | vextx (d a b : Reg) (t : Ty) | vinsx (d a b : Reg) (t : Ty)
  | vmov (d a : Reg) | vcnt (d a : Reg) (t : Ty) | vzero (d : Reg)
  | vfmaF64 (d a b e : Reg) | vfmaF32 (d a b e : Reg) | vfmaF16 (d a b e : Reg) | vfmaBf16 (d a b e : Reg)
  | vfmsF64 (d a b e : Reg) | vfmsF32 (d a b e : Reg) | vdot4I8 (d a b e : Reg) | vdot2Bf16 (d a b e : Reg)
  | vexp (d a : Reg) (t : Ty) | vexp2 (d a : Reg) (t : Ty) | vlog2 (d a : Reg) (t : Ty) | vrcp (d a : Reg) (t : Ty)
  | vrsqrt (d a : Reg) (t : Ty) | vtanh (d a : Reg) (t : Ty) | vsigm (d a : Reg) (t : Ty) | vrand (d : Reg) (t : Ty)
  | lvon | lvoff | lvqry (d : Reg)
  -- matrices and bit planes (R159-R172)
  | mmulSp (t : BitVec 2) (fa : MatFmt) (a b : Reg) (fb : MatFmt)
  | mmulAcc (t : BitVec 2) (fa : MatFmt) (a b : Reg) (fb : MatFmt) (ta : BitVec 2)
  | mmulzSp (t : BitVec 2) (fa : MatFmt) (a b : Reg) (fb : MatFmt)
  | mmulzAcc (t : BitVec 2) (fa : MatFmt) (a b : Reg) (fb : MatFmt) (ta : BitVec 2)
  | mzero (d : Reg) (c : TileClass) | mload (d a b : Reg) (t : Ty) | mstore (d a b : Reg) (t : Ty)
  | mscacc (d a b e : Reg) | mcvt (d : Reg) (c : TileClass) | mcopy (d a : Reg) | mflags (d : Reg)
  | bpq (d a b : Reg) (m : BitVec 5) | bpdq (d a b : Reg) (m : BitVec 5) | bpack (d a : Reg) (m : BitVec 5)
  | bunpack (d a : Reg) (m : BitVec 5) | bpmaxe (d a : Reg)
  -- system (R290, R304, R320)
  | ecall | eret | brk | wfi | tlbinv (a b : Reg) (k : TlbKind) | ptload (a : Reg) (sel : BitVec 5) | halt
  -- hints (R67)
  | himm (p : BitVec 23) | hmod (m : HMod) | hsched (first : Bool)
  | rep (c : BitVec 6) (ds as bs : BitVec 3) | realign (n : BitVec 5)
  -- a fetched word that is illegal, and a fetch that faults (R64, R65); they stand here because compiled code can build
  -- only a type's first constructors
  | illegalWord (w : IWord) | fetchFault (cause : Nat) (va : Word)
  -- events of one core (c is the physical core, 0 to 1,151)
  | followJoin (c : Nat) | followTimeout (c : Nat) | realignJoin (c : Nat) | realignTimeout (c : Nat)
  | wfeWake (c : Nat) | wfeTimeout (c : Nat) | loadStreamFetch (c : Nat) | storeStreamWrite (c : Nat) | matrixRetire (c : Nat)
  -- events that take the k-th item in flight
  | remoteStoreAck (k : Nat) | vqoPushArrival (k : Nat) | stageCreditArrival (k : Nat) | stageCreditRevoke (k : Nat)
  | messageDelivery (k : Nat) | spillHoldRelease (k : Nat)
  | activationStart (c : Nat) | systemChannelEntry (c : Nat)
  | remoteLoad (c : Nat) | remoteStore (c : Nat) | remoteCopy (c : Nat) | remoteAtomic (c : Nat) | reductionPartial (c : Nat)
  | barrierArrival (k : Nat) | childArrival (k : Nat) | barrierRelease (k : Nat) | barrierWait (k : Nat) | barrierWaitRetry (k : Nat)
  | pageWalk (bay : Nat)
  -- protocol events (h is the home core's logical id, base a region's address)
  | rd (k : Nat) | rdx (k : Nat) | wb (c line : Nat) | drop (c line : Nat) | rack (k : Nat) | timeout (h base : Nat)
  | rst (k : Nat) | ramo (k : Nat) | lexp (h base agent : Nat) | fenced (h base agent : Nat) | recall (h base : Nat)
  | protoRetry (k : Nat) | regionMerge (h base : Nat)
  | grants (k : Nat) | grantx (k : Nat) | ackw (k : Nat) | ownerRecall (k : Nat) | downgrade (k : Nat) | upd (k : Nat)
  | inv (k : Nat) | amores (k : Nat)
  | leaseRenewal (h base agent : Nat) | heartbeatLoss (agent : Nat) | meridianPulse (agent localTime : Nat) | halyardSilence (agent : Nat)
  | hostSnoop (line : Nat) (invalidate : Bool) (data : Option Line)
  | hostMemAccess (pa n : Nat) (store : Option Word) | doorbellWrite (die qnum addr : Nat)
  -- schedulers and engines (k is a card's number in the die's append order)
  | jobStart (die cls : Nat) | copy (die k : Nat) | copyt (die k : Nat) | fill (die k : Nat) | lz4x (die k : Nat) | lz4c (die k : Nat)
  | crc (die k : Nat) | lflatten (die k : Nat) | lrebase (die k : Nat) | ldiff (die k : Nat) | lresolve (die k : Nat)
  | cksave (die k : Nat) | ckload (die k : Nat) | cardRetire (die k : Nat)
  | stashOperation (die k : Nat) | restoreOperation (die k : Nat)
  | launchDeal (die k : Nat) | groupPlacement (c : Nat) | launchComplete (die k : Nat) | balanceExchange (die : Nat)
  | gangReserve (die : Nat) | sliceExpiry (c : Nat) | preemptionRequest (c : Nat) | saveComplete (c : Nat) | groupResume (c : Nat)
  | preempt (die : Nat) (v : Word) (w : Writer)
  | fcmdAssign (die : Nat) (v : Word) | fcmdRelease (die : Nat) (v : Word) | fcmdRetire (die : Nat) (v : Word)
  | zeroingComplete (die frame : Nat)
  -- contexts
  | create (v : Word) | start (v : Word) | stop (v : Word) | resume (v : Word) | destroy (v : Word) | contextDrained (ctx : Nat)
  -- links
  | lcmdEnable (p : Nat) | lcmdDisable (p : Nat) | lcmdUnfence (p : Nat) | lcmdRetrain (p : Nat)
  | lctlWrite (p : Nat) (v : Word) (w : Writer) | trainingEnd (p : Nat) (good : Nat) | trainingTimeout (p : Nat)
  | retrainEnd (p : Nat) (good : Nat) | retrainTimeout (p : Nat) | laneErrorLimit (p lane : Nat)
  | dataFlit (p : Nat) (flit : List Byte) | nak (p : Nat) (flit : List Byte) | idleAckFlit (p : Nat) (flit : List Byte)
  | heartbeatFlit (p : Nat) (flit : List Byte) | fenceNotice (p : Nat) (flit : List Byte) | compSample (p : Nat)
  | halyardHeartbeat (pkt : BitVec 128) | halyardRestart (pkt : BitVec 128) | halyardResync (pkt : BitVec 128)
  | halyardFenceNotice (pkt : BitVec 128)
  -- platform
  | deviceReset | powerWindow (watts : Nat) | correctedError (kind unit loc detail : Nat)
  | uncorrectableError (pa : Nat) | watchdogExpiry (c : Nat) | registerWrite (off : Nat) (v : Word) (w : Writer)
  | corePowerGating (c : Nat) | coreFailure (c : Nat)
  deriving DecidableEq, Repr

end Sys2Proof
end

