-- ==== Sys2Proof/WellFormed.lean ====
section
/-! DEFINITION. WellFormed.lean: the checks of R64 that depend on the word alone: register files (R54),
queue registers in forbidden positions (R29), code ranges (R56 to R63). An event is well formed always. -/
namespace Sys2Proof

/-- The type codes of R62 as numbers. -/
def Ty.code : Ty → Nat
  | .f64 => 0 | .f32 => 1 | .f16 => 2 | .bf16 => 3 | .i64 => 4 | .i32 => 5 | .i16 => 6 | .i8 => 7
  | .u64 => 8 | .u32 => 9 | .u16 => 10 | .u8 => 11 | .e4m3 => 12 | .e5m2 => 13

/-- Types 0 to 3 (R135). -/
def Ty.isFloat (t : Ty) : Bool := t.code < 4
/-- Types 4 to 7. -/
def Ty.isSigned (t : Ty) : Bool := 4 ≤ t.code && t.code < 8
/-- Types 8 to 11. -/
def Ty.isUnsigned (t : Ty) : Bool := 8 ≤ t.code && t.code < 12
/-- Types 4 to 11. -/
def Ty.isInt (t : Ty) : Bool := 4 ≤ t.code && t.code < 12
/-- Types 0 to 11. -/
def Ty.isLane (t : Ty) : Bool := t.code < 12
/-- The formats FCVTF accepts: 0 to 3, 12 and 13 (R60). -/
def Ty.isFormat (t : Ty) : Bool := t.code < 4 || 12 ≤ t.code
/-- Types 0 and 1, the only ones of VSF (R62). -/
def Ty.isWide (t : Ty) : Bool := t.code < 2

/-- An x register as a source: x31 is qs (R29). -/
def xSrc (r : Reg) : Bool := r != 31
/-- An x register as a destination: x30 is qi (R29). -/
def xDst (r : Reg) : Bool := r != 30
/-- A v register as a source: below 16 (R54) and not v15 (R29). -/
def vSrc (r : Reg) : Bool := r.toNat < 15
/-- A v register as a destination: below 16 and not v14. -/
def vDst (r : Reg) : Bool := r.toNat < 16 && r != 14
/-- A v register that is source and destination. -/
def vBoth (r : Reg) : Bool := r.toNat < 14
/-- A tile number (R54). -/
def tileOk (r : Reg) : Bool := r.toNat < 4
/-- A payload of SEND or RSEND: registers d to d + len - 1, none of them x31; with length 0, d = 0 (R58, R191). -/
def payloadOk (d : Reg) (len : BitVec 4) : Bool :=
  len.toNat ≤ 4 && (if len = 0 then d = 0 else d.toNat + len.toNat ≤ 31)
/-- The width m of a bit-plane block (R61). -/
def planesOk (m : BitVec 5) : Bool := 2 ≤ m.toNat && m.toNat ≤ 8

/-- Three x registers: a destination and two sources. -/
def wf3x (d a b : Reg) : Bool := xDst d && xSrc a && xSrc b
/-- Three v registers with a type check. -/
def wf3v (d a b : Reg) (ok : Bool) : Bool := vDst d && vSrc a && vSrc b && ok
/-- Two v registers with a type check. -/
def wf2v (d a : Reg) (ok : Bool) : Bool := vDst d && vSrc a && ok

/-- The word is an instruction under R64. -/
def Instr.wf : Instr → Bool
  | .add d a b | .sub d a b | .and d a b | .or d a b | .xor d a b | .andn d a b | .sll d a b | .srl d a b | .sra d a b
  | .rol d a b | .ror d a b | .slt d a b | .sltu d a b | .min d a b | .max d a b | .minu d a b | .maxu d a b
  | .mul d a b | .mulh d a b | .mulhu d a b | .div d a b | .divu d a b | .rem d a b | .remu d a b
  | .addw d a b | .subw d a b | .mulw d a b => wf3x d a b
  | .cnt d a | .clz d a | .ctz d a | .bswap d a => xDst d && xSrc a
  | .sel d a b e => wf3x d a b && xSrc e
  | .addi d a _ | .andi d a _ | .ori d a _ | .xori d a _ | .slti d a _ | .sltiu d a _ => xDst d && xSrc a
  | .slli d a _ | .srli d a _ | .srai d a _ => xDst d && xSrc a
  | .lui d _ | .auipc d _ => xDst d
  | .follow _ | .detach => true
  | .sysrd d _ => xDst d
  | .syswr a _ => xSrc a
  | .beq a b _ | .bne a b _ | .blt a b _ | .bge a b _ | .bltu a b _ | .bgeu a b _ => xSrc a && xSrc b
  | .jal _ => true
  | .jalr d a _ => xDst d && xSrc a
  | .ld d a _ | .lw d a _ | .lwu d a _ | .lh d a _ | .lhu d a _ | .lb d a _ | .lbu d a _ => xDst d && xSrc a
  | .fld _ a _ => xSrc a
  | .sd a b _ | .sw a b _ | .sh a b _ | .sb a b _ => xSrc a && xSrc b
  | .fsd a _ _ => xSrc a
  | .sld d a _ _ => xDst d && xSrc a
  | .sst a b _ _ => xSrc a && xSrc b
  | .vld d a b | .vsld d a b _ | .vldbc d a b _ => vDst d && xSrc a && xSrc b
  | .vst d a b | .vsst d a b _ => vSrc d && xSrc a && xSrc b
  | .flw _ a b | .fsw _ a b => xSrc a && xSrc b
  | .qld a b e | .qst a b e => xSrc a && xSrc b && xSrc e
  | .pref a b | .cflush a b => xSrc a && xSrc b
  | .amoadd d a b _ | .amoand d a b _ | .amoor d a b _ | .amoxor d a b _ | .amomin d a b _ | .amomax d a b _
  | .amominu d a b _ | .amomaxu d a b _ | .amoswap d a b _ => wf3x d a b
  | .amocas d a b _ => xDst d && xSrc d && xSrc a && xSrc b
  | .amofadd _ a _ _ => xSrc a
  | .fence _ | .fencej _ | .wfe => true
  | .send d a _ len => payloadOk d len && xSrc a
  | .sendv d a _ => vSrc d && xSrc a
  | .sendnz d a _ t => vSrc d && xSrc a && t.isLane
  | .hret | .hyield => true
  | .hbind a _ p => xSrc a && decide (p.toNat < 8)
  | .hunbind _ | .hmask _ | .hunmask _ | .hpend _ => true
  | .hquery d _ => xDst d
  | .watch d a _ _ => xSrc d && xSrc a
  | .rsend d _ len => payloadOk d len
  | .japp a b | .jwait a b | .kapp a b | .kwait a b => xSrc a && xSrc b
  | .jpoll d a => xDst d && xSrc a
  | .jabort a => xSrc a
  | .lfork d a | .lstat d a => xDst d && xSrc a
  | .ldrop a => xSrc a
  | .lwr a b e => xSrc a && xSrc b && xSrc e
  | .lrd d a b => wf3x d a b
  | .stash a b e | .restore a b e => xSrc a && xSrc b && xSrc e
  | .sstat d a => xDst d && xSrc a
  | .barr d a => xDst d && xSrc a
  | .bwait a b => xSrc a && xSrc b
  | .barw a => xSrc a
  | .binit a b e => xSrc a && xSrc b && xSrc e
  | .fadd _ _ _ t | .fsub _ _ _ t | .fmul _ _ _ t | .fdiv _ _ _ t | .fmin _ _ _ t | .fmax _ _ _ t
  | .fsgnj _ _ _ t | .fsgnjn _ _ _ t | .fsgnjx _ _ _ t => t.isFloat
  | .fsqrt _ _ t => t.isFloat
  | .feq d _ _ t | .flt d _ _ t | .fle d _ _ t => xDst d && t.isFloat
  | .fclass d _ t => xDst d && t.isFloat
  | .fcvtf _ _ src dst => src.isFormat && dst.isFormat && src != dst
  | .fcvtfi d _ _ t => xDst d && t.isFloat
  | .fcvtif _ a _ t => xSrc a && t.isFloat
  | .fmvxf d _ t => xDst d && t.isFloat
  | .fmvfx _ a t => xSrc a && t.isFloat
  | .fmaddD _ _ _ _ | .fmsubD _ _ _ _ | .fnmaddD _ _ _ _ | .fnmsubD _ _ _ _
  | .fmaddS _ _ _ _ | .fmsubS _ _ _ _ | .fnmaddS _ _ _ _ | .fnmsubS _ _ _ _ => true
  | .vadd d a b t | .vsub d a b t | .vmul d a b t | .vmin d a b t | .vmax d a b t
  | .vcmpeq d a b t | .vcmplt d a b t | .vcmple d a b t | .vperm d a b t => wf3v d a b t.isLane
  | .vand d a b t | .vor d a b t | .vxor d a b t | .vsll d a b t | .vsrl d a b t | .vsra d a b t => wf3v d a b t.isInt
  | .vsel d a b t => vBoth d && vSrc a && vSrc b && t.isLane
  | .vabs d a t | .vneg d a t => wf2v d a (decide (t.code < 8))
  | .vcvt d a src dst => wf2v d a (src != dst)
  | .vredsum d a t | .vredmax d a t | .vredmin d a t => wf2v d a t.isLane
  | .vbcl d a b t => vDst d && vSrc a && xSrc b && t.isLane
  | .vextx d a b t => xDst d && vSrc a && xSrc b && t.isLane
  | .vinsx d a b t => vBoth d && xSrc a && xSrc b && t.isLane
  | .vmov d a => wf2v d a true
  | .vcnt d a t => wf2v d a t.isInt
  | .vzero d => vDst d
  | .vfmaF64 d a b e | .vfmaF32 d a b e | .vfmaF16 d a b e | .vfmaBf16 d a b e
  | .vfmsF64 d a b e | .vfmsF32 d a b e | .vdot4I8 d a b e | .vdot2Bf16 d a b e => wf3v d a b (vSrc e)
  | .vexp d a t | .vexp2 d a t | .vlog2 d a t | .vrcp d a t | .vrsqrt d a t | .vtanh d a t | .vsigm d a t => wf2v d a t.isWide
  | .vrand d t => vDst d && t.isWide
  | .lvon | .lvoff => true
  | .lvqry d => xDst d
  | .mmulSp _ _ a b _ | .mmulzSp _ _ a b _ => xSrc a && xSrc b
  | .mmulAcc t fa a b _ ta | .mmulzAcc t fa a b _ ta => xSrc a && xSrc b && t != ta && fa != .e4m3
  | .mzero d _ | .mcvt d _ => tileOk d
  | .mload d a b _ | .mstore d a b _ => tileOk d && xSrc a && xSrc b
  | .mscacc d a b e => tileOk d && tileOk a && xSrc b && xSrc e
  | .mcopy d a => tileOk d && tileOk a
  | .mflags d => xDst d
  | .bpq d a b m | .bpdq d a b m => xSrc d && xSrc a && xSrc b && planesOk m
  | .bpack d a m | .bunpack d a m => xSrc d && xSrc a && planesOk m
  | .bpmaxe d a => xDst d && xSrc a
  | .ecall | .eret | .brk | .wfi | .halt => true
  | .tlbinv a b k => xSrc a && xSrc b && (match k with | .page => true | .context => a == 0 | .all => a == 0 && b == 0)
  | .ptload a s => xSrc a && decide (1 ≤ s.toNat) && decide (s.toNat ≤ 7)
  | .himm _ | .hmod _ | .hsched _ | .rep _ _ _ _ => true
  | .realign n => decide (n.toNat ≤ 20)
  | .followJoin _ | .followTimeout _ | .realignJoin _ | .realignTimeout _ | .wfeWake _ | .wfeTimeout _
  | .loadStreamFetch _ | .storeStreamWrite _ | .matrixRetire _ | .remoteStoreAck _ | .vqoPushArrival _
  | .stageCreditArrival _ | .stageCreditRevoke _ | .messageDelivery _ | .spillHoldRelease _ | .activationStart _
  | .systemChannelEntry _ | .remoteLoad _ | .remoteStore _ | .remoteCopy _ | .remoteAtomic _ | .reductionPartial _
  | .barrierArrival _ | .childArrival _ | .barrierRelease _ | .barrierWait _ | .barrierWaitRetry _ | .pageWalk _
  | .rd _ | .rdx _ | .wb _ _ | .drop _ _ | .rack _ | .timeout _ _ | .rst _ | .ramo _ | .lexp _ _ _ | .fenced _ _ _
  | .recall _ _ | .protoRetry _ | .regionMerge _ _ | .grants _ | .grantx _ | .ackw _ | .ownerRecall _ | .downgrade _
  | .upd _ | .inv _ | .amores _ | .leaseRenewal _ _ _ | .heartbeatLoss _ | .meridianPulse _ _ | .halyardSilence _
  | .hostSnoop _ _ _ | .hostMemAccess _ _ _ | .doorbellWrite _ _ _ | .jobStart _ _ | .copy _ _ | .copyt _ _ | .fill _ _
  | .lz4x _ _ | .lz4c _ _ | .crc _ _ | .lflatten _ _ | .lrebase _ _ | .ldiff _ _ | .lresolve _ _ | .cksave _ _ | .ckload _ _
  | .cardRetire _ _ | .stashOperation _ _ | .restoreOperation _ _ | .launchDeal _ _ | .groupPlacement _ | .launchComplete _ _
  | .balanceExchange _ | .gangReserve _ | .sliceExpiry _ | .preemptionRequest _ | .saveComplete _ | .groupResume _
  | .preempt _ _ _ | .fcmdAssign _ _ | .fcmdRelease _ _ | .fcmdRetire _ _ | .zeroingComplete _ _ | .create _ | .start _ | .stop _
  | .resume _ | .destroy _ | .contextDrained _ | .lcmdEnable _ | .lcmdDisable _ | .lcmdUnfence _ | .lcmdRetrain _
  | .lctlWrite _ _ _ | .trainingEnd _ _ | .trainingTimeout _ | .retrainEnd _ _ | .retrainTimeout _ | .laneErrorLimit _ _
  | .dataFlit _ _ | .nak _ _ | .idleAckFlit _ _ | .heartbeatFlit _ _ | .fenceNotice _ _ | .compSample _ | .halyardHeartbeat _
  | .halyardRestart _ | .halyardResync _ | .halyardFenceNotice _ | .deviceReset | .powerWindow _ | .correctedError _ _ _ _
  | .uncorrectableError _ | .watchdogExpiry _ | .registerWrite _ _ _ | .illegalWord _ | .fetchFault _ _ | .corePowerGating _
  | .coreFailure _ => true

end Sys2Proof
end

