-- ==== Sys2Proof/Decode.lean ====
section
/-! DEFINITION. Decode.lean: instruction words to instructions and back (03_encoding.md). Decoding is total:
a word that R64 calls no instruction gives none. Events have no word. -/
namespace Sys2Proof

/-! ## Code tables (R62, R63) -/

/-- The type of a code of R62; codes 14 and above are illegal. -/
def tyOf : Nat → Option Ty
  | 0 => some .f64 | 1 => some .f32 | 2 => some .f16 | 3 => some .bf16 | 4 => some .i64 | 5 => some .i32
  | 6 => some .i16 | 7 => some .i8 | 8 => some .u64 | 9 => some .u32 | 10 => some .u16 | 11 => some .u8
  | 12 => some .e4m3 | 13 => some .e5m2 | _ => none

/-- Scope codes (R63). -/
def scopeOf : Nat → Option Scope
  | 0 => some .core | 1 => some .cluster | 2 => some .die | 3 => some .package | 4 => some .system | _ => none
/-- The code of a scope. -/
def Scope.code : Scope → Nat
  | .core => 0 | .cluster => 1 | .die => 2 | .package => 3 | .system => 4

/-- Integer kinds (R63); the field has two bits. -/
def kindOf : Nat → IntKind
  | 0 => .i64 | 1 => .i32 | 2 => .u64 | _ => .u32
/-- The code of an integer kind. -/
def IntKind.code : IntKind → Nat
  | .i64 => 0 | .i32 => 1 | .u64 => 2 | .u32 => 3

/-- Sizes (R63). -/
def sizeOf? : Nat → Option Size
  | 0 => some .s64 | 1 => some .s32 | 2 => some .s16 | 3 => some .s8 | _ => none
/-- The code of a size. -/
def Size.code : Size → Nat
  | .s64 => 0 | .s32 => 1 | .s16 => 2 | .s8 => 3

/-- Widths (R63); the rest of the field must be zero. -/
def widthOf : Nat → Option Width
  | 0 => some .w64 | 1 => some .w32 | _ => none
/-- The code of a width. -/
def Width.code : Width → Nat
  | .w64 => 0 | .w32 => 1

/-- Load qualifiers (R63). -/
def loadQOf : Nat → Option LoadQ
  | 0 => some .plain | 1 => some .f | 2 => some .fe | _ => none
/-- The code of a load qualifier. -/
def LoadQ.code : LoadQ → Nat
  | .plain => 0 | .f => 1 | .fe => 2

/-- Store qualifiers (R63). -/
def storeQOf : Nat → Option StoreQ
  | 0 => some .plain | 1 => some .ef | 2 => some .f | _ => none
/-- The code of a store qualifier. -/
def StoreQ.code : StoreQ → Nat
  | .plain => 0 | .ef => 1 | .f => 2

/-- Tile classes (R63). -/
def classOf : Nat → Option TileClass
  | 0 => some .int | 1 => some .f8 | 2 => some .f32 | _ => none
/-- The code of a class. -/
def TileClass.code : TileClass → Nat
  | .int => 0 | .f8 => 1 | .f32 => 2

/-- Operand formats of the MAT major (R63); the field has three bits. -/
def matFmtOf : Nat → MatFmt
  | 0 => .e4m3 | 1 => .w2 | 2 => .w3 | 3 => .w4 | 4 => .w5 | 5 => .w6 | 6 => .w7 | _ => .w8
/-- The code of an operand format. -/
def MatFmt.code : MatFmt → Nat
  | .e4m3 => 0 | .w2 => 1 | .w3 => 2 | .w4 => 3 | .w5 => 4 | .w6 => 5 | .w7 => 6 | .w8 => 7

/-- TLBINV kinds (R59). -/
def tlbKindOf : Nat → Option TlbKind
  | 0 => some .page | 1 => some .context | 2 => some .all | _ => none
/-- The code of a TLBINV kind. -/
def TlbKind.code : TlbKind → Nat
  | .page => 0 | .context => 1 | .all => 2

/-! ## Fields (R53) -/

/-- A register field that begins at bit `lo`. -/
def regAt (w lo : Nat) : Reg := BitVec.ofNat 5 (bitsOf w lo 5)
/-- Field d of formats A, I, Q; field a of format B. -/
def fD (w : Nat) : Reg := regAt w 21
/-- Field a of formats A, I, Q, M; field b of format B. -/
def fA (w : Nat) : Reg := regAt w 16
/-- Field b of formats A and M. -/
def fB (w : Nat) : Reg := regAt w 11
/-- Field e of format A. -/
def fE (w : Nat) : Reg := regAt w 6
/-- The 16-bit immediate. -/
def fImm (w : Nat) : BitVec 16 := BitVec.ofNat 16 (bitsOf w 0 16)
/-- The channel of format Q. -/
def fCh (w : Nat) : BitVec 6 := BitVec.ofNat 6 (bitsOf w 10 6)
/-- Field e of format Q. -/
def fQE (w : Nat) : BitVec 4 := BitVec.ofNat 4 (bitsOf w 6 4)

/-- `i` when the condition on the fields holds, an illegal word otherwise. -/
def guardI (ok : Bool) (i : Instr) : Option Instr := if ok then some i else none

/-! ## The majors -/

/-- INTA (R57). -/
def decInta (w : Nat) : Option Instr :=
  let d := fD w; let a := fA w; let b := fB w; let e := fE w
  let e0 := e == 0
  let be0 := b == 0 && e == 0
  match bitsOf w 0 6 with
  | 0 => guardI e0 (.add d a b) | 1 => guardI e0 (.sub d a b) | 2 => guardI e0 (.and d a b) | 3 => guardI e0 (.or d a b)
  | 4 => guardI e0 (.xor d a b) | 5 => guardI e0 (.andn d a b) | 6 => guardI e0 (.sll d a b) | 7 => guardI e0 (.srl d a b)
  | 8 => guardI e0 (.sra d a b) | 9 => guardI e0 (.rol d a b) | 10 => guardI e0 (.ror d a b) | 11 => guardI e0 (.slt d a b)
  | 12 => guardI e0 (.sltu d a b) | 13 => guardI e0 (.min d a b) | 14 => guardI e0 (.max d a b) | 15 => guardI e0 (.minu d a b)
  | 16 => guardI e0 (.maxu d a b) | 17 => guardI e0 (.mul d a b) | 18 => guardI e0 (.mulh d a b) | 19 => guardI e0 (.mulhu d a b)
  | 20 => guardI e0 (.div d a b) | 21 => guardI e0 (.divu d a b) | 22 => guardI e0 (.rem d a b) | 23 => guardI e0 (.remu d a b)
  | 24 => guardI e0 (.addw d a b) | 25 => guardI e0 (.subw d a b) | 26 => guardI e0 (.mulw d a b)
  | 27 => guardI be0 (.cnt d a) | 28 => guardI be0 (.clz d a) | 29 => guardI be0 (.ctz d a) | 30 => guardI be0 (.bswap d a)
  | 31 => some (.sel d a b e)
  | _ => none

/-- Major 0x08 (R56). -/
def decShift (w : Nat) : Option Instr :=
  let sh := BitVec.ofNat 6 (bitsOf w 0 6)
  let ok := bitsOf w 6 8 == 0
  match bitsOf w 14 2 with
  | 0 => guardI ok (.slli (fD w) (fA w) sh)
  | 1 => guardI ok (.srli (fD w) (fA w) sh)
  | 2 => guardI ok (.srai (fD w) (fA w) sh)
  | _ => none

/-- CTL (R58). -/
def decCtl (w : Nat) : Option Instr :=
  let dab0 := fD w == 0 && fA w == 0 && fB w == 0
  match bitsOf w 0 6 with
  | 0 => guardI (dab0 && bitsOf w 8 3 == 0) (.follow (BitVec.ofNat 2 (bitsOf w 6 2)))
  | 1 => guardI (dab0 && fE w == 0) .detach
  | _ => none

/-- SLD and SST (R56). -/
def decSp (store : Bool) (w : Nat) : Option Instr :=
  let off := BitVec.ofNat 14 (bitsOf w 0 14)
  if store then (storeQOf (bitsOf w 14 2)).map fun q => .sst (fD w) (fA w) q off
  else (loadQOf (bitsOf w 14 2)).map fun q => .sld (fD w) (fA w) q off

/-- VMEM (R58). -/
def decVmem (w : Nat) : Option Instr :=
  let d := fD w; let a := fA w; let b := fB w; let e := fE w
  let e0 := e == 0
  match bitsOf w 0 6 with
  | 0 => guardI e0 (.vld d a b) | 1 => guardI e0 (.vst d a b)
  | 2 => if bitsOf w 8 3 == 0 then (loadQOf (bitsOf w 6 2)).map fun q => .vsld d a b q else none
  | 3 => if bitsOf w 8 3 == 0 then (storeQOf (bitsOf w 6 2)).map fun q => .vsst d a b q else none
  | 4 => (sizeOf? e.toNat).map fun s => .vldbc d a b s
  | 5 => guardI e0 (.flw d a b) | 6 => guardI e0 (.fsw d a b)
  | 7 => guardI (d == 0) (.qld a b e) | 8 => guardI (d == 0) (.qst a b e)
  | 9 => guardI (d == 0 && e0) (.pref a b) | 10 => guardI (d == 0 && e0) (.cflush a b)
  | _ => none

/-- AMO (R58). -/
def decAmo (w : Nat) : Option Instr :=
  let d := fD w; let a := fA w; let b := fB w
  (widthOf (fE w).toNat).bind fun wd =>
    match bitsOf w 0 6 with
    | 0 => some (.amoadd d a b wd) | 1 => some (.amoand d a b wd) | 2 => some (.amoor d a b wd) | 3 => some (.amoxor d a b wd)
    | 4 => some (.amomin d a b wd) | 5 => some (.amomax d a b wd) | 6 => some (.amominu d a b wd) | 7 => some (.amomaxu d a b wd)
    | 8 => some (.amoswap d a b wd) | 9 => some (.amocas d a b wd) | 10 => some (.amofadd d a b wd)
    | _ => none

/-- SYNC (R58). -/
def decSync (w : Nat) : Option Instr :=
  if fD w == 0 && fA w == 0 && fB w == 0 then
    match bitsOf w 0 6 with
    | 0 => (scopeOf (fE w).toNat).map .fence
    | 1 => (scopeOf (fE w).toNat).map .fencej
    | 2 => guardI (fE w == 0) .wfe
    | _ => none
  else none

/-- MSG, format Q (R58). -/
def decMsg (w : Nat) : Option Instr :=
  let d := fD w; let a := fA w; let ch := fCh w; let e := fQE w
  let e0 := e == 0
  let d0 := d == 0
  let a0 := a == 0
  match bitsOf w 0 6 with
  | 0 => some (.send d a ch e)
  | 1 => guardI e0 (.sendv d a ch)
  | 2 => (tyOf e.toNat).map fun t => .sendnz d a ch t
  | 3 => guardI (d0 && a0 && ch == 0 && e0) .hret
  | 4 => guardI (d0 && a0 && ch == 0 && e0) .hyield
  | 5 => guardI d0 (.hbind a ch e)
  | 6 => guardI (d0 && a0 && e0) (.hunbind ch)
  | 7 => guardI (d0 && a0 && e0) (.hmask ch)
  | 8 => guardI (d0 && a0 && e0) (.hunmask ch)
  | 9 => guardI (d0 && a0 && e0) (.hpend ch)
  | 10 => guardI (a0 && e0) (.hquery d ch)
  | 11 => (widthOf e.toNat).map fun wd => .watch d a ch wd
  | 12 => guardI a0 (.rsend d ch e)
  | _ => none

/-- JOB (R59). -/
def decJob (w : Nat) : Option Instr :=
  let d := fD w; let a := fA w; let b := fB w
  let d0 := d == 0
  let b0 := b == 0
  if fE w == 0 then
    match bitsOf w 0 6 with
    | 0 => guardI d0 (.japp a b) | 1 => guardI d0 (.jwait a b) | 2 => guardI b0 (.jpoll d a)
    | 3 => guardI (d0 && b0) (.jabort a) | 4 => guardI d0 (.kapp a b) | 5 => guardI d0 (.kwait a b)
    | _ => none
  else none

/-- LIN (R59). -/
def decLin (w : Nat) : Option Instr :=
  let d := fD w; let a := fA w; let b := fB w; let e := fE w
  match bitsOf w 0 6 with
  | 0 => guardI (b == 0 && e == 0) (.lfork d a)
  | 1 => guardI (d == 0 && b == 0 && e == 0) (.ldrop a)
  | 2 => guardI (d == 0) (.lwr a b e)
  | 3 => guardI (e == 0) (.lrd d a b)
  | 4 => guardI (b == 0 && e == 0) (.lstat d a)
  | _ => none

/-- STSH (R59). -/
def decStsh (w : Nat) : Option Instr :=
  let d := fD w; let a := fA w; let b := fB w; let e := fE w
  match bitsOf w 0 6 with
  | 0 => guardI (d == 0) (.stash a b e)
  | 1 => guardI (d == 0) (.restore a b e)
  | 2 => guardI (b == 0 && e == 0) (.sstat d a)
  | _ => none

/-- BAR (R59). -/
def decBar (w : Nat) : Option Instr :=
  let d := fD w; let a := fA w; let b := fB w; let e := fE w
  match bitsOf w 0 6 with
  | 0 => guardI (b == 0 && e == 0) (.barr d a)
  | 1 => guardI (d == 0 && e == 0) (.bwait a b)
  | 2 => guardI (d == 0 && b == 0 && e == 0) (.barw a)
  | 3 => guardI (d == 0) (.binit a b e)
  | _ => none

/-- FPA (R60). -/
def decFpa (w : Nat) : Option Instr :=
  let d := fD w; let a := fA w; let b := fB w
  let b0 := b == 0
  let k := kindOf (bitsOf w 11 2)
  let kOk := bitsOf w 13 3 == 0
  (tyOf (fE w).toNat).bind fun t =>
    match bitsOf w 0 6 with
    | 0 => some (.fadd d a b t) | 1 => some (.fsub d a b t) | 2 => some (.fmul d a b t) | 3 => some (.fdiv d a b t)
    | 4 => guardI b0 (.fsqrt d a t) | 5 => some (.fmin d a b t) | 6 => some (.fmax d a b t)
    | 7 => some (.feq d a b t) | 8 => some (.flt d a b t) | 9 => some (.fle d a b t)
    | 10 => guardI b0 (.fclass d a t)
    | 11 => some (.fsgnj d a b t) | 12 => some (.fsgnjn d a b t) | 13 => some (.fsgnjx d a b t)
    | 14 => (tyOf b.toNat).map fun s => .fcvtf d a s t
    | 15 => guardI kOk (.fcvtfi d a k t) | 16 => guardI kOk (.fcvtif d a k t)
    | 17 => guardI b0 (.fmvxf d a t) | 18 => guardI b0 (.fmvfx d a t)
    | _ => none

/-- FMA (R60). -/
def decFma (w : Nat) : Option Instr :=
  let d := fD w; let a := fA w; let b := fB w; let e := fE w
  match bitsOf w 0 6 with
  | 0 => some (.fmaddD d a b e) | 1 => some (.fmsubD d a b e) | 2 => some (.fnmaddD d a b e) | 3 => some (.fnmsubD d a b e)
  | 4 => some (.fmaddS d a b e) | 5 => some (.fmsubS d a b e) | 6 => some (.fnmaddS d a b e) | 7 => some (.fnmsubS d a b e)
  | _ => none

/-- VECA (R60). -/
def decVeca (w : Nat) : Option Instr :=
  let d := fD w; let a := fA w; let b := fB w
  let b0 := b == 0
  (tyOf (fE w).toNat).bind fun t =>
    match bitsOf w 0 6 with
    | 0 => some (.vadd d a b t) | 1 => some (.vsub d a b t) | 2 => some (.vmul d a b t) | 3 => some (.vmin d a b t)
    | 4 => some (.vmax d a b t) | 5 => some (.vand d a b t) | 6 => some (.vor d a b t) | 7 => some (.vxor d a b t)
    | 8 => some (.vsll d a b t) | 9 => some (.vsrl d a b t) | 10 => some (.vsra d a b t)
    | 11 => some (.vcmpeq d a b t) | 12 => some (.vcmplt d a b t) | 13 => some (.vcmple d a b t)
    | 14 => some (.vsel d a b t)
    | 15 => guardI b0 (.vabs d a t) | 16 => guardI b0 (.vneg d a t)
    | 17 => (tyOf b.toNat).map fun s => .vcvt d a s t
    | 18 => guardI b0 (.vredsum d a t) | 19 => guardI b0 (.vredmax d a t) | 20 => guardI b0 (.vredmin d a t)
    | 21 => some (.vperm d a b t) | 22 => some (.vbcl d a b t) | 23 => some (.vextx d a b t) | 24 => some (.vinsx d a b t)
    | 25 => guardI (b0 && t == .f64) (.vmov d a)
    | 26 => guardI b0 (.vcnt d a t)
    | 27 => guardI (a == 0 && b0 && t == .f64) (.vzero d)
    | _ => none

/-- VFMA (R60). -/
def decVfma (w : Nat) : Option Instr :=
  let d := fD w; let a := fA w; let b := fB w; let e := fE w
  match bitsOf w 0 6 with
  | 0 => some (.vfmaF64 d a b e) | 1 => some (.vfmaF32 d a b e) | 2 => some (.vfmaF16 d a b e) | 3 => some (.vfmaBf16 d a b e)
  | 4 => some (.vfmsF64 d a b e) | 5 => some (.vfmsF32 d a b e) | 6 => some (.vdot4I8 d a b e) | 7 => some (.vdot2Bf16 d a b e)
  | _ => none

/-- VSF (R60). -/
def decVsf (w : Nat) : Option Instr :=
  let d := fD w; let a := fA w
  if fB w == 0 then
    (tyOf (fE w).toNat).bind fun t =>
      match bitsOf w 0 6 with
      | 0 => some (.vexp d a t) | 1 => some (.vexp2 d a t) | 2 => some (.vlog2 d a t) | 3 => some (.vrcp d a t)
      | 4 => some (.vrsqrt d a t) | 5 => some (.vtanh d a t) | 6 => some (.vsigm d a t)
      | 7 => guardI (a == 0) (.vrand d t)
      | _ => none
  else none

/-- VMODE (R60). -/
def decVmode (w : Nat) : Option Instr :=
  if fA w == 0 && fB w == 0 && fE w == 0 then
    match bitsOf w 0 6 with
    | 0 => guardI (fD w == 0) .lvon
    | 1 => guardI (fD w == 0) .lvoff
    | 2 => some (.lvqry (fD w))
    | _ => none
  else none

/-- MAT, format M (R61). -/
def decMat (w : Nat) : Option Instr :=
  let t := BitVec.ofNat 2 (bitsOf w 24 2)
  let fa := matFmtOf (bitsOf w 21 3)
  let fb := matFmtOf (bitsOf w 8 3)
  let ta := BitVec.ofNat 2 (bitsOf w 4 2)
  match bitsOf w 0 4, bitsOf w 6 2 with
  | 0, 0 => guardI (ta == 0) (.mmulSp t fa (fA w) (fB w) fb)
  | 0, 1 => some (.mmulAcc t fa (fA w) (fB w) fb ta)
  | 1, 0 => guardI (ta == 0) (.mmulzSp t fa (fA w) (fB w) fb)
  | 1, 1 => some (.mmulzAcc t fa (fA w) (fB w) fb ta)
  | _, _ => none

/-- MATX (R61). -/
def decMatx (w : Nat) : Option Instr :=
  let d := fD w; let a := fA w; let b := fB w; let e := fE w
  match bitsOf w 0 6 with
  | 0 => if a == 0 && b == 0 then (classOf e.toNat).map fun c => .mzero d c else none
  | 1 => (tyOf e.toNat).map fun t => .mload d a b t
  | 2 => (tyOf e.toNat).map fun t => .mstore d a b t
  | 3 => some (.mscacc d a b e)
  | 4 => if a == 0 && b == 0 then (classOf e.toNat).map fun c => .mcvt d c else none
  | 5 => guardI (b == 0 && e == 0) (.mcopy d a)
  | 6 => guardI (a == 0 && b == 0 && e == 0) (.mflags d)
  | _ => none

/-- BPL (R61). -/
def decBpl (w : Nat) : Option Instr :=
  let d := fD w; let a := fA w; let b := fB w; let e := fE w
  match bitsOf w 0 6 with
  | 0 => some (.bpq d a b e) | 1 => some (.bpdq d a b e)
  | 2 => guardI (b == 0) (.bpack d a e) | 3 => guardI (b == 0) (.bunpack d a e)
  | 4 => guardI (b == 0 && e == 0) (.bpmaxe d a)
  | _ => none

/-- SYS (R59). -/
def decSys (w : Nat) : Option Instr :=
  let d0 := fD w == 0
  let all0 := d0 && fA w == 0 && fB w == 0 && fE w == 0
  match bitsOf w 0 6 with
  | 0 => guardI all0 .ecall | 1 => guardI all0 .eret | 2 => guardI all0 .brk | 3 => guardI all0 .wfi
  | 4 => if d0 then (tlbKindOf (fE w).toNat).map fun k => .tlbinv (fA w) (fB w) k else none
  | 5 => guardI (d0 && fB w == 0) (.ptload (fA w) (fE w))
  | 6 => guardI all0 .halt
  | _ => none

/-- HINT, format H (R67, R68). -/
def decHint (w : Nat) : Option Instr :=
  match bitsOf w 23 3 with
  | 0 => some (.himm (BitVec.ofNat 23 (bitsOf w 0 23)))
  | 1 =>
    match bitsOf w 20 3 with
    | 0 => guardI (bitsOf w 2 18 == 0) (.hmod (.rm (BitVec.ofNat 2 (bitsOf w 0 2))))
    | 1 => guardI (bitsOf w 1 19 == 0) (.hmod (.sat (bitsOf w 0 1 == 1)))
    | 2 => guardI (bitsOf w 0 20 == 0) (.hmod .na)
    | 3 => guardI (bitsOf w 2 18 == 0) (.hmod (.ftz (bitsOf w 0 1 == 1) (bitsOf w 1 1 == 1)))
    | _ => none
  | 2 => guardI (bitsOf w 1 22 == 0) (.hsched (bitsOf w 0 1 == 1))
  | 3 => guardI (bitsOf w 0 8 == 0)
      (.rep (BitVec.ofNat 6 (bitsOf w 17 6)) (BitVec.ofNat 3 (bitsOf w 14 3)) (BitVec.ofNat 3 (bitsOf w 11 3)) (BitVec.ofNat 3 (bitsOf w 8 3)))
  | 4 => guardI (bitsOf w 5 18 == 0) (.realign (BitVec.ofNat 5 (bitsOf w 0 5)))
  | _ => none

/-- The fields of a word by its major (R55); register-file, R29 and code-range checks are `Instr.wf`. -/
def decodeRaw (w : Nat) : Option Instr :=
  let d := fD w; let a := fA w; let i := fImm w
  match bitsOf w 26 6 with
  | 0x01 => decInta w
  | 0x02 => some (.addi d a i) | 0x03 => some (.andi d a i) | 0x04 => some (.ori d a i) | 0x05 => some (.xori d a i)
  | 0x06 => some (.slti d a i) | 0x07 => some (.sltiu d a i)
  | 0x08 => decShift w
  | 0x09 => guardI (a == 0) (.lui d i) | 0x0A => guardI (a == 0) (.auipc d i)
  | 0x0B => decCtl w
  | 0x0C => guardI (a == 0 && bitsOf w 12 4 == 0) (.sysrd d (BitVec.ofNat 12 (bitsOf w 0 12)))
  | 0x0D => guardI (d == 0 && bitsOf w 12 4 == 0) (.syswr a (BitVec.ofNat 12 (bitsOf w 0 12)))
  | 0x10 => some (.beq d a i) | 0x11 => some (.bne d a i) | 0x12 => some (.blt d a i) | 0x13 => some (.bge d a i)
  | 0x14 => some (.bltu d a i) | 0x15 => some (.bgeu d a i)
  | 0x16 => some (.jal (BitVec.ofNat 26 (bitsOf w 0 26)))
  | 0x17 => some (.jalr d a i)
  | 0x18 => some (.ld d a i) | 0x19 => some (.lw d a i) | 0x1A => some (.lwu d a i) | 0x1B => some (.lh d a i)
  | 0x1C => some (.lhu d a i) | 0x1D => some (.lb d a i) | 0x1E => some (.lbu d a i) | 0x1F => some (.fld d a i)
  | 0x20 => some (.sd d a i) | 0x21 => some (.sw d a i) | 0x22 => some (.sh d a i) | 0x23 => some (.sb d a i)
  | 0x24 => some (.fsd d a i)
  | 0x25 => decSp false w | 0x26 => decSp true w
  | 0x27 => decVmem w | 0x28 => decAmo w | 0x29 => decSync w | 0x2A => decMsg w | 0x2B => decJob w | 0x2C => decLin w
  | 0x2D => decStsh w | 0x2E => decBar w
  | 0x30 => decFpa w | 0x31 => decFma w | 0x32 => decVeca w | 0x33 => decVfma w | 0x34 => decVsf w | 0x35 => decVmode w
  | 0x38 => decMat w | 0x39 => decMatx w | 0x3A => decBpl w
  | 0x3C => decSys w | 0x3F => decHint w
  | _ => none

/-- The instruction of a word, or none where the word is illegal under R64. -/
def decodeNat (w : Nat) : Option Instr :=
  match decodeRaw w with
  | some i => if i.wf then some i else none
  | none => none

/-- The instruction of a 32-bit word. -/
def decodeWord (w : IWord) : Option Instr := decodeNat w.toNat

/-- A little-endian number from bytes (R9). -/
def leNat : List Byte → Nat
  | [] => 0
  | b :: bs => b.toNat + 256 * leNat bs

/-- The `n` bytes of a number, little-endian (R9). -/
def leBytes : Nat → Nat → List Byte
  | 0, _ => []
  | n + 1, v => BitVec.ofNat 8 (v % 256) :: leBytes n (v / 256)

/-- The decoder on bytes: the first four are the word (R52). -/
def decodeBytes : List Byte → Option (Instr × List Byte)
  | b0 :: b1 :: b2 :: b3 :: rest => (decodeNat (leNat [b0, b1, b2, b3])).map fun i => (i, rest)
  | _ => none

/-- What the decoder reads from an instruction whose bits are `w` (bit 0 the least significant). -/
def decodeTableWord (nbits w : Nat) : Option Instr :=
  (decodeBytes (leBytes 4 (w % 2 ^ nbits))).map Prod.fst

/-! ## The encoder (R53, R56 to R61) -/

/-- Format A. -/
def packA (maj op : Nat) (d a b e : Reg) : Nat :=
  maj * 2 ^ 26 + d.toNat * 2 ^ 21 + a.toNat * 2 ^ 16 + b.toNat * 2 ^ 11 + e.toNat * 2 ^ 6 + op
/-- Format A with a code in field e. -/
def packC (maj op : Nat) (d a b : Reg) (e : Nat) : Nat :=
  maj * 2 ^ 26 + d.toNat * 2 ^ 21 + a.toNat * 2 ^ 16 + b.toNat * 2 ^ 11 + e * 2 ^ 6 + op
/-- Format A with codes in fields b and e. -/
def packCC (maj op : Nat) (d a : Reg) (b e : Nat) : Nat :=
  maj * 2 ^ 26 + d.toNat * 2 ^ 21 + a.toNat * 2 ^ 16 + b * 2 ^ 11 + e * 2 ^ 6 + op
/-- Formats I and B. -/
def packI (maj : Nat) (d a : Reg) (i : Nat) : Nat := maj * 2 ^ 26 + d.toNat * 2 ^ 21 + a.toNat * 2 ^ 16 + i
/-- Format Q. -/
def packQ (op : Nat) (d a : Reg) (ch e : Nat) : Nat :=
  0x2A * 2 ^ 26 + d.toNat * 2 ^ 21 + a.toNat * 2 ^ 16 + ch * 2 ^ 10 + e * 2 ^ 6 + op
/-- Format M. -/
def packM (op : Nat) (t : BitVec 2) (fa : MatFmt) (a b : Reg) (fb : MatFmt) (src : Nat) (ta : BitVec 2) : Nat :=
  0x38 * 2 ^ 26 + t.toNat * 2 ^ 24 + fa.code * 2 ^ 21 + a.toNat * 2 ^ 16 + b.toNat * 2 ^ 11 + fb.code * 2 ^ 8
    + src * 2 ^ 6 + ta.toNat * 2 ^ 4 + op
/-- Format H. -/
def packH (kind payload : Nat) : Nat := 0x3F * 2 ^ 26 + kind * 2 ^ 23 + payload

/-- The payload of an HMOD (R68). -/
def HMod.payload : HMod → Nat
  | .rm m => m.toNat
  | .sat b => 2 ^ 20 + b.toNat
  | .na => 2 * 2 ^ 20
  | .ftz f d => 3 * 2 ^ 20 + f.toNat + 2 * d.toNat

/-- The word of an instruction; an event has none. -/
def encode : Instr → Option Nat
  | .add d a b => some (packA 1 0 d a b 0) | .sub d a b => some (packA 1 1 d a b 0)
  | .and d a b => some (packA 1 2 d a b 0) | .or d a b => some (packA 1 3 d a b 0)
  | .xor d a b => some (packA 1 4 d a b 0) | .andn d a b => some (packA 1 5 d a b 0)
  | .sll d a b => some (packA 1 6 d a b 0) | .srl d a b => some (packA 1 7 d a b 0)
  | .sra d a b => some (packA 1 8 d a b 0) | .rol d a b => some (packA 1 9 d a b 0)
  | .ror d a b => some (packA 1 10 d a b 0) | .slt d a b => some (packA 1 11 d a b 0)
  | .sltu d a b => some (packA 1 12 d a b 0) | .min d a b => some (packA 1 13 d a b 0)
  | .max d a b => some (packA 1 14 d a b 0) | .minu d a b => some (packA 1 15 d a b 0)
  | .maxu d a b => some (packA 1 16 d a b 0) | .mul d a b => some (packA 1 17 d a b 0)
  | .mulh d a b => some (packA 1 18 d a b 0) | .mulhu d a b => some (packA 1 19 d a b 0)
  | .div d a b => some (packA 1 20 d a b 0) | .divu d a b => some (packA 1 21 d a b 0)
  | .rem d a b => some (packA 1 22 d a b 0) | .remu d a b => some (packA 1 23 d a b 0)
  | .addw d a b => some (packA 1 24 d a b 0) | .subw d a b => some (packA 1 25 d a b 0)
  | .mulw d a b => some (packA 1 26 d a b 0)
  | .cnt d a => some (packA 1 27 d a 0 0) | .clz d a => some (packA 1 28 d a 0 0)
  | .ctz d a => some (packA 1 29 d a 0 0) | .bswap d a => some (packA 1 30 d a 0 0)
  | .sel d a b e => some (packA 1 31 d a b e)
  | .addi d a i => some (packI 2 d a i.toNat) | .andi d a i => some (packI 3 d a i.toNat)
  | .ori d a i => some (packI 4 d a i.toNat) | .xori d a i => some (packI 5 d a i.toNat)
  | .slti d a i => some (packI 6 d a i.toNat) | .sltiu d a i => some (packI 7 d a i.toNat)
  | .slli d a s => some (packI 8 d a s.toNat) | .srli d a s => some (packI 8 d a (2 ^ 14 + s.toNat))
  | .srai d a s => some (packI 8 d a (2 ^ 15 + s.toNat))
  | .lui d i => some (packI 9 d 0 i.toNat) | .auipc d i => some (packI 10 d 0 i.toNat)
  | .follow l => some (packC 11 0 0 0 0 l.toNat) | .detach => some (packA 11 1 0 0 0 0)
  | .sysrd d s => some (packI 12 d 0 s.toNat) | .syswr a s => some (packI 13 0 a s.toNat)
  | .beq a b i => some (packI 16 a b i.toNat) | .bne a b i => some (packI 17 a b i.toNat)
  | .blt a b i => some (packI 18 a b i.toNat) | .bge a b i => some (packI 19 a b i.toNat)
  | .bltu a b i => some (packI 20 a b i.toNat) | .bgeu a b i => some (packI 21 a b i.toNat)
  | .jal off => some (22 * 2 ^ 26 + off.toNat) | .jalr d a i => some (packI 23 d a i.toNat)
  | .ld d a i => some (packI 24 d a i.toNat) | .lw d a i => some (packI 25 d a i.toNat)
  | .lwu d a i => some (packI 26 d a i.toNat) | .lh d a i => some (packI 27 d a i.toNat)
  | .lhu d a i => some (packI 28 d a i.toNat) | .lb d a i => some (packI 29 d a i.toNat)
  | .lbu d a i => some (packI 30 d a i.toNat) | .fld d a i => some (packI 31 d a i.toNat)
  | .sd a b i => some (packI 32 a b i.toNat) | .sw a b i => some (packI 33 a b i.toNat)
  | .sh a b i => some (packI 34 a b i.toNat) | .sb a b i => some (packI 35 a b i.toNat)
  | .fsd a b i => some (packI 36 a b i.toNat)
  | .sld d a q i => some (packI 37 d a (q.code * 2 ^ 14 + i.toNat))
  | .sst a b q i => some (packI 38 a b (q.code * 2 ^ 14 + i.toNat))
  | .vld d a b => some (packA 39 0 d a b 0) | .vst d a b => some (packA 39 1 d a b 0)
  | .vsld d a b q => some (packC 39 2 d a b q.code) | .vsst d a b q => some (packC 39 3 d a b q.code)
  | .vldbc d a b s => some (packC 39 4 d a b s.code)
  | .flw d a b => some (packA 39 5 d a b 0) | .fsw d a b => some (packA 39 6 d a b 0)
  | .qld a b e => some (packA 39 7 0 a b e) | .qst a b e => some (packA 39 8 0 a b e)
  | .pref a b => some (packA 39 9 0 a b 0) | .cflush a b => some (packA 39 10 0 a b 0)
  | .amoadd d a b w => some (packC 40 0 d a b w.code) | .amoand d a b w => some (packC 40 1 d a b w.code)
  | .amoor d a b w => some (packC 40 2 d a b w.code) | .amoxor d a b w => some (packC 40 3 d a b w.code)
  | .amomin d a b w => some (packC 40 4 d a b w.code) | .amomax d a b w => some (packC 40 5 d a b w.code)
  | .amominu d a b w => some (packC 40 6 d a b w.code) | .amomaxu d a b w => some (packC 40 7 d a b w.code)
  | .amoswap d a b w => some (packC 40 8 d a b w.code) | .amocas d a b w => some (packC 40 9 d a b w.code)
  | .amofadd d a b w => some (packC 40 10 d a b w.code)
  | .fence s => some (packC 41 0 0 0 0 s.code) | .fencej s => some (packC 41 1 0 0 0 s.code)
  | .wfe => some (packA 41 2 0 0 0 0)
  | .send d a ch e => some (packQ 0 d a ch.toNat e.toNat) | .sendv d a ch => some (packQ 1 d a ch.toNat 0)
  | .sendnz d a ch t => some (packQ 2 d a ch.toNat t.code)
  | .hret => some (packQ 3 0 0 0 0) | .hyield => some (packQ 4 0 0 0 0)
  | .hbind a ch p => some (packQ 5 0 a ch.toNat p.toNat)
  | .hunbind ch => some (packQ 6 0 0 ch.toNat 0) | .hmask ch => some (packQ 7 0 0 ch.toNat 0)
  | .hunmask ch => some (packQ 8 0 0 ch.toNat 0) | .hpend ch => some (packQ 9 0 0 ch.toNat 0)
  | .hquery d ch => some (packQ 10 d 0 ch.toNat 0) | .watch d a ch w => some (packQ 11 d a ch.toNat w.code)
  | .rsend d ch e => some (packQ 12 d 0 ch.toNat e.toNat)
  | .japp a b => some (packA 43 0 0 a b 0) | .jwait a b => some (packA 43 1 0 a b 0)
  | .jpoll d a => some (packA 43 2 d a 0 0) | .jabort a => some (packA 43 3 0 a 0 0)
  | .kapp a b => some (packA 43 4 0 a b 0) | .kwait a b => some (packA 43 5 0 a b 0)
  | .lfork d a => some (packA 44 0 d a 0 0) | .ldrop a => some (packA 44 1 0 a 0 0)
  | .lwr a b e => some (packA 44 2 0 a b e) | .lrd d a b => some (packA 44 3 d a b 0)
  | .lstat d a => some (packA 44 4 d a 0 0)
  | .stash a b e => some (packA 45 0 0 a b e) | .restore a b e => some (packA 45 1 0 a b e)
  | .sstat d a => some (packA 45 2 d a 0 0)
  | .barr d a => some (packA 46 0 d a 0 0) | .bwait a b => some (packA 46 1 0 a b 0)
  | .barw a => some (packA 46 2 0 a 0 0) | .binit a b e => some (packA 46 3 0 a b e)
  | .fadd d a b t => some (packC 48 0 d a b t.code) | .fsub d a b t => some (packC 48 1 d a b t.code)
  | .fmul d a b t => some (packC 48 2 d a b t.code) | .fdiv d a b t => some (packC 48 3 d a b t.code)
  | .fsqrt d a t => some (packC 48 4 d a 0 t.code) | .fmin d a b t => some (packC 48 5 d a b t.code)
  | .fmax d a b t => some (packC 48 6 d a b t.code) | .feq d a b t => some (packC 48 7 d a b t.code)
  | .flt d a b t => some (packC 48 8 d a b t.code) | .fle d a b t => some (packC 48 9 d a b t.code)
  | .fclass d a t => some (packC 48 10 d a 0 t.code) | .fsgnj d a b t => some (packC 48 11 d a b t.code)
  | .fsgnjn d a b t => some (packC 48 12 d a b t.code) | .fsgnjx d a b t => some (packC 48 13 d a b t.code)
  | .fcvtf d a s t => some (packCC 48 14 d a s.code t.code)
  | .fcvtfi d a k t => some (packCC 48 15 d a k.code t.code) | .fcvtif d a k t => some (packCC 48 16 d a k.code t.code)
  | .fmvxf d a t => some (packC 48 17 d a 0 t.code) | .fmvfx d a t => some (packC 48 18 d a 0 t.code)
  | .fmaddD d a b e => some (packA 49 0 d a b e) | .fmsubD d a b e => some (packA 49 1 d a b e)
  | .fnmaddD d a b e => some (packA 49 2 d a b e) | .fnmsubD d a b e => some (packA 49 3 d a b e)
  | .fmaddS d a b e => some (packA 49 4 d a b e) | .fmsubS d a b e => some (packA 49 5 d a b e)
  | .fnmaddS d a b e => some (packA 49 6 d a b e) | .fnmsubS d a b e => some (packA 49 7 d a b e)
  | .vadd d a b t => some (packC 50 0 d a b t.code) | .vsub d a b t => some (packC 50 1 d a b t.code)
  | .vmul d a b t => some (packC 50 2 d a b t.code) | .vmin d a b t => some (packC 50 3 d a b t.code)
  | .vmax d a b t => some (packC 50 4 d a b t.code) | .vand d a b t => some (packC 50 5 d a b t.code)
  | .vor d a b t => some (packC 50 6 d a b t.code) | .vxor d a b t => some (packC 50 7 d a b t.code)
  | .vsll d a b t => some (packC 50 8 d a b t.code) | .vsrl d a b t => some (packC 50 9 d a b t.code)
  | .vsra d a b t => some (packC 50 10 d a b t.code) | .vcmpeq d a b t => some (packC 50 11 d a b t.code)
  | .vcmplt d a b t => some (packC 50 12 d a b t.code) | .vcmple d a b t => some (packC 50 13 d a b t.code)
  | .vsel d a b t => some (packC 50 14 d a b t.code) | .vabs d a t => some (packC 50 15 d a 0 t.code)
  | .vneg d a t => some (packC 50 16 d a 0 t.code) | .vcvt d a s t => some (packCC 50 17 d a s.code t.code)
  | .vredsum d a t => some (packC 50 18 d a 0 t.code) | .vredmax d a t => some (packC 50 19 d a 0 t.code)
  | .vredmin d a t => some (packC 50 20 d a 0 t.code) | .vperm d a b t => some (packC 50 21 d a b t.code)
  | .vbcl d a b t => some (packC 50 22 d a b t.code) | .vextx d a b t => some (packC 50 23 d a b t.code)
  | .vinsx d a b t => some (packC 50 24 d a b t.code) | .vmov d a => some (packA 50 25 d a 0 0)
  | .vcnt d a t => some (packC 50 26 d a 0 t.code) | .vzero d => some (packA 50 27 d 0 0 0)
  | .vfmaF64 d a b e => some (packA 51 0 d a b e) | .vfmaF32 d a b e => some (packA 51 1 d a b e)
  | .vfmaF16 d a b e => some (packA 51 2 d a b e) | .vfmaBf16 d a b e => some (packA 51 3 d a b e)
  | .vfmsF64 d a b e => some (packA 51 4 d a b e) | .vfmsF32 d a b e => some (packA 51 5 d a b e)
  | .vdot4I8 d a b e => some (packA 51 6 d a b e) | .vdot2Bf16 d a b e => some (packA 51 7 d a b e)
  | .vexp d a t => some (packC 52 0 d a 0 t.code) | .vexp2 d a t => some (packC 52 1 d a 0 t.code)
  | .vlog2 d a t => some (packC 52 2 d a 0 t.code) | .vrcp d a t => some (packC 52 3 d a 0 t.code)
  | .vrsqrt d a t => some (packC 52 4 d a 0 t.code) | .vtanh d a t => some (packC 52 5 d a 0 t.code)
  | .vsigm d a t => some (packC 52 6 d a 0 t.code) | .vrand d t => some (packC 52 7 d 0 0 t.code)
  | .lvon => some (packA 53 0 0 0 0 0) | .lvoff => some (packA 53 1 0 0 0 0) | .lvqry d => some (packA 53 2 d 0 0 0)
  | .mmulSp t fa a b fb => some (packM 0 t fa a b fb 0 0)
  | .mmulAcc t fa a b fb ta => some (packM 0 t fa a b fb 1 ta)
  | .mmulzSp t fa a b fb => some (packM 1 t fa a b fb 0 0)
  | .mmulzAcc t fa a b fb ta => some (packM 1 t fa a b fb 1 ta)
  | .mzero d c => some (packC 57 0 d 0 0 c.code) | .mload d a b t => some (packC 57 1 d a b t.code)
  | .mstore d a b t => some (packC 57 2 d a b t.code) | .mscacc d a b e => some (packA 57 3 d a b e)
  | .mcvt d c => some (packC 57 4 d 0 0 c.code) | .mcopy d a => some (packA 57 5 d a 0 0) | .mflags d => some (packA 57 6 d 0 0 0)
  | .bpq d a b m => some (packA 58 0 d a b m) | .bpdq d a b m => some (packA 58 1 d a b m)
  | .bpack d a m => some (packA 58 2 d a 0 m) | .bunpack d a m => some (packA 58 3 d a 0 m)
  | .bpmaxe d a => some (packA 58 4 d a 0 0)
  | .ecall => some (packA 60 0 0 0 0 0) | .eret => some (packA 60 1 0 0 0 0) | .brk => some (packA 60 2 0 0 0 0)
  | .wfi => some (packA 60 3 0 0 0 0) | .tlbinv a b k => some (packC 60 4 0 a b k.code)
  | .ptload a s => some (packA 60 5 0 a 0 s) | .halt => some (packA 60 6 0 0 0 0)
  | .himm p => some (packH 0 p.toNat) | .hmod m => some (packH 1 m.payload)
  | .hsched f => some (packH 2 f.toNat)
  | .rep c ds as bs => some (packH 3 (c.toNat * 2 ^ 17 + ds.toNat * 2 ^ 14 + as.toNat * 2 ^ 11 + bs.toNat * 2 ^ 8))
  | .realign n => some (packH 4 n.toNat)
  | .followJoin _ | .followTimeout _ | .realignJoin _ | .realignTimeout _ | .wfeWake _ | .wfeTimeout _
  | .loadStreamFetch _ | .storeStreamWrite _ | .matrixRetire _ | .remoteStoreAck _ | .vqoPushArrival _
  | .stageCreditArrival _ | .stageCreditRevoke _ | .messageDelivery _ | .spillHoldRelease _ | .activationStart _
  | .systemChannelEntry _ | .remoteLoad _ | .remoteStore _ | .remoteCopy _ | .remoteAtomic _ | .reductionPartial _
  | .barrierArrival _ | .childArrival _ | .barrierRelease _ | .barrierWait _ | .barrierWaitRetry _ | .pageWalk _
  | .rd _ | .rdx _ | .wb _ _ | .drop _ _ | .rack _ | .timeout _ _ | .rst _ | .ramo _ | .lexp _ _ _ | .fenced _ _ _
  | .recall _ _ | .protoRetry _ | .regionMerge _ _ | .grants _ | .grantx _ | .ackw _ | .ownerRecall _ | .downgrade _
  | .upd _ | .inv _ | .amores _ | .leaseRenewal _ _ _ | .heartbeatLoss _ | .meridianPulse _ _ | .halyardSilence _
  | .hostSnoop _ _ _ | .hostMemAccess _ _ _ | .doorbellWrite _ _ _ | .jobStart _ _ | .copy _ _ | .copyt _ _ | .fill _ _
  | .lz4x _ _ | .lz4c _ _ | .crc _ _ | .lflatten _ _ | .lrebase _ _ | .ldiff _ _ | .lresolve _ _ | .cksave _ _ | .ckload _ _
  | .cardRetire _ _ | .stashOperation _ _ | .restoreOperation _ _ | .launchDeal _ _ | .groupPlacement _ | .launchComplete _ _
  | .balanceExchange _ | .gangReserve _ | .sliceExpiry _ | .preemptionRequest _ | .saveComplete _ | .groupResume _
  | .preempt _ _ _ | .fcmdAssign _ _ | .fcmdRelease _ _ | .fcmdRetire _ _ | .zeroingComplete _ _ | .create _ | .start _ | .stop _
  | .resume _ | .destroy _ | .contextDrained _ | .lcmdEnable _ | .lcmdDisable _ | .lcmdUnfence _ | .lcmdRetrain _
  | .lctlWrite _ _ _ | .trainingEnd _ _ | .trainingTimeout _ | .retrainEnd _ _ | .retrainTimeout _ | .laneErrorLimit _ _
  | .dataFlit _ _ | .nak _ _ | .idleAckFlit _ _ | .heartbeatFlit _ _ | .fenceNotice _ _ | .compSample _ | .halyardHeartbeat _
  | .halyardRestart _ | .halyardResync _ | .halyardFenceNotice _ | .deviceReset | .powerWindow _ | .correctedError _ _ _ _
  | .uncorrectableError _ | .watchdogExpiry _ | .registerWrite _ _ _ | .illegalWord _ | .fetchFault _ _ | .corePowerGating _
  | .coreFailure _ => none

end Sys2Proof
end

