-- ==== Sys2Proof/Machine/State.lean ====
section
/-! DEFINITION. Machine/State.lean: the whole package as plain data: its cores, homes, schedulers, contexts,
links, platform, memory and what is in flight between them; and the state after reset. -/
namespace Sys2Proof.Machine

/-- Why the machine stops with a fault. -/
inductive Fault where
  /-- An access at S or M reaches an address of the register region at which no rule puts a register (14, R280).
  Raised by the device-register operations. Safe: the machine stops where the spec gives no effect. -/
  | deviceHole (pa : Nat)
  deriving DecidableEq, Repr

/-- Why a step is refused. -/
inductive Refusal where
  /-- The instruction has no meaning yet. Safe. -/
  | notModelled (mnemonic : String)
  deriving DecidableEq, Repr

/-! ## Messages (08_handler.md) -/

/-- A message: the header fields of R177, four payload words (unused ones zero), the sender's PTS (R275), the
context it belongs to (R179), and the device time of its arrival in a FIFO (R181). -/
structure Msg where
  dst  : Nat
  ch   : Nat
  gen  : Nat
  src  : Nat
  len  : Nat
  kind : Nat
  info : Nat
  pay  : Vector Word 4
  pts  : Nat
  ctx  : Nat
  time : Nat
  deriving DecidableEq, Repr

/-- A message in flight with its source, for the order of R201: a physical core, or a number from 2,000 for a home,
an engine or a scheduler. -/
structure NetMsg where
  origin : Nat
  msg    : Msg
  /-- Of a release (R261): the physical address of the child object that m0 names (the model's own). -/
  child  : Option Nat
  deriving DecidableEq, Repr

/-! ## The core (02_machine.md) -/

/-- A hint in force (R66, R67). -/
inductive Hint where
  | himm (p : BitVec 23)
  | hmod (m : HMod)
  | hsched
  | rep (count ds as bs : Nat)
  | realign (n : Nat)
  /-- A REALIGN whose wait is over; its target issues (R100). -/
  | met
  /-- ERET or a restore names a repetition; the word at `addr` must be its REP (R69). -/
  | resume
  /-- A restore names a BARW whose arrival was counted, with the pennant it saw (R267). -/
  | barw (seen : Bool)
  deriving DecidableEq, Repr

/-- A hint that waits for its target: its address and, for REP, the repetition to issue next (R69). -/
structure PendingHint where
  addr : Word
  hint : Hint
  j    : Nat
  deriving DecidableEq, Repr

/-- The registers of a thread slot that the cluster fetch port serves (R24, R32, R317). -/
structure Hart where
  x    : Vector Word 32
  f    : Vector Word 32
  pc   : Word
  hint : Option PendingHint
  deriving DecidableEq, Repr

/-- An entry of qi: data, or the fault of its stream element; `taken` once the trap has been taken (R113). -/
inductive QEntry where
  | data (w : Word)
  | fault (cause : Nat) (va : Word) (taken : Bool)
  deriving DecidableEq, Repr

/-- An active stream: the address of the next element, the stride and the elements left (R112). -/
structure Stream where
  base   : Word
  stride : Word
  left   : Nat
  deriving DecidableEq, Repr

/-- An accumulator tile: its class and its nonzero elements, element (i, j) at 64 * i + j (R26). -/
structure Tile where
  cls   : TileClass
  elems : List (Nat × Word)
  deriving DecidableEq, Repr

/-- The instruction in the matrix unit, with the registers and modes it took at issue (R155, R156, R79). -/
inductive MatOp where
  | mmul (zero : Bool) (t : Nat) (fa : MatFmt) (aOff : Nat) (bOff : Nat) (fb : MatFmt)
  | mmulAcc (zero : Bool) (t : Nat) (fa : MatFmt) (ta sh : Nat) (bOff : Nat) (fb : MatFmt)
  | mzero (t : Nat) (c : TileClass)
  | mload (t off : Nat) (sh : Int) (ty : Ty)
  | mstore (t off : Nat) (sh : Int) (ty : Ty) (sat : Bool)
  | mscacc (d a rowOff colOff : Nat) (rm : Nat) (ftz daz : Bool)
  | mcvt (t : Nat) (c : TileClass)
  | mcopy (d a : Nat)
  deriving DecidableEq, Repr

/-- States of a handler table entry (R173). -/
inductive EntryState where
  | empty | reserved | bound | rebinding
  deriving DecidableEq, Repr

/-- An entry of the handler table with its channel FIFO (R173, R174, R175). -/
structure HEntry where
  st    : EntryState
  prio  : Nat
  en    : Bool
  pend  : Bool
  rgn   : Nat
  code  : Word
  ncode : Word
  nprio : Nat
  fifo  : List Msg
  deriving DecidableEq, Repr

/-- A region descriptor (R174). -/
structure Region where
  size : Nat
  base : Nat
  deriving DecidableEq, Repr

/-- The running activation of slot 0: its channel, AHDR of R191, and whether it has a head message (R185). -/
structure Activation where
  ch     : Nat
  ahdr   : Word
  hasMsg : Bool
  deriving DecidableEq, Repr

/-- The reduction server: the full slots with their values, and the accumulator of TREEOP 6 (R189). -/
structure Reduction where
  slots : List (Nat × Word)
  acc   : Word
  deriving DecidableEq, Repr

/-- Kinds of access of R283. -/
inductive Acc where
  | fetch | read | write | amo
  deriving DecidableEq, Repr

/-- The multi-step instruction in progress on the issuing slot, which issues again until it completes. -/
inductive Pend where
  | none
  /-- A request of the instruction at `pc` is on its way. -/
  | sent
  /-- The reply: a value. -/
  | got (v : Word)
  /-- The reply: the line is the core's for the access that asked for it (R293). -/
  | granted (line : Nat)
  /-- The answers to the no-copy reads of an access, one a line in rising order, and whether the next is on its way (R293). -/
  | lines (got : List Nat) (asked : Bool)
  /-- TLBINV or PTLOAD waits until the regions of these physical ranges are in state 0; the image that PTLOAD has read (R290,
  R304). -/
  | recalling (ranges : List (Nat × Nat)) (img : List Byte)
  /-- SENDNZ goes on at this lane (R193). -/
  | scan (lane : Nat)
  /-- A qualified scratchpad access waits for full or empty granules (R109). -/
  | stalled
  /-- The reply: a trap. -/
  | bad (cause : Nat) (tval : Word)
  /-- The walk for this access ended with a trap (R283). -/
  | walked (acc : Acc) (va : Nat) (cause : Nat)
  /-- BWAIT, or BARW after its arrival was counted, waits for a pennant that differs from the one seen (R266, R267). -/
  | waitOnly (seen barw : Bool)
  /-- The wait has ended. -/
  | released
  /-- SYSWR of a stage register waits for the other core's word (R149). -/
  | staging
  /-- WFE or WFI waits since this cycle (R122, R322). -/
  | idle (cycle : Nat)
  /-- REALIGN holds its target since this cycle (R100). -/
  | realign (cycle : Nat) (passed : Bool)
  deriving DecidableEq, Repr

/-- The relation of a core to its leader (R96, R98), by physical core. -/
inductive Follow where
  | none
  /-- Waits to join since this cycle; the leader from which it has diverged, until it joins. -/
  | waiting (leader : Nat) (cycle : Nat) (old : Option Nat)
  /-- Joined: the count of the leader's instructions that it has ended. -/
  | joined (leader at_ : Nat)
  /-- Detached through a branch or jump. -/
  | diverged (leader : Nat)
  deriving DecidableEq, Repr

/-- Slot 3 (R33, R317, R319, R321, R322). -/
inductive Slot3 where
  | idle
  /-- Runs a trap at S. -/
  | trap
  /-- Runs the entry of channel 60 at S. -/
  | system
  deriving DecidableEq, Repr

/-- A translation held by a core's or cluster's TLB (R286): context, page address, page size as a power of two, the
leaf, and BASE and MASK of its home entry. -/
structure TlbEntry where
  ctx  : Nat
  page : Nat
  bits : Nat
  leaf : Word
  base : Nat
  mask : Word
  deriving DecidableEq, Repr

/-- A pointer entry in a walker's cache (R286): context, the level of the table that it points to, the address bits above those that
index this table, and its address. -/
structure WalkPtr where
  ctx   : Nat
  level : Nat
  top   : Nat
  table : Nat
  deriving DecidableEq, Repr

/-- A line held in an L1 or a remote-data cache (R292): its home, exclusive or leased, its data and timestamps, and the device
time at which its physical lease ends (R308). -/
structure L1Line where
  home  : Nat
  excl  : Bool
  data  : Line
  wts   : Nat
  rts   : Nat
  lease : Nat
  deriving DecidableEq, Repr

/-- The group on a core (R240): the launch's die and card, the group index, the core's rank and the gang size. -/
structure GroupRef where
  die  : Nat
  card : Nat
  ix   : Nat
  rank : Nat
  gang : Nat
  ctx  : Nat
  deriving DecidableEq, Repr

/-- A group saved on a core, with the cycle of its save (R240, R250), the address of its save area, and what that has no place for: the channel
of its running activation and the time at which its head message arrived, the lane at which a scan goes on (R193), whether it has ended an
activation, RRPTR, the priorities that REBINDING entries hold, and its appended cards (R254). -/
structure SavedGroup where
  grp   : GroupRef
  time  : Nat
  area  : Nat
  ach   : Option Nat
  htime : Nat
  scan  : Option Nat
  ended : Bool
  rrptr : Vector Nat 8
  nprio : List Nat
  jobs  : List (Nat × Nat)
  deriving DecidableEq, Repr

/-- Where a pre-emption stands (R251). -/
inductive Preempt where
  | none
  /-- Requested; slot 0 stops at the next boundary. -/
  | requested
  /-- Slot 0 has stopped and the save is in progress; BARW keeps its seen pennant (R267). -/
  | saving (barw : Option Bool)
  deriving DecidableEq, Repr

/-- Where a store is performed (R107, R117, R293). -/
inductive StoreTo where
  /-- In the core's L1, once it owns the line. -/
  | near
  /-- At its home, as RST. -/
  | home
  /-- At a home of the other die, under slot 1 of this core. -/
  | far (core : Nat)
  deriving DecidableEq, Repr

/-- A store of n bytes of one line that has issued. -/
structure StoreOp where
  dest : StoreTo
  home : Nat
  pa   : Nat
  n    : Nat
  data : Nat
  ctx  : Nat
  sel  : Nat
  deriving DecidableEq, Repr

/-- A remote store or atomic that waits for slot 1 of its home (R107, R117). -/
structure RemoteOp where
  /-- The requesting core. -/
  core   : Nat
  pa     : Nat
  n      : Nat
  /-- AMO op 0 to 10, or none for a store. -/
  amo    : Option Nat
  data   : Nat
  cmp    : Word
  rm     : Nat
  pts    : Nat
  ctx    : Nat
  sel    : Nat
  /-- Device time of its arrival at slot 1 (R32). -/
  time   : Nat
  deriving DecidableEq, Repr

/-- The user system registers of a core (R35). -/
structure USys where
  fctl     : Word
  fflags   : Word
  accflags : Word
  rngclo   : Word
  rngchi   : Word
  rngkey   : Word
  groupid  : Word
  groupn   : Word
  levelix  : Word
  hgen     : Nat
  stageup  : Word
  stagedn  : Word
  window   : Nat
  long     : Bool
  treeup   : Word
  treen    : Word
  treeop   : Word
  treedst  : Word
  deriving DecidableEq, Repr

/-- The supervisor system registers of a core (R35). -/
structure SSys where
  status    : Word
  epc       : Word
  cause     : Word
  tval      : Word
  tvec      : Word
  ctxid     : Word
  ptbase    : Word
  htab      : Word
  spillq    : Word
  orphq     : Word
  slice     : Word
  hometab   : Word
  lintab    : Word
  protomask : Word
  deriving DecidableEq, Repr

/-- One core. -/
structure Core where
  s0      : Hart
  s3      : Hart
  act     : Option Activation
  slot3   : Slot3
  halted  : Bool
  fwRet   : Word
  u       : USys
  sv      : SSys
  pts     : Nat
  v       : Vector VWord 14
  lv      : Vector LWord 8
  acc     : Vector Tile 4
  mat     : Option MatOp
  qi      : List QEntry
  qs      : List Word
  vqi     : List VWord
  /-- A SYSWR of STAGEUP has revoked the credit of the old upstream and has not written the register (R149 step 1). -/
  revoked : Bool
  /-- Pops of vqi and pushes of the running instruction; handed to the network when it completes (the model's own). -/
  popped  : Nat
  pushed  : List VWord
  lstream : Option Stream
  sstream : Option Stream
  sfault  : Option (Nat × Word)
  /-- The fault of the store stream has been taken: the entry is retried when slot 0 runs again (R113). -/
  staken  : Bool
  sp      : List Host.Cell
  fe      : List Nat
  latch   : Bool
  wake    : Bool
  pend    : Pend
  pend3   : Pend
  /-- Slot 0 waits for host memory since this device time, for an access to this address (R316, WATCHDOG). -/
  hostWait : Option (Nat × Word)
  follow  : Follow
  /-- Instructions that slot 0 has ended: completed, trapped, or ended its activation with (the model's own). -/
  issued  : Nat
  htab    : Vector HEntry 64
  rgns    : Vector Region 16
  rrptr   : Vector Nat 8
  red     : Reduction
  slot1   : List RemoteOp
  gen     : Nat
  /-- A context owns the core (CTXID). -/
  owned   : Bool
  /-- The cycle at which the slice ends, or 0 where nothing ends it (R250). -/
  sliceEnd : Nat
  /-- The save that is on its way passes the core to another context (R250). -/
  passing : Bool
  group   : Option GroupRef
  saved   : List SavedGroup
  /-- Slot 0 has ended an activation of its group (R248). -/
  ended   : Bool
  preempt : Preempt
  tlb     : List TlbEntry
  l1      : List (Nat × L1Line)
  /-- Remote stores on their way and not yet acknowledged (R107). -/
  unacked : Nat
  /-- Stores that have issued behind one that is not acknowledged, oldest first (R107, R272). -/
  stq     : List StoreOp
  /-- The timestamp of the store stream: that of its last element, and of the last fence (R114). -/
  sts     : Nat
  /-- Cards appended by slot 0 whose sequence value is not written, as die and card number (R121). -/
  jobs    : List (Nat × Nat)
  /-- The largest timestamp of the sequence writes of such cards, which FENCEJ follows (R121, R229; the model's own). -/
  jts     : Nat
  gated   : Bool
  /-- The device time of the last message that arrived: a core takes one a cycle (R253). -/
  arrived : Option Nat
  deriving DecidableEq, Repr

/-! ## Homes and the protocol (15_protocol.md, 12_barrier.md, 08_handler.md) -/

/-- What a request to a home asks (R298). -/
inductive ReqKind where
  /-- RD; `nocopy` for an access to an NC page. -/
  | rd (nocopy : Bool)
  | rdx
  /-- RST: n bytes of data, at most a line. -/
  | rst (n : Nat) (data : Nat)
  /-- RAMO: n bytes, AMO op, operand, compare value, rounding mode. -/
  | ramo (n op : Nat) (data cmp : Word) (rm : Nat)
  /-- RACK: the old owner's exclusive copies of the region's lines, each with its line, wts and rts; `keep` after a DOWNGRADE;
  the number of the ownership that the RECALL or DOWNGRADE named (the model's own). -/
  | rack (copies : List (Nat × Line × Nat × Nat)) (keep : Bool) (epoch : Nat)
  deriving DecidableEq, Repr

/-- A request in flight to the home `home` (a logical core, or 4,096 + die for a remote-data cache) from core `core`.
`retryAt` is the cycle at which a request answered RETRY is sent again (R299). -/
structure Req where
  kind    : ReqKind
  home    : Nat
  pa      : Nat
  agent   : Nat
  core    : Nat
  p       : Nat
  ctx     : Nat
  sel     : Nat
  retryAt : Option Nat
  deriving DecidableEq, Repr

/-- A message of a home to core `core`, or to a die's remote-data cache (1,152 + die) (R300): the code, the line's data
and timestamps. -/
structure Rep where
  code : Nat
  home : Nat
  pa   : Nat
  core : Nat
  data : Line
  wts  : Nat
  rts  : Nat
  tau  : Nat
  old  : Word
  /-- The flags of an AMOFADD performed at the home (R119). -/
  flags : Nat
  /-- The device time of the message (R308). -/
  sent : Nat
  /-- The request that it answers; none for a message to an owner or a sharer. -/
  req  : Option Req
  /-- The number of the region's ownership when it was sent (the model's own). -/
  epoch : Nat
  deriving DecidableEq, Repr

/-- An answer of a home to a remote store or atomic (R293, R107, R117). -/
structure Ack where
  core  : Nat
  home  : Nat
  ctx   : Nat
  tau   : Nat
  store : Bool
  old   : Word
  flags : Nat
  deriving DecidableEq, Repr

/-- A region entry (R295). -/
structure RegionEntry where
  home    : Nat
  base    : Nat
  size    : Nat
  st      : Nat
  sharers : List Nat
  owner   : Option (Nat × Nat)
  pending : Option Req
  /-- The pending requester waits for its answer: the region is in a transient state (the model's own). -/
  waits   : Bool
  /-- The cycle at which the transient timer runs out. -/
  timer   : Option Nat
  evr     : Nat
  sel     : Nat
  ctx     : Nat
  /-- A RECALL waits for the region to reach state 0 (R298). -/
  recalled : Bool
  /-- The cycle of the last event (R296). -/
  last    : Nat
  /-- Counts the changes of owner, so that an answer to an earlier RECALL is known (the model's own). -/
  epoch   : Nat
  deriving DecidableEq, Repr

/-- An armed watch (R198). -/
structure Watch where
  home   : Nat
  pa     : Nat
  va     : Word
  n      : Nat
  target : Word
  core   : Nat
  ch     : Nat
  gen    : Nat
  ctx    : Nat
  deriving DecidableEq, Repr

/-- Who waits at a barrier object (R257): a core, or the child object at va with its home. -/
inductive Waiter where
  | core (c : Nat)
  | child (home : Nat) (va : Nat) (pa : Nat)
  deriving DecidableEq, Repr

/-- A barrier wait entry (R257). -/
structure BarWait where
  home   : Nat
  obj    : Nat
  seen   : Bool
  waiter : Waiter
  ctx    : Nat
  deriving DecidableEq, Repr

/-- A barrier message in flight (R258, R260, R262). -/
inductive BarMsg where
  /-- BARR or BARW of core c. -/
  | arrival (home obj : Nat) (va : Word) (c ctx pts : Nat)
  /-- A child arrival at the parent. -/
  | child (home obj : Nat) (va : Word) (waiter : Waiter) (cix ctx pts : Nat)
  /-- A wait. -/
  | wait (home obj : Nat) (seen : Bool) (waiter : Waiter) (ctx : Nat)
  /-- A waiter answered "retry", with the cycle of the answer. -/
  | retry (home obj : Nat) (seen : Bool) (waiter : Waiter) (ctx : Nat) (cycle : Nat)
  deriving DecidableEq, Repr

/-- A walk request at a bay's walker (R286): the core, the page's address, the kind of access, the privilege. -/
structure WalkReq where
  bay  : Nat
  core : Nat
  ctx  : Nat
  va   : Nat
  acc  : Acc
  user : Bool
  deriving DecidableEq, Repr

/-- A push in flight to the core `dst` from the core `src` (R150). -/
structure Push where
  src : Nat
  dst : Nat
  val : VWord
  deriving DecidableEq, Repr

/-- What travels beside the pushes of a chain (R149, R150). -/
inductive CreditKind where
  /-- Credits of pops, which are added to WINDOW. -/
  | add
  /-- The credit of 4 of R149 step 3, which WINDOW becomes. -/
  | grant
  /-- The answer to a SYSWR STAGEDN, which WINDOW becomes and which ends the instruction. -/
  | answer
  /-- WINDOW becomes 0, and an acknowledgement goes back (R149 step 1). -/
  | revoke
  deriving DecidableEq, Repr

/-- A word on its way from a downstream core to an upstream core. -/
structure Credit where
  src    : Nat
  dst    : Nat
  amount : Nat
  kind   : CreditKind
  deriving DecidableEq, Repr

/-! ## Schedulers (09, 10, 11) -/

/-- States of a card (R224). -/
inductive CardState where
  | waiting | ready | running | done | retired
  deriving DecidableEq, Repr

/-- A footprint (R223): base, length, write. -/
structure Foot where
  base  : Nat
  len   : Nat
  write : Bool
  deriving DecidableEq, Repr

/-- States of a launch (R207). -/
inductive LaunchState where
  | queued | dealing | running | draining | complete | failed | aborted
  deriving DecidableEq, Repr

/-- A level of a launch record (R203). -/
structure Level where
  fanout : Nat
  scope  : Nat
  domain : Nat
  bar    : Nat
  deriving DecidableEq, Repr

/-- What a launch needs after dealing (R202, R205): the record, the scratchpad image, and the template's entries (channel,
priority, offset). -/
structure Launch where
  st      : LaunchState
  code    : Nat
  spb     : Nat
  gang    : Nat
  pin     : Bool
  groupn  : Nat
  image   : List Byte
  arg     : Word
  levels  : List Level
  tmpl    : List (Nat × Nat × Nat)
  retired : Nat
  deriving DecidableEq, Repr

/-- A job card, a launch card or an operation of the codecs, as the scheduler holds it (R219, R224, R363). Opcodes
0x100 and 0x101 are STASH and RESTORE; arg0 to arg3 are then region, data address, CFG and LEN at the append. -/
structure Card where
  id      : Nat
  /-- Its place in the order of all appends on both dies. -/
  ord     : Nat
  ctx     : Nat
  addr    : Nat
  /-- The descriptor of its queue; none for the other die's part of a package launch and for an operation of the codecs. -/
  queue   : Option Nat
  prio    : Nat
  op      : Nat
  cls     : Nat
  flags   : Nat
  fin     : Nat
  fout    : Nat
  args    : Vector Word 4
  doneVa  : Nat
  seq     : Word
  fps     : List Foot
  preds   : List Nat
  /-- Predecessors on the other die of a package launch (R206). -/
  preds2  : List Nat
  partner : Option Nat
  st      : CardState
  status  : Nat
  detail  : Nat
  /-- The appending physical core, or none for the host. -/
  core    : Option Nat
  /-- Appended by slot 0: its operands are accessed at U. -/
  user    : Bool
  hgen    : Nat
  ts      : Nat
  /-- The device time at which a CKSAVE began (R326), or of a COPY to a port whose data the port is still sending (R373). -/
  began   : Option Nat
  /-- Words of its aux record that a producer has still to write when its stream has left the full FIFO (R233, R234). -/
  due     : List (Nat × Nat)
  launch  : Option Launch
  deriving DecidableEq, Repr

/-- A dealt group (R240, R244): the launch's die, card and place in the order of appends, the index, the cluster queue that
holds it, the core it was dealt to (none for a gang), LEVELIX, its barrier, whether it was pushed in, the domain of a gang as
first core and size, and the cycle of the deal. -/
structure Dealt where
  die     : Nat
  card    : Nat
  ord     : Nat
  ix      : Nat
  cluster : Nat
  core    : Option Nat
  levelix : Word
  bar     : Word
  pushed  : Bool
  dom     : Nat × Nat
  since   : Nat
  ctx     : Nat
  deriving DecidableEq, Repr

/-- States of a frame (R288). -/
inductive FrameState where
  | unmapped
  | mapped (ctx : Nat)
  | zeroing (pending : Option Nat)
  | retired
  deriving DecidableEq, Repr

/-- The scheduler, engines and frame unit of a die. -/
structure Die where
  balthr   : Nat
  gangexp  : Nat
  cards    : List Card
  dealt    : List Dealt
  /-- The reserved bay, with the card and group that reserve it (R249). -/
  reserve  : Option (Nat × Nat × Nat)
  /-- Bytes in the chaining FIFOs, by FIFO number (R234). -/
  fifos    : List (Nat × List Byte)
  /-- The last card accepted on each host queue: context, descriptor, card (R220). -/
  doors    : List (Nat × Nat × Nat)
  frames   : List (Nat × FrameState)
  fstatErr : Bool
  /-- Lines of the remote-data cache (R294). -/
  rdc      : List (Nat × L1Line)
  /-- The lease-loss log: base, capacity, records written (R311). -/
  logBase  : Nat
  logCap   : Nat
  logCount : Nat
  /-- Running lineage jobs: card, node pinned, rewrites the node (R350). -/
  pins     : List (Nat × Nat × Bool)
  deriving DecidableEq, Repr

/-! ## Contexts (16_context.md) -/

/-- States of a context (R313). -/
inductive CtxState where
  | empty | loading | runnable | running | preempting | saved | faulted | draining | dead
  deriving DecidableEq, Repr

/-- A context with its descriptor (R314). -/
structure Context where
  st        : CtxState
  desc      : Nat
  ptbase    : Word
  hometab   : Word
  lintab    : Word
  spillq    : Word
  orphq     : Word
  savebase  : Word
  tvec      : Word
  slice     : Word
  protomask : Word
  prio      : Nat
  qtab      : Word
  ckseq     : Word
  fcause    : Word
  /-- The physical addresses of LOST of the orphan queues of which a drop was reported and LOST not written since (R181). -/
  lostHw    : List Nat
  deriving DecidableEq, Repr

/-! ## Links and platform (19, 20) -/

/-- States of a link (R371). -/
inductive LinkState where
  | down | train | active | retrain | fenced | disabled
  deriving DecidableEq, Repr

/-- A link (R366 to R372). -/
structure Link where
  st      : LinkState
  retries : Nat
  /-- Lanes that run on a spare, or are repaired. -/
  spared  : List Nat
  width   : Nat
  comp    : Bool
  peerctx : Nat
  lctx    : Nat
  con     : Nat
  coff    : Nat
  rcap    : Nat
  cena    : Bool
  /-- The last SEQ sent, and the last accepted. -/
  txSeq   : Nat
  rxSeq   : Nat
  /-- The replay buffer: SEQ and flit, oldest first. -/
  replay  : List (Nat × List Byte)
  /-- Payloads waiting to be sent, by virtual channel, and flits sent on the wire. -/
  queue   : List (Nat × List Byte)
  wire    : List (List Byte)
  /-- Payloads received, by virtual channel, oldest first. -/
  rx      : List (Nat × List Byte)
  credits : Vector Nat 6
  nakAck  : Nat
  naks    : Nat
  /-- Drops data flits until the expected SEQ arrives (R368). -/
  hunting : Bool
  /-- The device time of the last heartbeat flit sent (R375). -/
  beat    : Nat
  /-- The device time of entry into TRAIN or RETRAIN. -/
  since   : Nat
  /-- Lanes whose error count has passed its limit and that the next retraining spares (R372). -/
  bad     : List Nat
  deriving DecidableEq, Repr

/-- An entry on its way into the corrected-error log (R383). -/
structure CelDue where
  time   : Nat
  kind   : Nat
  unit   : Nat
  loc    : Nat
  detail : Nat
  deriving DecidableEq, Repr

/-- The platform block and firmware's settings (R35, R378 to R384). L2PBASE, L2PN, LIVEMODE, CELBASE and FWLOCK stand once for the
device, where R35 does not say whether each core has its own (log 66, DESIGN CHOICE). -/
structure Platform where
  stepLetter : Nat
  stepNumber : Nat
  hmap       : Vector Word 18
  l2pbase    : Word
  l2pn       : Word
  livemode   : Word
  celbase    : Word
  fwlock     : Bool
  booterr    : Nat
  stage      : Nat
  pwrcap     : Nat
  celcap     : Word
  celptr     : Word
  cellost    : Word
  hwin       : Vector Word 8
  meas       : Vector (BitVec 384) 4
  signers    : List (BitVec 384)
  /-- Issue stalls inserted by the power clamp (R384). -/
  clamp      : Bool
  /-- Entries of this cycle that the corrected-error log has still to take, by unit number (R383). -/
  celDue     : List CelDue
  /-- Physical cores that have failed (R385). -/
  failed     : List Nat
  /-- CTXARG, the context that CTXSTAT names, and its ERR (R313). -/
  ctxarg     : Word
  ctxNamed   : Nat
  ctxErr     : Bool
  deriving DecidableEq, Repr

/-- Liveness of an agent, by Halyard address (R306 to R309, R376). -/
structure Agent where
  fenced : Bool
  /-- It fenced itself by drift or silence (R307, R376). -/
  drift  : Bool
  /-- Device time of the last heartbeat sent, and of the last packet received. -/
  beat   : Nat
  heard  : Nat
  deriving DecidableEq, Repr

/-- What the device tells the host (R313, R318, R383). -/
inductive HostEvent where
  | contextEvent (ctx : Nat)
  | platform
  | uncorrectable (pa : Nat)
  | snoopAnswer (line : Nat) (data : Line)
  /-- Back-invalidate of CXL.mem: the host drops what it holds of these bytes of device memory (R377). -/
  | backInvalidate (base size : Nat)
  | memAnswer (pa : Nat) (data : Word)
  deriving DecidableEq, Repr

/-! ## The machine -/

/-- Bytes that a copy job sends to the peer of a port: the context under which the peer performs the write, whether they go to a
scratchpad, and the address (R374). -/
structure PeerWrite where
  port    : Nat
  peerctx : Nat
  dsp     : Bool
  va      : Nat
  data    : List Byte
  deriving DecidableEq, Repr

/-- What moves in a step. -/
inductive Act where
  | issue (c : Nat)
  | event (i : Instr)
  deriving DecidableEq, Repr

/-- An entry of the agenda: the cycles that pass first, and what then moves. -/
structure Turn where
  cycles : Nat
  act    : Act
  deriving DecidableEq, Repr

/-- The package. -/
structure State where
  /-- What moves next; when empty, core `cur` issues (the model's own; log 3, DESIGN CHOICE). -/
  agenda   : List Turn
  cur      : Nat
  cycle    : Nat
  time     : Nat
  /-- The counter of free values (the model's own; log 11, DESIGN CHOICE). -/
  free     : Nat
  /-- The number of the next append, over both dies (R218). -/
  serial   : Nat
  mem      : List Host.Cell
  /-- Cores that differ from reset, by physical number die * 576 + 36 * bay + 4 * cluster + core (R39). -/
  cores    : List (Nat × Core)
  dies     : Vector Die 2
  ctxs     : List (Nat × Context)
  links    : Vector Link 17
  plat     : Platform
  agents   : List (Nat × Agent)
  net      : List NetMsg
  /-- Messages held in a die's network interface (R180). -/
  held     : List NetMsg
  bars     : List BarMsg
  barWaits : List BarWait
  watches  : List Watch
  walks    : List WalkReq
  /-- The TLBs of the clusters, by cluster, newest entry first, and the walker caches of the bays (R286). -/
  ctlb     : List (Nat × List TlbEntry)
  wcache   : List (Nat × List WalkPtr)
  pushes   : List Push
  credits  : List Credit
  reqs     : List Req
  reps     : List Rep
  acks     : List Ack
  regions  : List RegionEntry
  /-- Home line timestamps: line address, wts, rts (R292). -/
  lines    : List (Nat × Nat × Nat)
  /-- The floor of a slice (R292), by home. -/
  floors   : List (Nat × Nat)
  /-- Loaded protocol tables: context, selector, the image's bytes (R304). -/
  tables   : List (Nat × Nat × List Byte)
  toHost   : List HostEvent
  /-- What copy jobs have sent to peer devices, oldest first (R374). -/
  toPeer   : List PeerWrite
  deriving DecidableEq, Repr

/-! ## Reset (R35, R323, R379 step 2) -/

/-- A slot's registers after zeroing (R323). -/
def Hart.reset : Hart :=
  { x := Vector.replicate 32 0, f := Vector.replicate 32 0, pc := 0, hint := none }

/-- A handler table entry at its reset value (R173). -/
def HEntry.reset : HEntry :=
  { st := .empty, prio := 0, en := false, pend := false, rgn := 0, code := 0, ncode := 0, nprio := 0, fifo := [] }

/-- A tile after reset (R26). -/
def Tile.reset : Tile := { cls := .int, elems := [] }

/-- The user system registers at their reset values (R35). -/
def USys.reset : USys :=
  { fctl := 0x10, fflags := 0, accflags := 0, rngclo := 0, rngchi := 0, rngkey := 0, groupid := 0, groupn := 0,
    levelix := 0, hgen := 0, stageup := 0, stagedn := 0, window := 0, long := false, treeup := 0, treen := 0,
    treeop := 0, treedst := 0 }

/-- The supervisor system registers at their reset values (R35; R40: PL is 1; log 54, DEDUCED). -/
def SSys.reset : SSys :=
  { status := 4, epc := 0, cause := 0, tval := 0, tvec := 0, ctxid := 0, ptbase := 0, htab := 0, spillq := 0,
    orphq := 0, slice := 0, hometab := 0, lintab := 0, protomask := 1 }

/-- A core after device reset. -/
def Core.reset : Core :=
  { s0 := Hart.reset, s3 := Hart.reset, act := none, slot3 := .idle, halted := false, fwRet := 0, u := USys.reset,
    sv := SSys.reset, pts := 0, v := Vector.replicate 14 0, lv := Vector.replicate 8 0,
    acc := Vector.replicate 4 Tile.reset, mat := none, qi := [], qs := [], vqi := [], revoked := false, popped := 0, pushed := [], lstream := none, sstream := none,
    sfault := none, staken := false, sp := [], fe := [], latch := false, wake := false, pend := .none, pend3 := .none, hostWait := none, follow := .none, issued := 0,
    htab := Vector.replicate 64 HEntry.reset, rgns := Vector.replicate 16 ⟨0, 0⟩, rrptr := Vector.replicate 8 63,
    red := ⟨[], 0⟩, slot1 := [], gen := 0, owned := false, sliceEnd := 0, passing := false, group := none, saved := [], ended := false, preempt := .none,
    tlb := [], l1 := [], unacked := 0, stq := [], sts := 0, jobs := [], jts := 0, gated := false, arrived := none }

/-- A die after device reset (R247, R289). -/
def Die.reset : Die :=
  { balthr := 3, gangexp := 20, cards := [], dealt := [], reserve := none, fifos := [], doors := [], frames := [],
    fstatErr := false, rdc := [], logBase := 0, logCap := 0, logCount := 0, pins := [] }

/-- A link after device reset (R371). -/
def Link.reset : Link :=
  { st := .down, retries := 0, spared := [], width := 0, comp := false, peerctx := 0, lctx := 0, con := 64, coff := 16,
    rcap := 0, cena := true, txSeq := 0, rxSeq := 0, replay := [], queue := [], wire := [], rx := [],
    credits := Vector.replicate 6 0, nakAck := 0, naks := 0, hunting := false, beat := 0, since := 0, bad := [] }

/-- The platform after device reset (R35, R378, R384). -/
def Platform.reset : Platform :=
  { stepLetter := 0x42, stepNumber := 1, hmap := Vector.replicate 18 0, l2pbase := 0, l2pn := 0, livemode := 4,
    celbase := 0, fwlock := false, booterr := 0, stage := 0, pwrcap := 1600, celcap := 0, celptr := 0, cellost := 0,
    hwin := Vector.replicate 8 0, meas := Vector.replicate 4 0, signers := [], clamp := false, celDue := [],
    failed := [], ctxarg := 0, ctxNamed := 0, ctxErr := false }

/-- The machine right after reset (R35, R379 steps 1 and 2): every register at its reset value, nothing in flight. Values that no
rule gives: log 10 and log 2, DESIGN CHOICE; host memory: log 1, DESIGN CHOICE. -/
def State.reset : State :=
  { agenda := [], cur := 0, cycle := 0, time := 0, free := 0, serial := 0, mem := [], cores := [],
    dies := Vector.replicate 2 Die.reset, ctxs := [], links := Vector.replicate 17 Link.reset, plat := Platform.reset,
    agents := [], net := [], held := [], bars := [], barWaits := [], watches := [], walks := [], ctlb := [], wcache := [], pushes := [],
    credits := [], reqs := [], reps := [], acks := [], regions := [], lines := [], floors := [], tables := [],
    toHost := [], toPeer := [] }

end Sys2Proof.Machine
end

