-- ==== Sys2Proof/Machine/Prim.lean ====
section
/-! DEFINITION. Machine/Prim.lean: keyed lists, the canonical byte store, cores and their identities, the
scratchpad, and bytes as the device sees them. -/
namespace Sys2Proof.Machine

/-! ## Keyed lists, rising by key -/

/-- The value at a key. -/
def lookupK {α : Type} : List (Nat × α) → Nat → Option α
  | [], _ => none
  | (j, v) :: r, k => if j = k then some v else lookupK r k

/-- Puts a value at a key of a rising list. -/
def insertK {α : Type} : List (Nat × α) → Nat → α → List (Nat × α)
  | [], k, v => [(k, v)]
  | (j, w) :: r, k, v => if k < j then (k, v) :: (j, w) :: r else if j = k then (k, v) :: r else (j, w) :: insertK r k v

/-- Removes a key. -/
def removeK {α : Type} : List (Nat × α) → Nat → List (Nat × α)
  | [], _ => []
  | (j, w) :: r, k => if j = k then r else (j, w) :: removeK r k

/-- The i-th element of a list, and the list without it. -/
def takeAt {α : Type} : List α → Nat → Option (α × List α)
  | [], _ => none
  | a :: r, 0 => some (a, r)
  | a :: r, n + 1 => match takeAt r n with
    | some (b, r') => some (b, a :: r')
    | none => none

/-- Replaces the i-th element of a list. -/
def setAt {α : Type} : List α → Nat → α → List α
  | [], _, _ => []
  | _ :: r, 0, v => v :: r
  | a :: r, n + 1, v => a :: setAt r n v

/-- No element of a list before the k-th satisfies a test. -/
def firstOf {α : Type} (l : List α) (k : Nat) (p : α → Bool) : Bool := !(l.take k).any p

/-- Whether no element has the key. -/
def absent {α : Type} (l : List α) (p : α → Bool) : Bool := !l.any p

/-- Two ranges meet. -/
def meets (a n b m : Nat) : Bool := a < b + m && b < a + n

/-! ## The canonical byte store: rising addresses, no byte equal to zero, which an unlisted address reads as -/

/-- The byte at an address (log 1, DESIGN CHOICE for host memory; DRAM is zero by R379 step 2). -/
def cellGet (m : List Host.Cell) (a : Nat) : Byte := (lookupK m a).getD 0

/-- Writes one byte and keeps the canonical form. -/
def cellSet (m : List Host.Cell) (a : Nat) (b : Byte) : List Host.Cell :=
  if b = 0 then removeK m a else insertK m a b

/-- Writes bytes upward from an address. -/
def cellSets : List Host.Cell → Nat → List Byte → List Host.Cell
  | m, _, [] => m
  | m, a, b :: r => cellSets (cellSet m a b) (a + 1) r

/-- Bytes upward from an address. -/
def cellGets (m : List Host.Cell) (a n : Nat) : List Byte := (List.range n).map fun i => cellGet m (a + i)

/-- Removes the bytes of a range. -/
def cellClear (m : List Host.Cell) (a n : Nat) : List Host.Cell := m.filter fun p => !(a ≤ p.1 && p.1 < a + n)

/-- Every address of the list is above `a`, addresses rise, and no byte is zero. -/
def cellsFrom : Nat → List Host.Cell → Bool
  | _, [] => true
  | a, (j, b) :: r => a ≤ j && b != 0 && cellsFrom (j + 1) r

/-- The canonical form of memory and of the scratchpad. -/
def Memory.wf (m : List Host.Cell) : Bool := cellsFrom 0 m

/-! ## Cores and their identities (R38, R39, R238) -/

/-- The core of a physical number. -/
def State.core (s : State) (c : Nat) : Core := (lookupK s.cores c).getD Core.reset
/-- Replaces a core. -/
def State.setCore (s : State) (c : Nat) (k : Core) : State := { s with cores := insertK s.cores c k }
/-- Changes a core. -/
def State.modCore (s : State) (c : Nat) (f : Core → Core) : State := s.setCore c (f (s.core c))

/-- Number of physical cores (R1). -/
def coreCount : Nat := 1152
/-- Die, bay, cluster and core index of a physical number. -/
def dieOf (c : Nat) : Nat := c / 576
/-- Bay within the die. -/
def bayOf (c : Nat) : Nat := c % 576 / 36
/-- Cluster within the bay. -/
def clwOf (c : Nat) : Nat := c % 36 / 4
/-- Core within the cluster. -/
def kOf (c : Nat) : Nat := c % 4
/-- Cluster within the package, 0 to 287. -/
def clusterOf (c : Nat) : Nat := c / 4
/-- The 11-bit physical core id (R238). -/
def physId (c : Nat) : Nat := dieOf c * 1024 + bayOf c * 64 + clwOf c * 4 + kOf c
/-- The physical number of a physical core id; none where bits 5:2 name no cluster. -/
def ofPhysId (p : Nat) : Option Nat :=
  if p / 4 % 16 < 9 then some (p / 1024 % 2 * 576 + p / 64 % 16 * 36 + p / 4 % 16 * 4 + p % 4) else none

/-- A die of the package. -/
def State.die (s : State) (d : Nat) : Die := if d = 0 then s.dies[0] else s.dies[1]
/-- Replaces a die. -/
def State.setDie (s : State) (d : Nat) (x : Die) : State :=
  { s with dies := if d = 0 then s.dies.set 0 x else s.dies.set 1 x }
/-- Changes a die. -/
def State.modDie (s : State) (d : Nat) (f : Die → Die) : State := s.setDie d (f (s.die d))

/-- A link. -/
def State.link (s : State) (p : Nat) : Link := s.links[p]?.getD Link.reset

/-- A link is FENCED or DISABLED: what would cross it meets the outcomes of R373. -/
def State.cut (s : State) (p : Nat) : Bool := (s.link p).st == .fenced || (s.link p).st == .disabled
/-- Replaces a link. -/
def State.setLink (s : State) (p : Nat) (l : Link) : State := { s with links := s.links.setIfInBounds p l }

/-- A context, when it exists. -/
def State.ctx? (s : State) (x : Nat) : Option Context := lookupK s.ctxs x
/-- Replaces a context. -/
def State.setCtx (s : State) (x : Nat) (k : Context) : State := { s with ctxs := insertK s.ctxs x k }

/-! ## Bytes and lines -/

/-- The bytes of a line, lowest address first. -/
def lineByte (l : Line) (i : Nat) : Byte := BitVec.ofNat 8 (bitsOf l.toNat (8 * i) 8)
/-- A line with one byte replaced. -/
def lineSet (l : Line) (i : Nat) (b : Byte) : Line :=
  BitVec.ofNat 512 (l.toNat - bitsOf l.toNat (8 * i) 8 * 2 ^ (8 * i) + b.toNat * 2 ^ (8 * i))
/-- A line with n bytes from i replaced by those of v. -/
def lineSets (l : Line) (i : Nat) : Nat → Nat → Line
  | 0, _ => l
  | n + 1, v => lineSet (lineSets l i n v) (i + n) (BitVec.ofNat 8 (bitsOf v (8 * n) 8))

/-- The exclusive copy of a line, with its core (R292). -/
def xHolderIn : List (Nat × Core) → Nat → Option (Nat × L1Line)
  | [], _ => none
  | (c, k) :: r, line => match lookupK k.l1 line with
    | some l => if l.excl then some (c, l) else xHolderIn r line
    | none => xHolderIn r line

/-- The exclusive copy of a line in the package. -/
def State.xHolder (s : State) (line : Nat) : Option (Nat × L1Line) := xHolderIn s.cores line

/-- The exclusive copies that an answer carries home. -/
def Req.copies (q : Req) : List (Nat × Line × Nat × Nat) :=
  match q.kind with
  | .rack c _ _ => c
  | _ => []

/-- The exclusive copy of a line that an answer carries home. -/
def Req.copyOf (q : Req) (line : Nat) : Option (Line × Nat × Nat) := lookupK q.copies line

/-- The data of a line that its old owner has given up and that has not reached the home (R298 RACK). -/
def State.onWay (s : State) (line : Nat) : Option (Line × Nat × Nat) := s.reqs.findSome? fun q => q.copyOf line

/-- A physical byte as the last write left it: in the exclusive copy of its line, on its way home, or in home storage. -/
def State.byte (s : State) (pa : Nat) : Byte :=
  match s.xHolder (pa / 64) with
  | some (_, l) => lineByte l.data (pa % 64)
  | none => match s.onWay (pa / 64) with
    | some c => lineByte c.1 (pa % 64)
    | none => cellGet s.mem pa

/-- n bytes from pa as a number, little-endian (R9). -/
def State.bytes (s : State) (pa : Nat) : Nat → Nat
  | 0 => 0
  | n + 1 => State.bytes s pa n + (s.byte (pa + n)).toNat * 2 ^ (8 * n)

/-- A 64-bit word of physical memory. -/
def State.word (s : State) (pa : Nat) : Word := BitVec.ofNat 64 (s.bytes pa 8)

/-- n bytes of home storage as a number. -/
def storeBytes (m : List Host.Cell) (pa : Nat) : Nat → Nat
  | 0 => 0
  | n + 1 => storeBytes m pa n + (cellGet m (pa + n)).toNat * 2 ^ (8 * n)

/-- Writes n bytes of home storage. -/
def putBytes (m : List Host.Cell) (pa : Nat) : Nat → Nat → List Host.Cell
  | 0, _ => m
  | n + 1, v => cellSet (putBytes m pa n v) (pa + n) (BitVec.ofNat 8 (bitsOf v (8 * n) 8))

/-! ## The core map (R238, R239) -/

/-- The harvest word `i` of the core map; before firmware has set L2PBASE, the fuses (log 2, DESIGN CHOICE). -/
def State.harvestWord (s : State) (i : Nat) : Word :=
  if s.plat.l2pbase = 0 then s.plat.hmap[i]?.getD 0 else BitVec.ofNat 64 (storeBytes s.mem (s.plat.l2pbase.toNat + 8 * i) 8)

/-- A core is enabled when the harvest words do not mark it (R238). -/
def State.enabled (s : State) (c : Nat) : Bool :=
  let i := c % 576
  c < coreCount && !((s.harvestWord (dieOf c * 9 + i / 64)).getLsbD (i % 64))

/-- Enabled cores below a physical number. -/
def State.enabledBelow (s : State) : Nat → Nat
  | 0 => 0
  | n + 1 => State.enabledBelow s n + (if s.enabled n then 1 else 0)

/-- The number of enabled logical cores: L2PN of the core map, or the count of the fuses (R239). -/
def State.logicalCount (s : State) : Nat :=
  if s.plat.l2pbase = 0 then s.enabledBelow coreCount else storeBytes s.mem (s.plat.l2pbase.toNat + 0x90) 8

/-- The n-th enabled core from a physical number upward, with fuel. -/
def State.nthEnabled (s : State) : Nat → Nat → Nat → Option Nat
  | 0, _, _ => none
  | fuel + 1, c, n =>
    if s.enabled c then (match n with
      | 0 => some c
      | m + 1 => State.nthEnabled s fuel (c + 1) m)
    else State.nthEnabled s fuel (c + 1) n

/-- The physical core of a logical id (R239). -/
def State.physical (s : State) (l : Nat) : Option Nat :=
  if s.plat.l2pbase = 0 then s.nthEnabled coreCount 0 l
  else if l < s.logicalCount then ofPhysId (storeBytes s.mem (s.plat.l2pbase.toNat + 0x100 + 2 * l) 2 % 2048) else none

/-- The first logical id from l upward whose entry names the core, with fuel. -/
def State.logicalFrom (s : State) (c : Nat) : Nat → Nat → Nat
  | 0, _ => 0xFFF
  | fuel + 1, l => if s.physical l = some c then l else State.logicalFrom s c fuel (l + 1)

/-- The logical id of a physical core (R238). -/
def State.logical (s : State) (c : Nat) : Nat :=
  if s.plat.l2pbase = 0 then s.enabledBelow c else s.logicalFrom c s.logicalCount 0

/-! ## Scratchpad and full/empty bits (R108) -/

/-- Scratchpad size. -/
def spSize : Nat := 262144

/-- n bytes of the scratchpad as a number. -/
def Core.spRead (k : Core) (off n : Nat) : Nat := storeBytes k.sp off n
/-- Writes n bytes of the scratchpad. -/
def Core.spWrite (k : Core) (off n v : Nat) : Core := { k with sp := putBytes k.sp off n v }
/-- Writes a list of bytes. -/
def Core.spWrites (k : Core) (off : Nat) (l : List Byte) : Core := { k with sp := cellSets k.sp off l }
/-- Bytes of the scratchpad. -/
def Core.spBytes (k : Core) (off n : Nat) : List Byte := cellGets k.sp off n
/-- Granule g is full. -/
def Core.full (k : Core) (g : Nat) : Bool := k.fe.contains g
/-- Inserts into a rising list of numbers. -/
def insertN : List Nat → Nat → List Nat
  | [], k => [k]
  | j :: r, k => if k < j then k :: j :: r else if j = k then j :: r else j :: insertN r k
/-- Marks a granule full or empty. -/
def Core.mark (k : Core) (g : Nat) (f : Bool) : Core :=
  { k with fe := if f then insertN k.fe g else k.fe.filter (· != g) }
/-- Marks n granules from g. -/
def Core.marks (k : Core) (g : Nat) (f : Bool) : Nat → Core
  | 0 => k
  | n + 1 => (Core.marks k g f n).mark (g + n) f

/-! ## Leaf fields (R282) -/

/-- Bit i of a word. -/
def bitAt (w : Word) (i : Nat) : Bool := w.getLsbD i

end Sys2Proof.Machine
end

