-- ==== Sys2Proof/Machine/Home.lean ====
section
/-! DEFINITION. Machine/Home.lean: the home side of memory: line timestamps, regions, recall, reads and writes
performed at the home, watches, messages into the network, and context faults. -/
namespace Sys2Proof.Machine

/-! ## Messages into the network (R177, R201) -/

/-- Hands a message to the network. -/
def State.post (s : State) (origin : Nat) (m : Msg) : State := { s with net := s.net ++ [⟨origin, m, none⟩] }

/-- Four payload words. -/
def pay4 (a b c d : Word) : Vector Word 4 := #v[a, b, c, d]

/-- The header of a message (R177). -/
def Msg.header (m : Msg) : Word :=
  BitVec.ofNat 64 (m.dst % 4096 * 2 ^ 52 + m.ch % 64 * 2 ^ 46 + m.gen % 4096 * 2 ^ 34 + m.src % 4096 * 2 ^ 22
    + m.len % 8 * 2 ^ 19 + m.kind % 8 * 2 ^ 16 + m.info % 65536)

/-- A hardware message (KIND 4). -/
def hwMsg (dst ch gen src len info : Nat) (p : Vector Word 4) (pts ctx : Nat) : Msg :=
  { dst := dst, ch := ch, gen := gen, src := src, len := len, kind := 4, info := info, pay := p, pts := pts, ctx := ctx, time := 0 }

/-- Source numbers of units that are no core (the model's; R201). -/
def homeOrigin (h : Nat) : Nat := 2000 + h
/-- Source number of a die's scheduler, engines and codecs. -/
def dieOrigin (d : Nat) : Nat := 8000 + d

/-- The lowest logical core that holds a group of the context, with its physical core (R183). -/
def State.receiver (s : State) (ctx : Nat) : Option (Nat × Nat) :=
  ((s.cores.filterMap fun p => if (match p.2.group with
      | some g => g.ctx == ctx
      | none => false) then some (s.logical p.1, p.1) else none)).foldl
    (fun best q => match best with
      | none => some q
      | some b => if q.1 < b.1 then some q else some b) none

/-! ## Watches (R199) -/

/-- The logical core that SRC of a home's message names (R177). -/
def homeSrc (home : Nat) : Nat := if home < 4096 then home else 0xFFF

/-- The notification of a watch. -/
def watchMsg (s : State) (w : Watch) (tau : Nat) : Msg :=
  hwMsg (s.logical w.core) w.ch w.gen (homeSrc w.home) 2 1 (pay4 w.va w.target 0 0) tau w.ctx

/-- Fires the watches of a list whose word now holds its target. -/
def State.fireList (s : State) (tau : Nat) : List Watch → State
  | [] => s
  | w :: r => if s.bytes w.pa w.n = w.target.toNat % 2 ^ (8 * w.n)
    then State.fireList ({ s with watches := s.watches.erase w }.post (homeOrigin w.home) (watchMsg s w tau)) tau r
    else State.fireList s tau r

/-- A write of n bytes touches LOST at a physical address. -/
def lostAt (pa n a : Nat) : Bool := a < pa + n && pa < a + 8

/-- The write touches LOST of an orphan queue of a context. -/
def Context.lostIn (k : Context) (pa n : Nat) : Bool := k.lostHw.any (lostAt pa n)

/-- A write of LOST makes the next drop of that queue one to report (R181). -/
def State.noteWrite (s : State) (pa n : Nat) : State :=
  if s.ctxs.any fun p => p.2.lostIn pa n then
    { s with ctxs := s.ctxs.map fun p => if p.2.lostIn pa n then (p.1, { p.2 with lostHw := p.2.lostHw.filter fun a => !lostAt pa n a }) else p }
  else s

/-- The home compares the watched words that a write of n bytes touched. -/
def State.fireWatches (s : State) (pa n tau : Nat) : State :=
  (s.noteWrite pa n).fireList tau (s.watches.filter fun w => w.pa < pa + n && pa < w.pa + w.n)

/-- A watch is armed on a word of the line (R199). -/
def State.watched (s : State) (line : Nat) : Bool := s.watches.any fun w => w.pa / 64 == line

/-- Writes n bytes of home storage at a timestamp, whoever makes the write: the home compares the watched words. -/
def State.putMem (s : State) (pa n v tau : Nat) : State :=
  { s with mem := putBytes s.mem pa n v }.fireWatches pa n tau

/-- Writes bytes of home storage upward from an address. -/
def State.putList (s : State) (pa : Nat) (l : List Byte) (tau : Nat) : State :=
  { s with mem := cellSets s.mem pa l }.fireWatches pa l.length tau

/-! ## Line timestamps and regions (R292, R295) -/

/-- The limit a home sets no timestamp at or above (R292). -/
def tsLimit : Nat := 2 ^ 63

/-- The region entry of a home that covers an address. -/
def State.region? (s : State) (home pa : Nat) : Option RegionEntry :=
  s.regions.find? fun r => r.home == home && r.base ≤ pa && pa < r.base + r.size

/-- The key of a line in the home's timestamps: each die's remote-data cache is a home of its own for host lines. -/
def lineKey (home line : Nat) : Nat := if home < 4096 then line else line + (home - 4095) * 2 ^ 52

/-- The timestamps of a home line: its own, or EVR of its region, or the floor of the slice (R292). -/
def State.lineTs (s : State) (home line : Nat) : Nat × Nat :=
  match lookupK s.lines (lineKey home line) with
  | some t => t
  | none => match s.region? home (line * 64) with
    | some r => (r.evr, r.evr)
    | none => let f := (lookupK s.floors home).getD 0; (f, f)

/-- Sets the timestamps of a home line. -/
def State.setTs (s : State) (home line wts rts : Nat) : State :=
  { s with lines := insertK s.lines (lineKey home line) (wts, rts) }

/-- Replaces a region entry, by home and base. -/
def State.setRegion (s : State) (r : RegionEntry) : State :=
  { s with regions := s.regions.map fun q => if q.home == r.home && q.base == r.base then r else q }

/-! ## Agents (R295, R306, R376) -/

/-- The die of a home. -/
def homeDie (s : State) (home : Nat) : Nat :=
  if home < 4096 then (match s.physical home with
    | some c => dieOf c
    | none => 0) else home - 4096

/-- The agent of a core at a home: its cluster, or the other die's remote-data cache. -/
def agentOf (s : State) (home c : Nat) : Nat := if dieOf c = homeDie s home then c % 576 / 4 else 144

/-- The agent to which a home counts an access: that of the core that makes it; that of the home's own cluster where a unit
that is no agent makes it (log 59, DESIGN CHOICE). -/
def agentFor (s : State) (home : Nat) (who : Option Nat) : Nat :=
  match who, s.physical home with
  | some c, _ => agentOf s home c
  | none, some h => h % 576 / 4
  | none, none => 144

/-- The Halyard address of an agent of a die's homes; Thomir ports, which Halyard does not reach, take 300 upward. -/
def agentAddr (die agent : Nat) : Nat :=
  if agent < 144 then 144 * die + agent
  else if agent = 144 then 289 - die
  else if agent = 145 then 294
  else 154 + agent

/-- Liveness of an agent. -/
def State.agent (s : State) (addr : Nat) : Agent := (lookupK s.agents addr).getD { fenced := false, drift := false, beat := 0, heard := 0 }

/-- The home takes no message from a fenced agent (R309). -/
def State.agentFenced (s : State) (home agent : Nat) : Bool := (s.agent (agentAddr (homeDie s home) agent)).fenced

/-- An agent of a home is fenced or has fenced itself: its copies count as lost (R307, R309). -/
def State.agentLost (s : State) (home agent : Nat) : Bool :=
  let a := s.agent (agentAddr (homeDie s home) agent)
  a.fenced || a.drift

/-- The cluster of a core of the other die from which nothing comes, where it owns for its die's agent: its agent, else none (R307, R310). -/
def State.farOwner (s : State) (o : Nat × Nat) : Option Agent :=
  let a := s.agent (clusterOf o.2)
  if o.1 = 144 ∧ (a.fenced || a.drift) = true then some a else none

/-- The owner of a region is lost: its agent is, or its cluster on the other die (R307, R309, R310). -/
def State.ownerLost (s : State) (home : Nat) (o : Nat × Nat) : Bool := s.agentLost home o.1 || (s.farOwner o).isSome

/-- The code under which the loss of an agent's copies is logged; of an owner's (R311). -/
def State.lossCode (s : State) (home : Nat) (o : Nat × Nat) : Nat :=
  let a := s.agent (agentAddr (homeDie s home) o.1)
  let b := if a.drift || a.fenced then a else (s.farOwner o).getD a
  if b.drift then 0x12 else if b.fenced then 0x11 else 0x10

/-- The cores of an agent of a die's homes. -/
def agentHas (die agent c : Nat) : Bool :=
  if agent < 144 then dieOf c == die && c % 576 / 4 == agent else agent == 144 && dieOf c != die

/-! ## The bridge (R365, R372) -/

/-- A UCIe module of a die is ACTIVE: links 13 and 14 serve die 0, 15 and 16 die 1 (R365). -/
def State.ucieUp (s : State) (die : Nat) : Bool :=
  (s.link (13 + 2 * die)).st == .active || (s.link (14 + 2 * die)).st == .active

/-- Traffic crosses between the dies while the bridge is ACTIVE. -/
def State.bridgeUp (s : State) : Bool := (s.link 12).st == .active

/-- A core's messages pass to and from a home: its agents are neither fenced nor drifted, and the bridge is up where they
cross it (R307, R309). -/
def State.reaches (s : State) (home c : Nat) : Bool :=
  let off := fun (a : Agent) => a.fenced || a.drift
  !off (s.agent (clusterOf c))
    && (homeDie s home == dieOf c || (s.bridgeUp && !off (s.agent (agentAddr (homeDie s home) 144))))

/-- Nothing of a core comes to a home any more: its cluster or its die's agent is fenced or has fenced itself, or the bridge is cut
(R307, R309, R373). -/
def State.silenced (s : State) (home c : Nat) : Bool :=
  let off := fun (a : Agent) => a.fenced || a.drift
  off (s.agent (clusterOf c))
    || (homeDie s home != dieOf c && (s.cut 12 || off (s.agent (agentAddr (homeDie s home) 144))))

/-- Host memory answers a die for a line: the die's cache holds it, or a UCIe module of the die is up (R294, R365). -/
def State.hostUp (s : State) (home pa : Nat) : Bool :=
  home < 4096 || s.ucieUp (home - 4096) || (lookupK s.lines (lineKey home (pa / 64))).isSome

/-- The side of the bridge from which what goes from one die to the other crosses it; none within a die. -/
def wayOf (src dst : Nat) : Option Nat := if src = dst then none else some src

/-- Two things cross the bridge the same way, where a virtual channel delivers in send order (R367; log 17, DESIGN CHOICE). -/
def sameWay (a b : Option Nat) : Bool := a.isSome && a == b

/-- The way of a request to its home, and of a home's message to a core. -/
def State.wayTo (s : State) (home c : Nat) : Option Nat := wayOf (dieOf c) (homeDie s home)
/-- The way of a home's message to a core. -/
def State.wayFrom (s : State) (home c : Nat) : Option Nat := wayOf (homeDie s home) (dieOf c)

/-! ## The lease-loss log (R311) -/

/-- The exponent of a size that is a power of two. -/
def sizeExp (n : Nat) : Nat := Nat.log2 n

/-- A record in the lease-loss log of the home's die, and its report; with no receiver the report travels to 0xFFF and
becomes an orphan (R311, R183). -/
def State.leaseLog (s : State) (home base size ctx agent code : Nat) : State :=
  let d := homeDie s home
  let l := s.die d
  let a := l.logBase + 32 * l.logCount
  let s1 := if l.logCount < l.logCap then
      ((((s.putMem a 8 s.time 0).putMem (a + 8) 8 (base + sizeExp size) 0).putMem (a + 16) 8
        (ctx % 65536 + agent * 2 ^ 16 + code * 2 ^ 32) 0).putMem (a + 24) 8 0 0).modDie d fun x => { x with logCount := x.logCount + 1 }
    else s
  let pay := pay4 (BitVec.ofNat 64 code) (BitVec.ofNat 64 base) (BitVec.ofNat 64 (sizeExp size + agent * 2 ^ 8)) (BitVec.ofNat 64 s.time)
  match s.receiver ctx with
  | some r => s1.post (homeOrigin home) (hwMsg r.1 59 (s.core r.2).u.hgen (homeSrc home) 4 4 pay 0 ctx)
  | none => s1.post (homeOrigin home) (hwMsg 0xFFF 59 0 (homeSrc home) 4 4 pay 0 ctx)

/-! ## Context faults (R318) -/

/-- The context enters FAULTED: FCAUSE is written, its cores are asked to stop, the host is told. -/
def State.faultNow (s : State) (x code cause core : Nat) : State :=
  match s.ctx? x with
  | none => s
  | some k =>
    if k.st = .runnable ∨ k.st = .running ∨ k.st = .preempting ∨ k.st = .saved then
      let w : Word := BitVec.ofNat 64 (code + cause * 2 ^ 8 + core * 2 ^ 16)
      let s1 := (s.setCtx x { k with st := .faulted, fcause := w }).putMem (k.desc * 4096 + 0x58) 8 w.toNat 0
      { s1 with
        toHost := s1.toHost ++ [.contextEvent x]
        cores := s1.cores.map fun p => (p.1, match p.2.group with
          | some g => if g.ctx = x ∧ p.2.preempt = .none then { p.2 with preempt := .requested, wake := true } else p.2
          | none => p.2) }
    else s

/-- The size and base that a timestamp report names: those of the region, or the line (R311). -/
def State.blockOf (s : State) (home pa : Nat) : Nat × Nat := match s.region? home pa with
  | some r => (r.base, r.size)
  | none => (pa / 64 * 64, 64)

/-- The context of a physical address: that of its region. -/
def State.regionCtx (s : State) (home pa : Nat) : Nat := match s.region? home pa with
  | some r => r.ctx
  | none => 0

/-! ## Copies that come home (R301) -/

/-- A copy whose timestamps have reached the limit comes home: nothing is written, the home reports it, and the context of the region
becomes FAULTED (R292). -/
def State.copyFault (s : State) (home line agent : Nat) : State :=
  let b := s.blockOf home (line * 64)
  let x := s.regionCtx home (line * 64)
  (s.leaseLog home b.1 b.2 x agent 0x13).faultNow x 3 0 0

/-- The agent that the region of a line names as its owner; that of the home where it names none. -/
def State.ownerAgent (s : State) (home line : Nat) : Nat := match (s.region? home (line * 64)).bind RegionEntry.owner with
  | some o => o.1
  | none => agentFor s home none

/-- Writes a line into home storage with the rule WBACK; data older than home storage holds is dropped (R301), and a copy whose
timestamps have reached the limit is not written (R292). -/
def State.writeBack (s : State) (home line : Nat) (data : Line) (ow or : Nat) : State :=
  if tsLimit ≤ max ow or then s.copyFault home line (s.ownerAgent home line) else
  let t := s.lineTs home line
  let s1 := if t.1 ≤ ow then { s with mem := putBytes s.mem (line * 64) 64 data.toNat } else s
  s1.setTs home line (max t.1 ow) (max t.2 or)

/-- The lines of a region that a core holds. -/
def heldIn (k : Core) (home base size : Nat) : List (Nat × L1Line) :=
  k.l1.filter fun p => p.2.home == home && base ≤ p.1 * 64 && p.1 * 64 < base + size

/-- Writes back every exclusive line of a list. -/
def State.writeBacks (s : State) (home : Nat) : List (Nat × L1Line) → State
  | [] => s
  | (line, l) :: r => if l.excl then State.writeBacks (s.writeBack home line l.data l.wts l.rts) home r
    else State.writeBacks s home r

/-- Removes every copy of the lines of a region from every L1 and remote-data cache. -/
def State.dropCopies (s : State) (home base size : Nat) : State :=
  let keep := fun (p : Nat × L1Line) => !(p.2.home == home && base ≤ p.1 * 64 && p.1 * 64 < base + size)
  { s with
    cores := s.cores.map fun p => if p.2.l1.all keep then p else (p.1, { p.2 with l1 := p.2.l1.filter keep })
    dies := s.dies.map fun d => { d with rdc := d.rdc.filter keep } }

/-- An address lies in a region of a home. -/
def RegionEntry.covers (r : RegionEntry) (home pa : Nat) : Bool := r.home == home && r.base ≤ pa && pa < r.base + r.size

/-- The request without the copy that it carries. -/
def Req.emptied (q : Req) : Req := match q.kind with
  | .rack _ k e => { q with kind := .rack [] k e }
  | _ => q

/-- Writes the copies of a list of lines back. -/
def State.takeBack (s : State) (home : Nat) : List (Nat × Line × Nat × Nat) → State
  | [] => s
  | (line, c) :: rest => State.takeBack (s.writeBack home line c.1 c.2.1 c.2.2) home rest

/-- Takes the copies that a list of answers carries for lines of a region into home storage. -/
def State.absorb (s : State) (r : RegionEntry) : List Req → State
  | [] => s
  | q :: rest => State.absorb (if r.covers q.home q.pa then s.takeBack r.home q.copies else s) r rest

/-- Every copy of a region's lines on its way home arrives. -/
def State.absorbRegion (s : State) (r : RegionEntry) : State :=
  let s1 := s.absorb r s.reqs
  { s1 with reqs := s1.reqs.map fun q => if r.covers q.home q.pa then q.emptied else q }

/-- The exclusive grants of a region's lines that have not arrived are taken back, and their requests wait again. -/
def State.ungrant (s : State) (r : RegionEntry) : State :=
  let out := fun (m : Rep) => m.code == 2 && r.covers m.home m.pa
  { s with
    reqs := s.reqs ++ (s.reps.filter out).filterMap Rep.req
    reps := s.reps.filter fun m => !out m }

/-! ## Recall and loss (R298, R307, R309) -/

/-- Discards every copy that an owner holds of a region, with what is on its way from and to it (R299 REVERT). -/
def State.revert (s : State) (r : RegionEntry) : State :=
  match r.owner with
  | none => s
  | some o =>
    let s1 := { s with reqs := s.reqs.map fun (q : Req) => if r.covers q.home q.pa then q.emptied else q }
    (s1.ungrant r).modCore o.2 fun k => { k with
      l1 := k.l1.filter fun p => !(p.2.home == r.home && r.base ≤ p.1 * 64 && p.1 * 64 < r.base + r.size) }

/-- The requester that waits for its answer. -/
def RegionEntry.waiting (r : RegionEntry) : Option Req := if r.waits then r.pending else none

/-- The region in state 0 with nobody in it. -/
def RegionEntry.emptied (r : RegionEntry) : RegionEntry :=
  { r with st := 0, sharers := [], owner := none, pending := none, waits := false, timer := none, recalled := false,
           epoch := r.epoch + 1 }

/-- The owner of a region is lost: what every LEXP or FENCED cell does (R303 rule 7), and the pending request goes on. -/
def State.loseRegion (s : State) (r : RegionEntry) (o : Nat × Nat) : State :=
  let s1 := (s.revert r).leaseLog r.home r.base r.size r.ctx o.1 (s.lossCode r.home o)
  { s1 with reqs := s1.reqs ++ r.waiting.toList }.setRegion r.emptied

/-- Brings a region to state 0: owners write back, every copy is dropped, a pending request waits again (R298 RECALL
carried to its end inside one step; log 7, DEDUCED). An owner that is lost writes nothing back. -/
def State.recallRegion (s : State) (r : RegionEntry) : State :=
  match r.owner.filter (s.ownerLost r.home) with
  | some o => s.loseRegion r o
  | none =>
    let held := s.cores.flatMap fun p => heldIn p.2 r.home r.base r.size
    let s1 := (((s.writeBacks r.home held).dropCopies r.home r.base r.size).absorbRegion r).ungrant r
    let told : List HostEvent := if r.sharers.contains 145 then [.backInvalidate r.base r.size] else []
    { s1 with reqs := s1.reqs ++ r.waiting.toList, toHost := s1.toHost ++ told }.setRegion r.emptied

/-- What the host holds of a region of device memory goes before the region is written or owned by another (R377; log 82, DEDUCED). -/
def State.backInvalidate (s : State) (r : RegionEntry) : State :=
  if r.sharers.contains 145 then
    { s.setRegion { r with sharers := r.sharers.erase 145 } with toHost := s.toHost ++ [.backInvalidate r.base r.size] }
  else s

/-- The host drops the copies that it may hold of a line. -/
def State.tellHost (s : State) (home pa : Nat) : State := match s.region? home pa with
  | some r => s.backInvalidate r
  | none => s

/-- The home of a line whose newest data, or the right to write it, is in a core or on its way. -/
def State.away (s : State) (line : Nat) : Option Nat :=
  match s.xHolder line with
  | some (_, l) => some l.home
  | none => match s.reqs.find? fun q => (q.copyOf line).isSome with
    | some q => some q.home
    | none => (s.reps.find? fun m => m.code == 2 && m.pa / 64 == line).map Rep.home

/-- Brings the line of an address home when a core holds it exclusive (log 7, DEDUCED). -/
def State.settle (s : State) (pa : Nat) : State :=
  match s.away (pa / 64) with
  | none => s
  | some h => match s.region? h pa with
    | some r => s.recallRegion r
    | none => s

/-- A context enters FAULTED; the line of FCAUSE comes home first (R318). -/
def State.faultCtx (s : State) (x code cause core : Nat) : State :=
  match s.ctx? x with
  | none => s
  | some k => (s.settle (k.desc * 4096 + 0x58)).faultNow x code cause core

/-! ## Host lines (R294) -/

/-- Removes a host line from the other die's caches; EVR of its region, or the floor, keeps its rts (R292). -/
def State.loseHost (s : State) (home line : Nat) : State :=
  match lookupK s.lines (lineKey home line) with
  | none => s
  | some t =>
    let s1 := s.dropCopies home (line * 64) 64
    let s2 := { s1 with lines := removeK s1.lines (lineKey home line) }
    match s2.region? home (line * 64) with
    | some r => s2.setRegion { r with evr := max r.evr t.2 }
    | none => { s2 with floors := insertK s2.floors home (max t.2 ((lookupK s2.floors home).getD 0)) }

/-- The host lines that a die's remote-data cache holds, by line. -/
def State.hostLinesOf (s : State) (home : Nat) : List Nat :=
  (s.lines.filter fun p => lineKey home 0 ≤ p.1 && decide (p.1 < lineKey home 0 + 2 ^ 52)).map fun p => p.1 - lineKey home 0

/-- Lines that a remote-data cache holds: 64 MiB, of the other die and of the host (R5, R294). -/
def rdcLines : Nat := 1048576

/-- Room for one more line in a die's remote-data cache: where there is none, a host line goes back to the host (R5; log 9, DESIGN
CHOICE). -/
def State.rdcRoom (s : State) (home : Nat) : State :=
  let h := s.hostLinesOf home
  if (s.die (home - 4096)).rdc.length + h.length < rdcLines then s
  else match h.head? with
    | some l => ((match s.region? home (l * 64) with
        | some r => s.recallRegion r
        | none => s)).loseHost home l
    | none => s

/-- A die's remote-data cache gains a host line: wts = rts = 1 + the larger rts of the two dies; a write takes the line
from the other die (R294). A timestamp at the limit is not set, and the access that follows meets it (R292). -/
def State.gain (s : State) (home line : Nat) (write : Bool) : State :=
  if home < 4096 then s
  else
    let other := if home = 4096 then 4097 else 4096
    let theirs := (lookupK s.lines (lineKey other line)).isSome
    if (lookupK s.lines (lineKey home line)).isSome && !(write && theirs) then s
    else
      let t := 1 + max (s.lineTs home line).2 (s.lineTs other line).2
      if tsLimit ≤ t then s else
      ((if write then s.loseHost other line else s).rdcRoom home).setTs home line t t

/-- A home that would set a timestamp at or above 2^63 reports it and the context of the access becomes FAULTED (R292). -/
def State.tsFault (s : State) (home pa ctx agent : Nat) : State :=
  let r := s.blockOf home pa
  (s.leaseLog home r.1 r.2 ctx agent 0x13).faultCtx ctx 3 0 0

/-! ## Accesses performed at the home (log 7, DEDUCED) -/

/-- The timestamps with which a home line would stand for an access: its own, or what its gain by a remote-data cache gives. -/
def State.tsAt (s : State) (home line : Nat) : Nat × Nat :=
  if 4096 ≤ home ∧ (lookupK s.lines (lineKey home line)).isNone then
    let t := 1 + max (s.lineTs home line).2 (s.lineTs (if home = 4096 then 4097 else 4096) line).2
    (t, t)
  else s.lineTs home line

/-- The timestamp of a read at the home: τ := max(p, wts), and the line's lease reaches τ (R301); none is set at the limit
(R292). -/
def State.homeRead (s : State) (home pa p : Nat) (who : Option Nat := none) (ctx : Option Nat := none) : Nat × State :=
  let s1 := (s.settle pa).gain home (pa / 64) false
  let t := s1.tsAt home (pa / 64)
  let tau := max p t.1
  if tsLimit ≤ max t.2 tau then (p, s1.tsFault home pa (ctx.getD (s1.regionCtx home pa)) (agentFor s1 home who))
  else (tau, s1.setTs home (pa / 64) t.1 (max t.2 tau))

/-- A write at the home: EXCL gives its timestamp; watches are compared (R301, R199). -/
def State.homeWrite (s : State) (home pa n v p ctx : Nat) (who : Option Nat := none) : Nat × State :=
  let s1 := (s.settle pa).gain home (pa / 64) true
  let t := s1.tsAt home (pa / 64)
  let tau := max p (t.2 + 1)
  if tsLimit ≤ tau then (p, s1.tsFault home pa ctx (agentFor s1 home who))
  else
    let s2 := { s1 with mem := putBytes s1.mem pa n v }
    (tau, ((s2.setTs home (pa / 64) tau tau).tellHost home pa).fireWatches pa n tau)

/-- A little-endian number from bytes. -/
def bytesNat : List Byte → Nat
  | [] => 0
  | b :: r => b.toNat + 256 * bytesNat r

/-- Writes bytes at physical addresses, at the home, in pieces that end at multiples of 8 (R269), and gives the last timestamp;
fuel bounds the pieces. -/
def State.homeWrites (s : State) (home pa p ctx : Nat) : Nat → List Byte → Nat × State
  | 0, _ => (p, s)
  | _, [] => (p, s)
  | fuel + 1, l =>
    let n := min (8 - pa % 8) l.length
    let r := s.homeWrite home pa n (bytesNat (l.take n)) p ctx
    State.homeWrites r.2 home (pa + n) r.1 ctx fuel (l.drop n)

end Sys2Proof.Machine
end

