-- ==== Sys2Proof/Machine/Sha.lean ====
section
/-! DEFINITION. Machine/Sha.lean: SHA-384, and ECDSA over the Brainpool 384-bit random-parameter curve of
RFC 5639 (20, R380, R383; 16, R326, R328). -/
namespace Sys2Proof.Machine

/-! ## SHA-384 -/

/-- Round constants 0 to 19. -/
def shaK0 : List Nat :=
  [0x428A2F98D728AE22, 0x7137449123EF65CD, 0xB5C0FBCFEC4D3B2F, 0xE9B5DBA58189DBBC,
   0x3956C25BF348B538, 0x59F111F1B605D019, 0x923F82A4AF194F9B, 0xAB1C5ED5DA6D8118,
   0xD807AA98A3030242, 0x12835B0145706FBE, 0x243185BE4EE4B28C, 0x550C7DC3D5FFB4E2,
   0x72BE5D74F27B896F, 0x80DEB1FE3B1696B1, 0x9BDC06A725C71235, 0xC19BF174CF692694,
   0xE49B69C19EF14AD2, 0xEFBE4786384F25E3, 0xFC19DC68B8CD5B5, 0x240CA1CC77AC9C65]
/-- Round constants 20 to 39. -/
def shaK1 : List Nat :=
  [0x2DE92C6F592B0275, 0x4A7484AA6EA6E483, 0x5CB0A9DCBD41FBD4, 0x76F988DA831153B5,
   0x983E5152EE66DFAB, 0xA831C66D2DB43210, 0xB00327C898FB213F, 0xBF597FC7BEEF0EE4,
   0xC6E00BF33DA88FC2, 0xD5A79147930AA725, 0x6CA6351E003826F, 0x142929670A0E6E70,
   0x27B70A8546D22FFC, 0x2E1B21385C26C926, 0x4D2C6DFC5AC42AED, 0x53380D139D95B3DF,
   0x650A73548BAF63DE, 0x766A0ABB3C77B2A8, 0x81C2C92E47EDAEE6, 0x92722C851482353B]
/-- Round constants 40 to 59. -/
def shaK2 : List Nat :=
  [0xA2BFE8A14CF10364, 0xA81A664BBC423001, 0xC24B8B70D0F89791, 0xC76C51A30654BE30,
   0xD192E819D6EF5218, 0xD69906245565A910, 0xF40E35855771202A, 0x106AA07032BBD1B8,
   0x19A4C116B8D2D0C8, 0x1E376C085141AB53, 0x2748774CDF8EEB99, 0x34B0BCB5E19B48A8,
   0x391C0CB3C5C95A63, 0x4ED8AA4AE3418ACB, 0x5B9CCA4F7763E373, 0x682E6FF3D6B2B8A3,
   0x748F82EE5DEFB2FC, 0x78A5636F43172F60, 0x84C87814A1F0AB72, 0x8CC702081A6439EC]
/-- Round constants 60 to 79. -/
def shaK3 : List Nat :=
  [0x90BEFFFA23631E28, 0xA4506CEBDE82BDE9, 0xBEF9A3F7B2C67915, 0xC67178F2E372532B,
   0xCA273ECEEA26619C, 0xD186B8C721C0C207, 0xEADA7DD6CDE0EB1E, 0xF57D4F7FEE6ED178,
   0x6F067AA72176FBA, 0xA637DC5A2C898A6, 0x113F9804BEF90DAE, 0x1B710B35131C471B,
   0x28DB77F523047D84, 0x32CAAB7B40C72493, 0x3C9EBE0A15C9BEBC, 0x431D67C49C100D4C,
   0x4CC5D4BECB3E42B6, 0x597F299CFC657E2A, 0x5FCB6FAB3AD6FAEC, 0x6C44198C4A475817]
/-- The round constants. -/
def shaK : List Nat := shaK0 ++ shaK1 ++ shaK2 ++ shaK3

/-- The initial hash of SHA-384. -/
def shaH0 : List Nat :=
  [0xCBBB9D5DC1059ED8, 0x629A292A367CD507, 0x9159015A3070DD17, 0x152FECD8F70E5939,
   0x67332667FFC00B31, 0x8EB44A8768581511, 0xDB0C2E0D64F98FA7, 0x47B5481DBEFA4FA4]

/-- Addition modulo 2^64. -/
def addW (a b : Nat) : Nat := (a + b) % 2 ^ 64
/-- Rotation right of 64 bits. -/
def rotW (a n : Nat) : Nat := a / 2 ^ n + a % 2 ^ n * 2 ^ (64 - n)
/-- Complement of 64 bits. -/
def notW (a : Nat) : Nat := 2 ^ 64 - 1 - a

/-- The next word of the message schedule, from the last sixteen (most recent first). -/
def shaNext (l : List Nat) : Nat :=
  let w := fun i => l[i - 1]?.getD 0
  let s0 := Nat.xor (Nat.xor (rotW (w 15) 1) (rotW (w 15) 8)) (w 15 / 2 ^ 7)
  let s1 := Nat.xor (Nat.xor (rotW (w 2) 19) (rotW (w 2) 61)) (w 2 / 2 ^ 6)
  addW (addW (w 16) s0) (addW (w 7) s1)

/-- The message schedule: 64 more words, most recent first. -/
def shaGrow : Nat → List Nat → List Nat
  | 0, l => l
  | n + 1, l => shaGrow n (shaNext l :: l)

/-- One round. -/
def shaRound (h : List Nat) (k w : Nat) : List Nat :=
  match h with
  | [a, b, c, d, e, f, g, hh] =>
    let s1 := Nat.xor (Nat.xor (rotW e 14) (rotW e 18)) (rotW e 41)
    let ch := Nat.xor (Nat.land e f) (Nat.land (notW e) g)
    let t1 := addW (addW (addW hh s1) (addW ch k)) w
    let s0 := Nat.xor (Nat.xor (rotW a 28) (rotW a 34)) (rotW a 39)
    let mj := Nat.xor (Nat.xor (Nat.land a b) (Nat.land a c)) (Nat.land b c)
    [addW t1 (addW s0 mj), a, b, c, addW d t1, e, f, g]
  | _ => h

/-- The rounds of a block. -/
def shaRounds : List Nat → List Nat → List Nat → List Nat
  | h, k :: ks, w :: ws => shaRounds (shaRound h k w) ks ws
  | h, _, _ => h

/-- A big-endian number from bytes. -/
def beNat (l : List Byte) : Nat := l.foldl (fun a b => a * 256 + b.toNat) 0

/-- The n bytes of a number, big-endian. -/
def beBytes (n v : Nat) : List Byte := (leBytes n v).reverse

/-- The sixteen words of a block of 128 bytes. -/
def shaWords (b : List Byte) : List Nat := (List.range 16).map fun i => beNat ((b.drop (8 * i)).take 8)

/-- Adds two hash states. -/
def shaAdd (h g : List Nat) : List Nat := List.zipWith addW h g

/-- The blocks of a padded message, n of them. -/
def shaBlocks : Nat → List Byte → List Nat → List Nat
  | 0, _, h => h
  | n + 1, m, h => shaBlocks n (m.drop 128) (shaAdd h (shaRounds h shaK (shaGrow 64 (shaWords (m.take 128)).reverse).reverse))

/-- The padded message. -/
def shaPad (m : List Byte) : List Byte :=
  let n := m.length
  let z := (128 - (n + 17) % 128) % 128
  m ++ (0x80 : Byte) :: (List.replicate z 0 ++ beBytes 16 (8 * n))

/-- SHA-384 of bytes, as a number of 384 bits in the digest's byte order. -/
def sha384 (m : List Byte) : Nat :=
  let p := shaPad m
  ((shaBlocks (p.length / 128) p shaH0).take 6).foldl (fun a w => a * 2 ^ 64 + w) 0

/-- The 48 bytes of a digest. -/
def digestBytes (d : Nat) : List Byte := beBytes 48 d

/-! ## The curve (RFC 5639, brainpoolP384r1) -/

/-- The field. -/
def curveP : Nat := 0x8CB91E82A3386D280F5D6F7E50E641DF152F7109ED5456B412B1DA197FB71123ACD3A729901D1A71874700133107EC53
/-- Coefficient A. -/
def curveA : Nat := 0x7BC382C63D8C150C3C72080ACE05AFA0C2BEA28E4FB22787139165EFBA91F90F8AA5814A503AD4EB04A8C7DD22CE2826
/-- Coefficient B. -/
def curveB : Nat := 0x04A8C7DD22CE28268B39B55416F0447C2FB77DE107DCD2A62E880EA53EEB62D57CB4390295DBC9943AB78696FA504C11
/-- The base point. -/
def curveGx : Nat := 0x1D1C64F068CF45FFA2A63A81B7C13F6B8847A3E77EF14FE3DB7FCAFE0CBD10E8E826E03436D646AAEF87B2E247D4AF1E
/-- The base point. -/
def curveGy : Nat := 0x8ABE1D7520F9C2A45CB1EB8E95CFD55262B70B29FEEC5864E19C054FF99129280E4646217791811142820341263C5315
/-- Its order. -/
def curveN : Nat := 0x8CB91E82A3386D280F5D6F7E50E641DF152F7109ED5456B31F166E6CAC0425A7CF3AB6AF6B7FC3103B883202E9046565

/-- A point, or none for the point at infinity. -/
abbrev Point := Option (Nat × Nat)

/-- b^e modulo m, by the bits of e from the lowest (fuel is their number). -/
def powMod (m : Nat) : Nat → Nat → Nat → Nat
  | 0, _, _ => 1
  | n + 1, b, e => (if e % 2 = 1 then b else 1) * powMod m n (b * b % m) (e / 2) % m

/-- The inverse modulo a prime. -/
def invMod (a m : Nat) : Nat := powMod m 384 (a % m) (m - 2)

/-- The sum of two points. -/
def pointAdd (p q : Point) : Point :=
  match p, q with
  | none, _ => q
  | _, none => p
  | some (x1, y1), some (x2, y2) =>
    if x1 = x2 ∧ (y1 + y2) % curveP = 0 then none
    else
      let l := if x1 = x2 then (3 * x1 * x1 + curveA) * invMod (2 * y1) curveP % curveP
        else (y2 + curveP - y1) * invMod (x2 + curveP - x1) curveP % curveP
      let x3 := (l * l + 2 * curveP - x1 - x2) % curveP
      some (x3, (l * (x1 + curveP - x3) + curveP - y1) % curveP)

/-- k times a point, by the bits of k (fuel is their number). -/
def pointMul : Nat → Nat → Point → Point
  | 0, _, _ => none
  | n + 1, k, p => pointAdd (if k % 2 = 1 then p else none) (pointMul n (k / 2) (pointAdd p p))

/-- A point lies on the curve. -/
def onCurve (x y : Nat) : Bool := x < curveP && y < curveP && y * y % curveP == (x * x * x + curveA * x + curveB) % curveP

/-- The base point. -/
def basePoint : Point := some (curveGx, curveGy)

/-- ECDSA with SHA-384: key as 97 bytes, an uncompressed point; signature r then s, 48 bytes each, big-endian. -/
def ecdsaVerify (key msg sig : List Byte) : Bool :=
  let x := beNat ((key.drop 1).take 48)
  let y := beNat ((key.drop 49).take 48)
  let r := beNat (sig.take 48)
  let s := beNat ((sig.drop 48).take 48)
  if key.length = 97 ∧ key.head? = some 4 ∧ onCurve x y ∧ 0 < r ∧ r < curveN ∧ 0 < s ∧ s < curveN then
    let w := invMod s curveN
    let z := sha384 msg
    match pointAdd (pointMul 384 (z * w % curveN) basePoint) (pointMul 384 (r * w % curveN) (some (x, y))) with
    | some (v, _) => v % curveN == r
    | none => false
  else false

/-- A number from 1 to the order of the base point less 1. -/
def scalarOf (n : Nat) : Nat := 1 + n % (curveN - 1)

/-- The device attestation public key as 97 bytes, from MEAS1 (R381). -/
def deviceKey (m1 : BitVec 384) : List Byte :=
  match pointMul 384 (scalarOf (Config.attestSecret m1)) basePoint with
  | some (x, y) => 4 :: (beBytes 48 x ++ beBytes 48 y)
  | none => []

/-- The device's n-th signature, over a message (R321, R326). -/
def deviceSign (m1 : BitVec 384) (n : Nat) (msg : List Byte) : List Byte :=
  let k := scalarOf (Config.signNonce n)
  let r := match pointMul 384 k basePoint with
    | some (x, _) => x % curveN
    | none => 0
  let s := invMod k curveN * (sha384 msg + r * scalarOf (Config.attestSecret m1)) % curveN
  beBytes 48 r ++ beBytes 48 s

end Sys2Proof.Machine
end

