-- ==== Sys2Proof/Machine/Cel.lean ====
section
/-! DEFINITION. Machine/Cel.lean: the corrected-error log (20_platform.md, R383). -/
namespace Sys2Proof.Machine

/-- The 64 bytes of an entry. -/
def celEntry (ix time kind unit loc detail : Nat) (prev : List Byte) : List Byte :=
  leBytes 8 ix ++ leBytes 8 time ++ leBytes 8 (kind % 256 + unit % 65536 * 256) ++ leBytes 8 loc ++ leBytes 8 detail
    ++ leBytes 8 0 ++ (if ix = 0 then List.replicate 16 0 else (digestBytes (sha384 prev)).take 16)

/-- Writes an entry; a full log counts LOST and interrupts the host. -/
def State.celWrite (s : State) (e : CelDue) : State :=
  let p := s.plat
  if p.celptr = p.celcap then
    { s with plat := { p with cellost := p.cellost + 1 }, toHost := s.toHost ++ [.platform] }
  else
    let a := p.celbase.toNat + 64 * p.celptr.toNat
    let s1 := s.settle a
    let b := celEntry p.celptr.toNat e.time e.kind e.unit e.loc e.detail (cellGets s1.mem (a - 64) 64)
    { s1.putList a b 0 with plat := { p with celptr := p.celptr + 1 } }

/-- Entries of one cycle in ascending order of their unit numbers; those of one unit in the order in which they came. -/
def celSorted (e : CelDue) : List CelDue → List CelDue
  | [] => [e]
  | x :: r => if e.unit < x.unit then e :: x :: r else x :: celSorted e r

/-- Appends an entry, which is written at the end of its cycle. -/
def State.celAppend (s : State) (kind unit loc detail : Nat) : State :=
  { s with plat := { s.plat with celDue := celSorted ⟨s.time, kind, unit, loc, detail⟩ s.plat.celDue } }

/-- Writes a list of entries. -/
def State.celWrites (s : State) : List CelDue → State
  | [] => s
  | e :: r => State.celWrites (s.celWrite e) r

/-- The cycle ends: what was appended in it is written. -/
def State.celFlush (s : State) : State := match s.plat.celDue with
  | [] => s
  | l => { s with plat := { s.plat with celDue := [] } }.celWrites l

end Sys2Proof.Machine
end

