-- ==== Sys2Proof/Machine/Flags.lean ====
section
/-! DEFINITION. Machine/Flags.lean: floating formats, exact values, the one rounding of R75 to R77 and the flags it
raises, conversions, and the saturations that set ACCFLAGS.OVF. -/
namespace Sys2Proof.Machine

/-! ## Flags (R37) -/

/-- Floating flags NV, DZ, OF, UF, NX in bits 4 to 0. -/
abbrev FFlags := BitVec 5
/-- NX. -/
def fNX : FFlags := 1
/-- UF. -/
def fUF : FFlags := 2
/-- OF. -/
def fOF : FFlags := 4
/-- DZ. -/
def fDZ : FFlags := 8
/-- NV. -/
def fNV : FFlags := 16
/-- A flag when the condition holds. -/
def flagIf (c : Bool) (f : FFlags) : FFlags := if c then f else 0

/-- The modes an instruction samples at issue (R79): RM, FTZ, DAZ, SATF8. -/
structure Modes where
  rm  : Nat
  ftz : Bool
  daz : Bool
  sat : Bool
  deriving DecidableEq, Repr

/-- RNE without FTZ and DAZ. -/
def modesRNE : Modes := { rm := 0, ftz := false, daz := false, sat := true }

/-! ## Formats (R70, R71) -/

/-- Exponent and fraction widths of a format; E4M3 has no infinities. -/
structure Fmt where
  ebits : Nat
  fbits : Nat
  e4m3  : Bool
  deriving DecidableEq, Repr

/-- The format of a floating type code; integer types have none and give FP64. -/
def fmtOf : Ty → Fmt
  | .f32 => ⟨8, 23, false⟩
  | .f16 => ⟨5, 10, false⟩
  | .bf16 => ⟨8, 7, false⟩
  | .e4m3 => ⟨4, 3, true⟩
  | .e5m2 => ⟨5, 2, false⟩
  | _ => ⟨11, 52, false⟩

/-- Width of a type in bits (R62, R123). -/
def tyBits : Ty → Nat
  | .f64 | .i64 | .u64 => 64
  | .f32 | .i32 | .u32 => 32
  | .f16 | .bf16 | .i16 | .u16 => 16
  | .i8 | .u8 | .e4m3 | .e5m2 => 8

/-- The bias. -/
def Fmt.bias (f : Fmt) : Nat := 2 ^ (f.ebits - 1) - 1
/-- Width of the format. -/
def Fmt.bits (f : Fmt) : Nat := 1 + f.ebits + f.fbits
/-- Exponent of the smallest normal. -/
def Fmt.emin (f : Fmt) : Int := 1 - (f.bias : Int)
/-- The exponent of the last fraction bit of a subnormal. -/
def Fmt.qmin (f : Fmt) : Int := f.emin - (f.fbits : Int)
/-- The canonical NaN (R70). -/
def Fmt.nan (f : Fmt) : Nat := if f.e4m3 then 0x7F else (2 ^ f.ebits - 1) * 2 ^ f.fbits + 2 ^ (f.fbits - 1)
/-- The sign bit. -/
def Fmt.sign (f : Fmt) (neg : Bool) : Nat := if neg then 2 ^ (f.ebits + f.fbits) else 0
/-- Infinity; E4M3 has none and gives NaN. -/
def Fmt.inf (f : Fmt) (neg : Bool) : Nat := if f.e4m3 then 0x7F else f.sign neg + (2 ^ f.ebits - 1) * 2 ^ f.fbits
/-- Magnitude bits of the largest finite value. -/
def Fmt.maxBits (f : Fmt) : Nat := if f.e4m3 then 0x7E else (2 ^ f.ebits - 1) * 2 ^ f.fbits - 1

/-- A decoded operand: NaN (signalling or quiet), infinity, or (-1)^neg * m * 2^e. -/
inductive Val where
  | nan (sig : Bool)
  | inf (neg : Bool)
  | fin (neg : Bool) (m : Nat) (e : Int)
  deriving DecidableEq, Repr

/-- The value of a bit pattern (R70, R71). -/
def Fmt.val (f : Fmt) (b : Nat) : Val :=
  let frac := bitsOf b 0 f.fbits
  let ex := bitsOf b f.fbits f.ebits
  let neg := bitsOf b (f.ebits + f.fbits) 1 == 1
  if f.e4m3 && ex == 15 && frac == 7 then .nan false
  else if !f.e4m3 && ex == 2 ^ f.ebits - 1 then
    (if frac = 0 then .inf neg else .nan (frac < 2 ^ (f.fbits - 1)))
  else if ex = 0 then .fin neg frac f.qmin
  else .fin neg (2 ^ f.fbits + frac) (f.qmin + (ex : Int) - 1)

/-- A subnormal bit pattern. -/
def Fmt.isSub (f : Fmt) (b : Nat) : Bool := bitsOf b f.fbits f.ebits == 0 && bitsOf b 0 f.fbits != 0

/-- The bit pattern as DAZ reads it (R76). -/
def Fmt.dazBits (f : Fmt) (daz : Bool) (b : Nat) : Nat :=
  if daz && f.isSub b then b / 2 ^ (f.ebits + f.fbits) * 2 ^ (f.ebits + f.fbits) else b

/-- An operand as DAZ has read it. -/
def Fmt.operand (f : Fmt) (md : Modes) (b : Nat) : Val := f.val (f.dazBits md.daz (bitsOf b 0 f.bits))

/-- Signalling NaN. -/
def Val.isSig : Val → Bool
  | .nan s => s
  | _ => false
/-- NaN. -/
def Val.isNan : Val → Bool
  | .nan _ => true
  | _ => false

/-! ## Rounding -/

/-- num / den rounded to an integer in a mode, for a value of the given sign (R75), and whether it was inexact. -/
def roundDiv (rm : Nat) (neg : Bool) (num den : Nat) : Nat × Bool :=
  let q := num / den
  let r := num % den
  if r = 0 then (q, false)
  else
    let up : Bool := match rm with
      | 0 => if 2 * r = den then q % 2 == 1 else decide (den < 2 * r)
      | 1 => false
      | 2 => !neg
      | _ => neg
    (if up then q + 1 else q, true)

/-- num / den * 2^e rounded to a multiple of 2^q, as a count of 2^q. -/
def roundTo (rm : Nat) (neg : Bool) (num den : Nat) (e q : Int) : Nat × Bool :=
  let sh := e - q
  if 0 ≤ sh then roundDiv rm neg (num * 2 ^ sh.toNat) den else roundDiv rm neg num (den * 2 ^ (-sh).toNat)

/-- floor(log2(num / den)) for positive numbers. -/
def ratLog (num den : Nat) : Int :=
  let k : Int := (Nat.log2 num : Int) - (Nat.log2 den : Int)
  let below := if 0 ≤ k then num < den * 2 ^ k.toNat else num * 2 ^ (-k).toNat < den
  if below then k - 1 else k

/-- An exact result before its one rounding. -/
inductive Exact where
  | nan
  | inf (neg : Bool)
  | zero (neg : Bool)
  /-- (-1)^neg * num / den * 2^e, not zero. -/
  | num (neg : Bool) (n d : Nat) (e : Int)
  deriving DecidableEq, Repr

/-- A rounded magnitude: its bits, whether it overflowed, was inexact, or was tiny after rounding (R75, R76). -/
structure Rounded where
  bits : Nat
  ovf : Bool
  inex : Bool
  tiny : Bool
  deriving DecidableEq, Repr

/-- Rounds a positive exact value on the grid of a format, with the exponent range unbounded above (R77). -/
def Fmt.roundMag (f : Fmt) (rm : Nat) (neg : Bool) (num den : Nat) (e : Int) : Rounded :=
  let lg := ratLog num den + e
  let p : Int := f.fbits
  let free := (roundTo rm neg num den e (lg - p)).1
  let lgR := if free = 2 ^ (f.fbits + 1) then lg + 1 else lg
  let q := max (lg - p) f.qmin
  let r := roundTo rm neg num den e q
  let bits := if q = f.qmin then r.1 else ((q - f.qmin).toNat + 1) * 2 ^ f.fbits + (r.1 - 2 ^ f.fbits)
  { bits := bits, ovf := f.maxBits < bits, inex := r.2, tiny := lgR < f.emin }

/-- What overflow gives in a mode (R75): infinity, or the largest finite value. -/
def overflowsToInf (rm : Nat) (neg : Bool) : Bool :=
  match rm with
  | 0 => true
  | 1 => false
  | 2 => !neg
  | _ => neg

/-- One rounding to a format other than the FP8 formats, with the flags of R75 and R76. -/
def Fmt.round (f : Fmt) (md : Modes) : Exact → Nat × FFlags
  | .nan => (f.nan, 0)
  | .inf neg => (f.inf neg, 0)
  | .zero neg => (f.sign neg, 0)
  | .num neg n d e =>
    let r := f.roundMag md.rm neg n d e
    if md.ftz && r.tiny then (f.sign neg, fUF ||| fNX)
    else if r.ovf then (if overflowsToInf md.rm neg then f.inf neg else f.sign neg + f.maxBits, fOF ||| fNX)
    else (f.sign neg + r.bits, flagIf r.inex fNX ||| flagIf (r.inex && r.tiny) fUF)

/-- The conversion of R77 to E4M3 or E5M2. -/
def Fmt.round8 (f : Fmt) (md : Modes) : Exact → Nat × FFlags
  | .nan => (f.nan, 0)
  | .inf neg =>
    if !f.e4m3 then (f.inf neg, 0)
    else if md.sat then (f.sign neg + f.maxBits, fOF ||| fNX)
    else (f.nan, fNV)
  | .zero neg => (f.sign neg, 0)
  | .num neg n d e =>
    let r := f.roundMag md.rm neg n d e
    if r.ovf then
      (if overflowsToInf md.rm neg then (if md.sat then f.sign neg + f.maxBits else f.inf neg) else f.sign neg + f.maxBits,
        fOF ||| fNX)
    else (f.sign neg + r.bits, flagIf r.inex fNX ||| flagIf (r.inex && r.tiny) fUF)

/-- Rounding to any floating type: FP8 by R77 without FTZ, the others by R75. -/
def roundTy (t : Ty) (md : Modes) (x : Exact) : Nat × FFlags :=
  if t = .e4m3 ∨ t = .e5m2 then (fmtOf t).round8 md x else (fmtOf t).round md x

/-! ## Exact values -/

/-- The exact value of an integer multiple of 2^e; an exact zero takes the given sign. -/
def exactInt (v : Int) (e : Int) (zneg : Bool) : Exact :=
  if v = 0 then .zero zneg else .num (v < 0) v.natAbs 1 e

/-- A finite operand as a signed integer at exponent e. -/
def signedAt (neg : Bool) (m : Nat) (em e : Int) : Int :=
  let v : Int := (m * 2 ^ (em - e).toNat : Nat)
  if neg then -v else v

/-- The exact value of an operand. -/
def Val.exact : Val → Exact
  | .nan _ => .nan
  | .inf n => .inf n
  | .fin n m e => if m = 0 then .zero n else .num n m 1 e

/-- The opposite of an operand. -/
def Val.neg : Val → Val
  | .nan s => .nan s
  | .inf n => .inf (!n)
  | .fin n m e => .fin (!n) m e

/-- NV of signalling operands (R72). -/
def sigNV (l : List Val) : FFlags := flagIf (l.any Val.isSig) fNV

/-- p + q (R127); rm decides the sign of an exact zero. -/
def exactAdd (rm : Nat) (p q : Val) : Exact × FFlags :=
  match p, q with
  | .nan _, _ => (.nan, 0)
  | _, .nan _ => (.nan, 0)
  | .inf a, .inf b => if a = b then (.inf a, 0) else (.nan, fNV)
  | .inf a, .fin .. => (.inf a, 0)
  | .fin .., .inf b => (.inf b, 0)
  | .fin a m e, .fin b n g =>
    let lo := min e g
    let v := signedAt a m e lo + signedAt b n g lo
    let zneg := if m = 0 ∧ n = 0 ∧ a = b then a else decide (rm = 3)
    (exactInt v lo zneg, 0)

/-- p * q (R127). -/
def exactMul (p q : Val) : Exact × FFlags :=
  match p, q with
  | .nan _, _ => (.nan, 0)
  | _, .nan _ => (.nan, 0)
  | .inf a, .inf b => (.inf (a != b), 0)
  | .inf a, .fin b n _ => if n = 0 then (.nan, fNV) else (.inf (a != b), 0)
  | .fin a m _, .inf b => if m = 0 then (.nan, fNV) else (.inf (a != b), 0)
  | .fin a m e, .fin b n g => if m * n = 0 then (.zero (a != b), 0) else (.num (a != b) (m * n) 1 (e + g), 0)

/-- p / q (R127). -/
def exactDiv (p q : Val) : Exact × FFlags :=
  match p, q with
  | .nan _, _ => (.nan, 0)
  | _, .nan _ => (.nan, 0)
  | .inf _, .inf _ => (.nan, fNV)
  | .inf a, .fin b _ _ => (.inf (a != b), 0)
  | .fin a _ _, .inf b => (.zero (a != b), 0)
  | .fin a m e, .fin b n g =>
    if m = 0 ∧ n = 0 then (.nan, fNV)
    else if n = 0 then (.inf (a != b), fDZ)
    else if m = 0 then (.zero (a != b), 0)
    else (.num (a != b) m n (e - g), 0)

/-- The floor of the square root, by bits from the top (fuel is the number of bits). -/
def isqrtLoop (n : Nat) : Nat → Nat → Nat
  | 0, r => r
  | k + 1, r => let c := r + 2 ^ k; isqrtLoop n k (if c * c ≤ n then c else r)

/-- The floor of the square root. -/
def isqrt (n : Nat) : Nat := isqrtLoop n (Nat.log2 n / 2 + 1) 0

/-- The square root of num / den * 2^e, as a number with enough bits and a sticky bit below them. -/
def exactRoot (num den : Nat) (e : Int) : Exact :=
  let e' := if e % 2 = 0 then e else e - 1
  let n' := if e % 2 = 0 then num else 2 * num
  let t := n' * 2 ^ (256 + 2 * Nat.log2 den) / den
  let ex := n' * 2 ^ (256 + 2 * Nat.log2 den) % den = 0
  let r := isqrt t
  let half : Int := (128 + Nat.log2 den : Nat)
  if r * r = t ∧ ex then .num false r 1 (e' / 2 - half) else .num false (2 * r + 1) 1 (e' / 2 - half - 1)

/-- The square root (R127). -/
def exactSqrt (p : Val) : Exact × FFlags :=
  match p with
  | .nan _ => (.nan, 0)
  | .inf a => if a then (.nan, fNV) else (.inf false, 0)
  | .fin a m e => if m = 0 then (.zero a, 0) else if a then (.nan, fNV) else (exactRoot m 1 e, 0)

/-- p * q + s before its one rounding (R134). -/
def exactFma (rm : Nat) (p q s : Val) : Exact × FFlags :=
  let pr := exactMul p q
  match pr.1, s with
  | .nan, _ => (.nan, pr.2)
  | _, .nan _ => (.nan, pr.2)
  | .inf a, .inf b => if a = b then (.inf a, 0) else (.nan, fNV)
  | .inf a, .fin .. => (.inf a, 0)
  | _, .inf b => (.inf b, 0)
  | .zero a, .fin b n g => exactAdd rm (.fin a 0 0) (.fin b n g)
  | .num a n _ e, .fin b m g => exactAdd rm (.fin a n e) (.fin b m g)

/-! ## Comparisons (R127, R128) -/

/-- p as an integer at a common exponent with q; used only on finite operands. -/
def finKey (p q : Val) : Int × Int :=
  match p, q with
  | .fin a m e, .fin b n g => let lo := min e g; (signedAt a m e lo, signedAt b n g lo)
  | _, _ => (0, 0)

/-- p < q on numbers; -0 equals +0. -/
def Val.lt (p q : Val) : Bool :=
  match p, q with
  | .nan _, _ => false
  | _, .nan _ => false
  | .inf a, .inf b => a && !b
  | .inf a, .fin .. => a
  | .fin .., .inf b => !b
  | .fin .., .fin .. => (finKey p q).1 < (finKey p q).2

/-- p = q on numbers. -/
def Val.eq (p q : Val) : Bool :=
  match p, q with
  | .nan _, _ => false
  | _, .nan _ => false
  | .inf a, .inf b => a == b
  | .inf _, .fin .. => false
  | .fin .., .inf _ => false
  | .fin .., .fin .. => (finKey p q).1 == (finKey p q).2

/-- The sign of a number. -/
def Val.negative : Val → Bool
  | .nan _ => false
  | .inf a => a
  | .fin a _ _ => a

/-- p is to be taken before q as the smaller: -0 counts as less than +0 (R127). -/
def Val.below (p q : Val) : Bool := p.lt q || (p.eq q && p.negative && !q.negative)

/-! ## Integers -/

/-- The value of an integer lane. -/
def intVal (t : Ty) (b : Nat) : Int := if t.isSigned then sextNat b (tyBits t) else ((b % 2 ^ tyBits t : Nat) : Int)
/-- The least value of an integer type (R73). -/
def tyMin (t : Ty) : Int := if t.isSigned then -(2 ^ (tyBits t - 1) : Nat) else 0
/-- The greatest value of an integer type. -/
def tyMax (t : Ty) : Int := if t.isSigned then (2 ^ (tyBits t - 1) : Nat) - 1 else (2 ^ tyBits t : Nat) - 1
/-- v clamped to a range, and whether it was clamped. -/
def clampTo (lo hi v : Int) : Int × Bool := if v < lo then (lo, true) else if hi < v then (hi, true) else (v, false)
/-- v clamped to the signed m-bit range (R21, Sat). -/
def satBits (m : Nat) (v : Int) : Int × Bool := clampTo (-(2 ^ (m - 1) : Nat)) ((2 ^ (m - 1) : Nat) - 1) v
/-- The low w bits of an integer. -/
def intBits (w : Nat) (v : Int) : Nat := (v % (2 ^ w : Nat)).toNat

/-- An exact value rounded to an integer, and whether it was inexact; none for NaN and the infinities. -/
def Exact.toInt (rm : Nat) : Exact → Option (Int × Bool)
  | .nan => none
  | .inf _ => none
  | .zero _ => some (0, false)
  | .num neg n d e =>
    let r := roundTo rm neg n d e 0
    some (if neg then -(r.1 : Int) else (r.1 : Int), r.2)

/-- Floating to integer (R74): the bits in the integer's width. -/
def floatToInt (t : Ty) (rm : Nat) (p : Val) : Nat × FFlags :=
  match p with
  | .nan _ => (intBits (tyBits t) (tyMax t), fNV)
  | .inf a => (intBits (tyBits t) (if a then tyMin t else tyMax t), fNV)
  | .fin .. => match p.exact.toInt rm with
    | none => (0, 0)
    | some (v, inex) =>
      let c := clampTo (tyMin t) (tyMax t) v
      (intBits (tyBits t) c.1, if c.2 then fNV else flagIf inex fNX)

/-- Integer to floating (R74). -/
def intToFloat (t : Ty) (md : Modes) (v : Int) : Nat × FFlags := roundTy t md (exactInt v 0 false)

/-- Floating to floating (R131). -/
def floatToFloat (src dst : Ty) (md : Modes) (b : Nat) : Nat × FFlags :=
  let p := (fmtOf src).operand { md with daz := md.daz && src.isFloat } b
  let r := roundTy dst md p.exact
  (r.1, r.2 ||| sigNV [p])

end Sys2Proof.Machine
end

