-- ==== Sys2Proof/Machine/Fp.lean ====
section
/-! DEFINITION. Machine/Fp.lean: the floating operations on bit patterns, the special functions correctly rounded,
and Philox-4x32-10 (06_vector_isa.md; 04, R85, R86). -/
namespace Sys2Proof.Machine

/-- The binary operations of R127 and R135. -/
inductive FOp where
  | add | sub | mul | div | min | max
  deriving DecidableEq, Repr

/-- FMIN and FMAX: the selected operand as DAZ has read it (R127). -/
def fpSelect (mx : Bool) (t : Ty) (md : Modes) (a b : Nat) : Nat × FFlags :=
  let f := fmtOf t
  let a' := f.dazBits md.daz (bitsOf a 0 f.bits)
  let b' := f.dazBits md.daz (bitsOf b 0 f.bits)
  let p := f.val a'
  let q := f.val b'
  let fl := sigNV [p, q]
  if p.isNan && q.isNan then (f.nan, fl)
  else if p.isNan then (b', fl)
  else if q.isNan then (a', fl)
  else if mx then (if p.below q then b' else a', fl)
  else (if q.below p then b' else a', fl)

/-- A binary operation on two patterns of a format (R127). -/
def fpBin (op : FOp) (t : Ty) (md : Modes) (a b : Nat) : Nat × FFlags :=
  let f := fmtOf t
  let p := f.operand md a
  let q := f.operand md b
  let fin := fun (x : Exact × FFlags) => let r := f.round md x.1; (r.1, r.2 ||| x.2 ||| sigNV [p, q])
  match op with
  | .add => fin (exactAdd md.rm p q)
  | .sub => fin (exactAdd md.rm p q.neg)
  | .mul => fin (exactMul p q)
  | .div => fin (exactDiv p q)
  | .min => fpSelect false t md a b
  | .max => fpSelect true t md a b

/-- FSQRT (R127). -/
def fpSqrt (t : Ty) (md : Modes) (a : Nat) : Nat × FFlags :=
  let f := fmtOf t
  let p := f.operand md a
  let x := exactSqrt p
  let r := f.round md x.1
  (r.1, r.2 ||| x.2 ||| sigNV [p])

/-- The fused operations of R134: `np` negates the product, `ns` the third source. -/
def fpFma (t : Ty) (md : Modes) (np ns : Bool) (a b e : Nat) : Nat × FFlags :=
  let f := fmtOf t
  let p := f.operand md a
  let q := f.operand md b
  let s := f.operand md e
  let x := exactFma md.rm (if np then p.neg else p) q (if ns then s.neg else s)
  let r := f.round md x.1
  (r.1, r.2 ||| x.2 ||| sigNV [p, q, s])

/-- The comparisons of R128. -/
inductive FCmp where
  | eq | lt | le
  deriving DecidableEq, Repr

/-- A comparison of two patterns with its flags (R128). -/
def fpCmp (c : FCmp) (t : Ty) (md : Modes) (a b : Nat) : Bool × FFlags :=
  let f := fmtOf t
  let p := f.operand md a
  let q := f.operand md b
  let anyNan := p.isNan || q.isNan
  match c with
  | .eq => (p.eq q, sigNV [p, q])
  | .lt => (p.lt q, flagIf anyNan fNV)
  | .le => (p.lt q || p.eq q, flagIf anyNan fNV)

/-- FCLASS (R129). -/
def fpClass (t : Ty) (a : Nat) : Nat :=
  let f := fmtOf t
  let b := bitsOf a 0 f.bits
  match f.val b with
  | .nan sig => if sig then 0x100 else 0x200
  | .inf neg => if neg then 1 else 0x80
  | .fin neg m _ =>
    if m = 0 then (if neg then 8 else 0x10)
    else if f.isSub b then (if neg then 4 else 0x20)
    else if neg then 2 else 0x40

/-- The sign injections of R130. -/
inductive SgnOp where
  | copy | invert | xor
  deriving DecidableEq, Repr

/-- FSGNJ, FSGNJN, FSGNJX on patterns (R130). -/
def fpSgn (o : SgnOp) (t : Ty) (a b : Nat) : Nat :=
  let n := tyBits t - 1
  let sa := bitsOf a n 1
  let sb := bitsOf b n 1
  let s := match o with
    | .copy => sb
    | .invert => 1 - sb
    | .xor => (sa + sb) % 2
  bitsOf a 0 n + s * 2 ^ n

/-- VABS and VNEG on a floating lane (R137). -/
def fpSignLane (neg : Bool) (t : Ty) (md : Modes) (a : Nat) : Nat × FFlags :=
  let f := fmtOf t
  let a' := f.dazBits md.daz (bitsOf a 0 f.bits)
  let p := f.val a'
  if p.isNan then (f.nan, sigNV [p])
  else
    let n := tyBits t - 1
    (bitsOf a' 0 n + (if neg then (1 - bitsOf a' n 1) * 2 ^ n else 0), 0)

/-- VDOT2.BF16 on one lane: e + a0 * b0 + a1 * b1, rounded once to FP32 (R144). -/
def fpDot2 (md : Modes) (a0 b0 a1 b1 e : Nat) : Nat × FFlags :=
  let h := fmtOf .bf16
  let f := fmtOf .f32
  let v := [h.operand md a0, h.operand md b0, h.operand md a1, h.operand md b1, f.operand md e]
  let x := exactMul (h.operand md a0) (h.operand md b0)
  let y := exactMul (h.operand md a1) (h.operand md b1)
  let back := fun (z : Exact) => match z with
    | .nan => Val.nan false
    | .inf n => .inf n
    | .zero n => .fin n 0 0
    | .num n m _ g => .fin n m g
  let pq := exactAdd md.rm (back x.1) (back y.1)
  let sum := exactAdd md.rm (back pq.1) (f.operand md e)
  let r := f.round md sum.1
  (r.1, r.2 ||| x.2 ||| y.2 ||| pq.2 ||| sum.2 ||| sigNV v)

/-! ## Special functions (R145): intervals on rationals, narrowed until both ends round alike -/

/-- A fixed-point series: terms of `step` summed until the fuel ends. -/
def serSum (step : Nat → Int → Int) : Nat → Nat → Int → Int
  | 0, _, _ => 0
  | fuel + 1, i, t => t + serSum step fuel (i + 1) (step i t)

/-- exp(r / 2^n) * 2^n for |r| < 2^n, by its series. -/
def expFix (n : Nat) (r : Int) : Int :=
  serSum (fun i t => t * r / ((2 ^ n * (i + 1) : Nat) : Int)) (n / 2 + 16) 0 (2 ^ n : Nat)

/-- 2 * atanh(num / den) * 2^n, by its series, for num / den at most 1/3. -/
def atanhFix (n num den : Nat) : Int :=
  let z : Int := (num * 2 ^ n / den : Nat)
  let z2 : Int := z * z / (2 ^ n : Nat)
  let rec go : Nat → Nat → Int → Int
    | 0, _, _ => 0
    | fuel + 1, i, t => t / ((2 * i + 1 : Nat) : Int) + go fuel (i + 1) (t * z2 / (2 ^ n : Nat))
  2 * go (n / 3 + 8) 0 z

/-- ln 2 * 2^n. -/
def ln2Fix (n : Nat) : Int := atanhFix n 1 3

/-- The width of the error of the fixed-point series, in units of the last place. -/
def fixErr : Int := 2 ^ 24

/-- x * 2^n for a dyadic x = m * 2^e, cut toward minus infinity. -/
def dyadFix (n : Nat) (neg : Bool) (m : Nat) (e : Int) : Int :=
  let sh := e + (n : Int)
  let v : Int := if 0 ≤ sh then (m * 2 ^ sh.toNat : Nat) else (m / 2 ^ (-sh).toNat : Nat)
  if neg then -v else v

/-- An interval of positive numbers: low and high integers over 2^n, times 2^k. -/
structure Ival where
  lo : Int
  hi : Int
  n  : Nat
  k  : Int

/-- exp of x * 2^-n (x given in fixed point), as an interval. -/
def expIval (n : Nat) (x : Int) : Ival :=
  let l := ln2Fix n
  let k := x / l
  let r := x - k * l
  let v := expFix n r
  ⟨v - fixErr, v + fixErr, n, k⟩

/-- A positive rational num / den * 2^e with num and den integers. -/
structure PRat where
  num : Int
  den : Int
  e   : Int

/-- The exact value of a signed rational. -/
def PRat.exact (q : PRat) (neg : Bool) : Exact :=
  if q.num ≤ 0 ∨ q.den ≤ 0 then .zero neg else .num neg q.num.toNat q.den.toNat q.e

/-- a * 2^i + b as integers over a common power: the value a * 2^i + b * 2^j as (mantissa, exponent). -/
def addPow (a : Int) (i : Int) (b : Int) (j : Int) : Int × Int :=
  let lo := min i j
  (a * ((2 ^ (i - lo).toNat : Nat) : Int) + b * ((2 ^ (j - lo).toNat : Nat) : Int), lo)

/-- Transcendental functions of VSF with an interval (R145). -/
inductive SpFn where
  | exp | exp2 | log2 | tanh | sigm
  deriving DecidableEq, Repr

/-- The two ends of a function's value at a finite nonzero argument, with n bits; the sign is returned apart. -/
def spEnds (fn : SpFn) (n : Nat) (neg : Bool) (m : Nat) (e : Int) : Bool × PRat × PRat :=
  let big := 2 ^ 11 ≤ (if 0 ≤ e then m * 2 ^ (min e.toNat 4096) else m / 2 ^ (-e).toNat)
  let tinyQ : PRat := ⟨1, 1, -4000⟩
  let hugeQ : PRat := ⟨1, 1, 4000⟩
  let nearOne : PRat := ⟨(2 ^ 200 : Nat) - 1, (2 ^ 200 : Nat), 0⟩
  let ex := fun (x : Int) => expIval n x
  let two := fun (i : Ival) (f : Int → PRat) => (f i.lo, f i.hi)
  match fn with
  | .exp =>
    if big then (false, if neg then tinyQ else hugeQ, if neg then tinyQ else hugeQ)
    else
      let p := two (ex (dyadFix n neg m e)) fun v => ⟨v, 1, (ex (dyadFix n neg m e)).k - (n : Int)⟩
      (false, p.1, p.2)
  | .exp2 =>
    if big then (false, if neg then tinyQ else hugeQ, if neg then tinyQ else hugeQ)
    else
      let x := dyadFix n neg m e
      let k := x / (2 ^ n : Nat)
      let fr := x - k * (2 ^ n : Nat)
      let v := expFix n (fr * ln2Fix n / (2 ^ n : Nat))
      (false, ⟨v - fixErr, 1, k - (n : Int)⟩, ⟨v + fixErr, 1, k - (n : Int)⟩)
  | .log2 =>
    let lg := Nat.log2 m
    let a := atanhFix n (m - 2 ^ lg) (m + 2 ^ lg)
    let v := a * (2 ^ n : Nat) / ln2Fix n + (e + (lg : Int)) * (2 ^ n : Nat)
    let sg := v < 0
    let av := if sg then -v else v
    (sg, ⟨av - fixErr, 1, -(n : Int)⟩, ⟨av + fixErr, 1, -(n : Int)⟩)
  | .tanh =>
    if (Nat.log2 m : Int) + e < -28 then (neg, ⟨m, 1, e⟩, ⟨m, 1, e⟩)
    else if 6 < (Nat.log2 m : Int) + e then (neg, nearOne, nearOne)
    else
      let i := ex (2 * dyadFix n false m e)
      let q := fun (v : Int) =>
        let a := addPow v (i.k - (n : Int)) (-1) 0
        let b := addPow v (i.k - (n : Int)) 1 0
        (⟨a.1, b.1, a.2 - b.2⟩ : PRat)
      (neg, q i.lo, q i.hi)
  | .sigm =>
    if 11 < (Nat.log2 m : Int) + e then (false, if neg then tinyQ else nearOne, if neg then tinyQ else nearOne)
    else
      let i := ex (dyadFix n (!neg) m e)
      let q := fun (v : Int) =>
        let b := addPow v (i.k - (n : Int)) 1 0
        (⟨1, b.1, -b.2⟩ : PRat)
      (false, q i.hi, q i.lo)

/-- Rounds with more bits until both ends agree; the flags are those of an inexact result. -/
def spRound (fn : SpFn) (t : Ty) (neg : Bool) (m : Nat) (e : Int) : Nat → Nat → Nat × FFlags
  | 0, n =>
    let p := spEnds fn n neg m e
    let r := (fmtOf t).round modesRNE (p.2.1.exact p.1)
    (r.1, r.2 ||| fNX)
  | fuel + 1, n =>
    let p := spEnds fn n neg m e
    let a := (fmtOf t).round modesRNE (p.2.1.exact p.1)
    let b := (fmtOf t).round modesRNE (p.2.2.exact p.1)
    if a.1 = b.1 then (a.1, b.2 ||| fNX) else spRound fn t neg m e fuel (2 * n)

/-- A subnormal result of a function whose value is inexact is tiny (R76): UF with NX. -/
def spFlags (t : Ty) (r : Nat × FFlags) : Nat × FFlags :=
  (r.1, r.2 ||| flagIf ((fmtOf t).isSub r.1) fUF)


/-- The special functions of VSF ops 0 to 6. -/
inductive VsfFn where
  | exp | exp2 | log2 | rcp | rsqrt | tanh | sigm
  deriving DecidableEq, Repr

/-- Whether m * 2^e is an integer, and its value when it is at most 2^11 in magnitude. -/
def smallInt (neg : Bool) (m : Nat) (e : Int) : Option Int :=
  let lg := (Nat.log2 m : Int) + e
  if lg < 0 ∨ 11 < lg then none
  else
    let v : Nat := if 0 ≤ e then m * 2 ^ e.toNat else m / 2 ^ (-e).toNat
    if e < 0 ∧ m % 2 ^ (-e).toNat ≠ 0 then none else some (if neg then -(v : Int) else v)

/-- One lane of a special function (R86, R145). -/
def fpSpecial (fn : VsfFn) (t : Ty) (a : Nat) : Nat × FFlags :=
  let f := fmtOf t
  let p := f.operand modesRNE a
  let one := (f.round modesRNE (exactInt 1 0 false)).1
  let half := (f.round modesRNE (exactInt 1 (-1) false)).1
  match p with
  | .nan sig => (f.nan, flagIf sig fNV)
  | .inf neg => match fn with
    | .exp | .exp2 => (if neg then 0 else f.inf false, 0)
    | .log2 => if neg then (f.nan, fNV) else (f.inf false, 0)
    | .rcp => (f.sign neg, 0)
    | .rsqrt => if neg then (f.nan, fNV) else (0, 0)
    | .tanh => (f.sign neg + one, 0)
    | .sigm => (if neg then 0 else one, 0)
  | .fin neg m e =>
    if m = 0 then (match fn with
      | .exp | .exp2 => (one, 0)
      | .log2 => (f.inf true, fDZ)
      | .rcp => (f.inf neg, fDZ)
      | .rsqrt => (f.inf neg, fDZ)
      | .tanh => (f.sign neg, 0)
      | .sigm => (half, 0))
    else match fn with
      | .rcp => f.round modesRNE (.num neg 1 m (-e))
      | .rsqrt => if neg then (f.nan, fNV) else f.round modesRNE (exactRoot 1 m (-e))
      | .log2 =>
        if neg then (f.nan, fNV)
        else if m = 2 ^ Nat.log2 m then f.round modesRNE (exactInt (e + (Nat.log2 m : Int)) 0 false)
        else spFlags t (spRound .log2 t neg m e 3 256)
      | .exp2 => (match smallInt neg m e with
        | some v => f.round modesRNE (.num false 1 1 v)
        | none => spFlags t (spRound .exp2 t neg m e 3 256))
      | .exp => spFlags t (spRound .exp t neg m e 3 256)
      | .tanh => spFlags t (spRound .tanh t neg m e 3 256)
      | .sigm => spFlags t (spRound .sigm t neg m e 3 256)

/-! ## Philox-4x32-10 (R146) -/

/-- One round of Philox. -/
def philoxRound (c0 c1 c2 c3 k0 k1 : Nat) : Nat × Nat × Nat × Nat :=
  let p0 := 0xD2511F53 * c0
  let p1 := 0xCD9E8D57 * c2
  (Nat.xor (Nat.xor (p1 / 2 ^ 32) c1) k0, p1 % 2 ^ 32, Nat.xor (Nat.xor (p0 / 2 ^ 32) c3) k1, p0 % 2 ^ 32)

/-- Rounds of Philox with the key advance. -/
def philoxLoop : Nat → Nat × Nat × Nat × Nat → Nat → Nat → Nat × Nat × Nat × Nat
  | 0, c, _, _ => c
  | n + 1, (c0, c1, c2, c3), k0, k1 =>
    philoxLoop n (philoxRound c0 c1 c2 c3 k0 k1) ((k0 + 0x9E3779B9) % 2 ^ 32) ((k1 + 0xBB67AE85) % 2 ^ 32)

/-- The 128-bit block of a counter, word 0 lowest. -/
def philoxBlock (ctr key : Nat) : Nat :=
  let r := philoxLoop 10 (bitsOf ctr 0 32, bitsOf ctr 32 32, bitsOf ctr 64 32, bitsOf ctr 96 32) (bitsOf key 0 32) (bitsOf key 32 32)
  r.1 + r.2.1 * 2 ^ 32 + r.2.2.1 * 2 ^ 64 + r.2.2.2 * 2 ^ 96

/-- The words of nb blocks from a counter. -/
def philoxWords (ctr key : Nat) : Nat → Nat
  | 0 => 0
  | n + 1 => philoxWords ctr key n + philoxBlock ((ctr + n) % 2 ^ 128) key * 2 ^ (128 * n)

end Sys2Proof.Machine
end

