-- ==== Sys2Proof/Machine/Amo.lean ====
section
/-! DEFINITION. Machine/Amo.lean: what each AMO op computes (05, R116 to R119). -/
namespace Sys2Proof.Machine

/-- The AMO ops 0 to 9 of R116 on n bytes; `cmp` is the compare value of AMOCAS and `v` its new value. -/
def amoInt (op n old v cmp : Nat) : Nat :=
  let w := 8 * n
  let lt := sextNat old w < sextNat v w
  match op with
  | 0 => (old + v) % 2 ^ w
  | 1 => Nat.land old v
  | 2 => Nat.lor old v
  | 3 => Nat.xor old v
  | 4 => if lt then old else v
  | 5 => if lt then v else old
  | 6 => min old v
  | 7 => max old v
  | 8 => v
  | _ => if old = cmp then v else old

/-- The type AMOFADD adds in. -/
def amoTy (n : Nat) : Ty := if n = 8 then .f64 else .f32

/-- The new value of n bytes, and the flags of AMOFADD; operands wider than n bytes are cut (R116, R119). -/
def amoNew (op n old v cmp rm : Nat) : Nat × FFlags :=
  let m := 2 ^ (8 * n)
  if op = 10 then fpBin .add (amoTy n) { rm := rm, ftz := false, daz := false, sat := true } old (v % m)
  else (amoInt op n old (v % m) (cmp % m), 0)

end Sys2Proof.Machine
end

