-- ==== Sys2Proof/Machine/MatUnit.lean ====
section
/-! DEFINITION. Machine/MatUnit.lean: the matrix unit: its operands, what each of its instructions does at
retirement, and the scratchpad bytes it reads and writes (07_matrix_isa.md; 04, R80 to R84). -/
namespace Sys2Proof.Machine

/-! ## Flags of the core -/

/-- ORs floating flags into FFLAGS (R78). -/
def Core.orFlags (k : Core) (f : FFlags) : Core := { k with u := { k.u with fflags := k.u.fflags ||| f.zeroExtend 64 } }
/-- Sets ACCFLAGS.OVF when the condition holds (R83). -/
def Core.orOvf (k : Core) (o : Bool) : Core := if o then { k with u := { k.u with accflags := k.u.accflags ||| 1 } } else k

/-! ## Tiles -/

/-- Element n = 64 * i + j of a tile. -/
def Tile.at (t : Tile) (n : Nat) : Word := (lookupK t.elems n).getD 0

/-- All 4,096 elements in order. -/
def Tile.list (t : Tile) : List Word :=
  let rec go : Nat → Nat → List (Nat × Word) → List Word
    | 0, _, _ => []
    | fuel + 1, n, [] => 0 :: go fuel (n + 1) []
    | fuel + 1, n, (j, w) :: r => if j = n then w :: go fuel (n + 1) r else 0 :: go fuel (n + 1) ((j, w) :: r)
  go 4096 0 t.elems

/-- A tile from its elements in order; zero elements are not listed. -/
def tileOf (c : TileClass) (l : List Word) : Tile :=
  let rec go : Nat → List Word → List (Nat × Word)
    | _, [] => []
    | n, w :: r => if w = 0 then go (n + 1) r else (n, w) :: go (n + 1) r
  { cls := c, elems := go 0 l }

/-- A tile register. -/
def Core.tile (k : Core) (t : Nat) : Tile := k.acc[t]?.getD Tile.reset
/-- Replaces a tile register. -/
def Core.setTile (k : Core) (t : Nat) (x : Tile) : Core := { k with acc := k.acc.setIfInBounds t x }

/-! ## Operands (R80, R153) -/

/-- Width of a Wm format; E4M3 counts as 4 for the down-converter. -/
def matWidth : MatFmt → Nat
  | .e4m3 => 4 | .w2 => 2 | .w3 => 3 | .w4 => 4 | .w5 => 5 | .w6 => 6 | .w7 => 7 | .w8 => 8

/-- Bytes of an operand (R153). -/
def matBytes (f : MatFmt) : Nat := if f = .e4m3 then 4096 else 512 * matWidth f

/-- Element i of a bit-plane block of width m (R80). -/
def planeElem (k : Core) (off m i : Nat) : Int :=
  let code := (List.range m).foldl (fun acc j => acc + bitsOf (k.spRead (off + 8 * j) 8) i 1 * 2 ^ j) 0
  sextNat code m

/-- The 64 elements of a block. -/
def planeBlock (k : Core) (off m : Nat) : List Int := (List.range 64).map (planeElem k off m)

/-- The planes of 64 elements, as m words in order (R80). -/
def planesOf (m : Nat) (l : List Int) : List Nat :=
  (List.range m).map fun j =>
    (List.range 64).foldl (fun acc i => acc + bitsOf (intBits m (l[i]?.getD 0)) j 1 * 2 ^ i) 0

/-- An E4M3 value in units of 2^-9 (R82), and whether it is NaN, which counts as zero (R159). -/
def e4m3Units (b : Nat) : Int × Bool :=
  match (fmtOf .e4m3).val b with
  | .fin neg m e => (signedAt neg m e (-9), false)
  | _ => (0, true)

/-- An operand's 64 rows of A or columns of B, and whether a NaN was met. -/
def matOperand (k : Core) (off : Nat) (f : MatFmt) : List (List Int) × Bool :=
  if f = .e4m3 then
    let raw := (List.range 64).map fun i => (List.range 64).map fun j => e4m3Units (k.spRead (off + 64 * i + j) 1)
    (raw.map fun r => r.map Prod.fst, raw.any fun r => r.any Prod.snd)
  else ((List.range 64).map fun i => planeBlock k (off + 8 * (matWidth f) * i) (matWidth f), false)

/-- The A operand taken from a tile through the down-converter (R159), and whether an element was clamped. -/
def downConvert (t : Tile) (sh m : Nat) : List (List Int) × Bool :=
  let l := t.list.map fun w =>
    let v := w.toInt
    let r := roundTo 0 (v < 0) v.natAbs 1 (-(sh : Int)) 0
    satBits m (if v < 0 then -(r.1 : Int) else r.1)
  ((List.range 64).map fun i => ((l.drop (64 * i)).take 64).map Prod.fst, l.any Prod.snd)

/-- The exact sum of products of a row and a column. -/
def dot : List Int → List Int → Int
  | a :: r, b :: q => a * b + dot r q
  | _, _ => 0

/-- The product added to old elements, with saturation (R83): elements in order and whether one saturated. -/
def matAccum (rows cols : List (List Int)) (old : List Word) : List Word × Bool :=
  let sums := rows.flatMap fun r => cols.map fun c => dot r c
  let l := (List.zip old sums).map fun p => satBits 64 (p.1.toInt + p.2)
  (l.map fun v => wordOfInt v.1, l.any Prod.snd)

/-- The result of MMUL and MMULZ on the core (R159). -/
def matProduct (k : Core) (zero : Bool) (t : Nat) (fa : MatFmt) (a : List (List Int) × Bool) (b : List (List Int) × Bool) : Core :=
  let old := if zero then List.replicate 4096 0 else (k.tile t).list
  let r := matAccum a.1 b.1 old
  let cls := if zero then (if fa = .e4m3 then .f8 else .int) else (k.tile t).cls
  (k.setTile t (tileOf cls r.1)).orOvf (r.2 || a.2 || b.2)

/-! ## Conversions of elements (R162, R163, R165) -/

/-- The real value of a lane of a type as an exact value times 2^s; signalling NaNs raise NV. -/
def laneExact (ty : Ty) (b : Nat) (s : Int) : Exact × FFlags :=
  if ty.isInt then (exactInt (intVal ty b) s false, 0)
  else
    let p := (fmtOf ty).val (bitsOf b 0 (tyBits ty))
    (match p with
      | .nan _ => .nan
      | .inf n => .inf n
      | .fin n m e => if m = 0 then .zero n else .num n m 1 (e + s), sigNV [p])

/-- An exact value to a 64-bit integer element: value, OVF, flags (R162, R165). -/
def exactToElem (x : Exact) : Word × Bool × FFlags :=
  match x with
  | .nan => (0, false, fNV)
  | .inf neg => (if neg then 0x8000000000000000 else 0x7FFFFFFFFFFFFFFF, true, 0)
  | _ => match x.toInt 0 with
    | none => (0, false, 0)
    | some (v, inex) => let c := satBits 64 v; (wordOfInt c.1, c.2, flagIf inex fNX)

/-- MLOAD's conversion of one element (R162). -/
def mloadElem (c : TileClass) (ty : Ty) (s : Int) (b : Nat) : Word × Bool × FFlags :=
  match c with
  | .int => let x := laneExact ty b s; let r := exactToElem x.1; (r.1, r.2.1, r.2.2 ||| x.2)
  | .f8 => let x := laneExact ty b (s + 18); let r := exactToElem x.1; (r.1, r.2.1, r.2.2 ||| x.2)
  | .f32 => let x := laneExact ty b s; let r := (fmtOf .f32).round modesRNE x.1; (BitVec.ofNat 64 r.1, false, r.2 ||| x.2)

/-- MSTORE's conversion of one element: bits, OVF, flags (R163). A narrowing of an INT or F8 element that saturates sets OVF, into
E4M3 and E5M2 under SATF8 too (R83); one into an integer type that only rounds raises no NX (log 72, DESIGN CHOICE). -/
def mstoreElem (c : TileClass) (ty : Ty) (s : Int) (sat : Bool) (w : Word) : Nat × Bool × FFlags :=
  let md : Modes := { rm := 0, ftz := false, daz := false, sat := sat }
  match c with
  | .f32 =>
    let p := (fmtOf .f32).val (bitsOf w.toNat 0 32)
    let x := laneExact .f32 w.toNat s
    if ty.isInt then
      (match x.1 with
        | .nan => (intBits (tyBits ty) (tyMax ty), false, fNV)
        | .inf neg => (intBits (tyBits ty) (if neg then tyMin ty else tyMax ty), false, fNV)
        | y => match y.toInt 0 with
          | none => (0, false, 0)
          | some (v, inex) =>
            let q := clampTo (tyMin ty) (tyMax ty) v
            (intBits (tyBits ty) q.1, false, if q.2 then fNV else flagIf inex fNX))
    else
      let r := roundTy ty md x.1
      (r.1, false, r.2 ||| sigNV [p])
  | _ =>
    let x := exactInt w.toInt (if c = .f8 then s - 18 else s) false
    if ty.isInt then
      (match x.toInt 0 with
        | none => (0, false, 0)
        | some (v, _) => let q := clampTo (tyMin ty) (tyMax ty) v; (intBits (tyBits ty) q.1, q.2, 0))
    else let r := roundTy ty md x; (r.1, sat && (ty == .e4m3 || ty == .e5m2) && r.2 &&& fOF != 0, r.2)

/-- MCVT's conversion of one element (R165). -/
def mcvtElem (src dst : TileClass) (w : Word) : Word × Bool × FFlags :=
  let toF32 := fun (s : Int) =>
    let r := (fmtOf .f32).round modesRNE (exactInt w.toInt s false)
    (BitVec.ofNat 64 r.1, false, r.2)
  match src, dst with
  | .int, .f8 => let c := satBits 64 (w.toInt * 2 ^ 18); (wordOfInt c.1, c.2, 0)
  | .f8, .int => exactToElem (exactInt w.toInt (-18) false)
  | .int, .f32 => toF32 0
  | .f8, .f32 => toF32 (-18)
  | .f32, .int => let x := laneExact .f32 w.toNat 0; let r := exactToElem x.1; (r.1, r.2.1, r.2.2 ||| x.2)
  | .f32, .f8 => let x := laneExact .f32 w.toNat 18; let r := exactToElem x.1; (r.1, r.2.1, r.2.2 ||| x.2)
  | _, _ => (w, false, 0)

/-- MSCACC on one element (R164). -/
def mscaccElem (md : Modes) (d a : Word) (s : Int) : Word × FFlags :=
  let p := (fmtOf .f32).operand md d.toNat
  let v := a.toInt
  let x := exactAdd md.rm p (.fin (v < 0) v.natAbs s)
  let r := (fmtOf .f32).round md x.1
  (BitVec.ofNat 64 r.1, r.2 ||| x.2 ||| sigNV [p])

/-- Whether any element set OVF, and the flags of all of them. -/
def gather (l : List (Word × Bool × FFlags)) : Bool × FFlags :=
  (l.any fun p => p.2.1, l.foldl (fun f p => f ||| p.2.2) 0)

/-! ## Retirement (R155) -/

/-- The effect of the instruction in the matrix unit: it reads every operand word as it stands when it retires (log 73, DESIGN CHOICE). -/
def matEffect (k : Core) : MatOp → Core
  | .mmul zero t fa aOff bOff fb => matProduct k zero t fa (matOperand k aOff fa) (matOperand k bOff fb)
  | .mmulAcc zero t fa ta sh bOff fb => matProduct k zero t fa (downConvert (k.tile ta) sh (matWidth fa)) (matOperand k bOff fb)
  | .mzero t c => k.setTile t (tileOf c [])
  | .mload t off sh ty =>
    let c := (k.tile t).cls
    let n := tyBits ty / 8
    let l := (List.range 4096).map fun i => mloadElem c ty sh (k.spRead (off + n * i) n)
    let g := gather l
    ((k.setTile t (tileOf c (l.map Prod.fst))).orOvf g.1).orFlags g.2
  | .mstore t off sh ty sat =>
    let x := k.tile t
    let n := tyBits ty / 8
    let l := x.list.map fun w => mstoreElem x.cls ty sh sat w
    let k1 := k.spWrites off (l.flatMap fun p => leBytes n p.1)
    (k1.orOvf (l.any fun p => p.2.1)).orFlags (l.foldl (fun f p => f ||| p.2.2) 0)
  | .mscacc d a rowOff colOff rm ftz daz =>
    let md : Modes := { rm := rm, ftz := ftz, daz := daz, sat := true }
    let bias : Int := if (k.tile a).cls = .f8 then 272 else 254
    let l := (List.zip (List.range 4096) (List.zip (k.tile d).list (k.tile a).list)).map fun p =>
      let er : Int := (k.spRead (rowOff + p.1 / 64) 1 : Nat)
      let ec : Int := (k.spRead (colOff + p.1 % 64) 1 : Nat)
      mscaccElem md p.2.1 p.2.2 (er + ec - bias)
    (k.setTile d (tileOf .f32 (l.map Prod.fst))).orFlags (l.foldl (fun f p => f ||| p.2) 0)
  | .mcvt t c =>
    let x := k.tile t
    if x.cls = c then k
    else
      let l := x.list.map (mcvtElem x.cls c)
      let g := gather l
      ((k.setTile t (tileOf c (l.map Prod.fst))).orOvf g.1).orFlags g.2
  | .mcopy d a => k.setTile d (k.tile a)

/-- The instruction in the matrix unit retires and the unit is free (R155). -/
def Core.retireMatrix (k : Core) : Core :=
  match k.mat with
  | none => k
  | some op => { matEffect k op with mat := none }

/-- Scratchpad ranges (offset, length, written) of the instruction in the matrix unit (R157). -/
def matRanges : MatOp → List (Nat × Nat × Bool)
  | .mmul _ _ fa aOff bOff fb => [(aOff, matBytes fa, false), (bOff, matBytes fb, false)]
  | .mmulAcc _ _ _ _ _ bOff fb => [(bOff, matBytes fb, false)]
  | .mload _ off _ ty => [(off, 4096 * (tyBits ty / 8), false)]
  | .mstore _ off _ ty _ => [(off, 4096 * (tyBits ty / 8), true)]
  | .mscacc _ _ r c _ _ _ => [(r, 64, false), (c, 64, false)]
  | _ => []

/-- A slot 0 access of n bytes at off must wait for the matrix unit (R157). -/
def Core.matBusy (k : Core) (off n : Nat) (write : Bool) : Bool :=
  match k.mat with
  | none => false
  | some op => (matRanges op).any fun r => (write || r.2.2) && off < r.1 + r.2.1 && r.1 < off + n

/-- The class a tile holds after the instruction in the matrix unit (R156). -/
def Core.classAfter (k : Core) (t : Nat) : TileClass :=
  match k.mat with
  | some (.mmul true d fa _ _ _) => if d = t then (if fa = .e4m3 then .f8 else .int) else (k.tile t).cls
  | some (.mmulAcc true d _ _ _ _ _) => if d = t then .int else (k.tile t).cls
  | some (.mzero d c) => if d = t then c else (k.tile t).cls
  | some (.mcvt d c) => if d = t then c else (k.tile t).cls
  | some (.mcopy d a) => if d = t then (k.tile a).cls else (k.tile t).cls
  | _ => (k.tile t).cls

end Sys2Proof.Machine
end

