-- ==== Sys2Proof/Machine/Page.lean ====
section
/-! DEFINITION. Machine/Page.lean: address translation: page tables, the checks of R283, homes, frames, and the
accessed and dirty bits (14_page.md). -/
namespace Sys2Proof.Machine

/-- Trap causes (R316). -/
def causeIllegal : Nat := 1
/-- PRIV. -/
def causePriv : Nat := 2
/-- MISALIGN. -/
def causeMisalign : Nat := 3
/-- NOTPRESENT. -/
def causeNotPresent : Nat := 4
/-- PROT. -/
def causeProt : Nat := 5
/-- SPRANGE. -/
def causeSpRange : Nat := 6
/-- BADOP. -/
def causeBadOp : Nat := 7
/-- ECALL. -/
def causeEcall : Nat := 8
/-- BRK. -/
def causeBrk : Nat := 9
/-- LINEAGE. -/
def causeLineage : Nat := 10
/-- STASH. -/
def causeStash : Nat := 11
/-- JOB. -/
def causeJob : Nat := 12
/-- MSG. -/
def causeMsg : Nat := 13
/-- FOLLOW. -/
def causeFollow : Nat := 14
/-- HOMEFAULT. -/
def causeHomeFault : Nat := 15
/-- WATCHDOG. -/
def causeWatchdog : Nat := 16

/-! ## The physical address map (R280) -/

/-- The regions of physical memory. -/
inductive PaRegion where
  | device | dram (die : Nat) | host
  deriving DecidableEq, Repr

/-- First address of die 0's DRAM. -/
def dramBase : Nat := 0x4000000000
/-- Bytes of DRAM of a die. -/
def dramSize : Nat := 0x2000000000
/-- First address of host memory. -/
def hostBase : Nat := 0x8000000000000

/-- The region of a physical address (R280). -/
def paRegion (pa : Nat) : Option PaRegion :=
  if pa < dramBase then some .device
  else if pa < dramBase + dramSize then some (.dram 0)
  else if pa < dramBase + 2 * dramSize then some (.dram 1)
  else if hostBase ≤ pa ∧ pa < 2 ^ 52 then some .host
  else none

/-- An address lies in DRAM. -/
def inDram (pa : Nat) : Bool := dramBase ≤ pa && pa < dramBase + 2 * dramSize
/-- The die of a DRAM address. -/
def dramDie (pa : Nat) : Nat := (pa - dramBase) / dramSize
/-- The frame index of a DRAM address within its die (R288). -/
def frameIx (pa : Nat) : Nat := (pa - dramBase) % dramSize / 2 ^ 21

/-- The state of the frame of a DRAM address. -/
def State.frame (s : State) (pa : Nat) : FrameState := (lookupK (s.die (dramDie pa)).frames (frameIx pa)).getD .unmapped

/-! ## Leaf entries (R281, R282) -/

/-- The fields of a leaf entry. -/
def leafLin (w : Word) : Bool := bitAt w 62
/-- STASH. -/
def leafStash (w : Word) : Bool := bitAt w 61
/-- NC. -/
def leafNc (w : Word) : Bool := bitAt w 60
/-- COMP. -/
def leafComp (w : Word) : Bool := bitAt w 59
/-- HOMEIX. -/
def leafHomeIx (w : Word) : Nat := slice w 58 52
/-- PPN. -/
def leafPpn (w : Word) : Nat := slice w 51 12
/-- HMODE. -/
def leafHmode (w : Word) : Bool := bitAt w 11
/-- PROTO. -/
def leafProto (w : Word) : Nat := slice w 10 8
/-- D. -/
def leafD (w : Word) : Bool := bitAt w 7
/-- A. -/
def leafA (w : Word) : Bool := bitAt w 6
/-- G. -/
def leafG (w : Word) : Bool := bitAt w 5
/-- U. -/
def leafU (w : Word) : Bool := bitAt w 4
/-- X. -/
def leafX (w : Word) : Bool := bitAt w 3
/-- W. -/
def leafW (w : Word) : Bool := bitAt w 2
/-- R. -/
def leafR (w : Word) : Bool := bitAt w 1
/-- V. -/
def leafV (w : Word) : Bool := bitAt w 0
/-- An entry is a leaf when any of R, W and X is set. -/
def isLeaf (w : Word) : Bool := leafR w || leafW w || leafX w

/-- Address bits of a page at a level (R281). -/
def pageBits (level : Nat) : Nat := 12 + 9 * level

/-- A leaf obeys R281 and R282. -/
def leafOk (level : Nat) (w : Word) : Bool :=
  let base := leafPpn w * 4096
  let last := base + 2 ^ pageBits level - 1
  let dev := last < dramBase
  level < 3 && bitsOf base 0 (pageBits level) == 0 && !bitAt w 63
  && !(leafW w && !leafR w) && !(leafStash w && leafLin w)
  && !((leafStash w || leafLin w) && (leafNc w || leafComp w || leafX w))
  && (paRegion base).isSome && paRegion base == paRegion last
  && (inDram base || !(leafComp w || leafStash w || leafLin w || leafHmode w || leafHomeIx w != 0 || leafProto w != 0))
  && !(dev && (!leafNc w || leafU w))

/-- A pointer entry obeys R281. -/
def pointerOk (w : Word) : Bool := slice w 11 1 == 0 && slice w 63 52 == 0

/-- A host address lies in a window of the die (R377, R378). -/
def State.inWindow (s : State) (die pa : Nat) : Bool :=
  (List.range 4).any fun w =>
    let h := s.plat.hwin[4 * die + w]?.getD 0
    let base := slice h 51 21 * 2 ^ 21
    base ≤ pa && pa < base + slice h 20 0 * 2 ^ 21

/-- A table entry can be read: it lies in DRAM, or in host memory that a window of the die admits (R377). -/
def State.entryReadable (s : State) (die ea : Nat) : Bool :=
  inDram ea || (paRegion ea == some .host && s.inWindow die ea)

/-- What a walk finds: the leaf with its level and address; the addresses of the entries read, and the pointers followed, as
the level and the address of the table that each names. -/
structure Leaf where
  level : Nat
  word  : Word
  addr  : Nat
  reads : List Nat
  ptrs  : List (Nat × Nat)
  deriving DecidableEq, Repr

/-- The walk of an address on a die from the table of a level (R281). -/
def State.findLeaf (s : State) (die va : Nat) : Nat → Nat → Option Leaf
  | level, table =>
    let ea := table + 8 * bitsOf va (pageBits level) 9
    if s.entryReadable die ea then
      let w := s.word ea
      if !leafV w then none
      else if isLeaf w then
        (if leafOk level w then some { level := level, word := w, addr := ea, reads := [ea], ptrs := [] } else none)
      else if pointerOk w then (match level with
        | 0 => none
        | l + 1 => (State.findLeaf s die va l (leafPpn w * 4096)).map fun f =>
            { f with reads := ea :: f.reads, ptrs := (l, leafPpn w * 4096) :: f.ptrs })
      else none
    else none
termination_by structural level _ => level

/-- The addresses of the entries that a walk from the table of a level reads, whatever it finds (R286). -/
def State.entriesRead (s : State) (die va : Nat) : Nat → Nat → List Nat
  | level, table =>
    let ea := table + 8 * bitsOf va (pageBits level) 9
    if s.entryReadable die ea then
      let w := s.word ea
      ea :: (if leafV w && !isLeaf w && pointerOk w then (match level with
        | 0 => []
        | l + 1 => State.entriesRead s die va l (leafPpn w * 4096)) else [])
    else []
termination_by structural level _ => level

/-! ## Homes (R284, R285) -/

/-- Number of set bits among the low n bits of a mask. -/
def bitCount (m : Word) : Nat → Nat
  | 0 => 0
  | n + 1 => bitCount m n + (if bitAt m n then 1 else 0)

/-- Position of the n-th set bit from position i upward, with fuel. -/
def nthBit (m : Word) : Nat → Nat → Nat → Nat
  | 0, i, _ => i
  | fuel + 1, i, n =>
    if bitAt m i then (match n with
      | 0 => i
      | k + 1 => nthBit m fuel (i + 1) k)
    else nthBit m fuel (i + 1) n

/-- The hash of R285. -/
def homeHash (pa : Nat) : Nat :=
  Nat.xor (Nat.xor (Nat.xor (bitsOf pa 6 11) (bitsOf pa 17 11)) (bitsOf pa 28 11)) (bitsOf pa 39 9)

/-- The home of a DRAM address under a leaf's HMODE and the BASE and MASK of its home entry (R285). -/
def homeOf (hmode : Bool) (base : Nat) (mask : Word) (pa : Nat) : Nat :=
  if hmode then base + nthBit mask 64 0 (homeHash pa % bitCount mask 64) else base

/-- A logical id is an enabled core of the die. -/
def State.onDie (s : State) (l d : Nat) : Bool := match s.physical l with
  | some c => dieOf c == d
  | none => false

/-- Every core of a mask's low n bits is an enabled core of the die. -/
def State.groupOnDie (s : State) (base : Nat) (mask : Word) (d : Nat) : Nat → Bool
  | 0 => true
  | n + 1 => State.groupOnDie s base mask d n && (!bitAt mask n || s.onDie (base + n) d)

/-- The address of the home entry that a leaf names (R284). -/
def homeEntryAt (hometab : Word) (leaf : Word) : Nat := hometab.toNat + 16 * leafHomeIx leaf

/-- The home entry's BASE and MASK when R284 and R285 accept them for a page of the die. -/
def State.homeEntry (s : State) (ctx : Nat) (hometab : Word) (leaf : Word) (pa : Nat) : Option (Nat × Word) :=
  let ea := homeEntryAt hometab leaf
  if inDram ea && s.frame ea == .mapped ctx then
    let w0 := s.word ea
    let mask := s.word (ea + 8)
    let base := slice w0 11 0
    if !bitAt w0 63 || slice w0 62 12 != 0 then none
    else if !leafHmode leaf then (if mask = 0 && s.onDie base (dramDie pa) then some (base, mask) else none)
    else if mask != 0 && s.groupOnDie base mask (dramDie pa) 64 then some (base, mask)
    else none
  else none

/-! ## The checks of R283 -/

/-- Who translates: the die of the access, the context and its tables. -/
structure TEnv where
  die       : Nat
  ctx       : Nat
  ptbase    : Word
  hometab   : Word
  protomask : Word
  deriving DecidableEq, Repr

/-- Who may touch the pages of R106: an ordinary access, the Orrery on LIN pages, the codecs on STASH pages. -/
inductive Special where
  | none | orrery | codec
  deriving DecidableEq, Repr

/-- Steps 3 and 4 of R283 on a leaf. -/
def leafAllows (user : Bool) (acc : Acc) (sp : Special) (w : Word) : Bool :=
  (match acc with
    | .fetch => leafX w
    | .read => leafR w
    | .write => leafW w
    | .amo => leafR w && leafW w)
  && !(user && !leafU w) && !(acc == .fetch && !user && leafU w)
  && !(leafStash w && sp != .codec) && !(leafLin w && (acc == .write || acc == .amo) && sp != .orrery)

/-- Step 5 of R283: the selector is allowed and its table has passed the checker. -/
def State.protoOk (s : State) (e : TEnv) (w : Word) : Bool :=
  let sel := leafProto w
  bitAt e.protomask sel && (sel == 0 || s.tables.any fun t => t.1 == e.ctx && t.2.1 == sel)

/-! ## Ranges that no context writes (R239, R382) -/

/-- An address lies in the corrected-error log's range. -/
def State.inCel (s : State) (pa : Nat) : Bool :=
  s.plat.celcap != 0 && s.plat.celbase.toNat ≤ pa && pa < s.plat.celbase.toNat + 64 * s.plat.celcap.toNat

/-- n bytes meet the core map, which only firmware writes (R239). -/
def State.inMap (s : State) (pa n : Nat) : Bool :=
  s.plat.l2pbase != 0 && meets pa n s.plat.l2pbase.toNat (0x100 + 2 * s.logicalCount)

/-- No context writes these n bytes: a write from U or S traps PROT (R382; for the core map log 67, DESIGN CHOICE). -/
def State.guarded (s : State) (pa n : Nat) : Bool :=
  (s.plat.celcap != 0 && meets pa n s.plat.celbase.toNat (64 * s.plat.celcap.toNat)) || s.inMap pa n

/-- Step 2 of R283 for a physical address: host windows and register pages have no frame owner, and every supervisor may map the core
map, whoever has its frame (R239; log 67, DESIGN CHOICE). -/
def State.frameOk (s : State) (ctx : Nat) (acc : Acc) (pa : Nat) : Bool :=
  !inDram pa || s.frame pa == .mapped ctx || (acc != .fetch && s.inMap pa 1)

/-- A host address lies outside every window of the die (R377). -/
def State.beyondWindows (s : State) (die pa : Nat) : Bool := paRegion pa == some .host && !s.inWindow die pa

/-- The checks of R283 on a leaf that a walk has found: the translation, or the cause. -/
def State.checkLeaf (s : State) (e : TEnv) (user : Bool) (acc : Acc) (sp : Special) (va : Nat) (f : Leaf) : Except Nat TlbEntry :=
  let bits := pageBits f.level
  let w := f.word
  let pa := leafPpn w * 4096 + va % 2 ^ bits
  if s.beyondWindows e.die pa then .error causeNotPresent
  else if !s.frameOk e.ctx acc pa then .error causeProt
  else if !leafAllows user acc sp w then .error causeProt
  else if !s.protoOk e w then .error causeProt
  else if inDram pa then (match s.homeEntry e.ctx e.hometab w pa with
    | none => .error causeHomeFault
    | some (base, mask) => .ok { ctx := e.ctx, page := va / 2 ^ bits, bits := bits, leaf := w, base := base, mask := mask })
  else .ok { ctx := e.ctx, page := va / 2 ^ bits, bits := bits, leaf := w, base := 0, mask := 0 }

/-- A translation with what its walk found, or the cause of R283. -/
def State.walk (s : State) (e : TEnv) (user : Bool) (acc : Acc) (sp : Special) (va : Nat) :
    Except Nat (TlbEntry × Leaf) :=
  if 2 ^ 48 ≤ va then .error causeNotPresent
  else match s.findLeaf e.die va 3 e.ptbase.toNat with
    | none => .error causeNotPresent
    | some f => match s.checkLeaf e user acc sp va f with
      | .error c => .error c
      | .ok t => .ok (t, f)

/-- The leaf with A set, and D for a write (R287). -/
def leafTouched (acc : Acc) (w : Word) : Word :=
  let a := w ||| 0x40
  if acc = .write ∨ acc = .amo then a ||| 0x80 else a

/-- The home at which a walker reads and writes a table entry: where its line is known; else the first core of its die, or the
die's remote-data cache (R286; log 60, DESIGN CHOICE). -/
def State.entryHome (s : State) (die ea : Nat) : Nat :=
  if !inDram ea then 4096 + die
  else match s.away (ea / 64) with
    | some h => h
    | none => match s.regions.find? fun r => r.base ≤ ea && ea < r.base + r.size with
      | some r => r.home
      | none => if dramDie ea = 0 then 0 else s.enabledBelow 576

/-- The entries of a walk are read at their homes, one after another; the timestamp reached (R286). -/
def State.readEntries (s : State) (die ctx p : Nat) : List Nat → Nat × State
  | [] => (p, s)
  | ea :: rest =>
    let r := s.homeRead (s.entryHome die ea) ea p none (some ctx)
    State.readEntries r.2 die ctx r.1 rest

/-- The entries that a walk and the home checks read (R284, R286). -/
def entriesOf (e : TEnv) (t : TlbEntry) (f : Leaf) : List Nat :=
  f.reads ++ (if inDram (leafPpn t.leaf * 4096) then [homeEntryAt e.hometab t.leaf] else [])

/-- The accessed and dirty update of a leaf, performed at its home after the walk's reads; its timestamp comes before the
access (R287). -/
def State.touchLeaf (s : State) (e : TEnv) (f : Leaf) (w : Word) (p : Nat) : Nat × State :=
  if w = f.word then (p, s) else s.homeWrite (s.entryHome e.die f.addr) f.addr 8 w.toNat p e.ctx

/-- A walk with its accessed and dirty update: the translation, and the timestamp that the access must not precede (R286, R287). -/
def State.walkTouch (s : State) (e : TEnv) (user : Bool) (acc : Acc) (sp : Special) (va : Nat) :
    Except Nat (TlbEntry × Nat × State) :=
  match s.walk e user acc sp va with
  | .error c => .error c
  | .ok (t, f) =>
    let r := s.readEntries e.die e.ctx 0 (entriesOf e t f)
    let w := leafTouched acc t.leaf
    let u := r.2.touchLeaf e f w r.1
    .ok ({ t with leaf := w }, u.1, u.2)

/-- The physical address of an address under a translation. -/
def TlbEntry.pa (t : TlbEntry) (va : Nat) : Nat := leafPpn t.leaf * 4096 + va % 2 ^ t.bits

/-- The home of a physical address under a translation, for an access from a die: a logical core, or 4,096 + die for
the remote-data cache (R280, R285). -/
def TlbEntry.home (t : TlbEntry) (die pa : Nat) : Nat :=
  if inDram pa then homeOf (leafHmode t.leaf) t.base t.mask pa else 4096 + die

/-- The translation of an address that the core holds (R286): of its context, or global. -/
def Core.tlbFind (k : Core) (va : Nat) : Option TlbEntry :=
  k.tlb.find? fun t => (t.ctx == k.sv.ctxid.toNat || leafG t.leaf) && t.page == va / 2 ^ t.bits

/-- The translation of an address that the cluster holds for a core (R286). -/
def State.clusterFind (s : State) (c va : Nat) : Option TlbEntry :=
  let x := (s.core c).sv.ctxid.toNat
  ((lookupK s.ctlb (clusterOf c)).getD []).find? fun t => (t.ctx == x || leafG t.leaf) && t.page == va / 2 ^ t.bits

/-- Two translations are for the same pages of a context, or of all. -/
def TlbEntry.clashes (t o : TlbEntry) : Bool :=
  (o.ctx == t.ctx || leafG o.leaf) && meets (o.page * 2 ^ o.bits) (2 ^ o.bits) (t.page * 2 ^ t.bits) (2 ^ t.bits)

/-- A TLB of n entries takes a translation in place of those of the same pages; the oldest goes where there is no room (R286; log
8, DESIGN CHOICE). -/
def tlbPut (n : Nat) (l : List TlbEntry) (t : TlbEntry) : List TlbEntry := (t :: l.filter fun o => !t.clashes o).take n

/-- A core's TLB takes a translation (R286). -/
def Core.takeEntry (k : Core) (t : TlbEntry) : Core := { k with tlb := tlbPut 32 k.tlb t }

/-- A cluster's TLB takes a translation (R286). -/
def State.clusterTake (s : State) (c : Nat) (t : TlbEntry) : State :=
  { s with ctlb := insertK s.ctlb (clusterOf c) (tlbPut 512 ((lookupK s.ctlb (clusterOf c)).getD []) t) }

/-- The translation that a core finds for an address, in its own TLB or its cluster's, from which it then takes it (R286). -/
def State.tlbHit (s : State) (c va : Nat) : Option (TlbEntry × State) :=
  match (s.core c).tlbFind va with
  | some t => some (t, s)
  | none => (s.clusterFind c va).map fun t => (t, s.modCore c fun k => k.takeEntry t)

/-- The translations that the core finds for an address leave its TLB and its cluster's: after a PROT under one of them the next
access walks (R291; log 8, DESIGN CHOICE). -/
def State.dropStale (s : State) (c va : Nat) : State :=
  let x := (s.core c).sv.ctxid.toNat
  let keep := fun (t : TlbEntry) => !((t.ctx == x || leafG t.leaf) && t.page == va / 2 ^ t.bits)
  let s1 := s.modCore c fun k => { k with tlb := k.tlb.filter keep }
  match lookupK s.ctlb (clusterOf c) with
  | none => s1
  | some l => { s1 with ctlb := insertK s1.ctlb (clusterOf c) (l.filter keep) }

/-- The translation environment of a core (R35). -/
def Core.tenv (k : Core) (die : Nat) : TEnv :=
  { die := die, ctx := k.sv.ctxid.toNat, ptbase := k.sv.ptbase, hometab := k.sv.hometab, protomask := k.sv.protomask }

/-- The translation environment of a context (R314). -/
def Context.tenv (k : Context) (die x : Nat) : TEnv :=
  { die := die, ctx := x, ptbase := k.ptbase, hometab := k.hometab, protomask := k.protomask }

/-! ## Accesses of engines, servers and hardware through a translation -/

/-- An n-byte read at a virtual address, performed at the home: the value and its timestamp (log 7, DEDUCED). No unit reads or
writes a page of the register region this way: PROT (R228). -/
def State.vread (s : State) (e : TEnv) (user : Bool) (sp : Special) (va n p : Nat) : Except Nat (Nat × Nat × State) :=
  match s.walkTouch e user .read sp va with
  | .error c => .error c
  | .ok (t, q, s1) =>
    let pa := t.pa va
    if pa < dramBase then .error causeProt
    else
      let r := s1.homeRead (t.home e.die pa) pa (max p q) none (some e.ctx)
      .ok (s1.bytes pa n, r.1, r.2)

/-- An n-byte write at a virtual address, performed at the home. -/
def State.vwrite (s : State) (e : TEnv) (user : Bool) (sp : Special) (va n v p : Nat) : Except Nat (Nat × State) :=
  match s.walkTouch e user .write sp va with
  | .error c => .error c
  | .ok (t, q, s1) =>
    let pa := t.pa va
    if pa < dramBase ∨ s.guarded pa n = true then .error causeProt else .ok (s1.homeWrite (t.home e.die pa) pa n v (max p q) e.ctx)

/-- Writes a list of 64-bit words upward, one after another in timestamp order, and gives the last timestamp; a fault stops it and
gives its cause and address. -/
def State.vwrites (s : State) (e : TEnv) (user : Bool) (va p : Nat) : List Word → Except (Nat × Nat) (Nat × State)
  | [] => .ok (p, s)
  | w :: r => match s.vwrite e user .none va 8 w.toNat p with
    | .error c => .error (c, va)
    | .ok (q, s1) => State.vwrites s1 e user (va + 8) q r

/-- Writes a list of 64-bit words upward; at a fault what was written stays, and its cause and address are given (R252). -/
def State.storeWords (s : State) (e : TEnv) (user : Bool) (va p : Nat) : List Word → Option (Nat × Nat) × Nat × State
  | [] => (none, p, s)
  | w :: r => match s.vwrite e user .none va 8 w.toNat p with
    | .error c => (some (c, va), p, s)
    | .ok (q, s1) => State.storeWords s1 e user (va + 8) q r

/-- Reads n 64-bit words upward: the words, the last timestamp and the state. -/
def State.vreads (s : State) (e : TEnv) (user : Bool) (va p : Nat) : Nat → Except (Nat × Nat) (List Word × Nat × State)
  | 0 => .ok ([], p, s)
  | n + 1 => match s.vread e user .none va 8 p with
    | .error c => .error (c, va)
    | .ok (v, q, s1) => match State.vreads s1 e user (va + 8) q n with
      | .error c => .error c
      | .ok (l, u) => .ok (BitVec.ofNat 64 v :: l, u)

/-! ## Blocks of bytes, in pieces that end at line boundaries -/

/-- The bytes at physical addresses. -/
def State.byteList (s : State) (pa n : Nat) : List Byte := (List.range n).map fun i => s.byte (pa + i)

/-- Reads n bytes upward from a virtual address with the permission of a fetch (R210): the bytes, the timestamp reached, and the
state; none at a fault. Fuel bounds the pieces. -/
def State.fetchBlock (s : State) (e : TEnv) (va p n : Nat) : Nat → Option (List Byte × Nat × State)
  | 0 => some ([], p, s)
  | fuel + 1 =>
    if n = 0 then some ([], p, s)
    else
      let k := min n (64 - va % 64)
      match s.walkTouch e true .fetch .none va with
      | .error _ => none
      | .ok (t, q, s1) =>
        let pa := t.pa va
        let b := s1.byteList pa k
        let r := s1.homeRead (t.home e.die pa) pa (max p q) none (some e.ctx)
        (State.fetchBlock r.2 e (va + k) r.1 (n - k) fuel).map fun x => (b ++ x.1, x.2)

/-- Reads n bytes upward from a virtual address: the bytes, the timestamp reached, and the state; a fault gives its cause
and address. Fuel bounds the pieces. -/
def State.readBlock (s : State) (e : TEnv) (user : Bool) (sp : Special) (va p n : Nat) :
    Nat → Except (Nat × Nat) (List Byte × Nat × State)
  | 0 => .ok ([], p, s)
  | fuel + 1 =>
    if n = 0 then .ok ([], p, s)
    else
      let k := min n (64 - va % 64)
      match s.walkTouch e user .read sp va with
      | .error c => .error (c, va)
      | .ok (t, q, s1) =>
        let pa := t.pa va
        if pa < dramBase then .error (causeProt, va)
        else
          let b := s1.byteList pa k
          let r := s1.homeRead (t.home e.die pa) pa (max p q) none (some e.ctx)
          match State.readBlock r.2 e user sp (va + k) r.1 (n - k) fuel with
          | .error x => .error x
          | .ok (l, q, s2) => .ok (b ++ l, q, s2)

/-- Writes bytes upward from a virtual address, in pieces that end at multiples of 8 (R269): the timestamp reached and the
state; at a fault what was written stays, and its cause and address are given. Fuel bounds the pieces. -/
def State.writeBlock (s : State) (e : TEnv) (user : Bool) (sp : Special) (va p : Nat) (l : List Byte) :
    Nat → Option (Nat × Nat) × Nat × State
  | 0 => (none, p, s)
  | fuel + 1 =>
    match l with
    | [] => (none, p, s)
    | _ =>
      let k := min l.length (8 - va % 8)
      match s.walkTouch e user .write sp va with
      | .error c => (some (c, va), p, s)
      | .ok (t, q, s1) =>
        let pa := t.pa va
        if pa < dramBase ∨ s.guarded pa k = true then (some (causeProt, va), p, s)
        else
          let r := s1.homeWrite (t.home e.die pa) pa k (bytesNat (l.take k)) (max p q) e.ctx
          State.writeBlock r.2 e user sp (va + k) r.1 (l.drop k) fuel

/-- Every page of a range passes a kind of access; the cause and address of the first that does not. Fuel bounds the pages. -/
def State.probe (s : State) (e : TEnv) (user : Bool) (acc : Acc) (sp : Special) (va n : Nat) : Nat → Option (Nat × Nat)
  | 0 => none
  | fuel + 1 =>
    if n = 0 then none
    else match s.walk e user acc sp va with
      | .error c => some (c, va)
      | .ok (t, _) =>
        let k := min n (4096 - va % 4096)
        if t.pa va < dramBase ∨ (acc = .write ∧ s.guarded (t.pa va) k = true) then some (causeProt, va)
        else
          State.probe s e user acc sp (va + k) (n - k) fuel

end Sys2Proof.Machine
end

