-- ==== Sys2Proof/Machine/Ops.lean ====
section
/-! DEFINITION. Machine/Ops.lean: how an instruction ends: completion, waiting, a trap; the issuing slot and its
registers; taking an exception (R317) and the return from one (R322). -/
namespace Sys2Proof.Machine

/-- The outcome of a step. -/
abbrev Out := Host.Outcome State Fault Refusal

/-! ## How an instruction stops short of completing -/

/-- Why an instruction does not complete in this step. -/
inductive Stop where
  /-- Trap(cause, tval) (R21). -/
  | trap (cause : Nat) (tval : Word)
  /-- A trap that leaves a mark: on the queue whose element faults (R113), or on the TLB whose entry forbids the access (R291). -/
  | markTrap (mark : State → State) (cause : Nat) (tval : Word)
  /-- It waits and will issue again; `post` sends what it waits for. -/
  | wait (post : State → State)
  /-- The machine stops. -/
  | fault (f : Fault)

/-- Computations on a state that may stop. -/
abbrev M (σ α : Type) := StateT σ (Except Stop) α
/-- On the issuing core. -/
abbrev CpuM (α : Type) := M Core α
/-- On the package. -/
abbrev DevM (α : Type) := M State α

/-- Reads the state. -/
def rd {σ : Type} : M σ σ := fun s => .ok (s, s)
/-- Changes the state. -/
def wr {σ : Type} (f : σ → σ) : M σ Unit := fun s => .ok ((), f s)
/-- Trap(cause, tval). -/
def trapM {σ α : Type} (cause : Nat) (tval : Word) : M σ α := fun _ => .error (.trap cause tval)
/-- Trap(cause, tval) when the condition holds. -/
def trapIf {σ : Type} (c : Bool) (cause : Nat) (tval : Word) : M σ Unit :=
  fun s => if c then .error (.trap cause tval) else .ok ((), s)
/-- Waits with nothing to send. -/
def waitM {σ α : Type} : M σ α := fun _ => .error (.wait id)
/-- Waits when the condition holds. -/
def waitIf {σ : Type} (c : Bool) : M σ Unit := fun s => if c then .error (.wait id) else .ok ((), s)
/-- Waits after sending. -/
def waitFor {σ α : Type} (post : State → State) : M σ α := fun _ => .error (.wait post)
/-- Traps on a queue element, and marks the issuing core. -/
def queueTrap (mark : Core → Core) (cause : Nat) (tval : Word) : Stop := .markTrap (fun s => s.modCore s.cur mark) cause tval

/-- A computation of the issuing core inside the package. -/
def onCore {α : Type} (m : CpuM α) : DevM α := fun s =>
  match m (s.core s.cur) with
  | .ok (a, k) => .ok (a, s.setCore s.cur k)
  | .error e => .error e

/-- Every store that the core has issued is performed and acknowledged. -/
def Core.storesDone (k : Core) : Bool := k.unacked == 0 && k.stq.isEmpty

/-- Waits for every acknowledgement of an earlier store: a load or an atomic (R107), and every other ordinary access or
append that follows it (R271). -/
def waitAcked : DevM Unit := fun s => if (s.core s.cur).storesDone then .ok ((), s) else .error (.wait id)

/-- No store stream of the core still has entries to write: one that stands at a fault writes none. -/
def Core.drained (k : Core) : Bool :=
  k.qs.isEmpty || k.sstream.isNone || k.sfault.isSome || (k.staken && k.slot3 != .idle)

/-- Waits before an append: earlier stores are acknowledged, and pushed elements of the store stream are written (R271). -/
def waitAppend : DevM Unit := fun s =>
  if (s.core s.cur).storesDone && (s.core s.cur).drained then .ok ((), s) else .error (.wait id)

/-- The issuing core. -/
def theCore : DevM Core := fun s => .ok (s.core s.cur, s)

/-! ## The issuing slot (R33) -/

/-- Slot 3 issues. -/
def Core.onSys (k : Core) : Bool := k.slot3 != .idle
/-- The registers of the issuing slot. -/
def Core.hart (k : Core) : Hart := if k.onSys then k.s3 else k.s0
/-- Replaces the registers of the issuing slot. -/
def Core.setHart (k : Core) (h : Hart) : Core := if k.onSys then { k with s3 := h } else { k with s0 := h }
/-- The privilege of slot 3 (R40): STATUS.PL. -/
def Core.pl (k : Core) : Nat := bitsOf k.sv.status.toNat 2 2
/-- The privilege of the issuing slot: 0 U, 1 S, 3 M (R33). -/
def Core.priv (k : Core) : Nat := if k.onSys then k.pl else 0
/-- Whether the issuing slot is at U. -/
def Core.user (k : Core) : Bool := k.priv == 0
/-- The multi-step instruction of the issuing slot. -/
def Core.pending (k : Core) : Pend := if k.onSys then k.pend3 else k.pend
/-- Sets it. -/
def Core.setPending (k : Core) (p : Pend) : Core := if k.onSys then { k with pend3 := p } else { k with pend := p }

/-- The instruction waits for something that other instructions or units bring; it is stopped for a pre-emption and issues again after
it (R109, R122, R251). -/
def stallM {α : Type} : CpuM α := fun _ => .error (.wait fun s => s.modCore s.cur fun k => k.setPending .stalled)
/-- Stalls when the condition holds. -/
def stallIf (c : Bool) : CpuM Unit := fun k => if c then stallM k else .ok ((), k)

/-- The instruction has sent something, or knows its answer. -/
def Pend.asked : Pend → Bool
  | .none => false
  | .stalled => false
  | .walked .. => false
  | .idle _ => false
  | .realign .. => false
  | _ => true

/-- PRIV when the issuing slot is below a privilege, with the instruction's word (R65). -/
def needPriv (p : Nat) (i : Instr) : CpuM Unit := fun k =>
  if k.priv < p then .error (.trap causePriv (BitVec.ofNat 64 ((encode i).getD 0))) else .ok ((), k)

/-! ## Completion -/

/-- The next instruction of the slot after one that does not jump: pc + 4, or the next repetition of a REP (R69). -/
def Hart.advance (h : Hart) : Hart :=
  match h.hint with
  | some ⟨a, .rep c x y z, j⟩ =>
    if j + 1 < c then { h with hint := some ⟨a, .rep c x y z, j + 1⟩ } else { h with pc := h.pc + 4, hint := none }
  | _ => { h with pc := h.pc + 4, hint := none }

/-- The slot goes on at a target. -/
def Hart.goto (h : Hart) (t : Word) : Hart := { h with pc := t, hint := none }

/-- The issuing slot completes an instruction and goes on after it. -/
def Core.advance (k : Core) : Core := { (k.setHart k.hart.advance).setPending .none with hostWait := none }
/-- The issuing slot completes an instruction and goes on at a target. -/
def Core.jump (k : Core) (t : Word) : Core := { (k.setHart (k.hart.goto t)).setPending .none with hostWait := none }

/-- What a joined follower becomes when it has completed an instruction that its leader has issued: still joined when both go on
at the same address, or when the leader has yet to complete the instruction, which then is no jump; diverged otherwise (R97, R98). -/
def Follow.compared (f : Follow) (leaderIssued : Nat → Nat) (leaderPc : Nat → Word) (next : Word) : Follow :=
  match f with
  | .joined l n => if leaderPc l = next ∨ leaderIssued l ≤ n then .joined l (n + 1) else .diverged l
  | _ => f

/-- Slot 0 of the issuing core counts a completed instruction, and a follower compares its next PC with its leader's. -/
def State.countIssue (s : State) (k : Core) : Core :=
  if k.onSys then k
  else { k with issued := k.issued + 1
                follow := k.follow.compared (fun l => (s.core l).issued) (fun l => (s.core l).s0.pc) k.s0.pc }

/-- The issuing slot completes and goes on after the instruction. -/
def State.retire (s : State) : State := s.setCore s.cur (s.countIssue (s.core s.cur).advance)
/-- The issuing slot completes and goes on at a target. -/
def State.retireTo (s : State) (t : Word) : State := s.setCore s.cur (s.countIssue ((s.core s.cur).jump t))

/-! ## Followers (R98) -/

/-- Cores joined to a leader detach and go on alone. -/
def State.detachJoined (s : State) (c : Nat) : State :=
  { s with cores := s.cores.map fun p => match p.2.follow with
    | .joined l _ => if l = c then (p.1, { p.2 with follow := .none }) else p
    | _ => p }

/-- A relation without the leader c: a core that waits for it, or that has diverged from it, follows it no longer. -/
def Follow.without (f : Follow) (c : Nat) : Follow :=
  match f with
  | .diverged l => if l = c then .none else f
  | .waiting l t old => if l = c then (match old.filter (· != c) with
      | some o => .diverged o
      | Option.none => .none) else .waiting l t (old.filter (· != c))
  | _ => f

/-- Every relation with a leader ends but that of the joined followers, which end their activation on their own (R96). -/
def State.endLeading (s : State) (c : Nat) : State :=
  { s with cores := s.cores.map fun p => (p.1, { p.2 with follow := p.2.follow.without c }) }

/-- The core is following (R96). -/
def Follow.following : Follow → Bool
  | .waiting .. => true
  | .joined .. => true
  | _ => false

/-! ## Taking an exception (R316, R317, R318) -/

/-- A PC without bits 53:48, which hold a repetition or zero (R69). -/
def plainPc (pc : Word) : Word := pc &&& ~~~(0x003F000000000000 : Word)

/-- The address EPC gets: the PC, or that of the hint, with a REP's repetition in bits 53:48 (R66, R69); so too where channel 60 is
entered between two repetitions (log 74, DESIGN CHOICE). -/
def Hart.epc (h : Hart) : Word :=
  match h.hint with
  | none => plainPc h.pc
  | some p => match p.hint with
    | .rep .. => p.addr + BitVec.ofNat 64 (p.j * 2 ^ 48)
    | .resume => p.addr + BitVec.ofNat 64 (p.j * 2 ^ 48)
    | _ => p.addr

/-- Virtual address of the core's save area (R252). -/
def Core.saveArea (k : Core) : Word := k.sv.htab - 0x1000

/-- The trap frame: x1 to x29 at 0x108 and f0 to f31 at 0x200; the last timestamp, and the state (R317 step 3). -/
def State.writeFrame (s : State) (c : Nat) : Except (Nat × Nat) (Nat × State) :=
  let k := s.core c
  let a := k.saveArea.toNat
  match s.vwrites (k.tenv (dieOf c)) false (a + 0x108) k.pts ((k.s0.x.toList.drop 1).take 29) with
  | .error e => .error e
  | .ok (p, s1) => s1.vwrites (k.tenv (dieOf c)) false (a + 0x200) p k.s0.f.toList

/-- STATUS on entry from slot 0: PL S, PPL U, PLV and PFOL as they stand (R40, R317 step 2). -/
def entryStatus (k : Core) : Word :=
  4 ||| (if k.u.long then 0x10 else 0) ||| (if k.follow.following then 0x20 else 0)

/-- Steps 1, 2 and 4 of R317 on the core: the matrix unit retires, EPC, CAUSE, TVAL and STATUS are set, slot 3 begins
at TVEC in private mode. -/
def Core.enterSys (k : Core) (how : Slot3) (epc : Word) (cause : Nat) (tval : Word) : Core :=
  let k1 := k.retireMatrix
  { k1 with
    sv := { k1.sv with epc := epc, cause := BitVec.ofNat 64 cause, tval := tval, status := entryStatus k }
    u := { k1.u with long := false }
    slot3 := how
    s3 := { k1.s3 with pc := k1.sv.tvec, hint := none }
    s0 := { k1.s0 with hint := none }
    pend := .none
    pend3 := .none
    hostWait := none
    issued := k1.issued + 1
    revoked := false
    follow := .none }

/-- PTS is at least a timestamp. -/
def Core.raisePts (k : Core) (p : Nat) : Core := { k with pts := max k.pts p }

/-- Slot 3 is entered from slot 0 of a core (R317, R319): the frame is written, the followers detach. -/
def State.enterSys (s : State) (c : Nat) (how : Slot3) (epc : Word) (cause : Nat) (tval : Word) : State :=
  let s1 := (s.modCore c fun k => k.enterSys how epc cause tval).detachJoined c
  match s1.writeFrame c with
  | .ok (p, s2) => s2.modCore c fun k => k.raisePts p
  | .error e => s1.faultCtx (s1.core c).sv.ctxid.toNat 2 e.1 (s1.logical c)

/-- A trap of the issuing slot: slot 0 enters slot 3; a trap of slot 3 at S makes the context FAULTED with code 1, and
slot 3 stops (R317, R318). A trap at M has no effect (log 13, DESIGN CHOICE). -/
def State.takeTrap (s : State) (cause : Nat) (tval : Word) : State :=
  let k := s.core s.cur
  if !k.onSys then s.enterSys s.cur .trap k.s0.epc cause tval
  else if k.pl = 3 then s
  else (s.setCore s.cur { k with slot3 := .idle, pend3 := .none }).faultCtx k.sv.ctxid.toNat 1 cause (s.logical s.cur)

/-! ## Returning from one (R322) -/

/-- x1 to x29 and f0 to f31 as the trap frame holds them. -/
def Hart.loaded (h : Hart) (x f : List Word) : Hart :=
  { h with
    x := (List.range 29).foldl (fun v i => v.setIfInBounds (i + 1) (x[i]?.getD 0)) h.x
    f := (List.range 32).foldl (fun v i => v.setIfInBounds i (f[i]?.getD 0)) h.f }

/-- The trap frame read back by ordinary reads: x, f, the last timestamp and the state. -/
def State.readFrame (s : State) (c : Nat) : Except (Nat × Nat) (List Word × List Word × Nat × State) :=
  let k := s.core c
  let a := k.saveArea.toNat
  match s.vreads (k.tenv (dieOf c)) false (a + 0x108) k.pts 29 with
  | .error e => .error e
  | .ok (x, p, s1) => match s1.vreads (k.tenv (dieOf c)) false (a + 0x200) p 32 with
    | .error e => .error e
    | .ok (f, q, s2) => .ok (x, f, q, s2)

/-- Slot 0 resumes at an EPC value: its pc, and the repetition of a REP (R69). -/
def Hart.resumeAt (h : Hart) (e : Word) : Hart :=
  let pc := BitVec.ofNat 64 (slice e 47 0)
  let j := slice e 53 48
  { h with pc := pc, hint := if j = 0 then none else some ⟨pc, .resume, j⟩ }

/-- Slot 3 ends its work and slot 0 goes on at EPC, in long mode again when PLV is set, detached (R322). -/
def Core.leaveSys (k : Core) (x f : List Word) : Core :=
  { k with
    slot3 := .idle
    pend3 := .none
    s3 := { k.s3 with hint := none }
    s0 := (k.s0.loaded x f).resumeAt k.sv.epc
    u := { k.u with long := k.sv.epc != 0 && bitAt k.sv.status 4 } }

/-! ## Running a meaning -/

/-- The outcome of a computation on the package. -/
def runDev (m : DevM Unit) (s : State) : Out :=
  match m s with
  | .ok (_, t) => .next t
  | .error (.trap c v) => .next (s.takeTrap c v)
  | .error (.markTrap f c v) => .next ((f s).takeTrap c v)
  | .error (.wait p) => .next (p s)
  | .error (.fault f) => .fault f

/-- An instruction that goes on after itself. -/
def runInstr (m : DevM Unit) (s : State) : Out :=
  runDev (do m; wr State.retire) s

/-- An instruction of the core alone that goes on after itself. -/
def runCore (m : CpuM Unit) (s : State) : Out := runInstr (onCore m) s

/-- An instruction that names the next PC. -/
def runJump (m : DevM Word) (s : State) : Out :=
  runDev (do let t ← m; wr fun u => u.retireTo t) s

/-- An event: a change of the package that always happens. -/
def runEvent (f : State → State) (s : State) : Out := .next (f s)

end Sys2Proof.Machine
end

