-- ==== Sys2Proof/Machine/Operands.lean ====
section
/-! DEFINITION. Machine/Operands.lean: every operand form: x, f, v, lv and queue registers, immediates with HIMM,
sampled modes with HMOD, scratchpad offsets with their checks (02, R24 to R31; 01, R21; 03, R67, R68). -/
namespace Sys2Proof.Machine

/-! ## Scalar registers -/

/-- Pops qi (R28, R29, R113). -/
def popQi : CpuM Word := fun k =>
  match k.qi with
  | [] => if k.lstream.isSome then stallM k else .error (.trap causeBadOp 30)
  | .data w :: r => .ok (w, { k with qi := r })
  | .fault c va taken :: _ =>
    if taken then stallM k
    else .error (queueTrap (fun q => { q with qi := q.qi.map fun
      | .fault c' va' _ => .fault c' va' true
      | e => e }) c va)

/-- Pushes qs (R27, R29); a pending store-stream fault is taken first (R113). -/
def pushQs (v : Word) : CpuM Unit := fun k =>
  match k.sfault, k.onSys with
  | some (c, va), false => .error (queueTrap (fun q => { q with sfault := none, staken := true }) c va)
  | _, _ =>
    if k.qs.length < 16 then .ok ((), { k with qs := k.qs ++ [v] })
    else if k.sstream.isSome then stallM k
    else .error (.trap causeBadOp 31)

/-- What a push of qs would meet (R29, R113), for an instruction that sends a request before it has its result: it has no effect
where this stops it. -/
def roomX (d : Reg) : CpuM Unit := fun k =>
  if d = 31 ∧ k.pending.asked = false then
    (match pushQs 0 k with
      | .ok _ => .ok ((), k)
      | .error e => .error e)
  else .ok ((), k)

/-- Reads x register r as a source operand; x31 is no source (R29). -/
def getX (r : Reg) : CpuM Word := fun k =>
  if r = 30 then popQi k
  else if r = 31 then .error (.trap causeIllegal 0)
  else if r = 0 then .ok (0, k)
  else .ok (k.hart.x[r.toNat]'r.isLt, k)

/-- Sets a general x register of the issuing slot. -/
def Core.putX (k : Core) (r : Reg) (v : Word) : Core :=
  k.setHart { k.hart with x := k.hart.x.set r.toNat v r.isLt }

/-- Writes x register r: x0 ignores it, x31 pushes qs, x30 is no destination (R24, R29). -/
def setX (r : Reg) (v : Word) : CpuM Unit := fun k =>
  if r = 31 then pushQs v k
  else if r = 30 then .error (.trap causeIllegal 0)
  else if r = 0 then .ok ((), k)
  else .ok ((), k.putX r v)

/-- Writes the result of a request that has had its effect: a push of qs, for which `roomX` has found room, always takes place. -/
def setXDone (r : Reg) (v : Word) : CpuM Unit := fun k =>
  if r = 31 then .ok ((), { k with qs := k.qs ++ [v] }) else setX r v k

/-- Reads f register r. -/
def getF (r : Reg) : CpuM Word := fun k => .ok (k.hart.f[r.toNat]'r.isLt, k)
/-- Sets f register r of the issuing slot. -/
def Core.putF (k : Core) (r : Reg) (v : Word) : Core :=
  k.setHart { k.hart with f := k.hart.f.set r.toNat v r.isLt }
/-- Writes f register r. -/
def setF (r : Reg) (v : Word) : CpuM Unit := fun k => .ok ((), k.putF r v)
/-- Writes a result of width n into f register r, upper bits zero (R25). -/
def setFn (r : Reg) (v : Nat) : CpuM Unit := setF r (BitVec.ofNat 64 v)

/-! ## Vector registers -/

/-- Pops vqi (R28, R29); a pop sends a credit upstream (R150). -/
def popVqi : CpuM VWord := fun k =>
  match k.vqi with
  | [] => if bitAt k.u.stageup 63 then stallM k else .error (.trap causeBadOp 14)
  | v :: r => .ok (v, { k with vqi := r, popped := k.popped + 1 })

/-- Pushes vqo (R29, R150). -/
def pushVqo (v : VWord) : CpuM Unit := fun k =>
  if !bitAt k.u.stagedn 63 then .error (.trap causeBadOp 15)
  else if k.u.window = 0 then stallM k
  else .ok ((), { k with u := { k.u with window := k.u.window - 1 }, pushed := k.pushed ++ [v] })

/-- Reads v register r as a source; v15 is no source (R29). -/
def getV (r : Reg) : CpuM VWord := fun k =>
  if h : r.toNat < 14 then .ok (k.v[r.toNat], k)
  else if r = 14 then popVqi k
  else .error (.trap causeIllegal 0)

/-- Writes v register r; v14 is no destination (R29). -/
def setV (r : Reg) (v : VWord) : CpuM Unit := fun k =>
  if h : r.toNat < 14 then .ok ((), { k with v := k.v.set r.toNat v })
  else if r = 15 then pushVqo v k
  else .error (.trap causeIllegal 0)

/-- In long mode a field of 0 to 7 names a long register (R45, R54). -/
def isLong (k : Core) (r : Reg) : Bool := k.u.long && r.toNat < 8

/-- Width in bits of the register a field names. -/
def vBits (long : Bool) : Nat := if long then 2048 else 256

/-- R124: every field names a long register, or none does; BADOP with the first mixing field otherwise. -/
def vecMode (fields : List Reg) : CpuM Bool := fun k =>
  match fields with
  | [] => .ok (false, k)
  | r :: rest =>
    let l := isLong k r
    match rest.find? fun q => isLong k q != l with
    | some q => .error (.trap causeBadOp (q.zeroExtend 64))
    | none => .ok (l, k)

/-- Reads a vector register as a number of 256 or 2,048 bits. -/
def getVN (long : Bool) (r : Reg) : CpuM Nat := fun k =>
  if long then .ok ((k.lv[r.toNat]?.getD 0).toNat, k)
  else match getV r k with
    | .ok (v, k') => .ok (v.toNat, k')
    | .error e => .error e

/-- Writes a vector register. -/
def setVN (long : Bool) (r : Reg) (v : Nat) : CpuM Unit := fun k =>
  if long then .ok ((), { k with lv := k.lv.setIfInBounds r.toNat (BitVec.ofNat 2048 v) })
  else setV r (BitVec.ofNat 256 v) k

/-! ## Lanes (R123) -/

/-- Lane i of width w. -/
def lane (v w i : Nat) : Nat := bitsOf v (w * i) w
/-- A register from its lanes, lane 0 lowest. -/
def ofLanes (w : Nat) : List Nat → Nat
  | [] => 0
  | x :: r => x % 2 ^ w + ofLanes w r * 2 ^ w
/-- The n lanes of a register. -/
def lanes (v w n : Nat) : List Nat := (List.range n).map (lane v w)

/-! ## Immediates and modes -/

/-- The signed immediate of an instruction: sext(imm16, 16), or with a HIMM before it sext(payload : imm16, 39) (R67). -/
def immOf (k : Core) (i : BitVec 16) : Word :=
  match k.hart.hint with
  | some ⟨_, .himm p, _⟩ => wordOfInt (sextNat (p.toNat * 65536 + i.toNat) 39)
  | _ => i.signExtend 64

/-- Reads the immediate. -/
def getImm (i : BitVec 16) : CpuM Word := fun k => .ok (immOf k i, k)

/-- The modes of FCTL, with the field that an HMOD replaces (R68, R79). -/
def modesOf (k : Core) : Modes :=
  let c := k.u.fctl
  let m : Modes := { rm := bitsOf c.toNat 0 2, ftz := bitAt c 2, daz := bitAt c 3, sat := bitAt c 4 }
  match k.hart.hint with
  | some ⟨_, .hmod (.rm r), _⟩ => { m with rm := r.toNat }
  | some ⟨_, .hmod (.sat b), _⟩ => { m with sat := b }
  | some ⟨_, .hmod (.ftz f d), _⟩ => { m with ftz := f, daz := d }
  | _ => m

/-- Samples the modes. -/
def getModes : CpuM Modes := fun k => .ok (modesOf k, k)
/-- ORs flags into FFLAGS (R78). -/
def addFlags (f : FFlags) : CpuM Unit := wr fun k => k.orFlags f

/-! ## Scratchpad offsets -/

/-- The checks of ReadSP and WriteSP (R21): SPRANGE, then MISALIGN. -/
def checkSp (off : Word) (n : Nat) : CpuM Unit := fun k =>
  if spSize < off.toNat + n then .error (.trap causeSpRange off)
  else if off.toNat % n ≠ 0 then .error (.trap causeMisalign off)
  else .ok ((), k)

/-- The checks of a matrix or bit-plane operand (R153, R156, R169): MISALIGN, then SPRANGE. -/
def checkOperand (off : Word) (n align : Nat) : CpuM Unit := fun k =>
  if off.toNat % align ≠ 0 then .error (.trap causeMisalign off)
  else if spSize < off.toNat + n then .error (.trap causeSpRange off)
  else .ok ((), k)

/-- Waits while the matrix unit uses the bytes (R157). -/
def waitMat (off n : Nat) (write : Bool) : CpuM Unit := fun k =>
  if k.matBusy off n write then .error (.wait id) else .ok ((), k)

/-- Waits until the matrix unit is free (R155). -/
def waitMatFree : CpuM Unit := fun k => if k.mat.isSome then .error (.wait id) else .ok ((), k)

/-! ## Chain traffic of a completed instruction (R150) -/

/-- Hands the pops and pushes of the instruction to the network. -/
def State.flushChain (s : State) : State :=
  let k := s.core s.cur
  if k.popped = 0 ∧ k.pushed = [] then s
  else
    let up := bitsOf k.u.stageup.toNat 0 12
    let dn := bitsOf k.u.stagedn.toNat 0 12
    let cr : List Credit := if k.popped = 0 then [] else
      match s.physical up with
      | some c => [{ src := s.cur, dst := c, amount := k.popped, kind := .add }]
      | none => []
    let ps : List Push := match s.physical dn with
      | some c => k.pushed.map fun v => { src := s.cur, dst := c, val := v }
      | none => []
    let s1 := s.setCore s.cur { k with popped := 0, pushed := [] }
    { s1 with credits := s1.credits ++ cr, pushes := s1.pushes ++ ps }

/-- An instruction of the core that may pop vqi or push vqo. -/
def runVec (m : CpuM Unit) (s : State) : Out :=
  runInstr (do onCore m; wr State.flushChain) s

end Sys2Proof.Machine
end

