-- ==== Sys2Proof/Machine/Fetch.lean ====
section
/-! DEFINITION. Machine/Fetch.lean: which core may issue, the fetch of its next word with its translation, and the
checks of hints and repetitions made before a target issues (03, R65 to R69; 05, R96, R97, R100; 14, R283, R286). -/
namespace Sys2Proof.Machine

/-! ## Hints and their targets, read from the target's word (R67, R68) -/

/-- The major of a word. -/
def majOf (w : Nat) : Nat := bitsOf w 26 6
/-- The op of a word of format A or Q. -/
def opOf (w : Nat) : Nat := bitsOf w 0 6

/-- Majors of loads and stores, 0x18 to 0x24. -/
def memMajor (m : Nat) : Bool := 0x18 ≤ m && m ≤ 0x24
/-- VMEM ops that access memory. -/
def vmemOp (w : Nat) : Bool := majOf w == 0x27 && (opOf w ≤ 1 || (4 ≤ opOf w && opOf w ≤ 8))
/-- Codes 0 to 3, 12 and 13. -/
def fpCode (c : Nat) : Bool := c ≤ 3 || c == 12 || c == 13

/-- Targets of HIMM. -/
def himmTakes (w : Nat) : Bool :=
  let m := majOf w
  (2 ≤ m && m ≤ 7) || m == 9 || m == 0xA || (0x10 ≤ m && m ≤ 0x15) || m == 0x17 || memMajor m

/-- Targets of an HMOD. -/
def hmodTakes (h : HMod) (w : Nat) : Bool :=
  let m := majOf w
  let op := opOf w
  let e := (fE w).toNat
  let b := (fB w).toNat
  let vfma := m == 0x33 && (op ≤ 5 || op == 7)
  match h with
  | .rm _ => (m == 0x30 && (op ≤ 4 || (14 ≤ op && op ≤ 16))) || m == 0x31
      || (m == 0x32 && (((op ≤ 2 || op == 17 || op == 18) && e ≤ 3) || (op == 17 && (fpCode e || fpCode b))))
      || vfma || (m == 0x3A && op == 0) || (m == 0x39 && op == 3)
  | .sat _ => ((m == 0x30 && op == 14) || (m == 0x32 && op == 17)) && (e == 12 || e == 13)
  | .na => memMajor m || vmemOp w
  | .ftz .. => m == 0x30 || m == 0x31 || (m == 0x32 && (if op = 17 then b ≤ 3 || e ≤ 3 else decide (e ≤ 3 ∧ op < 25))) || vfma

/-- Targets of REP. -/
def repTakes (w : Nat) : Bool :=
  let m := majOf w
  !(m == 0x0B || (0x10 ≤ m && m ≤ 0x17) || m == 0x29 || m == 0x2E || m == 0x3C || m == 0x3F)
    && !(m == 0x2A && (opOf w == 3 || opOf w == 4)) && !(m == 0x2B && (opOf w == 0 || opOf w == 4))

/-- Whether a hint accepts the word as its target. -/
def Hint.takes (h : Hint) (w : Nat) : Bool :=
  match h with
  | .himm _ => himmTakes w
  | .hmod m => hmodTakes m w
  | .hsched => memMajor (majOf w) || vmemOp w || majOf w == 0x28
  | .rep .. => repTakes w
  | .realign _ => majOf w != 0x3F
  | .met => majOf w != 0x3F
  | .resume => false
  | .barw _ => majOf w == 0x2E && opOf w == 2

/-! ## Repetition (R69) -/

/-- Which of the fields d, a and b of a word of format A, I, Q or M name registers; for format B, a and b. -/
def steppedFields (w : Nat) : Bool × Bool × Bool :=
  let m := majOf w
  let op := opOf w
  if m = 0x01 then (true, true, op ≤ 26 || op == 31)
  else if 2 ≤ m ∧ m ≤ 8 then (true, true, false)
  else if m = 9 ∨ m = 0xA ∨ m = 0xC then (true, false, false)
  else if m = 0xD then (false, true, false)
  else if (0x18 ≤ m ∧ m ≤ 0x1F) ∨ m = 0x25 then (true, true, false)
  else if (0x20 ≤ m ∧ m ≤ 0x24) ∨ m = 0x26 then (false, true, true)
  else if m = 0x27 then (decide (op ≤ 6), true, true)
  else if m = 0x28 then (true, true, true)
  else if m = 0x2A then (op == 1 || op == 2 || op == 10 || op == 11 || ((op == 0 || op == 12) && fQE w != 0), op ≤ 2 || op == 5 || op == 11, false)
  else if m = 0x2B then (op == 2, true, op == 1 || op == 5)
  else if m = 0x2C then (op == 0 || op == 3 || op == 4, true, op == 2 || op == 3)
  else if m = 0x2D then (op == 2, true, decide (op ≤ 1))
  else if m = 0x30 then (true, true, op ≤ 3 || (5 ≤ op && op ≤ 9) || (11 ≤ op && op ≤ 13))
  else if m = 0x31 ∨ m = 0x33 ∨ m = 0x38 then (true, true, true)
  else if m = 0x32 then (true, op != 27, op ≤ 14 || (21 ≤ op && op ≤ 24))
  else if m = 0x34 then (true, op != 7, false)
  else if m = 0x35 then (op == 2, false, false)
  else if m = 0x39 then (true, op != 0 && op != 4 && op != 6, op == 1 || op == 2 || op == 3)
  else if m = 0x3A then (true, true, decide (op ≤ 1))
  else (false, false, false)

/-- Lowest bit and largest number of the fields that the d, a and b steps reach. -/
def stepPlaces (w : Nat) : (Nat × Nat) × (Nat × Nat) × (Nat × Nat) :=
  let m := majOf w
  if (0x20 ≤ m ∧ m ≤ 0x24) ∨ m = 0x26 then ((0, 0), (21, 31), (16, 31))
  else if m = 0x38 then ((24, 3), (16, 31), (11, 31))
  else ((21, 31), (16, 31), (11, 31))

/-- Adds a step to a field; none where the number leaves its file, or the field names no register. -/
def stepField (w : Nat) (used : Bool) (place : Nat × Nat) (step j : Nat) : Option Nat :=
  if step = 0 then some w
  else if !used then none
  else
    let len := if place.2 = 3 then 2 else 5
    if place.2 < bitsOf w place.1 len + j * step then none else some (w + j * step * 2 ^ place.1)

/-- The word of repetition j. -/
def stepWord (w j ds as bs : Nat) : Option Nat :=
  let u := steppedFields w
  let p := stepPlaces w
  ((stepField w u.1 p.1 ds j).bind fun w1 => stepField w1 u.2.1 p.2.1 as j).bind fun w2 => stepField w2 u.2.2 p.2.2 bs j

/-- The instruction of repetition j. -/
def stepInstr (w j ds as bs : Nat) : Option Instr := (stepWord w j ds as bs).bind decodeNat

/-- Every repetition below n is an instruction: a stepped word that breaks any rule of decoding makes the REP illegal (log 61,
DESIGN CHOICE, for a rule other than those that R69 names). -/
def stepsOk (w ds as bs : Nat) : Nat → Bool
  | 0 => true
  | n + 1 => stepsOk w ds as bs n && (stepInstr w n ds as bs).isSome

/-- The word of a REP, for TVAL. -/
def repWord (c ds as bs : Nat) : Nat := packH 3 ((c - 1) * 2 ^ 17 + ds * 2 ^ 14 + as * 2 ^ 11 + bs * 2 ^ 8)

/-- What a word in the issuing slot does: the instruction, or the word that is illegal (R64, R66, R69). -/
def Hart.instr (h : Hart) (w : Nat) : Except Nat Instr :=
  match h.hint with
  | none => match decodeNat w with
    | some i => .ok i
    | none => .error w
  | some p => match p.hint with
    | .rep c ds as bs =>
      match decodeNat w with
      | none => .error w
      | some _ =>
        if !repTakes w then .error w
        else if !stepsOk w ds as bs c then .error (repWord c ds as bs)
        else match stepInstr w p.j ds as bs with
          | some i => .ok i
          | none => .error (repWord c ds as bs)
    | .resume => match decodeNat w with
      | some (.rep c ds as bs) => if p.j < c.toNat + 1 then .ok (.rep c ds as bs) else .error w
      | _ => .error w
    | x => match decodeNat w with
      | some i => if x.takes w then .ok i else .error w
      | none => .error w

/-! ## Who may issue -/

/-- A hint waits for its target: nothing comes between (R66). Between two repetitions the slot stands at a boundary (R69, R251). -/
def Hart.inPair (h : Hart) : Bool :=
  match h.hint with
  | none => false
  | some p => match p.hint with
    | .rep .. => p.j == 0
    | .resume => false
    | .barw _ => false
    | _ => true

/-- No FOLLOW joins at the PC: a hint, a REP between its repetitions too, has still to act on its target (R66). -/
def Hart.inHint (h : Hart) : Bool :=
  match h.hint with
  | none => false
  | some p => match p.hint with
    | .rep .. => true
    | _ => h.inPair

/-- Cycles in which a FOLLOW may join (R96). -/
def followLimit : Nat := 1024

/-- The core has issued an instruction with its group and has not ended it, though its leader, or a follower, has (R97; log 21,
DEDUCED). -/
def State.late (s : State) (c : Nat) : Bool :=
  (match (s.core c).follow with
    | .joined l n => decide (n < (s.core l).issued)
    | _ => false)
  || s.cores.any fun p => match p.2.follow with
    | .joined l n => l == c && decide ((s.core c).issued < n)
    | _ => false

/-- A follower of the core has still to end an instruction that the core has ended. -/
def State.awaits (s : State) (c : Nat) : Bool :=
  s.cores.any fun p => match p.2.follow with
    | .joined l n => l == c && decide (n < (s.core c).issued)
    | _ => false

/-- A follower waits to join at the core's PC: it joins before the core issues (R96). -/
def State.joinDue (s : State) (c : Nat) : Bool :=
  let k := s.core c
  s.cores.any fun p => match p.2.follow with
    | .waiting l t _ => l == c && p.2.s0.pc == k.s0.pc && decide (s.cycle < t + followLimit) && !k.s0.inHint
    | _ => false

/-- The core may issue on its own: it is no follower that waits or goes with its leader, and it holds for none of its own; one
that is late ends what it has issued. -/
def State.alone (s : State) (c : Nat) : Bool :=
  s.late c || ((match (s.core c).follow with
    | .joined .. => false
    | .waiting .. => false
    | _ => true) && !s.awaits c && !s.joinDue c)

/-- Slot 0 has sent a request whose answer its instruction still takes (R251 step 3). -/
def Core.answering (k : Core) : Bool := match k.pend with
  | .sent => true
  | .got _ => true
  | .granted _ => true
  | .lines .. => true
  | .bad .. => true
  | .released => true
  | .staging => true
  | _ => false

/-- The lane at which a SENDNZ goes on (R193). -/
def Core.scanAt (k : Core) : Option Nat := match k.pend with
  | .scan i => some i
  | _ => none

/-- Slot 0's instruction waits and can be stopped, with the hint before it (R109, R122, R193, R251). -/
def Core.waitsOn (k : Core) : Bool := match k.pend with
  | .stalled => true
  | .idle _ => true
  | .waitOnly .. => true
  | .scan _ => true
  | .realign .. => true
  | _ => false

/-- Slot 0 stands at an instruction boundary: no hint and its target under way, no answer on its way; or its instruction waits. -/
def Core.stands (k : Core) : Bool := k.waitsOn || (!k.s0.inPair && !k.answering)

/-- Slot 3 or slot 0 of the core runs, and nothing outside its group holds it (R33, R184, R251, R320, R384). -/
def State.mayRun (s : State) (c : Nat) : Bool :=
  let k := s.core c
  !k.gated && !k.halted
  && (k.onSys || (k.act.isSome && (k.preempt == .none || (k.preempt == .requested && (k.s0.inPair || k.answering)))))

/-- The core may issue now, as one that follows nobody, as a leader with its followers, or as one of a group that is late. -/
def State.mayIssue (s : State) (c : Nat) : Bool := s.mayRun c && ((s.core c).onSys || s.alone c)

/-! ## Waiting before a REALIGN target (R100) -/

/-- The leader from which a core has diverged, until it joins again (R98). -/
def Follow.left : Follow → Option Nat
  | .diverged l => some l
  | .waiting _ _ old => old
  | _ => Option.none

/-- The core is a leader with diverged followers, or a diverged follower. -/
def State.realigns (s : State) (c : Nat) : Bool :=
  (s.core c).follow.left.isSome || s.cores.any fun p => p.2.follow.left == some c

/-- The core holds at a REALIGN target. -/
def State.holdsAt (s : State) (c : Nat) : Bool :=
  let k := s.core c
  !k.onSys && (match k.s0.hint with
    | some ⟨_, .realign _, _⟩ => s.realigns c
    | _ => false)

/-- The core begins to hold, or holds on. -/
def State.hold (s : State) (c : Nat) : State :=
  match (s.core c).pend with
  | .realign .. => s
  | _ => s.modCore c fun k => { k with pend := .realign s.cycle false }

/-! ## Fetch (R65 step 1, R283, R286) -/

/-- The fetch of the issuing slot's word. -/
inductive Fetched where
  /-- Nothing issues in this step. -/
  | idle (s : State)
  /-- The fetch traps. -/
  | bad (cause : Nat) (va : Word) (s : State)
  /-- The word at the PC. -/
  | word (w : Nat) (s : State)

/-- Walk requests that a bay's walker holds at most: 8 in flight and 256 queued (R286). -/
def walkLimit : Nat := 264

/-- Sends a walk request to the bay's walker, unless it is on its way or the queue is full. -/
def State.askWalk (s : State) (c : Nat) (user : Bool) (acc : Acc) (va : Nat) : State :=
  let b := c / 36
  let r : WalkReq := { bay := b, core := c, ctx := (s.core c).sv.ctxid.toNat, va := va, acc := acc, user := user }
  if s.walks.contains r || walkLimit ≤ (s.walks.filter fun q => q.bay == b).length then s
  else { s with walks := s.walks ++ [r] }

/-- The host windows and steps 2 to 5 of R283 on a translation that a core holds: a host byte lies in a window, the frame of the
accessed byte is the context's, and the leaf allows the access. -/
def State.hitOk (s : State) (k : Core) (acc : Acc) (t : TlbEntry) (va : Nat) : Bool :=
  let e := k.tenv (dieOf s.cur)
  !s.beyondWindows e.die (t.pa va) && s.frameOk e.ctx acc (t.pa va) && leafAllows k.user acc .none t.leaf && s.protoOk e t.leaf

/-- The cause with which such a translation traps: a byte outside the windows is not present (R283, R377). -/
def State.hitCause (s : State) (t : TlbEntry) (va : Nat) : Nat :=
  if s.beyondWindows (dieOf s.cur) (t.pa va) then causeNotPresent else causeProt

/-- The fetch of the word at the PC of core `cur`. -/
def State.fetch (s : State) : Fetched :=
  let k := s.core s.cur
  let va := k.hart.pc.toNat
  match k.pending with
  | .walked .fetch v c => if v = va then .bad c k.hart.pc s else .idle (s.modCore s.cur fun q => q.setPending .none)
  | _ =>
    if 2 ^ 48 ≤ va then .bad causeNotPresent k.hart.pc s
    else match s.tlbHit s.cur va with
      | none => .idle (s.askWalk s.cur k.user .fetch va)
      | some (t, s1) =>
        if s.hitOk k .fetch t va then .word (s.bytes (t.pa va) 4) s1 else .bad (s.hitCause t va) k.hart.pc (s.dropStale s.cur va)

/-! ## What core `cur` does next -/

/-- What issues: nothing, or an instruction at a state. -/
inductive Issue where
  | none (s : State)
  | run (i : Instr) (s : State)

/-- The trap at the word of a resumed repetition is at that word, with no repetition in EPC: it is no REP, or its fetch faults (R69). -/
def State.dropNamed (s : State) : State :=
  s.modCore s.cur fun k => match k.hart.hint with
    | some ⟨_, .resume, _⟩ => k.setHart { k.hart with hint := Option.none }
    | _ => k

/-- The checks of a REP fail before repetition 0: the trap is at its word, with no repetition in EPC (R69). -/
def State.dropResume (s : State) : State :=
  s.dropNamed.modCore s.cur fun k => match k.hart.hint with
    | some ⟨a, .rep c x y z, _⟩ => k.setHart { k.hart with hint := some ⟨a, .rep c x y z, 0⟩ }
    | _ => k

/-- The next instruction of a core that runs. -/
def State.issueOf (s : State) (c : Nat) : Issue :=
  match s.fetch with
  | .idle t => .none t
  | .bad cause va t => .run (.fetchFault cause va) t.dropNamed
  | .word w t => match (t.core c).hart.instr w with
    | .error bad => .run (.illegalWord (BitVec.ofNat 32 bad)) t.dropResume
    | .ok i => if t.holdsAt c then .none (t.hold c) else .run i t

/-- The next instruction of a core. -/
def State.issue (s0 : State) (c : Nat) : Issue :=
  let s := { s0 with cur := c }
  if s.mayIssue c then s.issueOf c else .none s

/-- Nanoseconds of device time after n cycles of the 850 MHz clock: 20 in every 17 cycles (R3, R10). -/
def nsOf (n : Nat) : Nat := 20 * n / 17

/-- Cycles pass, and the device time that they take (R35: CYCLE and TIME); the log takes the entries of the cycle that ends (R383). -/
def State.pass (s0 : State) (cycles : Nat) : State :=
  let s := if cycles = 0 then s0 else s0.celFlush
  { s with cycle := s.cycle + cycles, time := s.time + (nsOf (s.cycle + cycles) - nsOf s.cycle) }

/-! ## Planting an instruction (log 4, DESIGN CHOICE) -/

/-- Address at which the host's probe places its word, virtual and, from the start of DRAM, physical. -/
def plantVa : Nat := 0x1000

/-- The translation of the probe's page: read, write, fetch, user, accessed and dirty. -/
def plantEntry (ctx : Nat) : TlbEntry :=
  { ctx := ctx, page := 1, bits := 12, leaf := BitVec.ofNat 64 (dramBase + plantVa + 0xDF), base := 0, mask := 0 }

/-- Slot 0 of a core runs an activation of channel 0 with its PC at the probe's word. -/
def Core.planted (k : Core) : Core :=
  { k with
    act := some { ch := 0, ahdr := 0, hasMsg := false }
    slot3 := .idle
    halted := false
    gated := false
    preempt := .none
    pend := .none
    follow := .none
    s0 := { k.s0 with pc := BitVec.ofNat 64 plantVa, hint := Option.none }
    tlb := (plantEntry k.sv.ctxid.toNat :: k.tlb).take 32 }

/-- The state in which core `cur` issues the instruction of the given bytes next: the probe's frame is its context's. -/
def State.plant (s : State) (bytes : List Byte) : State :=
  let s0 := s.settle (dramBase + plantVa)
  let s1 := s0.modDie 0 fun d => { d with frames := insertK d.frames 0 (.mapped (s0.core s0.cur).sv.ctxid.toNat) }
  { (s1.modCore s1.cur Core.planted) with
    agenda := []
    mem := cellSets s1.mem (dramBase + plantVa) bytes
    cores := (s1.modCore s1.cur Core.planted).cores.map fun p => match p.2.follow with
      | .joined l _ => if l = s1.cur then (p.1, { p.2 with follow := .none }) else p
      | .waiting l _ _ => if l = s1.cur then (p.1, { p.2 with follow := .none }) else p
      | _ => p }

/-- Rows that a turn of the agenda may name as an event: those without a word, but not the two that only a fetch
leads to (log 6, DESIGN CHOICE). -/
def isEventRow (i : Instr) : Bool :=
  match i with
  | .illegalWord _ => false
  | .fetchFault .. => false
  | _ => (encode i).isNone

end Sys2Proof.Machine
end

