-- ==== Sys2Proof/Machine/Proto.lean ====
section
/-! DEFINITION. Machine/Proto.lean: protocol tables, region splits, and what a home does with an event of a region
(15_protocol.md, R295 to R302). -/
namespace Sys2Proof.Machine

/-! ## Cells (R297) -/

/-- The actions of R299, as bits of a mask. -/
def aRDATA : Nat := 1
/-- WDATA. -/
def aWDATA : Nat := 2
/-- ADDS. -/
def aADDS : Nat := 4
/-- CLRS. -/
def aCLRS : Nat := 8
/-- SETO. -/
def aSETO : Nat := 16
/-- CLRO. -/
def aCLRO : Nat := 32
/-- TIMER. -/
def aTIMER : Nat := 64
/-- FWD. -/
def aFWD : Nat := 128
/-- BCAST. -/
def aBCAST : Nat := 256
/-- RETRY. -/
def aRETRY : Nat := 512
/-- LOG. -/
def aLOG : Nat := 1024
/-- REVERT. -/
def aREVERT : Nat := 2048

/-- An entry from its fields. -/
def cellOf (next act msg guard tsr : Nat) : Nat :=
  next * 2 ^ 28 + act * 2 ^ 16 + msg * 2 ^ 12 + guard * 2 ^ 8 + tsr * 2 ^ 4 + 1

/-- NEXT of an entry. -/
def cNext (w : Nat) : Nat := bitsOf w 28 4
/-- ACT of an entry has the action. -/
def cHas (w a : Nat) : Bool := Nat.land (bitsOf w 16 12) a != 0
/-- MSG of an entry. -/
def cMsg (w : Nat) : Nat := bitsOf w 12 4
/-- GUARD of an entry. -/
def cGuard (w : Nat) : Nat := bitsOf w 8 4
/-- TSR of an entry. -/
def cTsr (w : Nat) : Nat := bitsOf w 4 4

/-! ## The built-in tables (R302; the rows that R302 does not print are log 20, DEDUCED) -/

/-- The LEXP and FENCED entry of a state; a transient state tells its requester to try again. -/
def lossCell (transient : Bool) : Nat :=
  cellOf 0 (aCLRS + aCLRO + aLOG + aREVERT + (if transient then aRETRY else 0)) 0 0 0

/-- Table 0: I 0, S 1, X 2, XS 3, XX 4, XR 5. -/
def table0 (st ev : Nat) : Nat :=
  let keep := cellOf st 0 0 0 0
  let busy := cellOf st aRETRY 0 6 0
  if ev = 8 ∨ ev = 9 then lossCell (3 ≤ st ∧ st ≤ 5)
  else match st, ev with
  | 0, 0 => cellOf 1 (aRDATA + aADDS) 1 0 1
  | 0, 1 => cellOf 2 (aRDATA + aCLRS + aSETO) 2 0 2
  | 0, 6 => cellOf 0 aWDATA 3 0 2
  | 0, 7 => cellOf 0 (aRDATA + aWDATA) 8 0 2
  | 1, 0 => cellOf 1 (aRDATA + aADDS) 1 0 1
  | 1, 1 => cellOf 2 (aRDATA + aCLRS + aSETO) 2 0 2
  | 1, 6 => cellOf 1 aWDATA 3 0 2
  | 1, 7 => cellOf 1 (aRDATA + aWDATA) 8 0 2
  | 1, 10 => cellOf 0 0 0 0 0
  | 2, 0 => cellOf 3 (aTIMER + aFWD) 5 2 0
  | 2, 1 => cellOf 4 (aTIMER + aFWD) 4 0 0
  | 2, 2 => cellOf 0 (aWDATA + aCLRO) 0 1 4
  | 2, 4 => cellOf 0 (aWDATA + aCLRO) 0 1 4
  | 2, 6 => cellOf 5 (aTIMER + aFWD) 4 0 0
  | 2, 7 => cellOf 5 (aTIMER + aFWD) 4 0 0
  | 2, 10 => cellOf 5 (aTIMER + aFWD) 4 0 0
  | 3, 2 => cellOf 3 aWDATA 0 0 4
  | 3, 4 => cellOf 1 (aRDATA + aWDATA + aADDS + aCLRO) 1 0 5
  | 3, 5 => cellOf 2 aRETRY 0 0 0
  | 3, 10 => cellOf 5 aTIMER 0 0 0
  | 4, 2 => cellOf 4 aWDATA 0 0 4
  | 4, 4 => cellOf 2 (aRDATA + aWDATA + aCLRS + aSETO) 2 0 6
  | 4, 5 => cellOf 2 aRETRY 0 0 0
  | 4, 10 => cellOf 5 aTIMER 0 0 0
  | 5, 2 => cellOf 5 aWDATA 0 0 4
  | 5, 4 => cellOf 0 (aWDATA + aCLRO + aRETRY) 0 0 4
  | 5, 5 => cellOf 2 aRETRY 0 0 0
  | s, e => if 3 ≤ s ∧ s ≤ 5 ∧ (e = 0 ∨ e = 1 ∨ e = 6 ∨ e = 7) then busy else keep

/-- The state that follows a code of S in tables whose S has several codes, so that every code is reachable (R303). -/
def nextShared (skip st : Nat) : Nat := if st = 0 then 1 else if st = 1 then skip else min 15 (st + 1)

/-- Table 1: I 0, S 1 to 15. -/
def table1 (st ev : Nat) : Nat :=
  match ev with
  | 0 => cellOf (nextShared 2 st) (aRDATA + aADDS) 1 0 1
  | 6 => cellOf st (aWDATA + aBCAST) 6 0 3
  | 7 => cellOf st (aRDATA + aWDATA) 8 0 3
  | 8 | 9 => lossCell false
  | 10 => if st = 0 then cellOf 0 0 0 0 0 else cellOf 0 aBCAST 7 0 0
  | _ => cellOf st 0 0 0 0

/-- Table 2: I 0, S 1 and 4 to 15, X 2, XX 3. -/
def table2 (st ev : Nat) : Nat :=
  if ev = 8 ∨ ev = 9 then lossCell (st == 3)
  else if st = 2 then
    match ev with
    | 0 => cellOf 3 (aTIMER + aFWD) 4 2 0
    | 1 | 6 | 7 | 10 => cellOf 3 (aTIMER + aFWD) 4 0 0
    | 2 => cellOf 0 (aWDATA + aCLRO) 0 1 4
    | 4 => cellOf 0 (aWDATA + aCLRO) 0 1 4
    | _ => cellOf 2 0 0 0 0
  else if st = 3 then
    match ev with
    | 0 | 1 | 6 | 7 => cellOf 3 aRETRY 0 6 0
    | 2 => cellOf 3 aWDATA 0 0 4
    | 4 => cellOf 0 (aWDATA + aCLRO + aRETRY) 0 0 4
    | 5 => cellOf 2 aRETRY 0 0 0
    | _ => cellOf 3 0 0 0 0
  else
    match ev with
    | 0 | 1 => cellOf 2 (aRDATA + aCLRS + aSETO) 2 0 2
    | 6 => cellOf (nextShared 4 st) aWDATA 3 0 2
    | 7 => cellOf (nextShared 4 st) (aRDATA + aWDATA) 8 0 2
    | 10 => cellOf 0 0 0 0 0
    | _ => cellOf st 0 0 0 0

/-- Table 3: I 0, S 1 to 15. -/
def table3 (st ev : Nat) : Nat :=
  match ev with
  | 0 => cellOf (nextShared 2 st) (aRDATA + aADDS) 1 0 1
  | 6 => cellOf st aWDATA 3 0 2
  | 7 => cellOf st (aRDATA + aWDATA) 8 0 2
  | 8 | 9 => lossCell false
  | 10 => if st = 0 then cellOf 0 0 0 0 0 else cellOf 0 aBCAST 7 0 0
  | _ => cellOf st 0 0 0 0

/-- An entry of a built-in table; events 11 to 15 keep the state. -/
def romCell (k st ev : Nat) : Nat :=
  if 11 ≤ ev then cellOf st 0 0 0 0
  else match k with
  | 0 => table0 st ev
  | 1 => table1 st ev
  | 2 => table2 st ev
  | _ => table3 st ev

/-- TCFG from LEASE, TOUT and TMASK (R297). -/
def tcfgOf (lease tout tmask : Nat) : Nat := lease * 2 ^ 32 + tout * 2 ^ 16 + tmask

/-- TCFG of a built-in table (R302). -/
def romCfg (k : Nat) : Nat :=
  match k with
  | 0 => tcfgOf 10 12 0x38
  | 1 => tcfgOf 10 12 0
  | 2 => tcfgOf 10 12 8
  | _ => tcfgOf 65535 12 0

/-- A 64-bit word of the image of a built-in table. -/
def romWord (k off : Nat) : Nat :=
  if off < 0x400 then
    let n := off / 4
    romCell k (n / 16) (n % 16) + romCell k ((n + 1) / 16) ((n + 1) % 16) * 2 ^ 32
  else if off = 0x400 then romCfg k
  else 0

/-! ## The table in force (R302, R304) -/

/-- The image that a context has loaded for a selector. -/
def State.image (s : State) (ctx sel : Nat) : Option (List Byte) :=
  (s.tables.find? fun t => t.1 == ctx && t.2.1 == sel).map fun t => t.2.2

/-- n bytes of an image as a number. -/
def imageNat (img : List Byte) (off n : Nat) : Nat := bytesNat ((img.drop off).take n)

/-- The entry for a state and an event. -/
def State.cell (s : State) (ctx sel st ev : Nat) : Nat :=
  if sel = 0 then romCell 0 st ev
  else match s.image ctx sel with
    | some img => imageNat img (4 * (16 * st + ev)) 4
    | none => romCell 0 st ev

/-- TCFG of the table in force. -/
def State.tcfg (s : State) (ctx sel : Nat) : Nat :=
  if sel = 0 then romCfg 0
  else match s.image ctx sel with
    | some img => imageNat img 0x400 8
    | none => romCfg 0

/-- A state is transient. -/
def State.transient (s : State) (ctx sel st : Nat) : Bool := bitsOf (s.tcfg ctx sel) st 1 == 1

/-- A writer gains ownership under the table: its RDX entry of state 0 answers GRANTX (log 20, DEDUCED). -/
def State.owns (s : State) (ctx sel : Nat) : Bool := cMsg (s.cell ctx sel 0 1) == 2

/-! ## Regions: creation and splits (R295, R296) -/

/-- The largest aligned block around an address, up to 64 KiB, that meets no region of the home; halved with fuel. -/
def State.freeBlock (s : State) (home pa : Nat) : Nat → Nat → Nat × Nat
  | 0, size => (pa / size * size, size)
  | fuel + 1, size =>
    if s.regions.any fun r => r.home == home && meets (pa / size * size) size r.base r.size
    then State.freeBlock s home pa fuel (size / 2)
    else (pa / size * size, size)

/-- The least recently used region of a list. -/
def leastUsed : List RegionEntry → Option RegionEntry
  | [] => none
  | r :: rest => match leastUsed rest with
    | none => some r
    | some q => if q.last < r.last then some q else some r

/-- The floor of a slice rises to EVR of a dropped entry, and the entry goes (R292). -/
def State.dropRegion (s : State) (r : RegionEntry) : State :=
  { s with
    regions := s.regions.filter fun q => !(q.home == r.home && q.base == r.base)
    floors := insertK s.floors r.home (max r.evr ((lookupK s.floors r.home).getD 0)) }

/-- The region that covers an address, made when none does; one in state 0 goes on under the table of the page asked for; with 4,096
entries one in state 0 is dropped, and where
none is in state 0 the least recently used is recalled and the request waits. -/
def State.ensureRegion (s : State) (home pa ctx sel : Nat) : State × Option RegionEntry :=
  match s.region? home pa with
  | some r =>
    let r1 := if r.st = 0 then { r with ctx := ctx, sel := sel } else r
    (s.setRegion r1, some r1)
  | none =>
    let mine := s.regions.filter fun r => r.home == home
    let room : State × Bool :=
      if mine.length < 4096 then (s, true)
      else match leastUsed (mine.filter fun r => r.st == 0) with
        | some r => (s.dropRegion r, true)
        | none => match leastUsed mine with
          | some r => (s.setRegion { r with recalled := true }, false)
          | none => (s, true)
    if room.2 then
      let b := room.1.freeBlock home pa 10 65536
      let r : RegionEntry :=
        { home := home, base := b.1, size := b.2, st := 0, sharers := [], owner := none, pending := none, timer := none,
          waits := false, evr := (lookupK room.1.floors home).getD 0, sel := sel, ctx := ctx, recalled := false, last := s.cycle,
          epoch := 0 }
      ({ room.1 with regions := room.1.regions ++ [r] }, some r)
    else (room.1, none)

/-- RDX, RST or RAMO from an agent conflicts with the region (R296). -/
def RegionEntry.conflicts (r : RegionEntry) (agent : Nat) : Bool :=
  64 < r.size && ((match r.owner with
    | some o => o.1 != agent
    | none => false) || r.sharers.any fun a => a != agent)

/-- Splits the region of an address while the conflict holds, with fuel; the half that holds the address. -/
def State.splitFor (s : State) (pa agent : Nat) : Nat → RegionEntry → State × RegionEntry
  | 0, r => (s, r)
  | fuel + 1, r =>
    if r.conflicts agent then
      let h := r.size / 2
      let lo := { r with size := h }
      let hi := { r with base := r.base + h, size := h }
      let s1 := { s with regions := s.regions.flatMap fun q =>
        if q.home == r.home && q.base == r.base then [lo, hi] else [q] }
      State.splitFor s1 pa agent fuel (if pa < r.base + h then lo else hi)
    else (s, r)

/-! ## Timestamp rules (R301) -/

/-- What a WB or RACK brings home: the owner's exclusive copies of the region's lines, each with its line, wts and rts, and whether
its sender keeps S copies. -/
structure OldCopy where
  copies : List (Nat × Line × Nat × Nat)
  keep   : Bool

/-- The timestamps (ow, or) that a WB or RACK carries for a line. -/
def OldCopy.stamps (o : OldCopy) (line : Nat) : Nat × Nat := match lookupK o.copies line with
  | some c => c.2
  | none => (0, 0)

/-- Timestamps of the line after a rule, and the τ it gives. -/
def tsRule (tsr w r p lease ow or : Nat) : Nat × Nat × Nat :=
  let lz := fun (w r : Nat) => (w, max r (max (w + lease) (p + lease)), max p w)
  let ex := fun (_ r : Nat) => let t := max p (r + 1); (t, t, t)
  match tsr with
  | 1 => lz w r
  | 2 => ex w r
  | 3 => let t := max p (r + 1); (t, t + lease, t)
  | 4 => (max w ow, max r or, max p w)
  | 5 => lz (max w ow) (max r or)
  | 6 => ex (max w ow) (max r or)
  | _ => (w, r, max p w)

/-! ## An event at a home (R298 to R301) -/

/-- The guard of an entry (R300). -/
def guardHolds (g : Nat) (r : RegionEntry) (rq : Option (Nat × Nat)) (wts : Nat) : Bool :=
  match g with
  | 0 => true
  | 1 => r.owner == rq && rq.isSome
  | 2 => !(r.owner == rq && rq.isSome)
  | 3 => r.sharers.isEmpty
  | 4 => (match rq with
    | some q => (match r.owner with
        | some o => o.1 == q.1
        | none => true) && r.sharers.all fun a => a == q.1
    | none => r.owner.isNone && r.sharers.isEmpty)
  | 5 => wts == 0
  | 6 => r.pending.isNone
  | _ => false

/-- A line of home storage. -/
def State.storeLine (s : State) (line : Nat) : Line := BitVec.ofNat 512 (storeBytes s.mem (line * 64) 64)

/-- A request waits 64 cycles and is sent again (R299 RETRY). -/
def State.retry (s : State) (q : Req) : State := { s with reqs := s.reqs ++ [{ q with retryAt := some (s.cycle + 64) }] }

/-- The request is a remote store or atomic, whose answer is the acknowledgement of R107; one that a home serves within a step takes its
answer itself. -/
def Req.remote (q : Req) : Bool := q.retryAt.isNone && (q.agent == 144 || 4096 ≤ q.home)

/-- A message code answers a request: data or a lease for a read, ownership or what takes its place for a write, the
acknowledgement of a store, the old value of an atomic (R300). -/
def Req.answeredBy (q : Req) (msg : Nat) : Bool :=
  match q.kind with
  | .rd _ => msg == 1 || msg == 2
  | .rdx => msg == 1 || msg == 2
  | .rst .. => msg == 3 || msg == 6 || msg == 8
  | .ramo .. => msg == 8
  | .rack .. => false

/-- The line that a message carries, and the counter of free values after it: home storage after the entry's writes, where the
entry reads the line into the reply or sends the new data; where it does not, no rule gives the data (R299, R300; log 63,
DEDUCED). -/
def State.lineOut (s : State) (cell line : Nat) : Line × Nat :=
  if cHas cell aRDATA || cMsg cell == 6 then (s.storeLine line, s.free)
  else if cMsg cell = 1 ∨ cMsg cell = 2 then (Config.freeLine s.free, s.free + 1)
  else (0, s.free)

/-- The answer to a requester: the acknowledgement of a remote store or atomic, or the message (R293, R300). -/
def State.answer (s : State) (q : Req) (cell wts rts tau old flags : Nat) : State :=
  let msg := cMsg cell
  let store := match q.kind with
    | .rst .. => true
    | _ => false
  let amo := match q.kind with
    | .ramo .. => true
    | _ => false
  if q.remote && (store || amo) && q.answeredBy msg then
    { s with acks := s.acks ++ [{ core := q.core, home := q.home, ctx := q.ctx, tau := tau, store := store,
                                  old := BitVec.ofNat 64 old, flags := flags }] }
  else
    let d := s.lineOut cell (q.pa / 64)
    let m : Rep :=
      { code := msg, home := q.home, pa := q.pa, core := q.core, data := d.1, wts := wts, rts := rts,
        tau := tau, old := BitVec.ofNat 64 old, flags := flags, sent := s.time,
        req := if q.answeredBy msg then some q else none, epoch := 0 }
    { s with reps := s.reps ++ [m], free := d.2 }

/-- A message to an agent of a region about a line, with the line's data and timestamps. -/
def State.tell (s : State) (r : RegionEntry) (cell pa core wts rts : Nat) : State :=
  let d := s.lineOut cell (pa / 64)
  let m : Rep :=
    { code := cMsg cell, home := r.home, pa := pa, core := core, data := d.1, wts := wts, rts := rts, tau := 0,
      old := 0, flags := 0, sent := s.time, req := none, epoch := r.epoch }
  { s with reps := s.reps ++ [m], free := d.2 }

/-- Cores of an agent that hold a line of the home; the other die's remote-data cache, when it is the agent. -/
def State.holders (s : State) (r : RegionEntry) (pa agent : Nat) : List Nat :=
  let d := homeDie s r.home
  if agent = 144 then [coreCount + (1 - d)]
  else (s.cores.filter fun p => agentHas d agent p.1 && (match lookupK p.2.l1 (pa / 64) with
    | some l => l.home == r.home
    | none => false)).map Prod.fst

/-- Writes into home storage the copies that a WB or RACK brings (R299 WDATA). -/
def State.storeCopies (s : State) : List (Nat × Line × Nat × Nat) → State
  | [] => s
  | (line, c) :: rest => State.storeCopies { s with mem := putBytes s.mem (line * 64) 64 c.1.toNat } rest

/-- A copy that a WB or RACK brings has a timestamp at the limit (R292). -/
def OldCopy.atLimit (o : OldCopy) : Bool := o.copies.any fun c => decide (tsLimit ≤ max c.2.2.1 c.2.2.2)

/-- WBACK on the other lines of the region that a WB or RACK brings (R301). -/
def State.mergeCopies (s : State) (home named : Nat) : List (Nat × Line × Nat × Nat) → State
  | [] => s
  | (line, c) :: rest =>
    let t := s.lineTs home line
    State.mergeCopies (if line = named then s
      else s.setTs home line (max t.1 c.2.1) (max t.2 c.2.2)) home named rest

/-- What home storage holds of the word that an atomic names: the old value that AMORES carries (R300). -/
def State.oldAt (s : State) (q : Option Req) : Nat := match q with
  | some y => (match y.kind with
    | .ramo n .. => storeBytes s.mem y.pa n
    | _ => 0)
  | none => 0

/-- Performs the writes of an entry: the copies of a WB or RACK, or the data of a store or of an atomic (R299 WDATA); gives the
old value and the flags of an atomic. -/
def State.wdata (s : State) (q : Option Req) (old : Option OldCopy) : State × Nat × Nat :=
  match old with
  | some o => (s.storeCopies o.copies, (s.storeCopies o.copies).oldAt q, 0)
  | none => match q with
    | none => (s, 0, 0)
    | some q => match q.kind with
      | .rst n d => ({ s with mem := putBytes s.mem q.pa n d }, 0, 0)
      | .ramo n op d c rm =>
        let v := storeBytes s.mem q.pa n
        let r := amoNew op n v d.toNat c.toNat rm
        ({ s with mem := putBytes s.mem q.pa n r.1 }, v, r.2.toNat)
      | _ => (s, 0, 0)

/-- Bytes that a request writes. -/
def Req.width (q : Req) : Nat := match q.kind with
  | .rst n _ => n
  | .ramo n .. => n
  | _ => 0

/-- Sends a message to each of a list of holders. -/
def State.tellAll (s : State) (r : RegionEntry) (cell pa wts rts : Nat) : List Nat → State
  | [] => s
  | c :: rest => State.tellAll (s.tell r cell pa c wts rts) r cell pa wts rts rest

/-- The actions of an entry on the region: sharers, owner, pending requester and timer. -/
def RegionEntry.acted (r : RegionEntry) (cell : Nat) (rq : Option (Nat × Nat)) (q : Option Req) (old : Option OldCopy)
    (transient : Bool) (deadline now : Nat) : RegionEntry :=
  let s0 := match rq with
    | some a => if cHas cell aADDS && !r.sharers.contains a.1 then insertN r.sharers a.1 else r.sharers
    | none => r.sharers
  let s1 := if cHas cell aCLRS then [] else s0
  let o1 := if cHas cell aSETO then rq.or r.owner else r.owner
  let kept := match old, r.owner with
    | some o, some a => o.keep && !s1.contains a.1
    | _, _ => false
  let s2 := if cHas cell aCLRO && kept then (match r.owner with
    | some a => insertN s1 a.1
    | none => s1) else s1
  { r with
    st := cNext cell
    sharers := s2
    owner := if cHas cell aCLRO then none else o1
    pending := if cHas cell aTIMER then q else if transient then r.pending else none
    waits := transient
    timer := if cHas cell aTIMER then some deadline else if transient then r.timer else none
    epoch := if cHas cell aSETO || cHas cell aCLRO then r.epoch + 1 else r.epoch
    recalled := r.recalled && cNext cell != 0
    last := now }

/-- The entry that the home handles: that of the table; where it would grant the exclusive copy of a watched line, one that grants
a lease instead, or has the requester ask again (R199; log 64, DESIGN CHOICE). -/
def State.entryFor (s : State) (r : RegionEntry) (line ev : Nat) : Nat :=
  let cell := s.cell r.ctx r.sel r.st ev
  if cMsg cell = 2 ∧ s.watched line = true then
    (if ev = 2 ∨ ev = 4 then cellOf 0 (aWDATA + aCLRO + aRETRY) 0 0 4 else cellOf r.st (aRDATA + aADDS) 1 0 1)
  else cell

/-- The request goes without an answer though nothing has been written for it: it is not answered, not told to try again, and
does not wait as the pending requester. It is sent again, as after RETRY (R310; log 65, DEDUCED). -/
def Req.forsaken (x : Req) (cell : Nat) (kept fwd wrote : Bool) : Bool :=
  !kept && !cHas cell aRETRY && (fwd || !x.answeredBy (cMsg cell)) && !wrote

/-- What an entry sends: MSG to the requester, or with FWD to the owner, and with BCAST to the other sharers (R299, R300). -/
def State.sends (s : State) (r r1 : RegionEntry) (cell pa : Nat) (rq : Option (Nat × Nat)) (x : Option Req) (nt : Nat × Nat × Nat)
    (old flags : Nat) : State :=
  let s1 := if cMsg cell = 0 then s
    else if cHas cell aFWD then (match r1.owner with
      | some o => s.tell r1 cell pa o.2 nt.1 nt.2.1
      | none => s)
    else (match x with
      | some q => s.answer q cell nt.1 nt.2.1 nt.2.2 old flags
      | none => s)
  if cHas cell aBCAST ∧ cMsg cell ≠ 0 then
    s1.tellAll r cell pa nt.1 nt.2.1 ((r1.sharers.filter fun a => some a != rq.map Prod.fst).flatMap fun a => s1.holders r pa a)
  else s1

/-- The address that an event of a region is about: that of the pending requester in a transient state, where the region has it
(R298, R301). -/
def RegionEntry.about (r : RegionEntry) (inTrans : Bool) (pa : Nat) : Nat := match r.pending with
  | some y => if inTrans && r.covers r.home y.pa then y.pa else pa
  | none => pa

/-- What the host holds of the region goes with an entry that writes for another requester or takes the host out of the sharers (R377; log
82, DEDUCED). -/
def RegionEntry.hostGone (r r1 : RegionEntry) (wrote : Bool) (rq : Option (Nat × Nat)) : Bool :=
  r.sharers.contains 145 && ((wrote && rq.map Prod.fst != some 145) || !r1.sharers.contains 145 || r1.owner.isSome)

/-- The host is told, and is a sharer no longer. -/
def State.tellGone (s : State) (gone : Bool) (r : RegionEntry) : State :=
  if gone then { s.setRegion { r with sharers := r.sharers.erase 145 } with toHost := s.toHost ++ [.backInvalidate r.base r.size] }
  else s.setRegion r

/-- The home handles event `ev` of the region of `pa` in one step; `sender` is the agent and core the event comes from,
`q` its request, `old` the copies it carries. A request that comes in a transient state, where the entry is about the pending
requester, is sent again (log 65, DEDUCED). -/
def State.protoEvent (s : State) (r0 : RegionEntry) (pa ev : Nat) (sender : Option (Nat × Nat)) (q : Option Req)
    (old : Option OldCopy) : State :=
  let split := match sender with
    | some a => if ev = 1 ∨ ev = 6 ∨ ev = 7 then s.splitFor pa a.1 10 r0 else (s, r0)
    | none => (s, r0)
  let s1 := split.1.gain r0.home (pa / 64) (ev == 1 || ev == 6 || ev == 7)
  let r := split.2
  let inTrans := s1.transient r.ctx r.sel r.st
  let pa := r.about inTrans pa
  let line := pa / 64
  let cell := s1.entryFor r line ev
  let x := if inTrans then r.pending else q
  let rq := if inTrans then r.pending.map fun p => (p.agent, p.core) else sender
  let t := s1.tsAt r.home line
  if bitsOf cell 0 1 = 0 ∨ !guardHolds (cGuard cell) r rq t.1 then
    match q with
    | some p => s1.retry p
    | none => s1
  else
    let cfg := s1.tcfg r.ctx r.sel
    let p := match x with
      | some y => y.p
      | none => 0
    let ow := match old with
      | some o => o.stamps line
      | none => (0, 0)
    let nt := tsRule (cTsr cell) t.1 t.2 p (bitsOf cfg 32 16) ow.1 ow.2
    let who := (sender.or (rq.or r.owner)).getD (agentFor s1 r.home none, 0)
    let limit := match old with
      | some o => decide (4 ≤ cTsr cell) && o.atLimit
      | none => false
    if tsLimit ≤ max nt.1 nt.2.1 ∨ limit = true then s1.tsFault r.home pa r.ctx who.1
    else
      let w := if cHas cell aWDATA then s1.wdata x old else (s1, s1.oldAt x, 0)
      let wrote := match x with
        | some y => cHas cell aWDATA && old.isNone && y.width != 0
        | none => false
      let s2 := if cTsr cell = 0 then w.1 else w.1.setTs r.home line nt.1 nt.2.1
      let s2 := match old with
        | some o => if 4 ≤ cTsr cell then s2.mergeCopies r.home line o.copies else s2
        | none => s2
      let s3 := match x with
        | some y => if wrote then s2.fireWatches y.pa y.width nt.2.2 else s2
        | none => s2
      let toTrans := s3.transient r.ctx r.sel (cNext cell)
      let r1 := r.acted cell rq x old toTrans (s3.cycle + 2 ^ bitsOf cfg 16 5) s3.cycle
      let s4 := (s3.tellGone (r.hostGone r1 wrote rq) r1).sends r r1 cell pa rq x nt w.2.1 w.2.2
      let s5 := match x with
        | some y =>
          if (cHas cell aRETRY || y.forsaken cell (toTrans && r1.pending.isSome) (cHas cell aFWD) wrote) && decide (r.base ≤ y.pa) && decide (y.pa < r.base + r.size)
          then s4.retry y else s4
        | none => s4
      let s6 := match q with
        | some y => if inTrans then s5.retry y else s5
        | none => s5
      let s7 := if cHas cell aLOG then s6.leaseLog r.home r.base r.size r.ctx who.1 (s6.lossCode r.home who) else s6
      if cHas cell aREVERT then s7.revert r else s7

/-- A request reaches its home: its region is found or made; a recalled region makes it wait (R295, R304). -/
def State.serve (s : State) (q : Req) (ev : Nat) : State :=
  let e := s.ensureRegion q.home q.pa q.ctx q.sel
  match e.2 with
  | none => { e.1 with reqs := e.1.reqs ++ [q] }
  | some r =>
    if r.recalled && r.st != 0 then { e.1 with reqs := e.1.reqs ++ [q] }
    else e.1.protoEvent r q.pa ev (some (q.agent, q.core)) (some q) none

/-- A region event that no request carries. -/
def State.regionEvent (s : State) (home pa ev : Nat) (sender : Option (Nat × Nat)) (old : Option OldCopy) : State :=
  match s.region? home pa with
  | some r => s.protoEvent r pa ev sender none old
  | none => s

/-! ## Copies that an answer brings -/

/-- The copy that a message brings. -/
def Rep.copy (m : Rep) (excl : Bool) : L1Line :=
  { home := m.home, excl := excl, data := m.data, wts := m.wts, rts := m.rts, lease := m.sent + 200000 }

/-- A leased copy enters a core's L1, unless the core holds the line exclusively. -/
def Core.takeLease (k : Core) (m : Rep) : Core := match lookupK k.l1 (m.pa / 64) with
  | some l => if l.excl then k else { k with l1 := insertK k.l1 (m.pa / 64) (m.copy false) }
  | none => { k with l1 := insertK k.l1 (m.pa / 64) (m.copy false) }

/-- The line of a list whose lease ends first. -/
def firstToEnd : List (Nat × L1Line) → Option (Nat × Nat)
  | [] => none
  | p :: rest => match firstToEnd rest with
    | none => some (p.1, p.2.lease)
    | some b => if b.2 < p.2.lease then some b else some (p.1, p.2.lease)

/-- A line enters a remote-data cache with room for so many leases; where there is none, the oldest grant goes (R5; log 9, DESIGN CHOICE). -/
def rdcPut (room : Nat) (l : List (Nat × L1Line)) (line : Nat) (c : L1Line) : List (Nat × L1Line) :=
  let n := if (lookupK l line).isSome || decide (l.length < room) then l else match firstToEnd l with
    | some b => removeK l b.1
    | none => l
  insertK n line c

/-- A leased copy enters the agent: the core, and the remote-data cache of its die for a line of the other die (R294). -/
def State.installLease (s : State) (m : Rep) : State :=
  let s1 := s.modCore m.core fun k => k.takeLease m
  if homeDie s m.home = dieOf m.core then s1
  else
    let room := rdcLines - (s1.hostLinesOf (4096 + dieOf m.core)).length
    s1.modDie (dieOf m.core) fun d => { d with rdc := rdcPut room d.rdc (m.pa / 64) (m.copy false) }

/-- A leased copy in a list is replaced by the data and lease of a message. -/
def updIn (l : List (Nat × L1Line)) (m : Rep) : List (Nat × L1Line) :=
  match lookupK l (m.pa / 64) with
  | some c => if c.home == m.home && !c.excl then insertK l (m.pa / 64) (m.copy false) else l
  | none => l

/-! ## Copies given up (R298) -/

/-- The request is an answer to a RECALL or DOWNGRADE. -/
def Req.isRack (q : Req) : Bool := q.kind matches .rack ..

/-- The home takes an event of the region from an agent now: its entry is present and its guard holds (R300). -/
def State.takes (s : State) (r : RegionEntry) (pa ev : Nat) (who : Nat × Nat) : Bool :=
  let trans := s.transient r.ctx r.sel r.st
  let line := r.about trans pa / 64
  let cell := s.entryFor r line ev
  let rq := if trans then (r.pending.map fun p => (p.agent, p.core)) else some who
  bitsOf cell 0 1 == 1 && guardHolds (cGuard cell) r rq (s.lineTs r.home line).1

/-- The lines of a region leave a core's L1. -/
def Core.dropIn (k : Core) (r : RegionEntry) : Core := { k with l1 := k.l1.filter fun p => !r.covers p.2.home (p.1 * 64) }
/-- The exclusive lines of a region become leased copies. -/
def Core.leaseIn (k : Core) (r : RegionEntry) : Core :=
  { k with l1 := k.l1.map fun p => if r.covers p.2.home (p.1 * 64) then (p.1, { p.2 with excl := false }) else p }

/-- The exclusive copies that a core holds of a region, as a WB or RACK brings them. -/
def Core.copiesOf (k : Core) (r : RegionEntry) : List (Nat × Line × Nat × Nat) :=
  (heldIn k r.home r.base r.size).filterMap fun p => if p.2.excl then some (p.1, p.2.data, p.2.wts, p.2.rts) else none

/-- The region of a line, where a core owns it. -/
def State.owned (s : State) (c line : Nat) : Option RegionEntry :=
  s.regions.find? fun r => r.owner == some (agentOf s r.home c, c) && r.covers r.home (line * 64)

/-- WB of a region by its owner: its exclusive lines of the region go home with the event, and its copies go. None while it waits: for
the answers that the core sent the home earlier, for a grant of the region that is on its way, for the bridge, or for a guard. -/
def State.giveBack (s : State) (c line : Nat) (r : RegionEntry) : Option State :=
  let who := (agentOf s r.home c, c)
  if s.reaches r.home c && s.takes r (line * 64) 2 who
      && !(s.reqs.any fun e => e.isRack && e.core == c && e.home == r.home)
      && !(s.reps.any fun m => m.code == 2 && m.core == c && r.covers m.home m.pa)
  then some ((s.modCore c fun k => k.dropIn r).protoEvent r (line * 64) 2 (some who) none (some ⟨(s.core c).copiesOf r, false⟩))
  else none

/-- The line of an address leaves a core's L1. -/
def State.forget (s : State) (c line : Nat) : State := s.modCore c fun k => { k with l1 := removeK k.l1 line }

/-- A core gives up its copy of a line: WB where it owns the line, else DROP. Where the home takes nothing from the core the copy goes
alone (R307, R309, R373). None while the event has to wait. -/
def State.giveUp (s : State) (c line : Nat) : Option State :=
  match lookupK (s.core c).l1 line with
  | none => some s
  | some l =>
    if s.reaches l.home c then
      (if l.excl then (match s.owned c line with
          | some r => s.giveBack c line r
          | none => some (s.forget c line))
        else some ((s.forget c line).regionEvent l.home (line * 64) 3 (some (agentOf s l.home c, c)) none))
    else if s.silenced l.home c then some (s.forget c line) else none

/-- A core gives up its copies of the lines of a list. -/
def State.giveUps (s : State) (c : Nat) : List Nat → Option State
  | [] => some s
  | line :: rest => (s.giveUp c line).bind fun t => State.giveUps t c rest

/-! ## Events that a unit makes within a step (R298) -/

/-- An event that a unit makes at a home and that the home serves in this step, for the remote-operation server, the host and a
port's peer: the line comes home first, and the answer; no answer where a timestamp would reach the limit. None where the table does
not answer the event at once: the access is then performed at the home (log 7, DEDUCED). -/
def State.unitEvent (s : State) (q0 : Req) (ev : Nat) : Option (Option Rep × State) :=
  let q := { q0 with retryAt := some 0 }
  let s0 := s.settle q.pa
  let s1 := match s0.region? q.home q.pa with
    | some r => if r.owner.isSome || s0.transient r.ctx r.sel r.st then s0.recallRegion r else s0
    | none => s0
  let e := s1.ensureRegion q.home q.pa q.ctx q.sel
  match e.2 with
  | none => none
  | some r =>
    let cell := e.1.entryFor r (q.pa / 64) ev
    if bitsOf cell 0 1 = 1 ∧ guardHolds (cGuard cell) r (some (q.agent, q.core)) (e.1.tsAt q.home (q.pa / 64)).1 = true
        ∧ q.answeredBy (cMsg cell) = true ∧ (cMsg cell = 2 → q.core < coreCount) ∧ cHas cell aFWD = false ∧ cHas cell aRETRY = false
        ∧ e.1.transient r.ctx r.sel (cNext cell) = false
    then
      let t := e.1.protoEvent r q.pa ev (some (q.agent, q.core)) (some q) none
      match t.reps.find? fun m => m.req == some q with
      | some m => some (some m, { t with reps := t.reps.erase m })
      | none => some (none, t)
    else none

/-- A line of memory as a copy engine of a peer or the host reads it: the agent becomes a sharer of the region (R375, R377); the line,
its timestamp and the state. -/
def State.agentLine (s : State) (agent x sel home pa p : Nat) : Line × Nat × State :=
  let q : Req := { kind := .rd false, home := home, pa := pa, agent := agent, core := coreCount + 2, p := p, ctx := x, sel := sel,
                   retryAt := none }
  match s.unitEvent q 0 with
  | some (some m, u) => (m.data, m.tau, u)
  | some (none, u) => (u.storeLine (pa / 64), p, u)
  | none =>
    let r := s.homeRead home pa p none (some x)
    (r.2.storeLine (pa / 64), r.1, r.2)

/-! ## What a core sends -/

/-- A request of the same core for the same line is on its way. -/
def State.asked (s : State) (c pa : Nat) : Bool :=
  (s.reqs.any fun q => q.core == c && q.pa / 64 == pa / 64 && !(q.kind matches .rack ..))
    || (s.regions.any fun r => match r.waiting with
      | some q => q.core == c && q.pa / 64 == pa / 64
      | none => false)
    || s.reps.any fun r => r.core == c && r.pa / 64 == pa / 64 && (r.code == 1 || r.code == 2)

/-- Sends a request. -/
def State.request (s : State) (q : Req) : State := { s with reqs := s.reqs ++ [q] }

end Sys2Proof.Machine
end

