-- ==== Sys2Proof/Machine/Frames.lean ====
section
/-! DEFINITION. Machine/Frames.lean: the frame unit (14, R288, R289): assigning, releasing, retiring and zeroing
frames, and dropping translations and copies (R290). -/
namespace Sys2Proof.Machine

/-! ## Dropping translations and copies -/

/-- A region lies in one of a list of physical ranges. -/
def RegionEntry.inRanges (r : RegionEntry) (l : List (Nat × Nat)) : Bool := l.any fun p => meets p.1 p.2 r.base r.size

/-- RECALL becomes due on every region of a list of ranges that is not in state 0 (R298). -/
def State.markRecalled (s : State) (l : List (Nat × Nat)) : State :=
  { s with regions := s.regions.map fun r => if r.inRanges l && r.st != 0 then { r with recalled := true } else r }

/-- A region of the ranges is not in state 0. -/
def State.recallsOut (s : State) (l : List (Nat × Nat)) : Bool := s.regions.any fun r => r.inRanges l && r.st != 0

/-- A line lies in one of a list of ranges. -/
def lineIn (l : List (Nat × Nat)) (line : Nat) : Bool := l.any fun p => meets p.1 p.2 (line * 64) 64

/-- Writes back exclusive copies, each at its home. -/
def State.writeLines (s : State) : List (Nat × L1Line) → State
  | [] => s
  | (line, l) :: rest =>
    State.writeLines (if l.excl then s.writeBack l.home line l.data l.wts l.rts else s) rest

/-- Writes back and drops every cached copy of the lines of a list of ranges, in every L1 and remote-data cache (R288, R290). -/
def State.dropLines (s : State) (l : List (Nat × Nat)) : State :=
  let out := fun (p : Nat × L1Line) => lineIn l p.1
  let s1 := s.writeLines (s.cores.flatMap fun p => p.2.l1.filter out)
  { s1 with
    cores := s1.cores.map fun p => if p.2.l1.any out then (p.1, { p.2 with l1 := p.2.l1.filter fun q => !out q }) else p
    dies := s1.dies.map fun d => { d with rdc := d.rdc.filter fun q => !out q } }

/-- Drops translations that a test names, in every TLB, and the walkers' pointers that another names (R290). -/
def State.dropTlb (s : State) (p : TlbEntry → Bool) (w : WalkPtr → Bool) : State :=
  { s with
    cores := s.cores.map fun q => if q.2.tlb.any p then (q.1, { q.2 with tlb := q.2.tlb.filter fun t => !p t }) else q
    ctlb := s.ctlb.map fun q => (q.1, q.2.filter fun t => !p t)
    wcache := s.wcache.map fun q => (q.1, q.2.filter fun t => !w t) }

/-- First physical address of a translation's page. -/
def TlbEntry.base' (t : TlbEntry) : Nat := leafPpn t.leaf * 4096

/-- The object that a barrier message is on its way to, with the translation that it was sent under (R258, R260, R262); a wait that was
told to try again is not on its way. -/
def BarMsg.target : BarMsg → Option Nat
  | .arrival _ o _ _ _ _ => some o
  | .child _ o _ _ _ _ _ => some o
  | .wait _ o _ _ _ => some o
  | .retry .. => none

/-- A barrier message, a release of a child object too, is on its way to the range. -/
def State.barsTo (s : State) (base n : Nat) : Bool :=
  (s.bars.any fun b => b.target.any fun o => meets base n o 64) || s.net.any fun m => m.child.any fun o => meets base n o 64

/-- Something already translated to the range is still on its way (R288): a request, its answer, a store that waits, or a barrier
message. -/
def State.rangeBusy (s : State) (base n : Nat) : Bool :=
  s.barsTo base n ||
  (s.reqs.any fun q => meets base n q.pa 8) || (s.reps.any fun q => meets base n q.pa 8)
    || (s.regions.any fun r => match r.waiting with
      | some q => meets base n q.pa 8
      | none => false)
    || s.cores.any fun p => (p.2.slot1.any fun o => meets base n o.pa 8) || p.2.stq.any fun o => meets base n o.pa o.n

/-! ## The frame unit -/

/-- First address of a frame. -/
def frameBase (die f : Nat) : Nat := dramBase + die * dramSize + f * 2 ^ 21

/-- The state of a frame by index. -/
def Die.frameAt (d : Die) (f : Nat) : FrameState := (lookupK d.frames f).getD .unmapped
/-- Sets the state of a frame; UNMAPPED frames are not listed. -/
def Die.setFrame (d : Die) (f : Nat) (x : FrameState) : Die :=
  { d with frames := if x = .unmapped then removeK d.frames f else insertK d.frames f x }

/-- The fields of an FCMD word (R289). -/
def fcmdOp (v : Word) : Nat := slice v 51 48
/-- CTX. -/
def fcmdCtx (v : Word) : Nat := slice v 47 32
/-- FRAME. -/
def fcmdFrame (v : Word) : Nat := slice v 15 0
/-- Zero fields are zero. -/
def fcmdOk (v : Word) : Bool := slice v 63 52 == 0 && slice v 31 16 == 0

/-- The outcome of an FCMD: FSTAT.ERR and the frame's new state. -/
def State.fcmdEnd (s : State) (die : Nat) (err : Bool) (f : Nat) (x : FrameState) : State :=
  s.modDie die fun d => { (d.setFrame f x) with fstatErr := err }

/-- A rejected FCMD. -/
def State.fcmdReject (s : State) (die : Nat) : State := s.modDie die fun d => { d with fstatErr := true }

/-- The release of R288 begins: the old owner's translations to the frame go, and the pointers of its walks; the frame is ZEROING. -/
def State.beginZeroing (s : State) (die f owner : Nat) (pending : Option Nat) : State :=
  let b := frameBase die f
  (s.dropTlb (fun t => meets t.base' (2 ^ t.bits) b (2 ^ 21)) fun w => w.ctx == owner).fcmdEnd die false f (.zeroing pending)

/-- Zeroes a frame: its bytes, and the timestamps of writes above every lease; watches compare (R288, R199). The core map and the
corrected-error log stay as firmware wrote them (R239, R382; log 67, DESIGN CHOICE). -/
def State.zeroFrame (s : State) (die f : Nat) : State :=
  let b := frameBase die f
  let s1 := { s with
    mem := s.mem.filter fun p => !(decide (b ≤ p.1) && decide (p.1 < b + 2 ^ 21)) || s.guarded p.1 1
    lines := s.lines.map fun (l : Nat × Nat × Nat) =>
      if meets (l.1 * 64) 64 b (2 ^ 21) && decide (l.2.2 + 1 < tsLimit) then (l.1, l.2.2 + 1, l.2.2 + 1) else l }
  s1.fireList 0 (s1.watches.filter fun w => meets w.pa w.n b (2 ^ 21))

/-- FCMD assign. -/
def State.fcmdAssign (s : State) (die : Nat) (v : Word) : State :=
  let f := fcmdFrame v
  if !fcmdOk v then s.fcmdReject die
  else match (s.die die).frameAt f with
    | .unmapped => (s.zeroFrame die f).fcmdEnd die false f (.mapped (fcmdCtx v))
    | .mapped c => if c = fcmdCtx v then s.fcmdReject die else s.beginZeroing die f c (some (fcmdCtx v))
    | .zeroing _ => s.fcmdReject die
    | .retired => s.fcmdReject die

/-- FCMD release. -/
def State.fcmdRelease (s : State) (die : Nat) (v : Word) : State :=
  let f := fcmdFrame v
  if !fcmdOk v then s.fcmdReject die
  else match (s.die die).frameAt f with
    | .mapped c => s.beginZeroing die f c none
    | .unmapped => s.fcmdReject die
    | .zeroing _ => s.fcmdReject die
    | .retired => s.fcmdReject die

/-- Drops the region entries of a range; the floors of their slices rise (R292). -/
def State.dropRegions (s : State) (base n : Nat) : State :=
  (s.regions.filter fun r => meets base n r.base r.size).foldl State.dropRegion s

/-- ZEROING_COMPLETE: waits for accesses already translated and, by RECALL, for every owner; every cached copy goes, and zeros are
written. The pending owner may then walk to the frame. -/
def State.zeroingDone (s : State) (die f : Nat) : State :=
  let r := [(frameBase die f, 2 ^ 21)]
  match (s.die die).frameAt f with
  | .zeroing p =>
    if s.rangeBusy (frameBase die f) (2 ^ 21) then s
    else if s.recallsOut r then s.markRecalled r
    else ((((s.dropLines r).dropRegions (frameBase die f) (2 ^ 21)).zeroFrame die f).modDie die fun d => d.setFrame f (match p with
      | some c => .mapped c
      | none => .unmapped))
  | _ => s

/-- FSTAT (R289): a command is over when its step is. -/
def State.fstat (s : State) (die : Nat) : Word := if (s.die die).fstatErr then 2 else 0

end Sys2Proof.Machine
end

