-- ==== Sys2Proof/Machine/Msg.lean ====
section
/-! DEFINITION. Machine/Msg.lean: delivery, the spill and orphan queues, fault reports, the end of an activation and
the retirement of a group (08, R173 to R185, R194, R201; 11, R248). -/
namespace Sys2Proof.Machine

/-- The translation environment of a context for hardware on a die. -/
def State.ctxEnv (s : State) (die x : Nat) : TEnv :=
  match s.ctx? x with
  | some k => k.tenv die x
  | none => { die := die, ctx := x, ptbase := 0, hometab := 0, protomask := 1 }

/-- A 64-bit word at a virtual address of a context, at S; none where it faults. -/
def State.ctxWord (s : State) (die x va : Nat) : Option Nat :=
  match s.vread (s.ctxEnv die x) false .none va 8 0 with
  | .ok (v, _, _) => some v
  | .error _ => none

/-- Writes a 64-bit word at a virtual address of a context; a fault writes nothing. -/
def State.ctxPut (s : State) (die x va v : Nat) (p : Nat := 0) : State :=
  match s.vwrite (s.ctxEnv die x) false .none va 8 v p with
  | .ok (_, t) => t
  | .error _ => s

/-- Writes words upward from a virtual address of a context. -/
def State.ctxPuts (s : State) (die x va : Nat) : List Nat → State
  | [] => s
  | w :: r => State.ctxPuts (s.ctxPut die x va w) die x (va + 8) r

/-- Virtual address of the save area of a logical core (R314). -/
def State.areaOf (s : State) (x l : Nat) : Nat := match s.ctx? x with
  | some k => k.savebase.toNat + 0x62000 * l
  | none => 0

/-! ## Spill and orphan queues (R181) -/

/-- The fields of a queue descriptor. -/
structure QDesc where
  va   : Nat
  base : Nat
  cap  : Nat
  head : Nat
  tail : Nat

/-- Reads a queue descriptor. -/
def State.qdesc (s : State) (die x va : Nat) : Option QDesc :=
  match s.ctxWord die x va, s.ctxWord die x (va + 8), s.ctxWord die x (va + 16), s.ctxWord die x (va + 24) with
  | some b, some c, some h, some t => if c = 0 then none else some ⟨va, b, c, h, t⟩
  | _, _, _, _ => none

/-- Records in the queue. -/
def QDesc.count (q : QDesc) : Nat := (q.tail + 2 ^ 64 - q.head) % 2 ^ 64
/-- The queue is full. -/
def QDesc.full (q : QDesc) : Bool := q.cap ≤ q.count

/-- The record of a message (R181). -/
def recordOf (m : Msg) (time dst reason : Nat) : List Nat :=
  [m.header.toNat, m.pay[0].toNat, m.pay[1].toNat, m.pay[2].toNat, m.pay[3].toNat, time, dst % 4096 + reason * 2 ^ 16, 0]

/-- Fills the next record. -/
def State.qput (s : State) (die x : Nat) (q : QDesc) (rec : List Nat) : State :=
  (s.ctxPuts die x (q.base + 64 * (q.tail % q.cap)) rec).ctxPut die x (q.va + 24) ((q.tail + 1) % 2 ^ 64)

/-! ## Fault reports and orphans (R182, R183) -/

/-- The fault report message to a receiving core, with a timestamp. -/
def reportMsg (s : State) (code : Nat) (m1 m2 : Word) (x src p : Nat) (rcv : Nat × Nat) : Msg :=
  hwMsg rcv.1 59 (s.core rcv.2).u.hgen src 4 4 (pay4 (BitVec.ofNat 64 code) m1 m2 (BitVec.ofNat 64 s.time)) p x

/-- The timestamp that a report carries: the PTS of the core that sends it (R275); a unit that is no core has none, and its report
does not raise the receiver's (log 76, DESIGN CHOICE). -/
def State.senderPts (s : State) (origin receiver : Nat) : Nat :=
  if origin < coreCount then (s.core origin).pts else (s.core receiver).pts

/-- The die whose units serve a context's queues for a core. -/
def dieOfCore (c : Option Nat) : Nat := match c with
  | some c => dieOf c
  | none => 0

/-- A core's own supervisor registers serve a context: it holds the context. -/
def Core.serves (k : Core) (x : Nat) : Bool := k.owned && k.sv.ctxid.toNat == x

/-- ORPHQ for a message to a logical core: that core's register while it holds the context, else the context's (R35, R314). -/
def State.orphQ (s : State) (x dst : Nat) (k : Context) : Word :=
  match s.physical dst with
  | some c => if (s.core c).serves x then (s.core c).sv.orphq else k.orphq
  | none => k.orphq

/-- A drop has been counted and reported in LOST at a virtual address of the context since the supervisor wrote it. -/
def State.lostArmed (s : State) (die x va : Nat) : Bool :=
  match s.ctx? x, s.walk (s.ctxEnv die x) false .write .none va with
  | some k, .ok (t, _) => k.lostHw.contains (t.pa va)
  | _, _ => false

/-- LOST at a virtual address of the context has been counted and reported. -/
def State.armLost (s : State) (die x va : Nat) : State :=
  match s.ctx? x, s.walk (s.ctxEnv die x) false .write .none va with
  | some k, .ok (t, _) => if k.lostHw.contains (t.pa va) then s else s.setCtx x { k with lostHw := t.pa va :: k.lostHw }
  | _, _ => s

/-- Sends an orphan to the orphan queue; a full queue drops it, counts LOST, and reports the first drop since the supervisor
wrote LOST of that queue; that report, with no core to receive it, is itself an orphan of the full queue (R181, R183). A queue whose
descriptor cannot be read, or has CAP 0, takes nothing, and nothing is counted or reported (log 77, DESIGN CHOICE). -/
def State.orphan (s : State) (die : Nat) (m : Msg) (dst reason : Nat) : State :=
  match s.ctx? m.ctx with
  | none => s
  | some k =>
    let oq := s.orphQ m.ctx dst k
    match s.qdesc die m.ctx oq.toNat with
    | none => s
    | some q =>
      if !q.full then s.qput die m.ctx q (recordOf m m.time dst reason)
      else
        let lost := (s.ctxWord die m.ctx (q.va + 32)).getD 0
        let put := fun (u : State) (n : Nat) => (u.ctxPut die m.ctx (q.va + 32) (n % 2 ^ 64)).armLost die m.ctx (q.va + 32)
        if s.lostArmed die m.ctx (q.va + 32) then put s (lost + 1)
        else match s.receiver m.ctx with
          | some r =>
            let s1 := put s (lost + 1)
            s1.post (dieOrigin die) (reportMsg s1 2 oq (BitVec.ofNat 64 (lost + 1)) m.ctx 0xFFF (s1.senderPts (dieOrigin die) r.2) r)
          | none => put s (lost + 2)

/-- A fault report to the lowest core of the context, or its record to the orphan queue with reason 5 (R183). -/
def State.report (s : State) (die origin code : Nat) (m1 m2 : Word) (x src : Nat) : State :=
  match s.receiver x with
  | some r => s.post origin (reportMsg s code m1 m2 x src (s.senderPts origin r.2) r)
  | none =>
    let m := hwMsg 0xFFF 59 0 src 4 4 (pay4 (BitVec.ofNat 64 code) m1 m2 (BitVec.ofNat 64 s.time)) 0 x
    s.orphan die { m with time := s.time } 0xFFF 5

/-! ## Spilling (R179, R180) -/

/-- A message from a spill record (R177, R181). -/
def msgOfRecord (x : Nat) (w : List Nat) : Msg :=
  let h := w[0]?.getD 0
  { dst := bitsOf h 52 12, ch := bitsOf h 46 6, gen := bitsOf h 34 12, src := bitsOf h 22 12, len := bitsOf h 19 3,
    kind := bitsOf h 16 3, info := bitsOf h 0 16,
    pay := pay4 (BitVec.ofNat 64 (w[1]?.getD 0)) (BitVec.ofNat 64 (w[2]?.getD 0)) (BitVec.ofNat 64 (w[3]?.getD 0))
      (BitVec.ofNat 64 (w[4]?.getD 0)),
    pts := 0, ctx := x, time := w[5]?.getD 0 }

/-- A spilled record: its index, its time of arrival, its destination, the message. -/
structure Spilled where
  ix   : Nat
  time : Nat
  dst  : Nat
  msg  : Msg

/-- The unconsumed spill records from an index, n of them. -/
def State.spillFrom (s : State) (die x : Nat) (q : QDesc) : Nat → Nat → List Spilled
  | 0, _ => []
  | n + 1, i =>
    let a := q.base + 64 * (i % q.cap)
    let w := (List.range 8).map fun j => (s.ctxWord die x (a + 8 * j)).getD 0
    let rest := State.spillFrom s die x q n (i + 1)
    if bitsOf (w[7]?.getD 0) 0 1 = 1 then rest
    else ⟨i, w[5]?.getD 0, bitsOf (w[6]?.getD 0) 0 12, msgOfRecord x w⟩ :: rest

/-- SPILLQ at a core for a context: the core's register while it holds the context, else the context's (R35, R314). -/
def State.spillVa (s : State) (c x : Nat) : Option Word :=
  if (s.core c).serves x then some (s.core c).sv.spillq else (s.ctx? x).map Context.spillq

/-- The spill queue of a context at a core. -/
def State.spillQ (s : State) (c x : Nat) : Option QDesc := (s.spillVa c x).bind fun v => s.qdesc (dieOf c) x v.toNat

/-- Spilled messages of a context for a core of a logical id. -/
def State.spilledFor (s : State) (c x l : Nat) : List Spilled :=
  match s.spillQ c x with
  | some q => (s.spillFrom (dieOf c) x q q.count q.head).filter fun r => r.dst == l
  | none => []

/-- The record of least arrival time. -/
def oldest : List Spilled → Option Spilled
  | [] => none
  | r :: rest => match oldest rest with
    | none => some r
    | some b => if b.time < r.time then some b else some r

/-- HEAD after it has passed every consumed record from an index (R181). -/
def State.headPast (s : State) (die x : Nat) (q : QDesc) : Nat → Nat → Nat
  | 0, i => i
  | n + 1, i =>
    if bitsOf ((s.ctxWord die x (q.base + 64 * (i % q.cap) + 56)).getD 0) 0 1 = 1 then State.headPast s die x q n (i + 1) else i

/-- Takes a spill record: one that is not at HEAD is marked consumed; at HEAD, HEAD passes it and every consumed record that
follows it (R181). -/
def State.consume (s : State) (die x : Nat) (q : QDesc) (ix : Nat) : State :=
  if ix = q.head then s.ctxPut die x (q.va + 16) (s.headPast die x q (q.count - 1) (q.head + 1) % 2 ^ 64)
  else s.ctxPut die x (q.base + 64 * (ix % q.cap) + 56) 1

/-- A message is held for the core in its die's network interface (R180). -/
def State.heldFor (s : State) (l : Nat) : Bool := s.held.any fun n => n.msg.dst == l

/-- A held message takes its place among those of its core, in the order of arrival (R180). -/
def insertHeld (n : NetMsg) : List NetMsg → List NetMsg
  | [] => [n]
  | q :: r => if q.msg.dst = n.msg.dst ∧ n.msg.time < q.msg.time then n :: q :: r else q :: insertHeld n r

/-- A message that the full spill queue of its context does not take is held; the first that is held for its core is reported (R180). -/
def State.hold' (s : State) (c : Nat) (n : NetMsg) : State :=
  let x := n.msg.ctx
  let s1 := { s with held := insertHeld n s.held }
  if s.heldFor n.msg.dst then s1
  else match s1.spillVa c x with
    | some v => s1.report (dieOf c) (dieOrigin (dieOf c)) 1 v (BitVec.ofNat 64 (n.msg.dst % 4096)) x 0xFFF
    | none => s1

/-- Appends a message to the spill queue of its context with its time of arrival, or holds it (R180, R181). -/
def State.toSpill (s : State) (c : Nat) (n : NetMsg) : State :=
  match s.spillQ c n.msg.ctx with
  | none => s.hold' c n
  | some q => if q.full then s.hold' c n else s.qput (dieOf c) n.msg.ctx q (recordOf n.msg n.msg.time n.msg.dst 0)

/-- A message that a core cannot take goes to the spill queue: an event of R122 where the core holds the context and the record is
written. -/
def State.spill (s : State) (c : Nat) (n : NetMsg) : State :=
  let s1 := s.toSpill c n
  if s1.held.length = s.held.length ∧ (s1.core c).sv.ctxid.toNat = n.msg.ctx then
    s1.modCore c (fun k => { k with latch := true, wake := true })
  else s1

/-! ## Handler table entries -/

/-- An entry of the handler table. -/
def Core.entry (k : Core) (ch : Nat) : HEntry := k.htab[ch]?.getD HEntry.reset
/-- Replaces an entry. -/
def Core.setEntry (k : Core) (ch : Nat) (e : HEntry) : Core := { k with htab := k.htab.setIfInBounds ch e }

/-- The channels that check the generation (R178). -/
def checksGen (ch : Nat) : Bool := ch != 60 && ch != 61 && ch != 62

/-- A save of the core is in progress: slot 0 has stopped (R251). -/
def Core.inSave (k : Core) : Bool := match k.preempt with
  | .saving _ => true
  | _ => false

/-- The core is pre-empted for a context: slot 0 has stopped for the save, or the context's group is saved on it and not
restored (R179, R251). -/
def Core.preempted (k : Core) (x : Nat) : Bool :=
  k.inSave || (k.group.isNone && k.saved.any fun g => g.grp.ctx == x)

/-- A message of a context for a channel and a tag passes step 1 of R179: a group of the context is on the core and, where the
channel checks the generation, carries the tag. -/
def Core.tagOk (k : Core) (x ch gen : Nat) : Bool := match k.group with
  | some g => g.ctx == x && (!checksGen ch || k.u.hgen == gen)
  | none => false

/-- An event of R122: the latch is set, and with it the wake flag (R322). -/
def Core.event (k : Core) : Core := { k with latch := true, wake := true }

/-- Places a message in its channel FIFO (R179 step 3). -/
def Core.enqueue (k : Core) (m : Msg) : Core :=
  let e := k.entry m.ch
  (k.setEntry m.ch { e with fifo := e.fifo ++ [m], pend := true }).event

/-- Handles a message at its destination core (R179); delivery raises PTS to that of the message (R275). -/
def State.deliver (s : State) (c : Nat) (n : NetMsg) : State :=
  let m := n.msg
  let s0 := s.modCore c fun k => k.raisePts m.pts
  let k := s0.core c
  let other := k.owned && k.sv.ctxid.toNat != m.ctx
  if other || k.preempted m.ctx then s0.spill c n
  else if !k.tagOk m.ctx m.ch m.gen then s0.orphan (dieOf c) m m.dst 2
  else if (k.entry m.ch).st = .empty ∧ m.ch ≠ 62 ∧ m.ch ≠ 63 then s0.orphan (dieOf c) m m.dst 1
  else if (k.entry m.ch).fifo.length < 4 ∧ ((s0.spilledFor c m.ctx m.dst).any fun r => r.msg.ch == m.ch) = false then
    s0.setCore c (k.enqueue m)
  else s0.spill c n

/-- A message arrives now: it is delivered, or held behind one that is held for the same core (R180). -/
def State.arrive (s0 : State) (c : Nat) (n0 : NetMsg) : State :=
  let s := s0.modCore c fun k => { k with arrived := some s0.time }
  let n := { n0 with msg := { n0.msg with time := s.time } }
  if s.heldFor n.msg.dst then { s with held := s.held ++ [n] } else s.deliver c n

/-- A freed FIFO slot takes the oldest spilled message of its channel; a stale one becomes an orphan and frees the slot
again (R180, R179, SPILL_REFILL). Fuel bounds the messages taken. -/
def State.refillFrom (s : State) (c ch : Nat) : Nat → State
  | 0 => s
  | fuel + 1 =>
    let k := s.core c
    let x := k.sv.ctxid.toNat
    let l := s.logical c
    if 4 ≤ (k.entry ch).fifo.length then s
    else match s.spillQ c x, oldest ((s.spilledFor c x l).filter fun r => r.msg.ch == ch) with
      | some q, some r =>
        let s1 := s.consume (dieOf c) x q r.ix
        State.refillFrom (if !k.tagOk x ch r.msg.gen then s1.orphan (dieOf c) r.msg l 2
          else s1.modCore c fun k => k.enqueue r.msg) c ch fuel
      | _, _ => s

/-- Refills a channel's FIFO from the spill queue. -/
def State.refill (s : State) (c ch : Nat) : State :=
  let k := s.core c
  if 4 ≤ (k.entry ch).fifo.length then s
  else s.refillFrom c ch (s.spilledFor c k.sv.ctxid.toNat (s.logical c)).length

/-- A message of the channel waits in the FIFO or in the spill queue. -/
def State.waits (s : State) (c ch : Nat) : Bool :=
  !((s.core c).entry ch).fifo.isEmpty
    || (s.spilledFor c (s.core c).sv.ctxid.toNat (s.logical c)).any fun r => r.msg.ch == ch

/-- Sends a list of messages to the orphan queue. -/
def State.orphans (s : State) (c reason : Nat) : List Msg → State
  | [] => s
  | m :: r => State.orphans (s.orphan (dieOf c) m m.dst reason) c reason r

/-- Orphans the spilled messages of a channel. -/
def State.orphanSpilled (s : State) (c ch reason : Nat) : List Spilled → State
  | [] => s
  | r :: rest =>
    if r.msg.ch = ch then
      match s.spillQ c (s.core c).sv.ctxid.toNat with
      | some q => State.orphanSpilled ((s.consume (dieOf c) (s.core c).sv.ctxid.toNat q r.ix).orphan (dieOf c) r.msg r.dst reason)
          c ch reason rest
      | none => s
    else State.orphanSpilled s c ch reason rest

/-! ## Retirement of a group (R248) -/

/-- A core of a group is at rest. -/
def State.atRest (s : State) (c : Nat) : Bool :=
  let k := s.core c
  k.ended && k.act.isNone
    && ((List.range 48).all fun ch =>
      (k.entry ch).fifo.isEmpty && (ch == 0 || (k.entry ch).st == .empty || !(k.entry ch).en))
    && ((s.spilledFor c k.sv.ctxid.toNat (s.logical c)).all fun r => 48 ≤ r.msg.ch)

/-- The cores that hold the same group. -/
def State.groupCores (s : State) (g : GroupRef) : List Nat :=
  (s.cores.filter fun p => match p.2.group with
    | some h => h.die == g.die && h.card == g.card && h.ix == g.ix
    | none => false).map Prod.fst

/-- The parts of a group that are SAVED, with the cores on which they are (R240). -/
def State.groupSaved (s : State) (g : GroupRef) : List (Nat × SavedGroup) :=
  s.cores.flatMap fun p => (p.2.saved.filter fun r => r.grp.die == g.die && r.grp.card == g.card && r.grp.ix == g.ix).map fun r => (p.1, r)

/-- The entry that a save area holds for a channel: EMPTY, or not enabled (R174, R252). -/
def State.savedQuiet (s : State) (c : Nat) (r : SavedGroup) (ch : Nat) : Bool :=
  match s.ctxWord (dieOf c) r.grp.ctx (r.area + 0x1000 + 16 * ch) with
  | some w => bitsOf w 62 2 == 0 || bitsOf w 58 1 == 0
  | none => false

/-- A SAVED core of a gang is at rest: it was when it was saved, and no message for it has come since. -/
def State.savedAtRest (s : State) (p : Nat × SavedGroup) : Bool :=
  p.2.ended && p.2.ach.isNone
    && ((s.spilledFor p.1 p.2.grp.ctx (s.logical p.1)).all fun r => 48 ≤ r.msg.ch)
    && ((List.range 48).all fun ch => ch == 0 || s.savedQuiet p.1 p.2 ch)

/-- A core loses what it has SAVED of a retired group. -/
def Core.dropSaved (k : Core) (g : GroupRef) : Core :=
  { k with saved := k.saved.filter fun r => !(r.grp.die == g.die && r.grp.card == g.card && r.grp.ix == g.ix) }

/-- A core leaves a retired group: what its matrix unit runs retires with the group, its channels 0 to 47 become EMPTY and it is free
(log 62, DESIGN CHOICE: the matrix unit). -/
def Core.freeGroup (k0 : Core) : Core :=
  let k := k0.retireMatrix
  { k with
    htab := Vector.ofFn fun (i : Fin 64) => if i.val < 48 then HEntry.reset else k.htab[i]
    group := none
    ended := false
    passing := false
    preempt := .none }

/-- Counts a retired group in its launch, whose sequence write follows the group's accesses (R212). -/
def State.countRetired (s : State) (g : GroupRef) (p : Nat) : State :=
  s.modDie g.die fun d => { d with cards := d.cards.map fun q =>
    if q.id = g.card then { q with ts := max q.ts p, launch := q.launch.map fun l => { l with retired := l.retired + 1 } } else q }

/-- The running launches of a context write their sequence values after a timestamp of one of its stores (R212). -/
def State.raiseLaunches (s : State) (x p : Nat) : State :=
  { s with dies := s.dies.map fun d => { d with cards := d.cards.map fun q =>
    if q.ctx == x && q.launch.isSome && q.st == .running then { q with ts := max q.ts p } else q } }

/-- RUNNING becomes RUNNABLE when no group of the context is ACTIVE (R315). -/
def State.settleCtx (s : State) (x : Nat) : State :=
  match s.ctx? x with
  | none => s
  | some k =>
    if k.st = .running ∧ (s.cores.all fun p => match p.2.group with
      | some g => g.ctx != x
      | none => true) then { s.setCtx x { k with st := .runnable } with toHost := s.toHost ++ [.contextEvent x] }
    else s

/-- A card is DONE or RETIRED. -/
def Card.ended (c : Card) : Bool := c.st == .done || c.st == .retired

/-- Every core of a stopped context is SAVED, no job runs and no codec operation is in flight: PREEMPTING becomes SAVED
(R315, R364). -/
def State.settleStop (s : State) (x : Nat) : State :=
  match s.ctx? x with
  | none => s
  | some k =>
    if k.st = .preempting ∧ (s.cores.all fun p => match p.2.group with
          | some g => g.ctx != x
          | none => true) ∧ (s.dies.all fun d => d.cards.all fun c =>
          !(c.ctx == x && ((c.st == .running && c.op != 0x80 && c.cls != 3) || (0x100 ≤ c.op && !c.ended)))) then
      { s.setCtx x { k with st := .saved } with toHost := s.toHost ++ [.contextEvent x] }
    else s

/-- A group retires when its last core comes to rest: those of a gang that are SAVED count with the others (R240, R248, GROUP_RETIRE). -/
def State.tryRetire (s : State) (c : Nat) : State :=
  match (s.core c).group with
  | none => s
  | some g =>
    let cs := s.groupCores g
    let ss := s.groupSaved g
    if cs.length + ss.length = g.gang ∧ cs.all s.atRest ∧ ss.all s.savedAtRest then
      let s1 := (ss.map Prod.fst).foldl (fun u q => u.modCore q fun k => k.dropSaved g) (cs.foldl (fun u q => u.modCore q Core.freeGroup) s)
      (s1.countRetired g (((cs ++ ss.map Prod.fst).map fun q => (s.core q).pts).foldl max 0)).settleCtx g.ctx |>.settleStop g.ctx
    else s

/-! ## The end of an activation (R194) -/

/-- REBINDING commits when the activation ends (R175). -/
def HEntry.commit (e : HEntry) : HEntry :=
  if e.st = .rebinding then { e with st := .bound, code := e.ncode, prio := e.nprio } else e

/-- Slot 0 is free: private mode, no activation, no relation of the activation survives (R46, R96). -/
def Core.freeSlot (k : Core) : Core :=
  { k with act := none, u := { k.u with long := false }, ended := true, follow := .none, pend := .none,
           s0 := { k.s0 with hint := none } }

/-- HRET: removes the head message, refills the FIFO, recomputes PEND; slot 0 is free; the group may retire. -/
def State.endActivation (s : State) (c : Nat) : State :=
  let k := s.core c
  match k.act with
  | none => s
  | some a =>
    let e := k.entry a.ch
    let e1 := { e with fifo := if a.hasMsg then e.fifo.drop 1 else e.fifo }
    let s1 := (s.setCore c ((k.setEntry a.ch e1.commit).freeSlot)).endLeading c
    if e.st = .empty then (s1.modCore c fun q => q.setEntry a.ch { e1 with fifo := [], pend := false }).tryRetire c
    else
      let s2 := s1.refill c a.ch
      let w := s2.waits c a.ch
      (s2.modCore c fun q => q.setEntry a.ch { q.entry a.ch with pend := w }).tryRetire c

/-- HYIELD: keeps the head message and PEND; an EMPTY entry sends the head to the orphan queue (R194). -/
def State.yieldActivation (s : State) (c : Nat) : State :=
  let k := s.core c
  match k.act with
  | none => s
  | some a =>
    let e := k.entry a.ch
    let s1 := (s.setCore c ((k.setEntry a.ch e.commit).freeSlot)).endLeading c
    if e.st = .empty then
      let s2 := s1.modCore c fun q => q.setEntry a.ch { e with fifo := [], pend := false }
      (s2.orphans c 3 (if a.hasMsg then e.fifo.take 1 else [])).tryRetire c
    else s1.tryRetire c

end Sys2Proof.Machine
end

