-- ==== Sys2Proof/Machine/Platform.lean ====
section
/-! DEFINITION. Machine/Platform.lean: the platform block, the corrected-error log, power, errors and service
(20_platform.md). -/
namespace Sys2Proof.Machine

/-! ## Corrected errors (R383) -/

/-- CORRECTED_ERROR: kinds 1, 2 and 5 come from the memory; the others are logged by the events that cause them. -/
def execCorrectedError (kind unit loc detail : Nat) (s : State) : Out :=
  runEvent (fun s => if kind = 1 ∨ kind = 2 ∨ kind = 5 then s.celAppend kind unit loc detail else s) s

/-! ## The platform block (R378, R382, R384) -/

/-- PSTAT. -/
def State.pstat (s : State) : Word :=
  BitVec.ofNat 64 (s.plat.booterr % 256 * 2 ^ 16 + (if s.plat.fwlock then 256 else 0) + s.plat.stage % 16)

/-- PWRCAP: 400 to 1,600; after FWLOCK M may only lower it. -/
def State.putPwrcap (s : State) (v : Word) (w : Writer) : State :=
  let n := v.toNat
  let ok := 400 ≤ n ∧ n ≤ 1600 ∧ (match w with
    | .host => true
    | .machine => !s.plat.fwlock || n ≤ s.plat.pwrcap
    | .supervisor _ => false) = true
  if ok then { s with plat := { s.plat with pwrcap := n } } else s

/-- CELCAP: M before FWLOCK. -/
def State.putCelcap (s : State) (v : Word) (w : Writer) : State :=
  if w = .machine ∧ s.plat.fwlock = false then { s with plat := { s.plat with celcap := v } } else s

/-- A window lies in the host region (R378); one of size 0 is disabled. -/
def windowOk (v : Word) : Bool :=
  slice v 63 52 == 0 && (slice v 20 0 == 0 ||
    (hostBase ≤ slice v 51 21 * 2 ^ 21 && slice v 51 21 * 2 ^ 21 + slice v 20 0 * 2 ^ 21 ≤ 2 ^ 52))

/-- HWINk: the host only. -/
def State.putHwin (s : State) (k : Nat) (v : Word) (w : Writer) : State :=
  if w = .host ∧ windowOk v = true then { s with plat := { s.plat with hwin := s.plat.hwin.setIfInBounds k v } } else s

/-- MEAS as words: 48 bytes each, in digest order. -/
def State.measWord (s : State) (off : Nat) : Word :=
  let d := (s.plat.meas[off / 48]?.getD 0).toNat
  BitVec.ofNat 64 (bytesNat (((digestBytes d).drop (off % 48)).take 8))

/-- A word of the platform block by offset; none where the block has no word. -/
def State.platRead (s : State) (off : Nat) : Option Word :=
  if off = 0 then some s.pstat
  else if off = 8 then some (BitVec.ofNat 64 s.plat.pwrcap)
  else if off = 0x10 then some s.plat.celcap
  else if off = 0x18 then some s.plat.celptr
  else if off = 0x20 then some s.plat.cellost
  else if 0x100 ≤ off ∧ off < 0x140 then some (s.plat.hwin[(off - 0x100) / 8]?.getD 0)
  else if 0x200 ≤ off ∧ off < 0x2C0 then some (s.measWord (off - 0x200))
  else none

/-- A write of the platform block; words that no one may write keep their value. -/
def State.platWrite (s : State) (off : Nat) (v : Word) (w : Writer) : State :=
  if off = 8 then s.putPwrcap v w
  else if off = 0x10 then s.putCelcap v w
  else if 0x100 ≤ off ∧ off < 0x140 then s.putHwin ((off - 0x100) / 8) v w
  else s

/-- POWER_WINDOW: a window above PWRCAP makes the clamp insert stalls, which change timing only (R384). -/
def execPowerWindow (watts : Nat) (s : State) : Out :=
  runEvent (fun s => { s with plat := { s.plat with clamp := decide (s.plat.pwrcap < watts) } }) s

/-! ## Power gating (R384, R312) -/

/-- Exclusive host lines of a core. -/
def hostLines (k : Core) : List (Nat × L1Line) := k.l1.filter fun p => p.2.excl && 4096 ≤ p.2.home

/-- Writes back lines of a core whose copies count, and keeps them out of its L1 (R379 step 1). -/
def State.writeHost (s : State) (c : Nat) : List (Nat × L1Line) → State
  | [] => s
  | (line, l) :: r =>
    State.writeHost ((if s.reaches l.home c then s.writeBack l.home line l.data l.wts l.rts else s).modCore c fun k =>
      { k with l1 := removeK k.l1 line }) c r

/-- A core with no group and no served work. -/
def Core.idleCore (k : Core) : Bool :=
  k.group.isNone && k.act.isNone && k.slot3 == .idle && k.slot1.isEmpty && k.red.slots.isEmpty
    && ((List.range 2).all fun i => (k.entry (62 + i)).fifo.isEmpty)

/-- CORE_POWER_GATING: the core writes back its host lines before it gates. -/
def execCorePowerGating (c : Nat) (s : State) : Out :=
  runEvent (fun s => if c < coreCount && (s.core c).idleCore then
      (match s.giveUps c ((hostLines (s.core c)).map Prod.fst) with
        | some t => t.modCore c fun k => { k with gated := true }
        | none => s) else s) s

/-! ## Errors (R318, R383, R385) -/

/-- UNCORRECTABLE_ERROR: the owner of the frame becomes FAULTED with code 4 and the host is told. -/
def execUncorrectableError (pa : Nat) (s : State) : Out :=
  runEvent (fun s =>
    let s1 := { s with toHost := s.toHost ++ [.uncorrectable pa] }
    if inDram pa then (match s1.frame pa with
      | .mapped x => s1.faultCtx x 4 0 0
      | .zeroing _ => s1
      | .unmapped => s1
      | .retired => s1) else s1) s

/-- Contexts with a group on a core, ACTIVE or SAVED. -/
def Core.contexts (k : Core) : List Nat :=
  (match k.group with
    | some g => [g.ctx]
    | none => []) ++ k.saved.map fun g => g.grp.ctx

/-- Faults a list of contexts with code 4. -/
def State.faultAll (s : State) (core : Nat) : List Nat → State
  | [] => s
  | x :: r => State.faultAll (s.faultCtx x 4 0 core) core r

/-- A spare that firmware holds back on the die: marked in the harvest words of the core map, not fused off, and not a core that failed
(R385; the lowest of them log 30, DESIGN CHOICE). -/
def State.spareOn (s : State) (die : Nat) : Option Nat :=
  ((List.range 576).map fun i => 576 * die + i).find? fun c =>
    !s.enabled c && !s.plat.failed.contains c && !(s.plat.hmap[die * 9 + c % 576 / 64]?.getD 0).getLsbD (c % 64)

/-- Sets or clears a core's bit in the harvest words of the core map. -/
def State.setHarvest (s : State) (c : Nat) (v : Bool) : State :=
  let a := s.plat.l2pbase.toNat + 8 * (dieOf c * 9 + c % 576 / 64)
  let w := storeBytes s.mem a 8
  let b := 2 ^ (c % 576 % 64)
  let clr := if w / b % 2 = 1 then w - b else w
  { s with mem := putBytes s.mem a 8 (if v then clr + b else clr) }

/-- A group dealt to a core that failed is placed on the spare; one that was pushed to another cluster stays in its queue (R385). -/
def Dealt.moved (e : Dealt) (c p : Nat) : Dealt :=
  if e.core = some c then { e with core := some p, cluster := if e.cluster = clusterOf c then clusterOf p else e.cluster } else e

/-- Firmware moves the logical id of a core without a group to a spare, and logs it (R385). -/
def State.remap (s : State) (c : Nat) : State :=
  if s.plat.l2pbase = 0 ∨ !s.enabled c ∨ !(s.core c).contexts.isEmpty then s
  else match s.spareOn (dieOf c) with
    | none => s
    | some p =>
      let l := s.logical c
      let s1 := { s with
        mem := putBytes s.mem (s.plat.l2pbase.toNat + 0x100 + 2 * l) 2 (physId p)
        dies := s.dies.map fun (d : Die) => { d with dealt := d.dealt.map fun (e : Dealt) => e.moved c p } }
      ((s1.setHarvest p false).setHarvest c true).celAppend 6 0 (physId c) 0

/-- CORE_FAILURE: faults the contexts that hold groups on the core; with none on it, its logical id moves to a spare. -/
def execCoreFailure (c : Nat) (s : State) : Out :=
  runEvent (fun s0 => if coreCount ≤ c then s0
    else
      let s := { s0 with plat := { s0.plat with failed := insertN s0.plat.failed c } }
      if (s.core c).contexts.isEmpty then s.remap c
      else s.faultAll (s.logical c) (s.core c).contexts) s

/-! ## The frame unit's events (R288, R289, R385) -/

/-- FCMD_ASSIGN. -/
def execFcmdAssign (die : Nat) (v : Word) (s : State) : Out :=
  runEvent (fun s => if die < 2 ∧ fcmdOp v = 1 then s.fcmdAssign die v else s) s
/-- FCMD_RELEASE. -/
def execFcmdRelease (die : Nat) (v : Word) (s : State) : Out :=
  runEvent (fun s => if die < 2 ∧ fcmdOp v = 2 then s.fcmdRelease die v else s) s
/-- FCMD retire: an UNMAPPED frame is never assigned again, and the log gets its entry. -/
def State.fcmdRetire (s : State) (die : Nat) (v : Word) : State :=
  let f := fcmdFrame v
  if !fcmdOk v then s.fcmdReject die
  else match (s.die die).frameAt f with
    | .unmapped => (s.fcmdEnd die false f .retired).celAppend 7 die (frameBase die f) 0
    | .mapped _ => s.fcmdReject die
    | .zeroing _ => s.fcmdReject die
    | .retired => s.fcmdReject die
/-- FCMD_RETIRE. -/
def execFcmdRetire (die : Nat) (v : Word) (s : State) : Out :=
  runEvent (fun s => if die < 2 ∧ fcmdOp v = 3 then s.fcmdRetire die v else s) s
/-- ZEROING_COMPLETE. -/
def execZeroingComplete (die frame : Nat) (s : State) : Out :=
  runEvent (fun s => if die < 2 ∧ frame < 65536 then s.zeroingDone die frame else s) s

/-- A write of FCMD (R289): a command, or a rejected one. -/
def State.fcmd (s : State) (die : Nat) (v : Word) : State :=
  match fcmdOp v with
  | 1 => s.fcmdAssign die v
  | 2 => s.fcmdRelease die v
  | 3 => s.fcmdRetire die v
  | _ => s.fcmdReject die

end Sys2Proof.Machine
end

