-- ==== Sys2Proof/Machine/Link.lean ====
section
/-! DEFINITION. Machine/Link.lean: Thomir flits, retry, compression, link states and registers, the host attachment's
links, Halyard packets and the liveness of agents (19_link.md; 15, R306 to R309). -/
namespace Sys2Proof.Machine

/-! ## CRC-32C (R230) -/

/-- Eight steps of the reflected polynomial. -/
def crcBits : Nat → Nat → Nat
  | 0, r => r
  | n + 1, r => crcBits n (if r % 2 = 1 then Nat.xor (r / 2) 0x82F63B78 else r / 2)

/-- The register after bytes. -/
def crcRun (r : Nat) (l : List Byte) : Nat := l.foldl (fun r b => crcBits 8 (Nat.xor r b.toNat)) r

/-- CRC32C(s, data). -/
def crc32c (s : Nat) (l : List Byte) : Nat := 2 ^ 32 - 1 - crcRun (2 ^ 32 - 1 - s % 2 ^ 32) l

/-! ## Flits (R366) -/

/-- The header fields of a flit. -/
structure FlitHead where
  seq  : Nat
  ack  : Nat
  vc   : Nat
  comp : Bool
  type : Nat
  crvc : Nat
  cred : Nat
  len  : Nat

/-- The header word. -/
def FlitHead.word (h : FlitHead) : Nat :=
  h.seq % 4096 * 2 ^ 52 + h.ack % 4096 * 2 ^ 40 + h.vc % 8 * 2 ^ 36 + (if h.comp then 2 ^ 35 else 0) + h.type % 8 * 2 ^ 32
    + h.crvc % 8 * 2 ^ 29 + h.cred % 256 * 2 ^ 16 + h.len % 16 * 2 ^ 12

/-- The header of 256 bytes. -/
def flitHead (f : List Byte) : FlitHead :=
  let w := bytesNat (f.take 8)
  { seq := bitsOf w 52 12, ack := bitsOf w 40 12, vc := bitsOf w 36 3, comp := bitsOf w 35 1 == 1, type := bitsOf w 32 3,
    crvc := bitsOf w 29 3, cred := bitsOf w 16 8, len := bitsOf w 12 4 }

/-- A flit that the receiver does not discard: its length, CRC, zero fields and TYPE. -/
def flitIntact (f : List Byte) : Bool :=
  let w := bytesNat (f.take 8)
  f.length == 256 && bytesNat ((f.drop 248).take 4) == crc32c 0 (f.take 248) && (f.drop 252).all (· == 0)
    && bitsOf w 39 1 == 0 && bitsOf w 24 5 == 0 && bitsOf w 0 12 == 0 && bitsOf w 32 3 ≤ 4

/-- A flit from its header and payload. -/
def makeFlit (h : FlitHead) (payload : List Byte) : List Byte :=
  let b := leBytes 8 h.word ++ (payload ++ List.replicate (240 - payload.length) 0).take 240
  b ++ leBytes 4 (crc32c 0 b) ++ List.replicate 4 0

/-! ## Compression (R369) -/

/-- The words of a payload, each 8 bytes, n of them. -/
def wordsOfBytes (l : List Byte) (n : Nat) : List (List Byte) := (List.range n).map fun k => (l.drop (8 * k)).take 8

/-- Pads to a multiple of 8 bytes. -/
def pad8 (l : List Byte) : List Byte := l ++ List.replicate ((8 - l.length % 8) % 8) 0

/-- Codes a packet: the mask of its nonzero words, those words, and padding to 8 bytes. -/
def compressPacket (l : List Byte) : List Byte :=
  let ws := wordsOfBytes (pad8 l) ((l.length + 7) / 8)
  let mask := (List.range ws.length).foldl (fun a k => if (ws[k]?.getD []).any (· != 0) then a + 2 ^ k else a) 0
  pad8 (leBytes 4 mask ++ (ws.filter fun w => w.any (· != 0)).flatten)

/-- Decodes a packet of n words: the words that the mask names, zero elsewhere. -/
def expandWords (mask : Nat) (rest : List Byte) : Nat → Nat → List Byte
  | 0, _ => []
  | n + 1, k =>
    if bitsOf mask k 1 = 1 then rest.take 8 ++ expandWords mask (rest.drop 8) n (k + 1)
    else List.replicate 8 0 ++ expandWords mask rest n (k + 1)

/-- A packet that a flit may carry coded: one of 30 words, which is what a coded packet decodes to (log 17, DESIGN CHOICE). -/
def codable (p : List Byte) : Bool := p.length == 240

/-- Further packets of a virtual channel, coded, for the room that coding frees; with the queue without them. Within the channel
none overtakes another. -/
def fillFlit (vc : Nat) : Nat → List (Nat × List Byte) → List Byte × List (Nat × List Byte)
  | _, [] => ([], [])
  | room, (v, p) :: rest =>
    if v ≠ vc then
      let r := fillFlit vc room rest
      (r.1, (v, p) :: r.2)
    else
      let c := compressPacket p
      if codable p && decide (c.length ≤ room) then
        let r := fillFlit vc (room - c.length) rest
        (c ++ r.1, r.2)
      else ([], (v, p) :: rest)

/-- Fills a coded payload to whole units: eight bytes that are no mask end it (log 17, DESIGN CHOICE). -/
def padUnit (l : List Byte) : List Byte := if l.length % 16 = 0 then l else l ++ List.replicate 8 255

/-- Bytes that a packet with a mask takes coded. -/
def codedSize (mask : Nat) : Nat := ((4 + 8 * ((List.range 30).filter fun k => bitsOf mask k 1 == 1).length) + 7) / 8 * 8

/-- Decodes the packets of a coded payload; fuel bounds them. -/
def expandPackets : Nat → List Byte → List (List Byte)
  | 0, _ => []
  | n + 1, l =>
    let mask := bytesNat (l.take 4)
    if l.length < 8 ∨ 2 ^ 30 ≤ mask then []
    else expandWords mask (l.drop 4) 30 0 :: expandPackets n (l.drop (codedSize mask))

/-! ## Sending (R367, R368) -/

/-- The first payload of a queue whose virtual channel has a credit, and the queue without it (R367). -/
def readyFlit (cr : Vector Nat 6) : List (Nat × List Byte) → Option (Nat × List Byte × List (Nat × List Byte))
  | [] => none
  | (v, p) :: rest =>
    if 0 < cr[v]?.getD 0 then some (v, p, rest)
    else (readyFlit cr rest).map fun r => (r.1, r.2.1, (v, p) :: r.2.2)

/-- Sends one payload, with what coding finds room for. -/
def Link.sendFlit (l : Link) (vc : Nat) (p : List Byte) (rest : List (Nat × List Byte)) : Link :=
  let small := compressPacket p
  let comp := l.comp && codable p && decide (small.length < p.length)
  let more := if comp then fillFlit vc (240 - small.length) rest else ([], rest)
  let body := if comp then padUnit (small ++ more.1) else p
  let q := (l.txSeq + 1) % 4096
  let h : FlitHead := { seq := q, ack := l.rxSeq, vc := vc, comp := comp, type := 0, crvc := 0, cred := 0,
                        len := (body.length + 15) / 16 }
  let f := makeFlit h body
  { l with queue := more.2, wire := l.wire ++ [f], replay := l.replay ++ [(q, f)], txSeq := q,
           credits := l.credits.setIfInBounds vc (l.credits[vc]?.getD 0 - 1) }

/-- Puts queued payloads on the wire while the link is ACTIVE, the replay buffer has room and a channel with payloads has credits;
fuel bounds the flits. -/
def Link.pump : Nat → Link → Link
  | 0, l => l
  | n + 1, l =>
    if l.st != .active || 256 ≤ l.replay.length then l
    else match readyFlit l.credits l.queue with
      | none => l
      | some (v, p, rest) => Link.pump n (l.sendFlit v p rest)

/-- Sends a flit of another type, which repeats the last SEQ sent, with credits returned for a channel (R366). -/
def Link.controlWith (l : Link) (type crvc cred : Nat) : Link :=
  let h : FlitHead := { seq := l.txSeq, ack := l.rxSeq, vc := 0, comp := false, type := type, crvc := crvc, cred := cred, len := 0 }
  { l with wire := l.wire ++ [makeFlit h []] }

/-- Sends a flit of another type. -/
def Link.control (l : Link) (type : Nat) : Link := l.controlWith type 0 0

/-- Everything in the replay buffer is sent again (R368). -/
def Link.replayed (l : Link) : Link :=
  { l with wire := l.wire ++ l.replay.map Prod.snd, retries := (l.retries + 1) % 65536 }

/-- Payload bytes cut into flits of 240. -/
def chunks : Nat → List Byte → List (List Byte)
  | 0, _ => []
  | n + 1, l => if l.isEmpty then [] else l.take 240 :: chunks n (l.drop 240)

/-- Queues copy-job data for the peer, on virtual channel 3, and sends what may be sent (R367). -/
def Link.sendBytes (l : Link) (b : List Byte) : Link :=
  let q := (chunks (b.length / 240 + 1) b).map fun p => (3, p)
  Link.pump (l.queue.length + q.length) { l with queue := l.queue ++ q }

/-! ## Receiving (R366 to R368) -/

/-- Removes what an ACK covers from the replay buffer. -/
def acked (ack : Nat) (l : List (Nat × List Byte)) : List (Nat × List Byte) :=
  if l.any fun p => p.1 == ack then (l.dropWhile fun p => p.1 != ack).drop 1 else l

/-- An intact flit's ACK and returned credits. -/
def Link.credited (l : Link) (h : FlitHead) : Link :=
  { l with
    replay := acked h.ack l.replay
    credits := if h.crvc < 6 then l.credits.setIfInBounds h.crvc (l.credits[h.crvc]?.getD 0 + h.cred) else l.credits }

/-- An intact flit's ACK alone: a flit that is dropped returns no credits, since its replay brings them again. -/
def Link.ackOnly (l : Link) (h : FlitHead) : Link := Link.pump l.queue.length { l with replay := acked h.ack l.replay }

/-- Takes an intact flit's ACK and credits, and sends what they let go. -/
def Link.absorb (l : Link) (h : FlitHead) : Link := Link.pump l.queue.length (l.credited h)

/-- The packets that an accepted flit delivers. -/
def flitPackets (h : FlitHead) (f : List Byte) : List (List Byte) :=
  let body := ((f.drop 8).take 240).take (16 * h.len)
  if h.comp then expandPackets 31 body else [body]

/-- A data flit is the one that the receiver expects. -/
def Link.expects (l : Link) (f : List Byte) : Bool :=
  flitIntact f && (flitHead f).type == 0 && (flitHead f).seq == (l.rxSeq + 1) % 4096

/-- A data flit arrives: accepted in order, acknowledged with its credit by an idle flit (log 17, DESIGN CHOICE), else one NAK, and
data flits are dropped until the expected SEQ arrives; a discarded flit is asked for again then too. -/
def Link.dataArrives (l : Link) (f : List Byte) : Link :=
  let h := flitHead f
  if !flitIntact f then { l.control 1 with hunting := true }
  else if h.type ≠ 0 then l
  else if l.expects f then
    let l1 := l.absorb h
    Link.controlWith { l1 with rxSeq := h.seq, hunting := false, rx := l1.rx ++ (flitPackets h f).map fun p => (h.vc, p) } 2 h.vc 1
  else
    let l1 := l.ackOnly h
    if l1.hunting then l1 else { l1.control 1 with hunting := true }

/-! ## FENCED (R373) -/

/-- The die of a message's source. -/
def originDie (s : State) (o : Nat) : Nat :=
  if o < 2000 then dieOf o else if o < 8000 then homeDie s (o - 2000) else o - 8000

/-- A barrier message between homes crosses the bridge: a child arrival (R259); a release is a message (R261). -/
def barCrosses (s : State) : BarMsg → Bool
  | .child home _ _ (.child h _ _) _ _ _ => homeDie s h != homeDie s home
  | _ => false

/-- The context of a barrier message. -/
def BarMsg.ctx : BarMsg → Nat
  | .arrival _ _ _ _ x _ => x
  | .child _ _ _ _ _ x _ => x
  | .wait _ _ _ _ x => x
  | .retry _ _ _ _ x _ => x

/-- A message crosses the bridge. -/
def crosses (s : State) (n : NetMsg) : Bool :=
  match s.physical n.msg.dst with
  | some c => dieOf c != originDie s n.origin
  | none => false

/-- The die whose end of a link reports to a context: that of the receiver, to which the report crosses no link (log 75, DEDUCED). -/
def State.reportDie (s : State) (x : Nat) : Nat := match s.receiver x with
  | some r => dieOf r.2
  | none => 0

/-- Reports code 0x14 once to each context of a list. -/
def State.reportLost (s : State) (p : Nat) : List Nat → State
  | [] => s
  | x :: r => State.reportLost (s.report (s.reportDie x) (dieOrigin (s.reportDie x)) 0x14 (BitVec.ofNat 64 p) 0 x 0xFFF) p r

/-- A fault report. -/
def Msg.isReport (m : Msg) : Bool := m.ch == 59 && m.kind == 4 && m.info == 4

/-- A message that comes to the bridge while that is cut is discarded, with a report to its context; a report is lost without one
(R373; log 75, DEDUCED). -/
def State.loseMsg (s : State) (m : Msg) : State := if m.isReport then s else s.reportLost 12 [m.ctx]

/-- Each element once. -/
def onceEach : List Nat → List Nat
  | [] => []
  | x :: r => if r.contains x then onceEach r else x :: onceEach r

/-- Marks agents of a list of Halyard addresses fenced. -/
def State.fenceAgents (s : State) : List Nat → State
  | [] => s
  | a :: r => State.fenceAgents { s with agents := insertK s.agents a { s.agent a with fenced := true } } r

/-- The agents that a link's peer is. -/
def peerAgents (p : Nat) : List Nat := if p < 12 then [300 + p] else if p = 12 then [288, 289] else [294]

/-- The card is a COPY that waits until the data it sent leave a port. -/
def Card.sends (c : Card) (p : Nat) : Bool :=
  c.st == .running && c.op == 1 && c.began.isSome && c.fout == 0 && bitsOf c.args[1].toNat 63 1 == 1 && bitsOf c.args[1].toNat 56 4 == p

/-- What the copy jobs had sent through a port and the port has not delivered is lost: their start goes back to 0 (R373). -/
def State.loseCopies (s : State) (p : Nat) : State :=
  { s with dies := s.dies.map fun d => { d with cards := d.cards.map fun c => if c.sends p then { c with began := some 0 } else c } }

/-- What happens to the traffic of a link that enters FENCED or DISABLED: copy jobs lose their data, messages queued for it, of barriers too, are discarded and
reported, and the peer's copies count as lost. -/
def State.cutTraffic (s : State) (p : Nat) : State :=
  if p = 12 then
    let lost := (s.net.filter (crosses s)).map (fun n => n.msg.ctx) ++ (s.bars.filter (barCrosses s)).map BarMsg.ctx
    let s1 := { s with net := s.net.filter fun n => !crosses s n, bars := s.bars.filter fun m => !barCrosses s m }
    (s1.reportLost p (onceEach lost)).fenceAgents (peerAgents p)
  else (s.loseCopies p).fenceAgents (peerAgents p)

/-- A link enters FENCED: one fence notice, and its traffic is cut. -/
def State.fenceLink (s : State) (p : Nat) : State :=
  let l := (s.link p).control 4
  (s.setLink p { l with st := .fenced, queue := [], replay := [], width := 0 }).cutTraffic p

/-- Firmware's last steps of a reset: once links 12 to 16 have trained it sets FWLOCK, and the schedulers accept commands (R379 steps
4 to 6). -/
def State.bootOn (s : State) : State :=
  if s.plat.stage = 3 ∧ s.plat.booterr = 0 ∧ ([12, 13, 14, 15, 16].all fun p => (s.link p).st != .train) = true then
    { s with plat := { s.plat with fwlock := true, stage := 6 } }
  else s

/-- A link enters DISABLED. -/
def State.disableLink (s : State) (p : Nat) : State :=
  ((s.setLink p { s.link p with st := .disabled, queue := [], replay := [], width := 0 }).cutTraffic p).bootOn

/-! ## States (R372) -/

/-- Lanes of a link; the width of a UCIe module is not given and counts as 64 (log 17, DESIGN CHOICE). -/
def lanesOf (p : Nat) : Nat := if p < 12 then 8 else if p = 12 then 4096 else 64

/-- A link starts training. -/
def State.startTraining (s : State) (p : Nat) : State := s.setLink p { s.link p with st := .train, since := s.time }

/-- A bad lane of a link can run on a spare: a port has one, the bridge two for each of its 64 groups; a UCIe module repairs its
lanes (R372). -/
def canSpare (p : Nat) (on : List Nat) (k : Nat) : Bool :=
  if p < 12 then on.isEmpty else if p = 12 then decide ((on.filter fun j => j / 64 == k / 64).length < 2) else true

/-- Puts bad lanes on spares, as far as there are spares: the lanes on spares, and those that stay bad. -/
def spareLanes (p : Nat) : List Nat → List Nat → List Nat × List Nat
  | on, [] => (on, [])
  | on, k :: rest =>
    if canSpare p on k then spareLanes p (insertN on k) rest
    else
      let r := spareLanes p on rest
      (r.1, insertN r.2 k)

/-- SPARED of LSTAT (R371). -/
def sparedField (p : Nat) (on : List Nat) : Nat :=
  if p < 12 then on.foldl (fun a k => Nat.lor a (2 ^ (k % 8))) 0 else min 255 on.length

/-- Training or retraining ends with a number of good lanes, spares included. -/
def Link.trained (l : Link) (p good : Nat) : Link :=
  let r := spareLanes p l.spared l.bad
  { l with st := .active, spared := r.1, bad := r.2, width := if lanesOf p ≤ good ∧ r.2 = [] then 2 else 1 }

/-- Lanes that training puts on spares. -/
def Link.newlySpared (l : Link) (p : Nat) : Nat := (spareLanes p l.spared l.bad).1.length - l.spared.length

/-- One log entry for each lane spared. -/
def State.logLanes (s : State) (p : Nat) : Nat → State
  | 0 => s
  | n + 1 => (State.logLanes s p n).celAppend 4 p p 0

/-- A link after training: SEQ 0, nothing to replay, and the credits that its peer gives at the start (R372, R367; log 17, DESIGN
CHOICE). -/
def Link.started (l : Link) : Link :=
  { l with txSeq := 0, rxSeq := 0, replay := [], hunting := false, credits := Vector.replicate 6 Config.linkCredits }

/-- TRAINING_END: training ends within 100 µs. -/
def execTrainingEnd (p good : Nat) (s : State) : Out :=
  runEvent (fun s =>
    let l := s.link p
    if p < 17 ∧ l.st = .train ∧ s.time ≤ l.since + 100000 then
      if lanesOf p ≤ 2 * good then
        let l1 := (l.trained p good).started
        ((s.setLink p (Link.pump l1.queue.length l1)).logLanes p (l.newlySpared p)).bootOn
      else (s.setLink p { l with st := .down }).bootOn
    else s) s

/-- TRAINING_TIMEOUT: 100 µs have passed. -/
def execTrainingTimeout (p : Nat) (s : State) : Out :=
  runEvent (fun s =>
    let l := s.link p
    if p < 17 ∧ l.st = .train ∧ l.since + 100000 ≤ s.time then (s.setLink p { l with st := .down }).bootOn else s) s

/-- A replay's entry in the corrected-error log (R368). -/
def State.logReplay (s : State) (p : Nat) : State := s.celAppend 3 p p 0

/-- RETRAIN_END: ACTIVE again, with replay from the last ACK and then what is queued, or FENCED. -/
def execRetrainEnd (p good : Nat) (s : State) : Out :=
  runEvent (fun s =>
    let l := s.link p
    if p < 17 ∧ l.st = .retrain ∧ s.time ≤ l.since + 20000 then
      if lanesOf p ≤ 2 * good then
        ((s.setLink p (Link.pump l.queue.length (l.trained p good).replayed)).logReplay p).logLanes p (l.newlySpared p)
      else s.fenceLink p
    else s) s

/-- RETRAIN_TIMEOUT: 20 µs have passed. -/
def execRetrainTimeout (p : Nat) (s : State) : Out :=
  runEvent (fun s => if p < 17 ∧ (s.link p).st = .retrain ∧ (s.link p).since + 20000 ≤ s.time then s.fenceLink p else s) s

/-- An ACTIVE link enters RETRAIN. -/
def State.retrain (s : State) (p : Nat) : State :=
  s.setLink p { s.link p with st := .retrain, since := s.time, naks := 0 }

/-- LANE_ERROR_LIMIT: a lane's error count passes its limit. -/
def execLaneErrorLimit (p lane : Nat) (s : State) : Out :=
  runEvent (fun s => if p < 17 ∧ (s.link p).st = .active then
      (s.setLink p { s.link p with bad := insertN (s.link p).bad lane }).retrain p else s) s

/-- LCMD disable. -/
def State.lcmdDisable (s : State) (p : Nat) : State := if (s.link p).st = .disabled then s else s.disableLink p
/-- Agents of a list are fenced no longer, but for those that fenced themselves. -/
def State.unfenceAgents (s : State) : List Nat → State
  | [] => s
  | a :: r => State.unfenceAgents { s with agents := insertK s.agents a { s.agent a with fenced := (s.agent a).drift } } r

/-- Copies of lines homed on the other die go from the L1s and remote-data caches of both. -/
def State.dropForeign (s : State) : State :=
  { s with
    cores := s.cores.map fun p => (p.1, { p.2 with l1 := p.2.l1.filter fun q => decide (4096 ≤ q.2.home) || homeDie s q.2.home == dieOf p.1 })
    dies := s.dies.map fun d => { d with rdc := d.rdc.filter fun q => decide (4096 ≤ q.2.home) } }

/-- The peer of a link holds no copies, and its agents count again (R372). -/
def State.freshPeer (s : State) (p : Nat) : State := (if p = 12 then s.dropForeign else s).unfenceAgents (peerAgents p)

/-- LCMD enable; a link that was DISABLED finds its peer as one that was FENCED does (R372). -/
def State.lcmdEnable (s : State) (p : Nat) : State :=
  let l := s.link p
  if l.rcap = 3 then s
  else match l.st with
    | .down => s.startTraining p
    | .disabled => (s.freshPeer p).startTraining p
    | _ => s
/-- LCMD unfence: DOWN. -/
def State.lcmdUnfence (s : State) (p : Nat) : State :=
  if (s.link p).st = .fenced then (s.freshPeer p).setLink p { s.link p with st := .down } else s
/-- LCMD retrain. -/
def State.lcmdRetrain (s : State) (p : Nat) : State := if (s.link p).st = .active then s.retrain p else s

/-- LCMD_ENABLE. -/
def execLcmdEnable (p : Nat) (s : State) : Out := runEvent (fun s => if p < 17 then s.lcmdEnable p else s) s
/-- LCMD_DISABLE. -/
def execLcmdDisable (p : Nat) (s : State) : Out := runEvent (fun s => if p < 17 then s.lcmdDisable p else s) s
/-- LCMD_UNFENCE. -/
def execLcmdUnfence (p : Nat) (s : State) : Out := runEvent (fun s => if p < 17 then s.lcmdUnfence p else s) s
/-- LCMD_RETRAIN. -/
def execLcmdRetrain (p : Nat) (s : State) : Out := runEvent (fun s => if p < 17 then s.lcmdRetrain p else s) s

/-! ## Registers (R371) -/

/-- The code of a state. -/
def linkCode : LinkState → Nat
  | .down => 0 | .train => 1 | .active => 2 | .retrain => 3 | .fenced => 4 | .disabled => 5

/-- LSTAT. -/
def Link.lstat (l : Link) (p : Nat) : Word :=
  BitVec.ofNat 64 (l.retries % 65536 * 2 ^ 32 + sparedField p l.spared % 256 * 2 ^ 16 + l.width % 4 * 2 ^ 8
    + (if l.comp then 8 else 0) + linkCode l.st)

/-- LCTL. -/
def Link.lctl (l : Link) : Word :=
  BitVec.ofNat 64 (l.peerctx % 65536 * 2 ^ 48 + l.lctx % 65536 * 2 ^ 32 + l.con % 256 * 2 ^ 24 + l.coff % 256 * 2 ^ 16
    + l.rcap % 4 * 2 ^ 8 + (if l.cena then 1 else 0))

/-- A write of LCTL: ignored with CON ≤ COFF; after FWLOCK M may not lower RCAP; RCAP 3 disables the link. -/
def State.lctlWrite (s : State) (p : Nat) (v : Word) (w : Writer) : State :=
  let l := s.link p
  if slice v 31 24 ≤ slice v 23 16 then s
  else
    let r := slice v 9 8
    let rcap := if w = .machine ∧ s.plat.fwlock = true ∧ r < l.rcap then l.rcap else r
    let port := p < 12
    let s1 := s.setLink p { l with
      peerctx := if port then slice v 63 48 else 0
      lctx := if port then slice v 47 32 else 0
      con := slice v 31 24
      coff := slice v 23 16
      rcap := rcap
      cena := bitAt v 0
      comp := l.comp && bitAt v 0 }
    if rcap = 3 ∧ l.st ≠ .disabled then s1.disableLink p else s1

/-- S and U code cannot reach the link blocks. -/
def outsideWriter : Writer → Bool
  | .supervisor _ => false
  | _ => true

/-- A write of a register gets to the device: the host's takes a UCIe module that is ACTIVE (R365, R377). -/
def State.writerReaches (s : State) : Writer → Bool
  | .host => s.ucieUp 0 || s.ucieUp 1
  | _ => true

/-- LCTL_WRITE. -/
def execLctlWrite (p : Nat) (v : Word) (w : Writer) (s : State) : Out :=
  runEvent (fun s => if p < 17 ∧ outsideWriter w = true ∧ s.writerReaches w = true then s.lctlWrite p v w else s) s

/-- A write of LCMD: other values have no effect. -/
def State.lcmd (s : State) (p : Nat) (v : Word) : State :=
  match slice v 3 0 with
  | 1 => s.lcmdEnable p
  | 2 => s.lcmdDisable p
  | 3 => s.lcmdUnfence p
  | 4 => s.lcmdRetrain p
  | _ => s

/-- A word of a link's block. -/
def State.linkRead (s : State) (off : Nat) : Option Word :=
  let p := off / 0x100
  if 17 ≤ p then none
  else match off % 0x100 with
    | 0 => some ((s.link p).lstat p)
    | 8 => some (s.link p).lctl
    | _ => none

/-- A write of a link's block. -/
def State.linkWrite (s : State) (off : Nat) (v : Word) (w : Writer) : State :=
  let p := off / 0x100
  if 17 ≤ p then s
  else match off % 0x100 with
    | 8 => s.lctlWrite p v w
    | 0x10 => s.lcmd p v
    | _ => s

/-! ## Flits that arrive (R366, R368, R372, R375) -/

/-- A Thomir link that takes flits. -/
def State.takesFlits (s : State) (p : Nat) : Bool := p ≤ 12 && (s.link p).st == .active

/-- A NAK: everything after its ACK is sent again, and then what is queued; eight in a row that name one ACK retrain the link. -/
def State.nakArrives (s : State) (p : Nat) (f : List Byte) : State :=
  let h := flitHead f
  let l := ((s.link p).credited h).replayed
  let n := if l.nakAck = h.ack then l.naks + 1 else 1
  let s1 := (s.setLink p (Link.pump l.queue.length { l with nakAck := h.ack, naks := n })).logReplay p
  if 8 ≤ n then s1.retrain p else s1

/-- NAK. -/
def execNak (p : Nat) (flit : List Byte) (s : State) : Out :=
  runEvent (fun s => if s.takesFlits p && flitIntact flit && (flitHead flit).type == 1 then s.nakArrives p flit else s) s

/-- IDLE_ACK_FLIT. -/
def execIdleAckFlit (p : Nat) (flit : List Byte) (s : State) : Out :=
  runEvent (fun s => if s.takesFlits p && flitIntact flit && (flitHead flit).type == 2 then
      s.setLink p ((s.link p).absorb (flitHead flit)) else s) s

/-- HEARTBEAT_FLIT: the port's peer is alive (R375). -/
def execHeartbeatFlit (p : Nat) (flit : List Byte) (s : State) : Out :=
  runEvent (fun s => if s.takesFlits p && flitIntact flit && (flitHead flit).type == 3 then
      let s1 := s.setLink p ((s.link p).absorb (flitHead flit))
      { s1 with agents := insertK s1.agents (300 + p) { s1.agent (300 + p) with beat := s1.time } } else s) s

/-- FENCE_NOTICE: the peer has fenced the link. -/
def execFenceNotice (p : Nat) (flit : List Byte) (s : State) : Out :=
  runEvent (fun s => if p ≤ 12 ∧ ((s.link p).st = .active ∨ (s.link p).st = .retrain) ∧ flitIntact flit = true
      ∧ (flitHead flit).type = 4 then s.fenceLink p else s) s

/-- Flits that wait at a transmitter: those queued; for the bridge one for each item of the mesh traffic that has to cross it, whose
packing no rule gives (log 17, DESIGN CHOICE). -/
def State.linkDepth (s : State) (p : Nat) : Nat :=
  if p = 12 then (s.net.filter (crosses s)).length + (s.bars.filter (barCrosses s)).length
    + (s.reqs.filter fun q => decide (q.home < 4096) && homeDie s q.home != dieOf q.core).length
    + (s.reps.filter fun m => decide (m.home < 4096) && decide (m.core < coreCount) && homeDie s m.home != dieOf m.core).length
  else (s.link p).queue.length

/-- COMP_SAMPLE (R370). -/
def execCompSample (p : Nat) (s : State) : Out :=
  runEvent (fun s => if 12 < p then s else
    let l := s.link p
    let n := s.linkDepth p
    s.setLink p { l with comp := if !l.cena then false else if l.con ≤ n then true else if n < l.coff then false else l.comp }) s

/-! ## Liveness of agents (R306 to R309, R376) -/

/-- The class of an agent in LIVEMODE: 0 in-package, 1 host die, 2 remote devices. -/
def agentClass (addr : Nat) : Nat := if addr < 294 then 0 else if addr = 294 then 1 else if addr = 295 then 0 else 2

/-- The agent's class is in LEASE mode. -/
def State.leaseMode (s : State) (addr : Nat) : Bool := bitAt s.plat.livemode (agentClass addr)

/-- Sets an agent's liveness. -/
def State.setAgent (s : State) (a : Nat) (x : Agent) : State := { s with agents := insertK s.agents a x }

/-- In FENCE mode a port sends a heartbeat flit every 50 µs, unless it has fenced itself (R307, R375). -/
def State.portBeat (s : State) (p : Nat) : State :=
  let l := s.link p
  let a := s.agent (300 + p)
  if !s.leaseMode (300 + p) && !a.fenced && !a.drift && l.st == .active && decide (l.beat + 50000 ≤ s.time) then
    s.setLink p { l.control 3 with beat := s.time } else s

/-- MERIDIAN_PULSE: an agent whose local time differs by more than 1 µs fences itself (R307); a port's pulse also times its
heartbeats. -/
def execMeridianPulse (agent localTime : Nat) (s : State) : Out :=
  runEvent (fun s =>
    let s1 := if 300 ≤ agent ∧ agent < 312 then s.portBeat (agent - 300) else s
    if s.time + 1000 < localTime ∨ localTime + 1000 < s.time then
      s1.setAgent agent { s1.agent agent with fenced := true, drift := true } else s1) s

/-- Links of an agent whose heartbeats stop. -/
def linksOf (addr : Nat) : List Nat :=
  if addr = 288 ∨ addr = 289 ∨ addr = 290 ∨ addr = 291 then [12] else if addr = 294 then [13, 14, 15, 16]
  else if 300 ≤ addr ∧ addr < 312 then [addr - 300] else []

/-- Fences every ACTIVE or RETRAIN link of a list. -/
def State.fenceLinks (s : State) : List Nat → State
  | [] => s
  | p :: r => State.fenceLinks (if (s.link p).st = .active ∨ (s.link p).st = .retrain then s.fenceLink p else s) r

/-- HEARTBEAT_LOSS: in FENCE mode, three intervals of 50 µs without a heartbeat (R309, R372). -/
def execHeartbeatLoss (agent : Nat) (s : State) : Out :=
  runEvent (fun s => if !s.leaseMode agent ∧ (s.agent agent).beat + 150000 ≤ s.time then
      (s.setAgent agent { s.agent agent with fenced := true }).fenceLinks (linksOf agent) else s) s

/-- HALYARD_SILENCE: no packet for 150 µs (R376). -/
def execHalyardSilence (agent : Nat) (s : State) : Out :=
  runEvent (fun s => if agent < 296 ∧ (s.agent agent).heard + 150000 ≤ s.time then
      s.setAgent agent { s.agent agent with fenced := true, drift := true } else s) s

/-- A line of a region. -/
def RegionEntry.holds (r : RegionEntry) (p : Nat × L1Line) : Bool := r.covers p.2.home (p.1 * 64)

/-- The die whose remote-data cache is an agent of a home's die. -/
def rdcDie (d agent : Nat) : Option Nat := if agent = 144 then some (1 - d) else none

/-- Copies held for an agent of either die's homes, in its L1s and its remote-data cache (R307 to R309). -/
def State.copiesOf (s : State) (r : RegionEntry) (agent : Nat) : List (Nat × L1Line) :=
  let d := homeDie s r.home
  ((s.cores.filter fun p => agentHas d agent p.1).flatMap fun p => heldIn p.2 r.home r.base r.size)
    ++ (match rdcDie d agent with
      | some e => (s.die e).rdc.filter r.holds
      | none => [])

/-- Changes the copies that an agent holds of a region. -/
def State.withCopies (s : State) (r : RegionEntry) (agent : Nat) (f : List (Nat × L1Line) → List (Nat × L1Line)) : State :=
  let d := homeDie s r.home
  let s1 := { s with cores := s.cores.map fun p => if agentHas d agent p.1 then (p.1, { p.2 with l1 := f p.2.l1 }) else p }
  match rdcDie d agent with
  | some e => s1.modDie e fun x => { x with rdc := f x.rdc }
  | none => s1

/-- Drops the copies that an agent holds of a region. -/
def State.dropAgent (s : State) (r : RegionEntry) (agent : Nat) : State :=
  s.withCopies r agent fun l => l.filter fun p => !r.holds p

/-- The region names the agent as owner or sharer. -/
def RegionEntry.names (r : RegionEntry) (agent : Nat) : Bool :=
  (match r.owner with
    | some o => o.1 == agent
    | none => false) || r.sharers.contains agent

/-- The sender of a loss event: the agent, with the owner's core when it is the owner. -/
def RegionEntry.lossSender (r : RegionEntry) (agent : Nat) : Nat × Nat :=
  match r.owner with
  | some o => if o.1 = agent then o else (agent, 0)
  | none => (agent, 0)

/-- LEASE_RENEWAL: the leases of a live agent's copies of a region end 200 µs from now (R308). -/
def execLeaseRenewal (h base agent : Nat) (s : State) : Out :=
  runEvent (fun s =>
    match s.region? h base with
    | none => s
    | some r =>
      if s.agentLost h agent then s
      else s.withCopies r agent fun l => l.map fun p =>
        if r.holds p && decide (s.time < p.2.lease) then (p.1, { p.2 with lease := s.time + 200000 }) else p) s

/-- A physical lease of an agent of a region has ended unrenewed; the host's and a peer's, whose copies lie outside, 200 µs after the
region's last event (R306, R308; log 82, DEDUCED). -/
def State.leaseEnded (s : State) (r : RegionEntry) (agent : Nat) : Bool :=
  if 145 ≤ agent then decide (r.last + 170000 ≤ s.cycle) else (s.copiesOf r agent).any fun p => p.2.lease ≤ s.time

/-- The agent, or the cluster on the other die that owns the region for it, has fenced itself; or has been fenced (R307, R309, R310). -/
def State.lostWith (s : State) (r : RegionEntry) (agent : Nat) (f : Agent → Bool) : Bool :=
  f (s.agent (agentAddr (homeDie s r.home) agent)) || (match r.owner with
    | some o => o.1 == agent && (s.farOwner o).any f
    | none => false)

/-- LEXP: in LEASE mode, or for an agent that has drifted, a physical lease has ended unrenewed (R307, R308). -/
def execLexp (h base agent : Nat) (s : State) : Out :=
  runEvent (fun s =>
    match s.region? h base with
    | none => s
    | some r =>
      if r.names agent ∧ (s.lostWith r agent Agent.drift = true
          ∨ (s.leaseMode (agentAddr (homeDie s h) agent) = true ∧ s.leaseEnded r agent = true)) then
        (s.dropAgent r agent).protoEvent r base 8 (some (r.lossSender agent)) none none
      else s) s

/-- FENCED: the scrub engine meets a region that names a fenced agent (R309). -/
def execFenced (h base agent : Nat) (s : State) : Out :=
  runEvent (fun s =>
    match s.region? h base with
    | none => s
    | some r => if r.names agent && s.lostWith r agent Agent.fenced then
        (s.dropAgent r agent).protoEvent r base 9 (some (r.lossSender agent)) none none else s) s

/-! ## Halyard packets (R376) -/

/-- A field of a packet. -/
def pktField (p : BitVec 128) (lo len : Nat) : Nat := bitsOf p.toNat lo len

/-- A packet without its check code. -/
def pktBody (p : BitVec 128) : BitVec 128 := p &&& 0xFFFFFFFFFFFFFFFF00FFFFFFFFFFFFFF

/-- A packet of a kind with a right check code and zero fields. -/
def pktOk (p : BitVec 128) (kind : Nat) : Bool :=
  pktField p 20 4 == kind && pktField p 40 16 == 0 && pktField p 56 8 == (Config.halyardCode (pktBody p)).toNat

/-- The agents that a packet reaches. -/
def pktDests (p : BitVec 128) : List Nat := if pktField p 10 10 = 0x3FF then List.range 296 else [pktField p 10 10]

/-- The packet is heard by its destinations. -/
def State.hearAll (s : State) : List Nat → State
  | [] => s
  | a :: r => State.hearAll (s.setAgent a { s.agent a with heard := s.time }) r

/-- An agent of Halyard that sends heartbeats. -/
def beats (a : Nat) : Bool := a < 292 || a == 294

/-- HALYARD_HEARTBEAT: one of a fenced agent counts for nothing, though it is heard. -/
def execHalyardHeartbeat (pkt : BitVec 128) (s : State) : Out :=
  runEvent (fun s =>
    let src := pktField pkt 0 10
    if !pktOk pkt 1 || !beats src then s
    else (if (s.agent src).fenced then s else s.setAgent src { s.agent src with beat := s.time }).hearAll (pktDests pkt)) s

/-- The clusters of a list end the HALT of one of their cores; the other agents take no restart (R376). -/
def State.restartAll (s : State) (i : Nat) : List Nat → State
  | [] => s
  | a :: r => State.restartAll (if a < 288 then s.modCore (4 * a + i) fun k => { k with halted := false } else s) i r

/-- HALYARD_RESTART: firmware ends the HALT of a core (R322). -/
def execHalyardRestart (pkt : BitVec 128) (s : State) : Out :=
  runEvent (fun s => if pktOk pkt 2 && pktField pkt 0 10 == 295 then
      let l := (pktDests pkt).filter fun a => decide (a < 288)
      (s.restartAll (pktField pkt 24 2) l).hearAll l else s) s

/-- Drops every copy held by the cores of a cluster, or by a remote-data cache. -/
def State.dropAll (s : State) (a : Nat) : State :=
  { s with
    cores := s.cores.map fun p => if p.1 / 4 = a then (p.1, { p.2 with l1 := [] }) else p
    dies := if a = 288 then s.dies.set 0 { s.dies[0] with rdc := [] }
            else if a = 289 then s.dies.set 1 { s.dies[1] with rdc := [] } else s.dies }

/-- Agents of a list rejoin, holding no copies. -/
def State.rejoin (s : State) : List Nat → State
  | [] => s
  | a :: r =>
    let x := s.agent a
    State.rejoin (if x.drift then (s.dropAll a).setAgent a { x with fenced := false, drift := false, heard := s.time, beat := s.time } else s) r

/-- HALYARD_RESYNC: firmware rejoins a self-fenced agent (R307). -/
def execHalyardResync (pkt : BitVec 128) (s : State) : Out :=
  runEvent (fun s => if pktOk pkt 3 && pktField pkt 0 10 == 295 then
      let l := (pktDests pkt).filter fun a => decide (a < 292)
      (s.hearAll l).rejoin l else s) s

/-- HALYARD_FENCE_NOTICE: its sender has fenced itself (log 18, DESIGN CHOICE). -/
def execHalyardFenceNotice (pkt : BitVec 128) (s : State) : Out :=
  runEvent (fun s => if pktOk pkt 4 then
      (s.setAgent (pktField pkt 0 10) { s.agent (pktField pkt 0 10) with fenced := true }).hearAll (pktDests pkt) else s) s

/-! ## What crosses the bridge (R201) -/

/-- A message can travel to a core: within a die, or over the bridge. -/
def State.canTravel (s : State) (n : NetMsg) (c : Nat) : Bool := originDie s n.origin == dieOf c || s.bridgeUp

/-- The k-th message in the network is the oldest from its source to its destination, and of those that cross the bridge its way
(R201, R367). -/
def State.inOrder (s : State) (k : Nat) (n : NetMsg) : Bool :=
  firstOf s.net k fun q => (q.origin == n.origin && q.msg.dst == n.msg.dst)
    || (crosses s q && crosses s n && originDie s q.origin == originDie s n.origin)

end Sys2Proof.Machine
end

