-- ==== Sys2Proof/Machine/Barrier.lean ====
section
/-! DEFINITION. Machine/Barrier.lean: the barrier unit of a home: arrivals, waits, releases (12, R255 to R262, R264). -/
namespace Sys2Proof.Machine

/-! ## The object (R255) -/

/-- The words of an object. -/
structure BarObj where
  arr    : Nat
  exp    : Nat
  parent : Nat
  cfg    : Nat
  deriving DecidableEq, Repr

/-- The object at a physical address, as the home reads it. -/
def State.barObj (s : State) (pa : Nat) : BarObj :=
  { arr := s.bytes (pa + 4) 4, exp := s.bytes pa 4, parent := s.bytes (pa + 8) 8, cfg := s.bytes (pa + 16) 8 }

/-- PEN. -/
def BarObj.pen (o : BarObj) : Bool := bitsOf o.cfg 0 1 == 1
/-- INIT and a count. -/
def BarObj.live (o : BarObj) : Bool := bitsOf o.cfg 1 1 == 1 && o.exp != 0
/-- PND. -/
def BarObj.pnd (o : BarObj) : Bool := bitsOf o.cfg 2 1 == 1
/-- PENDING (R257). -/
def BarObj.pending (o : BarObj) : Bool := o.live && o.pnd
/-- SCOPE. -/
def BarObj.scope (o : BarObj) : Nat := bitsOf o.cfg 4 3
/-- CIX. -/
def BarObj.cix (o : BarObj) : Nat := bitsOf o.cfg 8 24
/-- CFG with PND set or cleared. -/
def BarObj.withPnd (o : BarObj) (b : Bool) : BarObj :=
  { o with cfg := o.cfg - (if o.pnd then 4 else 0) + (if b then 4 else 0) }
/-- PEN flipped, PHASE counted, PND clear (R258). -/
def BarObj.flipped (o : BarObj) : BarObj :=
  let c := (o.withPnd false).cfg
  let c1 := if o.pen then c - 1 else c + 1
  { o with cfg := (c1 + 2 ^ 48) % 2 ^ 64 }

/-- A barrier unit's write of an object is discarded: the object lies in the corrected-error log after FWLOCK, where only an
instruction at M can have named it (R382). -/
def State.barGone (s : State) (pa : Nat) : Bool := s.plat.fwlock && s.guarded pa 64

/-- The home writes ARR, EXP and CFG of an object: the timestamp reached, and the state. -/
def State.putBar (s : State) (home pa p ctx : Nat) (o : BarObj) : Nat × State :=
  if s.barGone pa then (p, s) else
  let r := s.homeWrite home pa 8 (o.arr % 2 ^ 32 * 2 ^ 32 + o.exp) p ctx
  r.2.homeWrite home (pa + 16) 8 o.cfg r.1 ctx

/-! ## Answers -/

/-- A core's wait or arrival is answered: its instruction goes on at its next issue, ordered after the answer. -/
def State.tellCore (s : State) (c p : Nat) (a : Pend) : State :=
  s.modCore c fun k => (k.raisePts p).setPending a

/-- The release that a parent's home sends to a child object: KIND 4, INFO 2 on channel 58, m0 the child's address (R261). -/
def releaseMsg (src home va pa ctx p : Nat) : NetMsg :=
  { origin := homeOrigin src, child := some pa, msg := hwMsg home 58 0 (homeSrc src) 1 2 (pay4 (BitVec.ofNat 64 va) 0 0 0) p ctx }

/-- A wait entry is answered (R258, R261); a core that no longer waits discards it (R262). -/
def State.answerWait (s : State) (src ctx p : Nat) (w : Waiter) : State :=
  match w with
  | .core c => (match (s.core c).pending with
    | .waitOnly .. => s.tellCore c p .released
    | _ => s)
  | .child home va pa => { s with net := s.net ++ [releaseMsg src home va pa ctx p] }

/-- Answers a list of wait entries. -/
def State.answerWaits (s : State) (p : Nat) : List BarWait → State
  | [] => s
  | w :: r => State.answerWaits ({ s with barWaits := s.barWaits.erase w }.answerWait w.home w.ctx p w.waiter) p r

/-- Released (R258): the words, then every wait entry whose seen value now differs. -/
def State.release (s : State) (home pa p ctx : Nat) (o : BarObj) : State :=
  let n := o.flipped
  let r := s.putBar home pa p ctx n
  r.2.answerWaits r.1 (r.2.barWaits.filter fun w => w.home == home && w.obj == pa && w.seen != n.pen)

/-! ## Parents (R260) -/

/-- The parent's home and address with the walk's timestamp, or the cause that makes it unreachable. PARENT is translated at U, as
the BARR or BARW that completed the phase may have issued there (log 80, DESIGN CHOICE); no object lies where no context writes (R239,
R382). -/
def State.parentOf (s : State) (home ctx va : Nat) : Except Nat (Nat × Nat × Nat × State) :=
  let e := s.ctxEnv (homeDie s home) ctx
  match s.walkTouch e true .amo .none va with
  | .error c => .error c
  | .ok (t, q, s1) =>
    let pa := t.pa va
    if !inDram pa || leafLin t.leaf || leafStash t.leaf || s.guarded pa 64 then .error causeProt else .ok (t.home e.die pa, pa, q, s1)

/-- A phase of an object that has a parent is complete: PENDING with a child arrival, or released as a root when the
parent cannot be reached. -/
def State.completeChild (s : State) (home pa va ctx p : Nat) (o : BarObj) : State :=
  match s.parentOf home ctx o.parent with
  | .ok (ph, ppa, q, s1) =>
    let r := s1.putBar home pa (max p q) ctx ({ o with arr := 0 }.withPnd true)
    { r.2 with bars := r.2.bars ++ [.child ph ppa (BitVec.ofNat 64 o.parent) (.child home va pa) o.cix ctx r.1] }
  | .error c =>
    (s.release home pa p ctx { o with arr := 0 }).report (homeDie s home) (homeOrigin home) 6 (BitVec.ofNat 64 va)
      (BitVec.ofNat 64 c) ctx (homeSrc home)

/-! ## Arrivals (R258) -/

/-- The reply to an arrival: a pennant, or none where it is not counted in any phase (BADOP for a core). -/
structure ArriveEnd where
  reply : Option Bool
  /-- The pennant a child takes as seen. -/
  seen  : Bool
  ts    : Nat
  state : State

/-- An arrival at an object. -/
def State.arriveAt (s : State) (home pa va ctx p : Nat) : ArriveEnd :=
  let r := s.homeRead home pa p none (some ctx)
  let o := r.2.barObj pa
  if !o.live then ⟨none, false, r.1, r.2⟩
  else if o.pnd then
    (if o.arr < o.exp then
      let w := r.2.putBar home pa r.1 ctx { o with arr := o.arr + 1 }
      ⟨some (!o.pen), !o.pen, w.1, w.2⟩
     else ⟨none, o.pen, r.1, r.2⟩)
  else if o.arr + 1 < o.exp then
    let w := r.2.putBar home pa r.1 ctx { o with arr := o.arr + 1 }
    ⟨some o.pen, o.pen, w.1, w.2⟩
  else if o.parent = 0 then ⟨some o.pen, o.pen, r.1, r.2.release home pa r.1 ctx { o with arr := 0 }⟩
  else ⟨some o.pen, o.pen, r.1, r.2.completeChild home pa va ctx r.1 o⟩

/-- A release reaches a child object (R258, R261); one that is neither PENDING nor OPEN takes no notice (log 80, DESIGN CHOICE). -/
def State.releaseAt (s : State) (home pa va ctx p : Nat) : State :=
  let o := s.barObj pa
  if !o.pending then s
  else
    let s1 := s.release home pa p ctx o
    if o.arr < o.exp then s1 else s1.completeChild home pa va ctx p o.flipped

/-- Wait entries of a home's slice (R257). -/
def waitEntries : Nat := 64

/-- A wait reaches an object (R262). -/
def State.waitAt (s : State) (home pa : Nat) (seen : Bool) (w : Waiter) (ctx : Nat) : State :=
  let r := s.homeRead home pa 0 none (some ctx)
  if (r.2.barObj pa).pen != seen then r.2.answerWait home ctx r.1 w
  else if (r.2.barWaits.filter fun e => e.home == home).length < waitEntries then
    { r.2 with barWaits := r.2.barWaits ++ [{ home := home, obj := pa, seen := seen, waiter := w, ctx := ctx }] }
  else { r.2 with bars := r.2.bars ++ [.retry home pa seen w ctx r.2.cycle] }

/-! ## BINIT's words (R264) -/

/-- A count word that R264 accepts. -/
def countOk (c : Word) : Bool := slice c 63 32 != 0 && decide (slice c 6 4 ≤ 4) && slice c 7 7 == 0 && slice c 3 0 == 0

/-- Writes a fresh object and answers every wait entry for it: the timestamp of the last write, and the state. -/
def State.binitAt (s : State) (home pa p ctx exp cix scope parent : Nat) : Nat × State :=
  if s.barGone pa then (p, s) else
  let r1 := s.homeWrite home pa 8 exp p ctx
  let r2 := r1.2.homeWrite home (pa + 8) 8 parent r1.1 ctx
  let r3 := r2.2.homeWrite home (pa + 16) 8 (cix * 256 + scope * 16 + 2) r2.1 ctx
  let r4 := r3.2.homeWrites home (pa + 24) r3.1 ctx 6 (List.replicate 40 0)
  (r4.1, r4.2.answerWaits r4.1 (r4.2.barWaits.filter fun w => w.home == home && w.obj == pa))

/-! ## Events -/

/-- The die of a waiter. -/
def Waiter.die (s : State) : Waiter → Nat
  | .core c => dieOf c
  | .child h _ _ => homeDie s h

/-- A message between a waiter and a home waits for the bridge where it crosses. -/
def State.barPath (s : State) (home : Nat) (w : Waiter) : Bool :=
  s.bridgeUp || homeDie s home == w.die s

/-- The way of a barrier message over the bridge. -/
def BarMsg.way (s : State) : BarMsg → Option Nat
  | .arrival home _ _ c _ _ => wayOf (dieOf c) (homeDie s home)
  | .child home _ _ w _ _ _ => wayOf (w.die s) (homeDie s home)
  | .wait home _ _ w _ => wayOf (w.die s) (homeDie s home)
  | .retry .. => none

/-- Takes the k-th barrier message out of flight, where none crosses the bridge before it (R367). -/
def State.takeBar (s : State) (k : Nat) : Option (BarMsg × State) :=
  match takeAt s.bars k with
  | some (m, r) => if firstOf s.bars k fun b => sameWay (b.way s) (m.way s) then some (m, { s with bars := r }) else none
  | none => none

/-- BARRIER_ARRIVAL: BARR or BARW of a core reaches the home. -/
def execBarrierArrival (k : Nat) (s : State) : Out :=
  runEvent (fun s => match s.takeBar k with
    | some (.arrival home obj va c ctx p, s1) =>
      if !s.barPath home (.core c) then s
      else
        let e := s1.arriveAt home obj va.toNat ctx p
        (match e.reply with
          | some b => e.state.tellCore c e.ts (.got (boolWord b))
          | none => e.state.tellCore c e.ts (.bad causeBadOp va))
    | _ => s) s

/-- CHILD_ARRIVAL: the child's home then waits with the reply as its seen value. -/
def execChildArrival (k : Nat) (s : State) : Out :=
  runEvent (fun s => match s.takeBar k with
    | some (.child home obj va w _ ctx p, s1) =>
      if !s.barPath home w then (if s.cut 12 then s1.reportLost 12 [ctx] else s)
      else
        let e := s1.arriveAt home obj va.toNat ctx p
        { e.state with bars := e.state.bars ++ [.wait home obj e.seen w ctx] }
    | _ => s) s

/-- BARRIER_RELEASE: a release on channel 58 reaches the child's home, after the earlier messages of its source (R201, R261). -/
def execBarrierRelease (k : Nat) (s : State) : Out :=
  runEvent (fun s => match takeAt s.net k with
    | none => s
    | some (n, r) => match n.child, s.physical n.msg.dst with
      | some obj, some c =>
        if !s.inOrder k n then s
        else if s.cut 12 && crosses s n then { s with net := r }.loseMsg n.msg
        else if s.canTravel n c then
          { s with net := r }.releaseAt n.msg.dst obj n.msg.pay[0].toNat n.msg.ctx n.msg.pts else s
      | _, _ => s) s

/-- BARRIER_WAIT. -/
def execBarrierWait (k : Nat) (s : State) : Out :=
  runEvent (fun s => match s.takeBar k with
    | some (.wait home obj seen w ctx, s1) => if s.barPath home w then s1.waitAt home obj seen w ctx else s
    | _ => s) s

/-- BARRIER_WAIT_RETRY: 64 cycles after the answer the wait is sent again. -/
def execBarrierWaitRetry (k : Nat) (s : State) : Out :=
  runEvent (fun s => match s.takeBar k with
    | some (.retry home obj seen w ctx cycle, s1) =>
      if s.cycle < cycle + 64 then s else { s1 with bars := s1.bars ++ [.wait home obj seen w ctx] }
    | _ => s) s

/-- A core leaves its wait: its wait entries and waits in flight go (R262). -/
def State.cancelWaits (s : State) (c : Nat) : State :=
  { s with
    barWaits := s.barWaits.filter fun w => w.waiter != .core c
    bars := s.bars.filter fun b => match b with
      | .wait _ _ _ w _ => w != .core c
      | .retry _ _ _ w _ _ => w != .core c
      | _ => true }

end Sys2Proof.Machine
end

