-- ==== Sys2Proof/Machine/Stage.lean ====
section
/-! DEFINITION. Machine/Stage.lean: the two ends of a chain, on a core or in a saved image: free entries, WINDOW, pushes that
arrive and revocations (06, R148 to R152; 11, R252). -/
namespace Sys2Proof.Machine

/-- The core that a STAGE register names with V set. -/
def State.stageCore (s : State) (v : Word) : Option Nat :=
  if bitAt v 63 then s.physical (bitsOf v.toNat 0 12) else none

/-- The revocation of step 1 of R149, in flight to the old upstream core. -/
def revokeOf (c up : Nat) : Credit := { src := c, dst := up, amount := 0, kind := .revoke }

/-- A word of a save area, by byte offset. -/
def State.imageWord (s : State) (c : Nat) (g : SavedGroup) (off : Nat) : Word :=
  BitVec.ofNat 64 ((s.ctxWord (dieOf c) g.grp.ctx (g.area + off)).getD 0)
/-- Writes one. -/
def State.putImageWord (s : State) (c : Nat) (g : SavedGroup) (off : Nat) (v : Nat) : State :=
  s.ctxPut (dieOf c) g.grp.ctx (g.area + off) v

/-- Offsets of STAGEUP, STAGEDN and WINDOW in a save area (R252). -/
def offStageUp : Nat := 0x98
/-- STAGEDN. -/
def offStageDn : Nat := 0xA0
/-- WINDOW. -/
def offWindow : Nat := 0xA8

/-- The saved group of a core whose image names another core in a STAGE register. -/
def State.savedNaming (s : State) (c off other : Nat) : Option SavedGroup :=
  (s.core c).saved.find? fun g => s.stageCore (s.imageWord c g off) == some other

/-- A push enters a saved image's vqi. -/
def State.pushSaved (s : State) (c : Nat) (g : SavedGroup) (v : VWord) : State :=
  let f := (s.imageWord c g 8).toNat
  let n := bitsOf f 24 3
  let s1 := s.putImageWord c g 8 (f - n * 2 ^ 24 + (n + 1) % 8 * 2 ^ 24)
  (List.range 4).foldl (fun u i => u.putImageWord c g (0xE00 + 32 * n + 8 * i) (bitsOf v.toNat (64 * i) 64)) s1

/-- WINDOW of the core, live or saved, whose STAGEDN names another core. -/
def State.setWindow (s : State) (c other : Nat) (f : Nat → Nat) : State :=
  let q := s.core c
  if s.stageCore q.u.stagedn == some other then s.setCore c { q with u := { q.u with window := f q.u.window } }
  else match s.savedNaming c offStageDn other with
    | some g => s.putImageWord c g offWindow (f (s.imageWord c g offWindow).toNat)
    | none => s

/-- A core, live or saved, names another in STAGEDN. -/
def State.namedDown (s : State) (c other : Nat) : Bool :=
  s.stageCore (s.core c).u.stagedn == some other || (s.savedNaming c offStageDn other).isSome

/-- The SYSWR that waits for the other core's word goes on (R149). -/
def Core.released (k : Core) : Core := match k.pend3, k.pend with
  | .staging, _ => { k with pend3 := .released }
  | _, .staging => { k with pend := .released }
  | _, _ => k

/-- A placement or a zeroing revokes the old upstream in its own step, the acknowledgement and the pushes before it included: the
upstream's WINDOW is 0, a SYSWR of its that asked this core has its answer, and what was on its way between the two is gone, the pushes
with the vqi into which they would have been placed (R149 step 1, R152). -/
def State.revokeUp (s : State) (c : Nat) : State :=
  match s.stageCore (s.core c).u.stageup with
  | some up =>
    let asked := s.credits.any fun q => q.src == c && q.dst == up && q.kind == .answer
    let s1 := { s with
      credits := s.credits.filter fun q => !(q.src == c && q.dst == up)
      pushes := s.pushes.filter fun p => !(p.src == up && p.dst == c) }.setWindow up c fun _ => 0
    if asked then s1.modCore up Core.released else s1
  | none => s

/-- The free entries that a downstream core, live or saved, answers with: 0 where its STAGEUP does not name the writer, or no longer
takes its pushes (R149). -/
def State.freeEntries (s : State) (c dn : Nat) : Nat :=
  let k := s.core dn
  if s.stageCore k.u.stageup == some c then (if k.revoked then 0 else 4 - k.vqi.length)
  else match s.savedNaming dn offStageUp c with
    | some g => 4 - bitsOf (s.imageWord dn g 8).toNat 24 3
    | none => 0

end Sys2Proof.Machine
end

