-- ==== Sys2Proof/Machine/Control.lean ====
section
/-! DEFINITION. Machine/Control.lean: branches and jumps, following a leader, and the system registers (05, R92 to
R99; 02, R34 to R40; 06, R147 to R149; 08, R188, R190). -/
namespace Sys2Proof.Machine

/-! ## Branches and jumps (R93 to R95) -/

/-- A conditional branch: the next PC is PC + 4 * i when the condition holds, else PC + 4. -/
def branch (c : Word → Word → Bool) (a b : Reg) (i : BitVec 16) : DevM Word :=
  onCore (do
    let x ← getX a
    let y ← getX b
    let v ← getImm i
    let k ← rd
    return if c x y then k.hart.pc + 4 * v else k.hart.pc + 4)

/-- BEQ. -/
def execBeq (a b : Reg) (i : BitVec 16) (s : State) : Out := runJump (branch (fun x y => x == y) a b i) s
/-- BNE. -/
def execBne (a b : Reg) (i : BitVec 16) (s : State) : Out := runJump (branch (fun x y => x != y) a b i) s
/-- BLT. -/
def execBlt (a b : Reg) (i : BitVec 16) (s : State) : Out := runJump (branch (fun x y => x.slt y) a b i) s
/-- BGE. -/
def execBge (a b : Reg) (i : BitVec 16) (s : State) : Out := runJump (branch (fun x y => !x.slt y) a b i) s
/-- BLTU. -/
def execBltu (a b : Reg) (i : BitVec 16) (s : State) : Out := runJump (branch (fun x y => x.ult y) a b i) s
/-- BGEU. -/
def execBgeu (a b : Reg) (i : BitVec 16) (s : State) : Out := runJump (branch (fun x y => !x.ult y) a b i) s

/-- JAL: x1 := PC + 4. -/
def execJal (off : BitVec 26) (s : State) : Out :=
  runJump (onCore (do
    let k ← rd
    setX 1 (k.hart.pc + 4)
    return k.hart.pc + 4 * off.signExtend 64)) s

/-- JALR (R95). -/
def execJalr (d a : Reg) (i : BitVec 16) (s : State) : Out :=
  runJump (onCore (do
    let x ← getX a
    let v ← getImm i
    let k ← rd
    let t := x + v
    trapIf (t.toNat % 4 != 0) causeMisalign t
    setX d (k.hart.pc + 4)
    return t)) s

/-! ## FOLLOW and DETACH (R96 to R99) -/

/-- The core that FOLLOW names in the issuer's cluster. -/
def leaderOf (c : Nat) (l : Nat) : Nat := c / 4 * 4 + l

/-- A core has followers (R96). -/
def State.hasFollowers (s : State) (c : Nat) : Bool :=
  s.cores.any fun p => match p.2.follow with
    | .waiting l _ old => l == c || old == some c
    | .joined l _ => l == c
    | .diverged l => l == c
    | .none => false

/-- FOLLOW (R96): the conditions in the order 3, 0, 1, 2, then the core waits to join. -/
def execFollow (l : BitVec 2) (s : State) : Out :=
  runInstr (do
    let u ← rd
    let c := u.cur
    let k := u.core c
    let ld := leaderOf c l.toNat
    trapIf k.onSys causeFollow 3
    trapIf (ld == c || !u.enabled ld) causeFollow 0
    trapIf (k.follow.following || u.hasFollowers c) causeFollow 1
    trapIf ((u.core ld).act.isNone || (u.core ld).sv.ctxid != k.sv.ctxid) causeFollow 2
    wr fun v => v.modCore c fun q => { q with follow := .waiting ld v.cycle (match q.follow with
      | .diverged l => some l
      | _ => none) }) s

/-- DETACH (R99): a following core goes on alone; elsewhere no effect. -/
def execDetach (s : State) : Out :=
  runCore (wr fun k => if k.follow.following then { k with follow := .none } else k) s

/-! ## System registers (R34, R35) -/

/-- Privilege of an identifier: 0 U, 1 S, 3 M; none where it is not implemented. -/
def sysPriv (id : Nat) : Option Nat :=
  if (1 ≤ id ∧ id ≤ 6) ∨ (0x10 ≤ id ∧ id ≤ 0x15) ∨ (0x20 ≤ id ∧ id ≤ 0x22) ∨ (0x30 ≤ id ∧ id ≤ 0x33) ∨ (0x40 ≤ id ∧ id ≤ 0x43)
  then some 0
  else if 0x100 ≤ id ∧ id ≤ 0x10D then some 1
  else if (0x200 ≤ id ∧ id ≤ 0x202) ∨ (0x210 ≤ id ∧ id ≤ 0x221) ∨ (0x230 ≤ id ∧ id ≤ 0x232) then some 3
  else none

/-- Registers whose Access is RO. -/
def sysRO (id : Nat) : Bool :=
  (0x10 ≤ id && id ≤ 0x15) || (0x20 ≤ id && id ≤ 0x22) || id == 0x32 || id == 0x33 || id == 0x105 || id == 0x200
    || (0x210 ≤ id && id ≤ 0x221)

/-- CLUSTER (R38). -/
def State.clusterWord (s : State) (c : Nat) : Word :=
  let en := fun j => if s.enabled (c / 4 * 4 + j) then 2 ^ j else 0
  BitVec.ofNat 64 ((en 0 + en 1 + en 2 + en 3) * 2 ^ 24 + kOf c * 2 ^ 16 + dieOf c * 2 ^ 8 + bayOf c * 2 ^ 4 + clwOf c)

/-- PTS as R292 shows it. -/
def ptsWord (p : Nat) : Word := BitVec.ofNat 64 (min p (2 ^ 48 - 1))

/-- The value of a register of the issuing core (R35). -/
def State.sysRead (s : State) (id : Nat) : Word :=
  let c := s.cur
  let k := s.core c
  match id with
  | 0x001 => k.u.fctl | 0x002 => k.u.fflags | 0x003 => k.u.accflags | 0x004 => k.u.rngclo | 0x005 => k.u.rngchi
  | 0x006 => k.u.rngkey
  | 0x010 => BitVec.ofNat 64 (s.logical c % 4096) | 0x011 => s.clusterWord c | 0x012 => k.u.groupid | 0x013 => k.u.groupn
  | 0x014 => k.u.levelix | 0x015 => BitVec.ofNat 64 (k.u.hgen % 4096)
  | 0x020 => BitVec.ofNat 64 s.time | 0x021 => BitVec.ofNat 64 s.cycle | 0x022 => ptsWord k.pts
  | 0x030 => k.u.stageup | 0x031 => k.u.stagedn | 0x032 => BitVec.ofNat 64 (k.u.window % 8) | 0x033 => boolWord k.u.long
  | 0x040 => k.u.treeup | 0x041 => k.u.treen | 0x042 => k.u.treeop | 0x043 => k.u.treedst
  | 0x100 => k.sv.status | 0x101 => k.sv.epc | 0x102 => k.sv.cause | 0x103 => k.sv.tval | 0x104 => k.sv.tvec
  | 0x105 => k.sv.ctxid | 0x106 => k.sv.ptbase | 0x107 => k.sv.htab | 0x108 => k.sv.spillq | 0x109 => k.sv.orphq
  | 0x10A => k.sv.slice | 0x10B => k.sv.hometab | 0x10C => k.sv.lintab | 0x10D => k.sv.protomask
  | 0x200 => BitVec.ofNat 64 (physId c + s.plat.stepLetter * 2 ^ 16 + s.plat.stepNumber * 2 ^ 24)
  | 0x201 => s.plat.l2pbase | 0x202 => s.plat.l2pn | 0x230 => s.plat.livemode | 0x231 => s.plat.celbase
  | 0x232 => boolWord s.plat.fwlock
  | _ => s.plat.hmap[id - 0x210]?.getD 0

/-- Bits that must be written zero (R35). -/
def sysZeroBits (id : Nat) : Nat :=
  match id with
  | 0x001 => 2 ^ 64 - 2 ^ 5 | 0x002 => 2 ^ 64 - 2 ^ 5 | 0x003 => 2 ^ 64 - 2
  | 0x040 => (2 ^ 63 - 2 ^ 50) + (2 ^ 32 - 2 ^ 22) + (2 ^ 16 - 2 ^ 12)
  | 0x041 => 2 ^ 64 - 2 ^ 6 | 0x042 => 2 ^ 64 - 2 ^ 3 | 0x043 => 7
  | 0x100 => 2 ^ 64 - 2 ^ 6 | 0x102 => 2 ^ 64 - 2 ^ 5 | 0x104 => (2 ^ 64 - 2 ^ 48) + 3
  | 0x106 => (2 ^ 64 - 2 ^ 52) + (2 ^ 12 - 1) | 0x10B => (2 ^ 64 - 2 ^ 52) + (2 ^ 11 - 1) | 0x10D => 2 ^ 64 - 2 ^ 8
  | 0x230 => 2 ^ 64 - 2 ^ 3 | 0x232 => 2 ^ 64 - 2
  | _ => 0

/-- A stage register value that R148 accepts from a core. -/
def State.stageOk (s : State) (c : Nat) (v : Word) : Bool :=
  if bitAt v 63 then
    bitsOf v.toNat 12 51 == 0 && (match s.physical (bitsOf v.toNat 0 12) with
      | some q => dieOf q == dieOf c && q != c
      | none => false)
  else v == 0

/-- Check 4 of R34: the value is allowed. -/
def State.sysValueOk (s : State) (id : Nat) (v : Word) : Bool :=
  (v &&& BitVec.ofNat 64 (sysZeroBits id)) == 0
  && (match id with
    | 0x042 => v != 7
    | 0x100 => bitsOf v.toNat 0 2 != 2
    | 0x030 | 0x031 => s.stageOk s.cur v
    | _ => true)

/-- The plain part of a register write: the register takes the value, read-only fields keep theirs (R34, R35). -/
def State.sysPut (s : State) (id : Nat) (v : Word) : State :=
  let u := fun (f : USys → USys) => s.modCore s.cur fun k => { k with u := f k.u }
  let w := fun (f : SSys → SSys) => s.modCore s.cur fun k => { k with sv := f k.sv }
  match id with
  | 0x001 => u fun x => { x with fctl := v } | 0x002 => u fun x => { x with fflags := v }
  | 0x003 => u fun x => { x with accflags := v } | 0x004 => u fun x => { x with rngclo := v }
  | 0x005 => u fun x => { x with rngchi := v } | 0x006 => u fun x => { x with rngkey := v }
  | 0x030 => u fun x => { x with stageup := v } | 0x031 => u fun x => { x with stagedn := v }
  | 0x040 => u fun x => { x with treeup := v } | 0x041 => u fun x => { x with treen := v }
  | 0x042 => u fun x => { x with treeop := v } | 0x043 => u fun x => { x with treedst := v }
  | 0x100 => w fun x => { x with status := (x.status &&& 0xC) ||| (v &&& 0x33) }
  | 0x101 => w fun x => { x with epc := v } | 0x102 => w fun x => { x with cause := v }
  | 0x103 => w fun x => { x with tval := v } | 0x104 => w fun x => { x with tvec := v }
  | 0x106 => w fun x => { x with ptbase := v } | 0x107 => w fun x => { x with htab := v }
  | 0x108 => w fun x => { x with spillq := v } | 0x109 => w fun x => { x with orphq := v }
  | 0x10A => w fun x => { x with slice := v } | 0x10B => w fun x => { x with hometab := v }
  | 0x10C => w fun x => { x with lintab := v } | 0x10D => w fun x => { x with protomask := v ||| 1 }
  | 0x201 => { s with plat := { s.plat with l2pbase := v } } | 0x202 => { s with plat := { s.plat with l2pn := v } }
  | 0x230 => { s with plat := { s.plat with livemode := v } }
  | 0x231 => if s.plat.fwlock then s else { s with plat := { s.plat with celbase := v } }
  | 0x232 => { s with plat := { s.plat with fwlock := s.plat.fwlock || bitAt v 0 } }
  | _ => s

/-! ## Stage registers (R30, R148, R149) -/

/-- SYSWR STAGEUP (R149): revoke the old upstream and wait for its acknowledgement, wait for an empty vqi, which a pre-emption may
interrupt, write the register, and send the new upstream its credit of 4. -/
def sysPutStageUp (v : Word) : DevM Unit := do
  let s ← rd
  let c := s.cur
  let k := s.core c
  match (s.stageCore k.u.stageup).filter (fun _ => !k.revoked), k.pending with
  | _, .staging => waitM
  | some up, _ => waitFor fun t =>
      { t.modCore c (fun q => { q.setPending .staging with revoked := true }) with credits := t.credits ++ [revokeOf c up] }
  | none, _ => do
    onCore (stallIf (!k.vqi.isEmpty))
    wr fun t => (t.sysPut 0x030 v).modCore c fun q => { q with revoked := false }
    wr fun t => match t.stageCore v with
      | some up => if t.namedDown up c then { t with credits := t.credits ++ [{ src := c, dst := up, amount := 4, kind := .grant }] } else t
      | none => t

/-- SYSWR STAGEDN (R149): once the pushes of the core have been placed, the register is written and the new downstream core asked
for its free entries; the instruction completes when the answer is in WINDOW. -/
def sysPutStageDn (v : Word) : DevM Unit := do
  let s ← rd
  let c := s.cur
  match (s.core c).pending with
  | .released => pure ()
  | .staging => waitM
  | _ => do
    waitIf (s.pushes.any fun p => p.src == c)
    match s.stageCore v with
    | none => wr fun t => t.modCore c fun q => { q with u := { q.u with stagedn := v, window := 0 } }
    | some dn => waitFor fun t =>
        { t.modCore c (fun q => { q.setPending .staging with u := { q.u with stagedn := v, window := 0 } }) with
          credits := t.credits ++ [{ src := dn, dst := c, amount := t.freeEntries c dn, kind := .answer }] }

/-! ## SYSRD and SYSWR (R92) -/

/-- Checks 1 to 3 of R34 (R65 step 3). -/
def sysChecks (id : Nat) (write : Bool) (word : Word) : DevM Unit := do
  let s ← rd
  match sysPriv id with
  | none => trapM causeIllegal word
  | some p =>
    trapIf (decide ((s.core s.cur).priv < p)) causePriv word
    trapIf (write && sysRO id) causeIllegal word

/-- Registers whose reads and writes wait for the matrix unit (R78, R168). -/
def sysWaitsMat (id : Nat) : Bool := id == 0x002 || id == 0x003

/-- SYSRD; PTS is read once every earlier store has its timestamp (R272). -/
def execSysrd (d : Reg) (id : BitVec 12) (s : State) : Out :=
  runInstr (do
    sysChecks id.toNat false (BitVec.ofNat 64 ((encode (.sysrd d id)).getD 0))
    let u ← rd
    waitIf (sysWaitsMat id.toNat && (u.core u.cur).mat.isSome)
    waitIf (id.toNat == 0x022 && !(u.core u.cur).storesDone)
    onCore (setX d (u.sysRead id.toNat))) s

/-- SYSWR. -/
def execSyswr (a : Reg) (id : BitVec 12) (s : State) : Out :=
  runInstr (do
    sysChecks id.toNat true (BitVec.ofNat 64 ((encode (.syswr a id)).getD 0))
    let v ← onCore (getX a)
    let u ← rd
    trapIf (!u.sysValueOk id.toNat v) causeBadOp v
    waitIf (sysWaitsMat id.toNat && (u.core u.cur).mat.isSome)
    waitIf (0x040 ≤ id.toNat && id.toNat ≤ 0x043 && !(u.core u.cur).red.slots.isEmpty)
    if id.toNat = 0x030 then sysPutStageUp v
    else if id.toNat = 0x031 then sysPutStageDn v
    else wr fun t => t.sysPut id.toNat v) s

end Sys2Proof.Machine
end

