-- ==== Sys2Proof/Machine/Sched.lean ====
section
/-! DEFINITION. Machine/Sched.lean: cards, appends, edges, the states of a card, FIFO pairs, starting and retiring
jobs, aborts and doorbells (10_queue.md). -/
namespace Sys2Proof.Machine

/-! ## Cards in memory (R221, R222, R223) -/

/-- The n 64-bit words at the start of a list of bytes. -/
def wordsOf (l : List Byte) (n : Nat) : List Word :=
  (List.range n).map fun i => BitVec.ofNat 64 (bytesNat ((l.drop (8 * i)).take 8))

/-- Word i of a list of words. -/
def wordAt (l : List Word) (i : Nat) : Word := l[i]?.getD 0

/-- Engine class of a job opcode (R221). -/
def opClass (op : Nat) : Option Nat :=
  if 1 ≤ op ∧ op ≤ 6 then some 1
  else if 0x10 ≤ op ∧ op ≤ 0x13 then some 2
  else if op = 0x20 ∨ op = 0x21 then some 3
  else none

/-- The flags of a header, bits 29 to 24. -/
def hdrFlags (h : Nat) : Nat := bitsOf h 24 6
/-- NOTIFY. -/
def fNOTIFY : Nat := 32
/-- DEPFAIL. -/
def fDEPFAIL : Nat := 16
/-- CRCS. -/
def fCRCS : Nat := 8
/-- CRCD. -/
def fCRCD : Nat := 4
/-- XPOSE. -/
def fXPOSE : Nat := 2
/-- DSP. -/
def fDSP : Nat := 1

/-- Flags an opcode may set (R222). -/
def opFlags (op : Nat) : Nat :=
  fNOTIFY + fDEPFAIL + (match op with
    | 1 | 3 => fDSP
    | 4 => fCRCS + fCRCD + fXPOSE + fDSP
    | 5 => fCRCS
    | _ => 0)

/-- FIN may be nonzero (R221). -/
def opFin (op : Nat) : Bool := op == 1 || op == 4 || op == 5 || op == 6
/-- FOUT may be nonzero. -/
def opFout (op : Nat) : Bool := op == 1 || op == 3 || op == 4 || op == 5

/-- A job header and completion word that obey R221 and R222. -/
def jobHeaderOk (h done : Nat) : Bool :=
  let op := bitsOf h 0 8
  let fin := bitsOf h 16 4
  let fout := bitsOf h 20 4
  let fl := hdrFlags h
  opClass op == some (bitsOf h 8 4) && bitsOf h 30 2 == 0 && bitsOf h 12 4 == 0
    && Nat.land fl (63 - opFlags op) == 0
    && (fin == 0 || opFin op) && (fout == 0 || opFout op) && (fin == 0 || fin != fout)
    && !(fout != 0 && Nat.land fl (fDSP + fXPOSE) != 0) && done % 8 == 0

/-- The four footprint entries, or the index of the first bad one (R223). -/
def footprints (w : List Word) : Nat → Except Nat (List Foot)
  | 0 => .ok []
  | n + 1 => match footprints w n with
    | .error i => .error i
    | .ok l =>
      let base := (wordAt w (4 + 2 * n)).toNat
      let d := (wordAt w (5 + 2 * n)).toNat
      let len := bitsOf d 0 48
      let kind := bitsOf d 48 2
      if bitsOf d 50 14 ≠ 0 ∨ kind = 3 then .error n
      else if kind = 0 then (if base = 0 ∧ len = 0 then .ok l else .error n)
      else if 1 ≤ len ∧ base + len ≤ 2 ^ 48 then .ok (l ++ [{ base := base, len := len, write := kind == 2 }])
      else .error n

/-- The scheduler's snapshot of a card's 16 words (R219). -/
def cardOf (id ord ctx addr queue prio hgen ts : Nat) (core : Option Nat) (user : Bool) (w : List Word) : Card :=
  let h := (wordAt w 1).toNat
  let foot := footprints w 4
  { id := id, ord := ord, ctx := ctx, addr := addr, queue := some queue, prio := prio, op := bitsOf h 0 8,
    cls := if bitsOf h 0 8 = 0x80 then 0 else bitsOf h 8 4
    flags := if bitsOf h 0 8 = 0x80 then 0 else hdrFlags h
    fin := if bitsOf h 0 8 = 0x80 then 0 else bitsOf h 16 4
    fout := if bitsOf h 0 8 = 0x80 then 0 else bitsOf h 20 4
    args := #v[wordAt w 12, wordAt w 13, wordAt w 14, wordAt w 15]
    doneVa := (wordAt w 2).toNat, seq := wordAt w 3
    fps := match foot with
      | .ok l => if bitsOf h 0 8 = 0x20 ∨ bitsOf h 0 8 = 0x21 then [] else l
      | .error _ => []
    preds := [], preds2 := [], partner := none
    st := match foot with
      | .ok _ => .waiting
      | .error _ => .done
    status := match foot with
      | .ok _ => 0
      | .error _ => 2
    detail := match foot with
      | .ok _ => 0
      | .error i => i
    core := core, user := user, hgen := hgen, ts := ts, began := none, due := [], launch := none }

/-! ## The scheduler's cards -/

/-- A card of a die by number. -/
def State.card (s : State) (die k : Nat) : Option Card := (s.die die).cards[k]?
/-- Replaces a card. -/
def State.setCard (s : State) (die : Nat) (c : Card) : State := s.modDie die fun d => { d with cards := setAt d.cards c.id c }

/-- Two ranges share a byte and one is written (R224). -/
def Foot.clashes (a b : Foot) : Bool := (a.write || b.write) && meets a.base a.len b.base b.len

/-- Two operations of the codecs on one region, which order each other through the region (R363). -/
def Card.sameRegion (p c : Card) : Bool := 0x100 ≤ p.op && 0x100 ≤ c.op && p.args[0] == c.args[0]

/-- An earlier card of the context is a predecessor; operations of one region take no edges from one another (R224, R363). -/
def Card.precedes (p c : Card) : Bool :=
  p.ctx == c.ctx && !p.sameRegion c && p.fps.any fun a => c.fps.any fun b => a.clashes b

/-- Numbers of the predecessors of a card on a die. -/
def State.predsOn (s : State) (die : Nat) (c : Card) : List Nat :=
  ((s.die die).cards.filter fun p => p.precedes c).map Card.id

/-- The cards named by a list are over. -/
def State.allOver (s : State) (die : Nat) (l : List Nat) : Bool := l.all fun k => match s.card die k with
  | some c => c.ended
  | none => true

/-- Some card named by a list ended with a STATUS other than 0x01. -/
def State.someFailed (s : State) (die : Nat) (l : List Nat) : Bool := l.any fun k => match s.card die k with
  | some c => c.ended && c.status != 1
  | none => false

/-! ## FIFO pairs (R234, R235) -/

/-- The n-th card of a list that a test accepts. -/
def nthWhere (p : Card → Bool) : Nat → List Card → Option Card
  | _, [] => none
  | n, c :: r => if p c then (match n with
      | 0 => some c
      | m + 1 => nthWhere p m r) else nthWhere p n r

/-- The producer of a card's FIN. -/
def Die.producer (d : Die) (c : Card) : Option Card :=
  if c.fin = 0 then none
  else nthWhere (fun q => q.fout == c.fin) (d.cards.filter fun q => q.id < c.id && q.fin == c.fin).length d.cards

/-- The consumer of a card's FOUT. -/
def Die.consumer (d : Die) (c : Card) : Option Card :=
  if c.fout = 0 then none
  else nthWhere (fun q => q.fin == c.fout) (d.cards.filter fun q => q.id < c.id && q.fout == c.fout).length d.cards

/-- The FIFO partners of a card. -/
def Die.partners (d : Die) (c : Card) : List Card := (d.producer c).toList ++ (d.consumer c).toList

/-- The cards, each with its die, that a card waits for: its predecessors on both dies; the other die's part of a package launch waits for
the launch (R206, R224). -/
def State.waitsFor (s : State) (a : Nat × Nat) : List (Nat × Nat) := match s.card a.1 a.2 with
  | none => []
  | some c => c.preds.map (fun p => (a.1, p)) ++ c.preds2.map (fun p => (1 - a.1, p))
      ++ (((s.die (1 - a.1)).cards.filter fun q => q.partner == some a.2).map fun q => (1 - a.1, q.id))

/-- Card a depends on card b, directly or through other cards of either die; fuel bounds the path (R235). -/
def State.dependsOn (s : State) (b : Nat × Nat) : Nat → Nat × Nat → Bool
  | 0, _ => false
  | fuel + 1, a => (s.waitsFor a).any fun p => p == b || State.dependsOn s b fuel p

/-- A card with the cards chained to it, each once; fuel bounds the chain. -/
def Die.chain (d : Die) : Nat → List Nat → List Nat
  | 0, l => l
  | fuel + 1, l =>
    let more := l.flatMap fun k => match d.cards[k]? with
      | some c => (d.partners c).map Card.id
      | none => []
    let l1 := more.foldl (fun a k => if a.contains k then a else a ++ [k]) l
    if l1.length = l.length then l else Die.chain d fuel l1

/-- Every FIFO of the card has its partner. -/
def Die.paired (d : Die) (c : Card) : Bool :=
  (c.fin == 0 || (d.producer c).isSome) && (c.fout == 0 || (d.consumer c).isSome)

/-- Earlier pairs on the card's FIFOs are over (R234). -/
def Die.fifoFree (d : Die) (c : Card) : Bool :=
  d.cards.all fun q => q.ended || !(q.id < c.id && ((c.fin != 0 && q.fin == c.fin) || (c.fout != 0 && q.fout == c.fout)))

/-! ## The end of a card (R224, R227, R235) -/

/-- Writes STATUS and DETAIL of a card, and gives the timestamp of the write, which the sequence write follows (R228, R229). -/
def State.putStatus (s : State) (die : Nat) (c : Card) (status detail : Nat) : Nat × State :=
  match s.vwrite (s.ctxEnv die c.ctx) false .none (c.addr + 12) 4 (detail % 2 ^ 24 + status % 256 * 2 ^ 24) c.ts with
  | .ok r => r
  | .error _ => (c.ts, s)

/-- A card becomes DONE with its STATUS, and the other die's part of a package launch goes with it. -/
def State.close (s : State) (die : Nat) (c : Card) (status detail : Nat) : State :=
  let r := s.putStatus die c status detail
  let s1 := r.2.setCard die { c with st := .done, status := status, detail := detail, ts := r.1 }
  match c.partner with
  | some j => (match s1.card (1 - die) j with
    | some q => s1.setCard (1 - die) { q with st := .retired, status := status, ts := max q.ts r.1 }
    | none => s1)
  | none => s1

/-- A card becomes DONE. A card that fails before it starts ends its FIFO partners with 0x06 (R235); fuel bounds the chain. -/
def State.finish (s : State) (die k status detail : Nat) : Nat → State
  | 0 => s
  | fuel + 1 =>
    match s.card die k with
    | none => s
    | some c =>
      if c.ended then s
      else
        let s1 := s.close die c status detail
        if status != 1 && c.st != .running then
          ((s1.die die).partners c).foldl (fun u q => if q.ended then u else State.finish u die q.id 6 0 fuel) s1
        else s1

/-- Fuel for chains of a die. -/
def State.chainFuel (s : State) (die : Nat) : Nat := (s.die die).cards.length + 1

/-- The largest timestamp of the cards of a list: what they wrote comes before what follows them (R212, R229, R274). -/
def State.cardsTs (s : State) (die : Nat) (l : List Nat) : Nat :=
  l.foldl (fun p k => match s.card die k with
    | some c => max p c.ts
    | none => p) 0

/-- A WAITING card whose predecessors are over becomes READY, after them in the memory order, or DONE with 0x04. -/
def State.wakeCard (s : State) (die k : Nat) : State :=
  match s.card die k with
  | none => s
  | some c =>
    if c.st == .waiting && s.allOver die c.preds && s.allOver (1 - die) c.preds2 then
      if Nat.land c.flags fDEPFAIL != 0 && (s.someFailed die c.preds || s.someFailed (1 - die) c.preds2)
      then s.finish die k 4 0 (s.chainFuel die)
      else s.setCard die { c with st := .ready, ts := max c.ts (max (s.cardsTs die c.preds) (s.cardsTs (1 - die) c.preds2)) }
    else s

/-- Wakes the cards of a die in append order. -/
def State.wakeDie (s : State) (die : Nat) : State :=
  (List.range (s.die die).cards.length).foldl (fun u k => u.wakeCard die k) s

/-- Wakes the cards of both dies, in passes: a card that fails may end an earlier one, whose successors then wake (R224, R235); fuel
counts the passes. -/
def State.wakeAll (s : State) : Nat → State
  | 0 => s
  | n + 1 => State.wakeAll ((s.wakeDie 0).wakeDie 1) n

/-- Cards of both dies that are not over. -/
def State.openCards (s : State) : Nat := (s.dies.toList.flatMap fun d => d.cards.filter fun c => !c.ended).length

/-- Wakes until nothing changes: every pass but the last ends or readies a card. -/
def State.wake (s : State) : State := s.wakeAll (1 + 2 * s.openCards)

/-- A card ends, and its successors are looked at. -/
def State.endCard (s : State) (die k status detail : Nat) : State :=
  let t := (s.finish die k status detail (s.chainFuel die)).wake
  match s.card die k with
  | some c => t.settleStop c.ctx
  | none => t

/-! ## Appending (R218, R224) -/

/-- Which cards the schedulers of a context serve (R315); a CKSAVE also starts on a SAVED or FAULTED context. -/
def State.serves (s : State) (x cls op : Nat) : Bool := match s.ctx? x with
  | some k => k.st == .runnable || k.st == .running || (k.st == .loading && cls == 3)
      || (op == 0x20 && (k.st == .saved || k.st == .faulted))
  | none => false

/-- Both cards of a pair end with 0x07, and what is chained to them with 0x06 (R235). -/
def State.breakPair (s : State) (die : Nat) (a b : Card) : State :=
  let n := s.chainFuel die
  let end7 := fun (u : State) (k : Nat) => match u.card die k with
    | some c => if c.ended then u else u.close die c 7 0
    | none => u
  let s1 := end7 (end7 s a.id) b.id
  ((s1.die die).partners a ++ (s1.die die).partners b).foldl (fun u q => if q.ended then u else u.finish die q.id 6 0 n) s1

/-- The pair tests of R235 on a card that has just been appended: a pair that depends on itself ends with 0x07; the partner of a card that
has failed ends with 0x06. -/
def State.testPairs (s : State) (die : Nat) (c : Card) : List Card → State
  | [] => s
  | q :: r =>
    let n := s.chainFuel die
    let m := s.chainFuel 0 + s.chainFuel 1
    if s.dependsOn (die, q.id) m (die, c.id) || s.dependsOn (die, c.id) m (die, q.id) then State.testPairs (s.breakPair die c q) die c r
    else if q.ended && q.status != 1 then State.testPairs (s.finish die c.id 6 0 n) die c r
    else if c.ended then State.testPairs (s.finish die q.id 6 0 n) die c r
    else State.testPairs s die c r

/-- The scheduler takes a card: edges, then the pair tests, then what may be ready. -/
def State.accept (s : State) (die : Nat) (c : Card) : State :=
  let c1 := { c with preds := if c.ended then [] else s.predsOn die c }
  let s1 := { (s.modDie die fun d => { d with cards := d.cards ++ [c1] }) with serial := s.serial + 1 }
  let s2 := if c.st = .done then
      let r := s1.putStatus die c c.status c.detail
      r.2.setCard die { c1 with ts := r.1 }
    else s1
  (s2.testPairs die c1 ((s2.die die).partners c1)).wake

/-- A launch that spans the package also enters the other die's scheduler (R206). -/
def State.acceptPackage (s : State) (die : Nat) (c : Card) : State :=
  let o := 1 - die
  let there := (s.die o).cards.length
  let c1 := { c with preds := s.predsOn die c, preds2 := s.predsOn o c, partner := some there }
  let shadow := { c with id := there, preds := s.predsOn o c, queue := none, st := .running }
  let s1 := (s.modDie die fun d => { d with cards := d.cards ++ [c1] }).modDie o fun d => { d with cards := d.cards ++ [shadow] }
  { s1 with serial := s.serial + 1 }.wake

/-- CTL of a descriptor (R217). -/
def ctlZero (v : Nat) : Bool := bitsOf v 26 38 == 0 && bitsOf v 12 4 == 0 && bitsOf v 3 1 == 0
/-- VALID. -/
def ctlValid (v : Nat) : Bool := bitsOf v 10 1 == 1
/-- HOST. -/
def ctlHost (v : Nat) : Bool := bitsOf v 11 1 == 1
/-- DIE. -/
def ctlDie (v : Nat) : Nat := bitsOf v 9 1
/-- KIND. -/
def ctlKind (v : Nat) : Nat := bitsOf v 8 1
/-- CLASS. -/
def ctlClass (v : Nat) : Nat := bitsOf v 4 4
/-- PRIO. -/
def ctlPrio (v : Nat) : Nat := bitsOf v 0 3

/-- Links a card behind its queue's tail: next pointer and STATUS cleared, HEAD, TAIL and APPENDS (R218), after the earlier accesses of
the core that appends it, whose timestamp is p (R212, R229). -/
def State.linkCard (s : State) (die x q c hdr p : Nat) : State :=
  let s1 := (s.ctxPut die x c 0 p).ctxPut die x (c + 8) (bitsOf hdr 0 32) p
  let t := (s1.ctxWord die x (q + 8)).getD 0
  let s2 := if t = 0 then s1 else s1.ctxPut die x t c p
  let s3 := if (s2.ctxWord die x q).getD 0 = 0 then s2.ctxPut die x q c p else s2
  (s3.ctxPut die x (q + 8) c p).ctxPut die x (q + 0x18) (((s3.ctxWord die x (q + 0x18)).getD 0 + 1) % 2 ^ 64) p

/-! ## Starting jobs (R225, R234, R323) -/

/-- A checkpoint card of the context that is not over holds back what was appended after it; it waits for the jobs that were appended
before it, and not for launches, whose groups it pre-empts (16, Checkpoints; log 70, DEDUCED). -/
def State.checkpointAllows (s : State) (c : Card) : Bool :=
  s.dies.all fun d => d.cards.all fun q =>
    q.ctx != c.ctx || q.ended || q.ord == c.ord || q.partner == some c.id
      || !((c.cls == 3 && q.ord < c.ord && q.op != 0x80) || (q.cls == 3 && q.ord < c.ord))

/-- Engines of a class on a die (R221). -/
def engines (cls : Nat) : Nat := if cls = 1 then 16 else if cls = 2 then 4 else if cls = 3 then 2 else 0

/-- A READY card may start with the cards chained to it. -/
def State.mayStart (s : State) (die cls : Nat) (c : Card) : Bool :=
  let d := s.die die
  let ch := d.chain d.cards.length [c.id]
  let run := (d.cards.filter fun q => q.st == .running && q.cls == cls).length
  c.st == .ready && c.cls == cls && c.op != 0x80 && s.serves c.ctx cls c.op && s.checkpointAllows c
    && run + ch.length ≤ engines cls
    && ch.all fun k => match d.cards[k]? with
      | some q => q.st == .ready && d.paired q && d.fifoFree q
      | none => false

/-- The card of highest PRIO, the earliest among equals. -/
def bestCard : List Card → Option Card
  | [] => none
  | c :: r => match bestCard r with
    | none => some c
    | some q => if c.prio < q.prio then some q else some c

/-- Sets the state of a list of cards. -/
def State.startAll (s : State) (die : Nat) : List Nat → State
  | [] => s
  | k :: r => State.startAll (match s.card die k with
    | some c => s.setCard die { c with st := .running }
    | none => s) die r

/-! ## Retirement (R217, R228) -/

/-- The card is in the queue that another is in. -/
def Card.sameQueue (q c : Card) : Bool := c.queue.isSome && q.queue == c.queue && q.ctx == c.ctx

/-- Every earlier card of the queue is RETIRED. -/
def State.earlierRetired (s : State) (die : Nat) (c : Card) : Bool :=
  (s.die die).cards.all fun q => !(q.sameQueue c && decide (q.id < c.id)) || q.st == .retired

/-- HEAD of a queue: the oldest card whose sequence value is not written. -/
def State.putHead (s : State) (die : Nat) (c : Card) : State :=
  match c.queue with
  | none => s
  | some va => match (s.die die).cards.find? fun q => q.sameQueue c && q.st != .retired with
    | some q => s.ctxPut die c.ctx va q.addr
    | none => s.ctxPut die c.ctx va 0

/-- The card leaves the list of its appending core, ACTIVE or SAVED there, whose next FENCEJ comes after it in the memory order
(R121, R254). -/
def State.clearJob (s : State) (die : Nat) (c : Card) (tau : Nat) : State :=
  match c.core with
  | some k => s.modCore k fun q => { q with
      jobs := q.jobs.erase (die, c.id)
      jts := max q.jts tau
      saved := q.saved.map fun g => { g with jobs := g.jobs.erase (die, c.id) } }
  | none => s

/-- The NOTIFY message (R228). -/
def State.notify (s : State) (die : Nat) (c : Card) (tau : Nat) : State :=
  match c.core with
  | some k => if Nat.land c.flags fNOTIFY = 0 then s
      else s.post (dieOrigin die) (hwMsg (s.logical k) 56 c.hgen 0xFFF 2 3
        (pay4 (BitVec.ofNat 64 c.addr) (BitVec.ofNat 64 c.status) 0 0) tau c.ctx)
  | none => s

/-- The sequence write of a DONE card, and what follows it. -/
def State.retireCard (s : State) (die : Nat) (c : Card) : State :=
  let w := match s.vwrite (s.ctxEnv die c.ctx) false .none c.doneVa 8 c.seq.toNat c.ts with
    | .ok r => r
    | .error e => (c.ts, s.report die (dieOrigin die) 7 (BitVec.ofNat 64 c.addr) (BitVec.ofNat 64 e) c.ctx 0xFFF)
  (((w.2.setCard die { c with st := .retired, ts := w.1 }).putHead die c).clearJob die c w.1).notify die c w.1

/-- The messages of a card's LDIFF that have not been placed yet hold back its sequence write (R348). -/
def State.diffInFlight (s : State) (die : Nat) (c : Card) : Bool :=
  c.op == 0x12 && bitsOf c.args[1].toNat 63 1 == 1
    && (s.net ++ s.held).any fun m => m.origin == dieOrigin die && m.msg.kind == 4 && m.msg.info == 7 && m.msg.ctx == c.ctx

/-- CARD_RETIRE. -/
def execCardRetire (die k : Nat) (s : State) : Out :=
  runEvent (fun s =>
    if 2 ≤ die then s
    else match s.card die k with
      | some c => if c.st == .done && s.earlierRetired die c && !s.diffInFlight die c then s.retireCard die c else s
      | none => s) s

/-! ## Aborts (R237, R207) -/

/-- The newest card at an address that a queue of the context still holds, with its die. -/
def State.findCard (s : State) (x va : Nat) : Option (Nat × Card) :=
  let on := fun die => ((s.die die).cards.reverse.find? fun c =>
    c.ctx == x && c.addr == va && c.st != .retired && c.queue.isSome).map fun c => (die, c)
  match on 0, on 1 with
  | some a, some b => if a.2.ord < b.2.ord then some b else some a
  | some a, none => some a
  | none, r => r

/-- Aborts a WAITING or READY card with 0x30. -/
def State.abortCard (s : State) (x va : Nat) : State :=
  match s.findCard x va with
  | some (die, c) => if c.st == .waiting || c.st == .ready then s.endCard die c.id 0x30 0 else s
  | none => s

/-! ## Doorbells (R220, R314) -/

/-- The live context and descriptor that a doorbell is bound to: the lowest context whose QTAB word is nonzero (log 16, DEDUCED). -/
def State.doorOf (s : State) (die qnum : Nat) : List (Nat × Context) → Option (Nat × Nat)
  | [] => none
  | (x, k) :: r =>
    if k.st = .loading ∨ k.st = .runnable ∨ k.st = .running ∨ k.st = .preempting ∨ k.st = .saved then
      match s.ctxWord die x (k.qtab.toNat + 8 * (1024 * die + qnum)) with
      | some q => if q = 0 then State.doorOf s die qnum r else some (x, q)
      | none => State.doorOf s die qnum r
    else State.doorOf s die qnum r

/-- A launch record's level 0 domain is the package (R203). -/
def State.isPackage (s : State) (die x rec : Nat) : Bool :=
  match s.ctxWord die x (rec + 0x40) with
  | some w => bitsOf w 0 3 == 0
  | none => false

/-- One card that the host appended: checked as JAPP or KAPP does, and taken (R220); one that cannot be read is passed over (log 79,
DESIGN CHOICE). -/
def State.hostCard (s : State) (die x q ctl va : Nat) : State :=
  match s.readBlock (s.ctxEnv die x) false .none va 0 128 64 with
  | .error _ => s
  | .ok (b, ts, s1) =>
    let w := wordsOf b 16
    let h := (wordAt w 1).toNat
    let c := cardOf (s1.die die).cards.length s1.serial x va q (ctlPrio ctl) 0 ts none false w
    let launch := bitsOf h 0 8 == 0x80
    let writable := (s1.probe (s1.ctxEnv die x) false .write .none va 128 2).isNone
    let ok := va % 128 == 0 && writable && (if launch then ctlKind ctl == 0 && ctlClass ctl == 0 && bitsOf h 8 48 == 0
      else jobHeaderOk h c.doneVa && ctlKind ctl == 1 && ctlClass ctl == c.cls)
    let s2 := (if writable then s1.ctxPut die x (va + 8) (bitsOf h 0 32) else s1).ctxPut die x (q + 0x18)
      (((s1.ctxWord die x (q + 0x18)).getD 0 + 1) % 2 ^ 64)
    let s3 := if (s2.ctxWord die x q).getD 0 = 0 then s2.ctxPut die x q va else s2
    if !ok then s3.accept die { c with fps := [], st := .done, status := 0xC, detail := 0, fin := 0, fout := 0 }
    else if launch && c.st == .waiting && s3.isPackage die x (c.args[0]).toNat then s3.acceptPackage die c
    else s3.accept die c

/-- The last card accepted on a queue of a context. -/
def State.door (s : State) (die x q : Nat) : Option Nat :=
  ((s.die die).doors.find? fun d => d.1 == x && d.2.1 == q).map fun d => d.2.2

/-- Records it. -/
def State.setDoor (s : State) (die x q card : Nat) : State :=
  s.modDie die fun d => { d with doors := (x, q, card) :: d.doors.filter fun e => !(e.1 == x && e.2.1 == q) }

/-- Forgets the queues of a context. -/
def State.clearDoors (s : State) (x : Nat) : State :=
  { s with dies := s.dies.map fun d => { d with doors := d.doors.filter fun e => e.1 != x } }

/-- Card addresses that there are: a walk past more has met one twice and never ends. -/
def cardPlaces : Nat := 2 ^ 41

/-- Follows next pointers from a card up to the written address; one that cannot be read ends the walk (log 79, DESIGN CHOICE); fuel
bounds the walk. -/
def State.doorWalk (s : State) (die x q ctl target : Nat) : Nat → Nat → State
  | 0, _ => s
  | fuel + 1, last =>
    match s.ctxWord die x last with
    | none => s
    | some nxt =>
      if nxt = 0 then s.report die (dieOrigin die) 5 (BitVec.ofNat 64 q) (BitVec.ofNat 64 last) x 0xFFF
      else
        let s1 := (s.hostCard die x q ctl nxt).setDoor die x q nxt
        if nxt = target then s1 else State.doorWalk s1 die x q ctl target fuel nxt

/-- A doorbell rings. With no card accepted on the queue before, the walk is the written card alone (log 16, DEDUCED); a descriptor that
takes no doorbell, or the last card again, is left alone (log 79, DESIGN CHOICE). -/
def State.doorbell (s : State) (die qnum addr : Nat) : State :=
  if 2 ≤ die ∨ 1024 ≤ qnum then s
  else match s.doorOf die qnum s.ctxs with
    | none => s
    | some (x, q) =>
      let ctl := (s.ctxWord die x (q + 0x10)).getD 0
      if !ctlValid ctl || !ctlHost ctl || !ctlZero ctl || ctlDie ctl != die then s
      else match s.door die x q with
        | some last => if last = addr then s else s.doorWalk die x q ctl addr cardPlaces last
        | none => (s.hostCard die x q ctl addr).setDoor die x q addr

/-- DOORBELL_WRITE: it comes through a UCIe module of its die (R365, R377). -/
def execDoorbellWrite (die qnum addr : Nat) (s : State) : Out :=
  runEvent (fun s => if s.ucieUp die then s.doorbell die qnum addr else s) s

end Sys2Proof.Machine
end

