-- ==== Sys2Proof/Machine/Engine.lean ====
section
/-! DEFINITION. Machine/Engine.lean: the copy engines: COPY, COPYT, FILL, CRC and the LZ4 codec (10, R227, R230 to R235;
19, R373, R374). -/
namespace Sys2Proof.Machine

/-- How a job ends: STATUS, DETAIL, the timestamp it reached, and the state. -/
structure JobEnd where
  status : Nat
  detail : Nat
  ts     : Nat
  state  : State

/-- A job that ends before it has written anything. -/
def jobStop (s : State) (c : Card) (status detail : Nat) : JobEnd := ⟨status, detail, c.ts, s⟩
/-- DETAIL of 0x03: cause and operand (R227). -/
def faultDetail (cause operand : Nat) : Nat := cause % 32 + operand * 32

/-! ## Operands (R230, R374) -/

/-- Where bytes of a job lie or go: memory, a scratchpad, a FIFO, memory of a port's peer. -/
inductive Place where
  | mem (va : Nat)
  | sp (l off : Nat)
  | fifo (f : Nat)
  | peer (port va : Nat)
  deriving DecidableEq, Repr

/-- A scratchpad destination word (R230). -/
def spPlace (w n : Nat) : Option Place :=
  if bitsOf w 18 14 = 0 ∧ bitsOf w 44 20 = 0 ∧ w % 16 = 0 ∧ n % 16 = 0 ∧ bitsOf w 0 18 + n ≤ spSize
  then some (.sp (bitsOf w 32 12) (bitsOf w 0 18)) else none

/-- A word that names a peer's memory (R374). -/
def peerPlace (w : Nat) : Option Place :=
  if bitsOf w 60 3 = 0 ∧ bitsOf w 48 8 = 0 ∧ bitsOf w 56 4 < 12 then some (.peer (bitsOf w 56 4) (bitsOf w 0 48)) else none

/-- The place of a source word. -/
def srcPlace (c : Card) (w : Nat) : Option Place :=
  if c.fin ≠ 0 then some (.fifo c.fin)
  else if c.op = 1 ∧ bitsOf w 63 1 = 1 then peerPlace w
  else some (.mem w)

/-- The place of a destination word for n bytes. -/
def dstPlace (c : Card) (w n : Nat) : Option Place :=
  if c.fout ≠ 0 then some (.fifo c.fout)
  else if c.op = 1 ∧ bitsOf w 63 1 = 1 then
    (if Nat.land c.flags fDSP = 0 then peerPlace w
     else if (spPlace (bitsOf w 0 48) n).isSome then peerPlace w else none)
  else if Nat.land c.flags fDSP = 0 then some (.mem w)
  else spPlace w n

/-- The physical core of a scratchpad destination that holds a group of the context, ACTIVE or SAVED (R227). -/
def State.spHolder (s : State) (x l : Nat) : Option Nat :=
  match s.physical l with
  | some p => if (s.core p).contexts.contains x then some p else none
  | none => none

/-- Two byte ranges of one memory meet. -/
def overlaps (a b : Place) (n m : Nat) : Bool :=
  match a, b with
  | .mem x, .mem y => meets x n y m
  | .peer p x, .peer q y => p == q && meets x n y m
  | _, _ => false

/-! ## Links that a job crosses (R373, R374) -/

/-- Some page of a range has a physical address that a test accepts. -/
def State.somePage (s : State) (e : TEnv) (user : Bool) (f : Nat → Bool) (va n : Nat) : Nat → Bool
  | 0 => false
  | fuel + 1 =>
    if n = 0 then false
    else
      let k := min n (4096 - va % 4096)
      (match s.walk e user .read .none va with
        | .ok (t, _) => f (t.pa va)
        | .error _ => false) || State.somePage s e user f (va + k) (n - k) fuel

/-- The place lies in host memory. -/
def State.inHost (s : State) (die : Nat) (c : Card) (p : Place) (n : Nat) : Bool :=
  match p with
  | .mem va => s.somePage (s.ctxEnv die c.ctx) c.user (fun pa => decide (hostBase ≤ pa)) va n (n / 4096 + 2)
  | _ => false

/-- Both UCIe modules of a die are FENCED or DISABLED (R373). -/
def State.hostCut (s : State) (die : Nat) : Bool := s.cut (13 + 2 * die) && s.cut (14 + 2 * die)

/-- The place lies across the bridge. -/
def State.acrossBridge (s : State) (die : Nat) (c : Card) (p : Place) (n : Nat) : Bool :=
  match p with
  | .mem va => s.somePage (s.ctxEnv die c.ctx) c.user (fun pa => inDram pa && dramDie pa != die) va n (n / 4096 + 2)
  | .sp l _ => (match s.physical l with
    | some q => dieOf q != die
    | none => false)
  | .fifo _ => false
  | .peer .. => false

/-- Why a place cannot be reached: PROT when the port belongs to no context or to another (R371, R374), 0x0D when the link is not there. -/
def State.linkFault (s : State) (die : Nat) (c : Card) (p : Place) (n operand : Nat) : Option (Nat × Nat) :=
  match p with
  | .peer port _ =>
    if (s.link port).lctx = 0 ∨ (s.link port).lctx ≠ c.ctx then some (3, faultDetail causeProt operand)
    else if (s.link port).st ≠ .active then some (0xD, port)
    else none
  | q => if s.cut 12 && s.acrossBridge die c q n then some (0xD, 12)
    else if s.hostCut die && s.inHost die c q n then some (0xD, 13 + 2 * die) else none

/-! ## Reading and writing a place -/

/-- n bytes that the peer answers with. -/
def State.peerBytes (s : State) (n : Nat) : List Byte × State :=
  ((List.range n).map fun i => Config.peerByte (s.free + i), { s with free := s.free + n })

/-- The bytes of a source, with the timestamp reached; or the end of the job. -/
def State.input (s : State) (die : Nat) (c : Card) (p : Place) (n : Nat) : Except JobEnd (List Byte × Nat × State) :=
  match p with
  | .mem va => match s.readBlock (s.ctxEnv die c.ctx) c.user .none va c.ts n (n + 1) with
    | .ok r => .ok r
    | .error e => .error (jobStop s c 3 (faultDetail e.1 0))
  | .fifo f => .ok ((lookupK (s.die die).fifos f).getD [], c.ts, s.modDie die fun d => { d with fifos := removeK d.fifos f })
  | .peer _ _ => match Config.peerFault s.free with
    | some e => .error (jobStop { s with free := s.free + 1 } c 3 (faultDetail e 0))
    | none => let r := { s with free := s.free + 1 }.peerBytes n; .ok (r.1, c.ts, r.2)
  | .sp .. => .ok ([], c.ts, s)

/-- Sets the full bits of a saved image's granules g to g + n - 1 (R252). -/
def State.savedFull (s : State) (die x area g p : Nat) : Nat → State
  | 0 => s
  | n + 1 =>
    let s1 := State.savedFull s die x area g p n
    let h := g + n
    let a := area + 0x1480 + h / 64 * 8
    let w := (s1.ctxWord die x a).getD 0
    s1.ctxPut die x a (Nat.lor w (2 ^ (h % 64))) p

/-- Another agent sets n full bits; a change of one is an event of R122. -/
def Core.fill (k : Core) (g n : Nat) : Core :=
  let k1 := k.marks g true n
  if (List.range n).all fun i => k.full (g + i) then k1 else k1.event

/-- The core holds a group of the context that is not saved. -/
def Core.holds (k : Core) (x : Nat) : Bool := match k.group with
  | some g => g.ctx == x
  | none => false

/-- Address of the save area in which a group of the context is saved on a core (R252). -/
def State.savedArea (s : State) (x l c : Nat) : Nat := match (s.core c).saved.find? fun g => g.grp.ctx == x with
  | some g => g.area
  | none => s.areaOf x l

/-- Sets the full bits of n granules of a scratchpad, or of the saved image of a pre-empted core (R229, R230). What the core then reads
comes after the job in the memory order: PTS reaches the job's timestamp (R274; log 83, DEDUCED). -/
def State.fillSp (s : State) (die x l c g n p : Nat) : State :=
  if (s.core c).holds x then s.modCore c fun k => (k.fill g n).raisePts p else s.savedFull die x (s.savedArea x l c) g p n

/-- An engine writes a scratchpad, or the saved image of a pre-empted core, and sets the full bits of the granules that the bytes fill. -/
def State.putSp (s : State) (die x l c off : Nat) (b : List Byte) (p : Nat) : State :=
  let s1 := if (s.core c).holds x then s.modCore c fun k => k.spWrites off b
    else (s.writeBlock (s.ctxEnv die x) false .none (s.savedArea x l c + 0x22000 + off) p b (b.length + 1)).2.2
  s1.fillSp die x l c (off / 16) (b.length / 16) p

/-- Sets the full bits of granules of a destination, by their number within it. -/
def State.fillPlace (s : State) (die : Nat) (c : Card) (p : Place) (ts : Nat) : List Nat → State
  | [] => s
  | g :: r => State.fillPlace (match p with
    | .sp l off => (match s.spHolder c.ctx l with
      | some q => s.fillSp die c.ctx l q (off / 16 + g) 1 ts
      | none => s)
    | _ => s) die c p ts r

/-- Writes the bytes of a piece of a destination, `at_` bytes past its start: the end of the job at a fault. -/
def State.output (s : State) (die : Nat) (c : Card) (p : Place) (at_ ts : Nat) (b : List Byte) : Option (Nat × Nat) × Nat × State :=
  match p with
  | .mem va =>
    let r := s.writeBlock (s.ctxEnv die c.ctx) c.user .none (va + at_) ts b (b.length + 1)
    (r.1.map fun e => (3, faultDetail e.1 1), r.2.1, r.2.2)
  | .fifo f => (none, ts, s.modDie die fun d => { d with fifos := insertK d.fifos f ((lookupK d.fifos f).getD [] ++ b) })
  | .sp l off => match s.spHolder c.ctx l with
    | some q => (none, ts, s.putSp die c.ctx l q (off + at_) b ts)
    | none => (some (8, 0), ts, s)
  | .peer port va => match Config.peerFault s.free with
    | some e => (some (3, faultDetail e 1), ts, { s with free := s.free + 1 })
    | none =>
      let s1 := { s with free := s.free + 1 }.setLink port ((s.link port).sendBytes b)
      let w : PeerWrite := { port := port, peerctx := (s.link port).peerctx, dsp := Nat.land c.flags fDSP != 0, va := va + at_, data := b }
      (none, ts, { s1 with toPeer := s1.toPeer ++ [w] })

/-- A scratchpad destination needs a group of the context (R227, 0x08). -/
def State.placeHeld (s : State) (c : Card) (p : Place) : Bool :=
  match p with
  | .sp l _ => (s.spHolder c.ctx l).isSome
  | _ => true

/-! ## Running a job's card -/

/-- The FIFO of a card is ready: its producer has put out its stream, whether it has ended or waits on the full FIFO (R234). -/
def State.fifoReady (s : State) (die : Nat) (c : Card) : Bool :=
  match (s.die die).producer c with
  | some q => c.fin == 0 || q.ended || (lookupK (s.die die).fifos c.fin).isSome
  | none => true

/-- A partner of the card has failed (R235). -/
def State.brokenPair (s : State) (die : Nat) (c : Card) : Bool :=
  ((s.die die).partners c).any fun q => q.ended && q.status != 1

/-- Bytes of a chaining FIFO (R234). -/
def fifoSize : Nat := 65536

/-- The stream that the card has put out does not fit its FIFO: the card waits until its consumer has read it. -/
def State.fifoFull (s : State) (die : Nat) (c : Card) : Bool :=
  c.fout != 0 && decide (fifoSize < ((lookupK (s.die die).fifos c.fout).getD []).length)

/-- The card has put out its stream. -/
def State.hasPut (s : State) (die : Nat) (c : Card) : Bool := c.fout != 0 && (lookupK (s.die die).fifos c.fout).isSome

/-- Writes a 64-bit word of an aux record or a result; a fault names operand 2. -/
def State.putAux (s : State) (die : Nat) (c : Card) (va v ts : Nat) : Option (Nat × Nat) × Nat × State :=
  match s.vwrite (s.ctxEnv die c.ctx) c.user .none va 8 v ts with
  | .ok r => (none, r.1, r.2)
  | .error e => (some (3, faultDetail e 2), ts, s)

/-- The first word of an aux record or a result that cannot be written. -/
def State.auxFault (s : State) (die : Nat) (c : Card) : List (Nat × Nat) → Option (Nat × Nat)
  | [] => none
  | (va, _) :: r => match s.probe (s.ctxEnv die c.ctx) c.user .write .none va 8 1 with
    | some e => some (3, faultDetail e.1 2)
    | none => State.auxFault s die c r

/-- Writes words of an aux record in order. -/
def State.putWords (s : State) (die : Nat) (c : Card) (ts : Nat) : List (Nat × Nat) → JobEnd
  | [] => ⟨1, 0, ts, s⟩
  | (va, v) :: r =>
    let o := s.putAux die c va v ts
    match o.1 with
    | some e => ⟨e.1, e.2, o.2.1, o.2.2⟩
    | none => State.putWords o.2.2 die c o.2.1 r

/-- The words of an aux record or a result are written only with STATUS 0x01, so that where one cannot be written none is (R233). -/
def State.putChecked (s : State) (die : Nat) (c : Card) (ts : Nat) (l : List (Nat × Nat)) : JobEnd :=
  match s.auxFault die c l with
  | some e => ⟨e.1, e.2, ts, s⟩
  | none => s.putWords die c ts l

/-- The job's end with the words of its aux record or its result; a producer that still waits on its full FIFO keeps them (R233). -/
def State.putAuxs (s : State) (die : Nat) (c : Card) (ts : Nat) (l : List (Nat × Nat)) : JobEnd :=
  if s.fifoFull die c then ⟨1, 0, ts, s.setCard die { c with due := l }⟩ else s.putChecked die c ts l

/-- The words that a producer has still to write. -/
def State.putWordsOf (s : State) (die : Nat) (c : Card) : JobEnd := s.putChecked die c c.ts c.due

/-- The producer of a card that waits on the full FIFO ends: when the card has read the FIFO with the words that it still has to
write, else with 0x06 (R233 to R235). The FIFO is emptied. -/
def State.endProducer (s : State) (die : Nat) (c : Card) (read : Bool) : State :=
  let s1 := if c.fin = 0 then s else s.modDie die fun d => { d with fifos := removeK d.fifos c.fin }
  match (s.die die).producer c with
  | none => s1
  | some q =>
    if q.ended then s1
    else if read then
      let e := s1.putWordsOf die q
      (e.state.setCard die { q with ts := max q.ts e.ts, due := [] }).endCard die q.id e.status e.detail
    else s1.endCard die q.id 6 0

/-- A running card ends, and then a producer that waits on the full FIFO (R234, R235). -/
def State.endChained (s : State) (die : Nat) (c : Card) (status detail : Nat) : State :=
  (s.endCard die c.id status detail).endProducer die c (status == 1)

/-- The port through which a COPY sends to a peer. -/
def Card.port (c : Card) : Option Nat :=
  if c.op = 1 ∧ c.fout = 0 ∧ bitsOf c.args[1].toNat 63 1 = 1 then some (bitsOf c.args[1].toNat 56 4) else none

/-- The card ends as its job did, or waits: on its full FIFO, or for a port to deliver what it has sent; it has read its own input
FIFO then (R234, R373). -/
def JobEnd.close (e : JobEnd) (die k : Nat) : State :=
  match e.state.card die k with
  | some c =>
    let c1 := { c with ts := max c.ts e.ts }
    let s1 := e.state.setCard die c1
    if e.status = 1 ∧ s1.fifoFull die c = true then s1.endProducer die c true
    else if e.status = 1 ∧ c.port.isSome = true then
      (s1.setCard die { c1 with began := some (s1.time + 1) }).endProducer die c true
    else s1.endChained die c e.status e.detail
  | none => e.state

/-- Runs a RUNNING card of an opcode to its end; it waits for its FIFO. -/
def runJob (die k op : Nat) (f : State → Card → JobEnd) (s : State) : Out :=
  runEvent (fun s =>
    if 2 ≤ die then s
    else match s.card die k with
      | none => s
      | some c =>
        if c.st != .running || c.op != op || !s.fifoReady die c || s.hasPut die c then s
        else if s.brokenPair die c then s.endChained die c 6 0
        else (f s c).close die k) s

/-- An operand of the card across the bridge, or in host memory, makes the job wait while the link is neither ACTIVE nor cut. -/
def State.bridgeWait (s : State) (die : Nat) (c : Card) (l : List (Place × Nat)) : Bool :=
  (!s.bridgeUp && !s.cut 12 && l.any fun p => s.acrossBridge die c p.1 p.2)
    || (!s.ucieUp die && !s.hostCut die && l.any fun p => s.inHost die c p.1 p.2)

/-- The first link fault of a source and a destination. -/
def State.linkFaults (s : State) (die : Nat) (c : Card) (src dst : Place) (n m : Nat) : Option (Nat × Nat) :=
  (s.linkFault die c src n 0).or (s.linkFault die c dst m 1)

/-- A length that R230 allows. -/
def lengthOk (n : Nat) : Bool := 1 ≤ n && decide (n < 2 ^ 48)

/-- Moves a source to a destination in one piece. -/
def State.moveAll (s : State) (die : Nat) (c : Card) (src dst : Place) (n : Nat) : JobEnd :=
  match s.input die c src n with
  | .error e => e
  | .ok (b, ts, s1) =>
    let r := s1.output die c dst 0 ts b
    match r.1 with
    | some x => ⟨x.1, x.2, r.2.1, r.2.2⟩
    | none => ⟨1, 0, r.2.1, r.2.2⟩

/-- The length of a card's input: that of its FIFO, or an operand (R234). -/
def State.inputLen (s : State) (die : Nat) (c : Card) (n : Nat) : Nat :=
  if c.fin = 0 then n else ((lookupK (s.die die).fifos c.fin).getD []).length

/-! ## COPY (R230) -/

/-- COPY's length operand. -/
def State.copyLen (s : State) (die : Nat) (c : Card) : Nat := s.inputLen die c c.args[2].toNat

/-- COPY. -/
def State.jobCopy (s : State) (die : Nat) (c : Card) : JobEnd :=
  let n := s.copyLen die c
  if c.args[3] ≠ 0 ∨ !lengthOk n then jobStop s c 5 0
  else match srcPlace c c.args[0].toNat, dstPlace c c.args[1].toNat n with
    | some src, some dst =>
      if overlaps src dst n n then jobStop s c 5 0
      else if !s.placeHeld c dst then jobStop s c 8 0
      else match s.linkFaults die c src dst n n with
        | some e => jobStop s c e.1 e.2
        | none => s.moveAll die c src dst n
    | _, _ => jobStop s c 5 0

/-- The places that COPY touches. -/
def State.copyPlaces (s : State) (die : Nat) (c : Card) : List (Place × Nat) :=
  let n := s.copyLen die c
  ((srcPlace c c.args[0].toNat).toList ++ (dstPlace c c.args[1].toNat n).toList).map fun p => (p, n)

/-- The event of a copy engine: its card's job, unless the bridge makes it wait. -/
def runCopyJob (die k op : Nat) (places : State → Card → List (Place × Nat)) (f : State → Card → JobEnd) (s : State) : Out :=
  match s.card die k with
  | some c => if s.bridgeWait die c (places s c) then .next s else runJob die k op f s
  | none => .next s

/-- A COPY to a peer ends when its port has delivered what it sent, or with 0x0D where the port has lost it (R373). -/
def State.copySent (s : State) (die : Nat) (c : Card) (port : Nat) : State :=
  let l := s.link port
  if c.began = some 0 then s.endChained die c 0xD port
  else if l.queue.isEmpty && l.replay.isEmpty then s.endChained die c 1 0
  else s

/-- COPY. -/
def execCopy (die k : Nat) (s : State) : Out :=
  match (s.card die k).filter fun c => c.st == .running && c.op == 1 && c.began.isSome with
  | some c => runEvent (fun s => s.copySent die c (c.port.getD 0)) s
  | none => runCopyJob die k 1 (fun s c => s.copyPlaces die c) (fun s c => s.jobCopy die c) s

/-! ## COPYT (R230) -/

/-- A SHAPE word: rows, columns, element bytes. -/
def shapeOf (w : Word) : Option (Nat × Nat × Nat) :=
  if slice w 63 34 = 0 ∧ slice w 15 0 ≠ 0 ∧ slice w 31 16 ≠ 0 then some (slice w 15 0, slice w 31 16, 2 ^ slice w 33 32) else none

/-- Writes elements 0 to n - 1 of a row's list at their addresses; stops at a fault. -/
def State.outElems (s : State) (die : Nat) (c : Card) (dst : Place) (ts : Nat) :
    List (Nat × List Byte) → Option (Nat × Nat) × Nat × State
  | [] => (none, ts, s)
  | (at_, b) :: r =>
    let o := s.output die c dst at_ ts b
    match o.1 with
    | some e => (some e, o.2.1, o.2.2)
    | none => State.outElems o.2.2 die c dst o.2.1 r

/-- Moves rows i, i + 1, … of n rows: reads C elements and writes each at its transposed place. -/
def State.moveRows (s : State) (die : Nat) (c : Card) (src dst sp dp cols z ts : Nat) : Nat → Nat → JobEnd
  | 0, _ => ⟨1, 0, ts, s⟩
  | n + 1, i =>
    match s.readBlock (s.ctxEnv die c.ctx) c.user .none (src + i * sp) ts (cols * z) (cols * z + 1) with
    | .error e => ⟨3, faultDetail e.1 0, ts, s⟩
    | .ok (b, t1, s1) =>
      let es := (List.range cols).map fun j => (j * dp + i * z, (b.drop (j * z)).take z)
      let o := s1.outElems die c (.mem dst) t1 es
      match o.1 with
      | some e => ⟨e.1, e.2, o.2.1, o.2.2⟩
      | none => State.moveRows o.2.2 die c src dst sp dp cols z o.2.1 n (i + 1)

/-- COPYT. -/
def State.jobCopyt (s : State) (die : Nat) (c : Card) : JobEnd :=
  match shapeOf c.args[2] with
  | none => jobStop s c 5 0
  | some (r, k, z) =>
    let src := c.args[0].toNat
    let dst := c.args[1].toNat
    let sp := slice c.args[3] 31 0
    let dp := slice c.args[3] 63 32
    let shared := (List.range r).any fun i => (List.range k).any fun j => meets (src + i * sp) (k * z) (dst + j * dp) (r * z)
    if sp < k * z ∨ dp < r * z ∨ shared = true then jobStop s c 5 0
    else match s.linkFaults die c (.mem src) (.mem dst) (r * sp) (k * dp) with
      | some e => jobStop s c e.1 e.2
      | none => s.moveRows die c src dst sp dp k z c.ts r 0

/-- The places that COPYT touches. -/
def copytPlaces (c : Card) : List (Place × Nat) :=
  match shapeOf c.args[2] with
  | some (r, k, _) => [(.mem c.args[0].toNat, r * slice c.args[3] 31 0), (.mem c.args[1].toNat, k * slice c.args[3] 63 32)]
  | none => []

/-- COPYT. -/
def execCopyt (die k : Nat) (s : State) : Out :=
  runCopyJob die k 2 (fun _ c => copytPlaces c) (fun s c => s.jobCopyt die c) s

/-! ## FILL and CRC (R230) -/

/-- n bytes of a pattern. -/
def patternBytes (w : Word) (n : Nat) : List Byte := (List.range n).map fun i => BitVec.ofNat 8 (bitsOf w.toNat (8 * (i % 8)) 8)

/-- FILL. -/
def State.jobFill (s : State) (die : Nat) (c : Card) : JobEnd :=
  let n := c.args[1].toNat
  if c.args[3] ≠ 0 ∨ !lengthOk n then jobStop s c 5 0
  else match dstPlace c c.args[0].toNat n with
    | none => jobStop s c 5 0
    | some dst =>
      if !s.placeHeld c dst then jobStop s c 8 0
      else match s.linkFault die c dst n 1 with
        | some e => jobStop s c e.1 e.2
        | none =>
          let r := s.output die c dst 0 c.ts (patternBytes c.args[2] n)
          match r.1 with
          | some x => ⟨x.1, x.2, r.2.1, r.2.2⟩
          | none => ⟨1, 0, r.2.1, r.2.2⟩

/-- FILL. -/
def execFill (die k : Nat) (s : State) : Out :=
  runCopyJob die k 3 (fun _ c => (dstPlace c c.args[0].toNat c.args[1].toNat).toList.map fun p => (p, c.args[1].toNat))
    (fun s c => s.jobFill die c) s

/-- CRC. -/
def State.jobCrc (s : State) (die : Nat) (c : Card) : JobEnd :=
  let n := s.inputLen die c c.args[1].toNat
  if slice c.args[2] 63 32 ≠ 0 ∨ c.args[3].toNat % 8 ≠ 0 ∨ !lengthOk n then jobStop s c 5 0
  else match srcPlace c c.args[0].toNat with
    | none => jobStop s c 5 0
    | some src => match s.linkFault die c src n 0 with
      | some e => jobStop s c e.1 e.2
      | none => match s.input die c src n with
        | .error e => e
        | .ok (b, ts, s1) => s1.putAuxs die c ts [(c.args[3].toNat, crc32c (slice c.args[2] 31 0) b)]

/-- CRC. -/
def execCrc (die k : Nat) (s : State) : Out :=
  runCopyJob die k 6 (fun _ c => (srcPlace c c.args[0].toNat).toList.map fun p => (p, c.args[1].toNat))
    (fun s c => s.jobCrc die c) s

/-! ## LZ4 blocks (R231 to R233) -/

/-- Bytes of a chunk's output. -/
def chunkSize : Nat := 65536

/-- A length with its extension bytes; none where they run past the end. -/
def lz4Len (n : Nat) : List Byte → Option (Nat × List Byte)
  | l => if n < 15 then some (n, l) else lz4More n l
where
  /-- Extension bytes, each added, up to one that is not 255. -/
  lz4More (n : Nat) : List Byte → Option (Nat × List Byte)
    | [] => none
    | b :: r => if b = 255 then lz4More (n + 255) r else some (n + b.toNat, r)

/-- Copies a match onto output kept last byte first. -/
def lz4Copy (off : Nat) : Nat → List Byte → List Byte
  | 0, out => out
  | n + 1, out => lz4Copy off n ((out[off - 1]?.getD 0) :: out)

/-- Decodes sequences onto output kept last byte first; none where R232 calls the block malformed. -/
def lz4Sequences : Nat → List Byte → List Byte → Option (List Byte)
  | 0, _, _ => none
  | _ + 1, [], _ => none
  | fuel + 1, tok :: l, out =>
    match lz4Len (tok.toNat / 16) l with
    | none => none
    | some (n, l1) =>
      if l1.length < n then none
      else
        let out1 := (l1.take n).reverse ++ out
        let l2 := l1.drop n
        if chunkSize < out1.length then none
        else match l2 with
          | [] => some out1
          | [_] => none
          | a :: b :: l3 =>
            let off := a.toNat + 256 * b.toNat
            if off = 0 ∨ out1.length < off then none
            else match lz4Len (tok.toNat % 16) l3 with
              | none => none
              | some (m, l4) =>
                if chunkSize < out1.length + m + 4 then none
                else lz4Sequences fuel l4 (lz4Copy off (m + 4) out1)

/-- The output of one chunk: raw, or one block; none where it is malformed. -/
def lz4Chunk (raw : Bool) (b : List Byte) : Option (List Byte) :=
  if raw then (if b.isEmpty || decide (chunkSize < b.length) then none else some b)
  else (lz4Sequences (b.length + 1) b []).bind fun o => if o.isEmpty then none else some o.reverse

/-- Decodes a stream: the outputs of the chunks before a failure, and the failure as STATUS with its chunk. -/
def lz4Stream (limit : Nat) : Nat → Nat → Nat → List Byte → List (List Byte) × Option (Nat × Nat)
  | 0, k, _, _ => ([], some (0xA, k))
  | fuel + 1, k, done, l =>
    if l.isEmpty then ([], if done < limit then some (0xA, k) else none)
    else
      let h := bytesNat (l.take 4)
      let n := h % 2 ^ 31
      let rest := l.drop 4
      if l.length < 4 ∨ rest.length < n then ([], some (0xA, k))
      else match lz4Chunk (bitsOf h 31 1 == 1) (rest.take n) with
        | none => ([], some (9, k))
        | some o =>
          let l1 := rest.drop n
          if !l1.isEmpty && decide (o.length < chunkSize) then ([], some (9, k))
          else if limit < done + o.length then ([], some (0xA, k))
          else
            let r := lz4Stream limit fuel (k + 1) (done + o.length) l1
            (o :: r.1, r.2)

/-- The pieces of a chunk's output with their offsets in the destination: the whole, or its elements transposed. -/
def chunkPieces (shape : Option (Nat × Nat × Nat)) (at_ : Nat) (b : List Byte) : List (Nat × List Byte) :=
  match shape with
  | none => [(at_, b)]
  | some (r, c, z) => (List.range (b.length / z)).map fun i =>
      let e := at_ / z + i
      ((e % c * r + e / c) * z, (b.drop (i * z)).take z)

/-- Commits chunks in order. -/
def State.outChunks (s : State) (die : Nat) (c : Card) (dst : Place) (shape : Option (Nat × Nat × Nat)) (ts : Nat) :
    Nat → List (List Byte) → Option (Nat × Nat) × Nat × State
  | _, [] => (none, ts, s)
  | at_, b :: r =>
    let o := s.outElems die c dst ts (chunkPieces shape at_ b)
    match o.1 with
    | some e => (some e, o.2.1, o.2.2)
    | none => State.outChunks o.2.2 die c dst shape o.2.1 (at_ + b.length) r

/-- The destination image: the expanded bytes, or the transposed matrix. -/
def imageOf (shape : Option (Nat × Nat × Nat)) (b : List Byte) : List Byte :=
  match shape with
  | none => b
  | some (r, c, z) => (List.range (r * c)).flatMap fun e => (b.drop ((e % r * c + e / r) * z)).take z

/-- The granules of the destination all of whose bytes lie in the first n bytes of a transposed image; those of an image that is
not transposed are marked as its pieces are written (R229). -/
def fullGranules (shape : Option (Nat × Nat × Nat)) (n : Nat) : List Nat :=
  match shape with
  | none => []
  | some (r, c, z) => (List.range (r * c * z / 16)).filter fun g =>
      (List.range (16 / z)).all fun i =>
        let e := 16 / z * g + i
        decide ((e % r * c + e / r) * z < n)

/-- LZ4X after its checks. -/
def State.expand (s : State) (die : Nat) (c : Card) (src dst : Place) (n m : Nat) (shape : Option (Nat × Nat × Nat)) : JobEnd :=
  match s.input die c src n with
  | .error e => e
  | .ok (b, ts, s1) =>
    let r := lz4Stream m (b.length + 1) 0 0 b
    let o0 := s1.outChunks die c dst shape ts 0 r.1
    let o := (o0.1, o0.2.1, o0.2.2.fillPlace die c dst o0.2.1 (fullGranules shape r.1.flatten.length))
    match o.1, r.2 with
    | some e, _ => ⟨e.1, e.2, o.2.1, o.2.2⟩
    | none, some e => ⟨e.1, e.2, o.2.1, o.2.2⟩
    | none, none =>
      let aux := c.args[3].toNat
      o.2.2.putAuxs die c o.2.1
        ((if Nat.land c.flags fCRCD = 0 then [] else [(aux + 8, crc32c 0 (imageOf shape r.1.flatten))])
         ++ (if Nat.land c.flags fCRCS = 0 then [] else [(aux + 16, crc32c 0 b)]))

/-- SHAPE of the aux record, when XPOSE is set; or the end of the job. -/
def State.shapeOp (s : State) (die : Nat) (c : Card) (m : Nat) : Except JobEnd (Option (Nat × Nat × Nat) × State) :=
  if Nat.land c.flags fXPOSE = 0 then .ok (none, s)
  else match s.vread (s.ctxEnv die c.ctx) c.user .none c.args[3].toNat 8 c.ts with
    | .error e => .error (jobStop s c 3 (faultDetail e 2))
    | .ok (v, _, s1) => match shapeOf (BitVec.ofNat 64 v) with
      | none => .error (jobStop s c 5 0)
      | some (r, k, z) => if r * k * z = m then .ok (some (r, k, z), s1) else .error (jobStop s c 0xB 0)

/-- An aux record that a flag needs is missing, or its address is not a multiple of 8 (R231). -/
def auxBad (c : Card) : Bool :=
  c.args[3].toNat % 8 != 0 || (c.args[3] == 0 && Nat.land c.flags (fCRCS + fCRCD + fXPOSE) != 0)

/-- LZ4X. -/
def State.jobLz4x (s : State) (die : Nat) (c : Card) : JobEnd :=
  let n0 := slice c.args[2] 31 0
  let m := slice c.args[2] 63 32
  let n := s.inputLen die c n0
  let finOk := c.fin == 0 || (c.args[0] == 0 && n0 == 0)
  if auxBad c || !finOk || !lengthOk n || !lengthOk m then jobStop s c 5 0
  else match srcPlace c c.args[0].toNat, dstPlace c c.args[1].toNat m with
    | some src, some dst =>
      if overlaps src dst n m then jobStop s c 5 0
      else if !s.placeHeld c dst then jobStop s c 8 0
      else match s.linkFaults die c src dst n m with
        | some e => jobStop s c e.1 e.2
        | none => match s.shapeOp die c m with
          | .error e => e
          | .ok (shape, s1) => s1.expand die c src dst n m shape
    | _, _ => jobStop s c 5 0

/-- The places that the codec touches: n source bytes and m destination bytes. -/
def lz4Places (c : Card) : List (Place × Nat) :=
  let m := slice c.args[2] 63 32
  (srcPlace c c.args[0].toNat).toList.map (fun p => (p, slice c.args[2] 31 0))
    ++ (dstPlace c c.args[1].toNat m).toList.map fun p => (p, m)

/-- LZ4X. -/
def execLz4x (die k : Nat) (s : State) : Out :=
  runCopyJob die k 4 (fun _ c => lz4Places c) (fun s c => s.jobLz4x die c) s

/-! ## LZ4C (R233) -/

/-- Four bytes at a position. -/
def read32 (a : Array Byte) (p : Nat) : Nat :=
  (a[p]?.getD 0).toNat + 256 * (a[p + 1]?.getD 0).toNat + 65536 * (a[p + 2]?.getD 0).toNat + 16777216 * (a[p + 3]?.getD 0).toNat

/-- The hash of a position. -/
def lz4Hash (a : Array Byte) (p : Nat) : Nat := read32 a p * 0x9E3779B1 % 2 ^ 32 / 2 ^ 20

/-- Bytes equal from two positions upward, at most n. -/
def sameRun (a : Array Byte) (p q : Nat) : Nat → Nat
  | 0 => 0
  | n + 1 => if a[p]?.getD 0 = a[q]?.getD 0 then 1 + sameRun a (p + 1) (q + 1) n else 0

/-- Enters n positions from p in the table. -/
def lz4Enter (a : Array Byte) (p : Nat) : Nat → List (Nat × Nat) → List (Nat × Nat)
  | 0, t => t
  | n + 1, t => lz4Enter a (p + 1) n (insertK t (lz4Hash a p) p)

/-- Extension bytes of a length at or above 15. -/
def lz4Ext (n : Nat) : List Byte := if n < 15 then [] else List.replicate ((n - 15) / 255) 255 ++ [BitVec.ofNat 8 ((n - 15) % 255)]

/-- A sequence: literals, and a match of distance and length, or none at the end. -/
def lz4Emit (lit : List Byte) (m : Option (Nat × Nat)) : List Byte :=
  let ln := min 15 lit.length
  match m with
  | none => BitVec.ofNat 8 (16 * ln) :: (lz4Ext lit.length ++ lit)
  | some (d, n) => BitVec.ofNat 8 (16 * ln + min 15 (n - 4)) :: (lz4Ext lit.length ++ lit ++ leBytes 2 d ++ lz4Ext (n - 4))

/-- Compresses from position p, with literals since `lit`; fuel bounds the positions. -/
def lz4Scan (a : Array Byte) : Nat → Nat → Nat → List (Nat × Nat) → List Byte
  | 0, _, lit, _ => lz4Emit (a.toList.drop lit) none
  | fuel + 1, p, lit, t =>
    if a.size ≤ p + 12 then lz4Emit (a.toList.drop lit) none
    else
      let run := match lookupK t (lz4Hash a p) with
        | some q => if p - q ≤ 65535 then (q, sameRun a q p (a.size - 5 - p)) else (q, 0)
        | none => (0, 0)
      if 4 ≤ run.2 then
        lz4Emit ((a.toList.drop lit).take (p - lit)) (some (p - run.1, run.2))
          ++ lz4Scan a fuel (p + run.2) (p + run.2) (lz4Enter a p run.2 t)
      else lz4Scan a fuel (p + 1) lit (lz4Enter a p 1 t)

/-- The chunk of a stream for at most 65,536 bytes. -/
def lz4Pack (b : List Byte) : List Byte :=
  let z := lz4Scan b.toArray (b.length + 1) 0 0 []
  if chunkSize < z.length then leBytes 4 (b.length + 2 ^ 31) ++ b else leBytes 4 z.length ++ z

/-- The chunks of a source that fit the capacity, and the first that does not. -/
def lz4Packs (cap : Nat) : Nat → Nat → List Byte → List (List Byte) × Option Nat
  | 0, _, _ => ([], none)
  | fuel + 1, k, l =>
    if l.isEmpty then ([], none)
    else
      let z := lz4Pack (l.take chunkSize)
      if cap < z.length then ([], some k)
      else
        let r := lz4Packs (cap - z.length) fuel (k + 1) (l.drop chunkSize)
        (z :: r.1, r.2)

/-- LZ4C. -/
def State.jobLz4c (s : State) (die : Nat) (c : Card) : JobEnd :=
  let n := s.inputLen die c (slice c.args[2] 31 0)
  let cap := slice c.args[2] 63 32
  if auxBad c || !lengthOk n || !lengthOk cap then jobStop s c 5 0
  else match srcPlace c c.args[0].toNat, dstPlace c c.args[1].toNat cap with
    | some src, some dst =>
      if overlaps src dst n cap then jobStop s c 5 0
      else match s.linkFaults die c src dst n cap with
        | some e => jobStop s c e.1 e.2
        | none => match s.input die c src n with
          | .error e => e
          | .ok (b, ts, s1) =>
            let r := lz4Packs cap (b.length / chunkSize + 1) 0 b
            let o := s1.outChunks die c dst none ts 0 r.1
            match o.1, r.2 with
            | some e, _ => ⟨e.1, e.2, o.2.1, o.2.2⟩
            | none, some k => ⟨0xA, k, o.2.1, o.2.2⟩
            | none, none =>
              let aux := c.args[3].toNat
              o.2.2.putAuxs die c o.2.1
                ((if aux = 0 then [] else [(aux, r.1.flatten.length)])
                 ++ (if Nat.land c.flags fCRCS = 0 then [] else [(aux + 16, crc32c 0 r.1.flatten)]))
    | _, _ => jobStop s c 5 0

/-- LZ4C. -/
def execLz4c (die k : Nat) (s : State) : Out :=
  runCopyJob die k 5 (fun _ c => lz4Places c) (fun s c => s.jobLz4c die c) s

/-! ## What a peer asks through a port (R374, R375) -/

/-- Bytes that a peer's copy engine reads under a context, as far as they can be read; the port's agent holds a read lease of each line's
region. A port works on die 0 (log 17, DESIGN CHOICE). Fuel bounds the lines. -/
def State.portRead (s : State) (port x va n : Nat) : Nat → List Byte × State
  | 0 => ([], s)
  | fuel + 1 =>
    let k := min n (64 - va % 64)
    if n = 0 then ([], s)
    else match s.walkTouch (s.ctxEnv 0 x) true .read .none va with
      | .error _ => ([], s)
      | .ok (t, q, s1) =>
        let pa := t.pa va
        if pa < dramBase then ([], s)
        else
          let o := s1.agentLine (146 + port) x (leafProto t.leaf) (t.home 0 pa) pa q
          let r := State.portRead o.2.2 port x (va + k) (n - k) fuel
          (leBytes k (bitsOf o.1.toNat (8 * (pa % 64)) (8 * k)) ++ r.1, r.2)

/-- What a peer asks is done: a write under a context's translation; a write of a scratchpad, which sets its full bits; a read, whose
bytes go back through the port. How a peer learns of a fault no rule gives (log 17, DESIGN CHOICE). -/
def State.portOp (s : State) (port : Nat) (o : Config.PortOp) : State :=
  match o with
  | .write x va b => (s.writeBlock (s.ctxEnv 0 x) true .none va 0 b (b.length + 1)).2.2
  | .writeSp x l off b => match s.spHolder x l with
    | some q => if off % 16 = 0 ∧ b.length % 16 = 0 ∧ off + b.length ≤ spSize then s.putSp 0 x l q off b 0 else s
    | none => s
  | .read x va n =>
    let r := s.portRead port x va n (n / 64 + 2)
    r.2.setLink port ((r.2.link port).sendBytes r.1)

/-- The packets of an accepted flit ask in their order. -/
def State.portOps (s : State) (port : Nat) : List (List Byte) → State
  | [] => s
  | p :: r => State.portOps (match Config.portOp p with
    | some o => s.portOp port o
    | none => s) port r

/-- DATA_FLIT: the copy-job data of an accepted flit of a port ask what they ask. -/
def execDataFlit (p : Nat) (flit : List Byte) (s : State) : Out :=
  runEvent (fun s =>
    if !s.takesFlits p then s
    else
      let l := s.link p
      let t := s.setLink p (l.dataArrives flit)
      if p < 12 ∧ l.expects flit = true ∧ (flitHead flit).vc = 3 then t.portOps p (flitPackets (flitHead flit) flit) else t) s

end Sys2Proof.Machine
end

