-- ==== Sys2Proof/Machine/Launch.lean ====
section
/-! DEFINITION. Machine/Launch.lean: launch records and templates, their checks, the deal, launch barriers, and the end of
a launch (09, R202 to R212; 11, R241 to R244). -/
namespace Sys2Proof.Machine

/-! ## The record (R202, R203) -/

/-- A level of a record: FANOUT, SCOPE, DOMAIN and BAR; `zero` tells that its zero fields are zero. -/
structure RecLevel where
  level : Level
  zero  : Bool

/-- A launch record as it lies in memory. -/
structure Record where
  code   : Nat
  clen   : Nat
  tmpl   : Nat
  shape  : Nat
  groupn : Nat
  spimg  : Nat
  splen  : Nat
  pad    : Nat
  levels : List RecLevel

/-- NLEV + 1. -/
def recLevels (shape : Nat) : Nat := bitsOf shape 0 3 + 1
/-- GANG. -/
def Record.gang (r : Record) : Nat := bitsOf r.shape 4 6
/-- SPB. -/
def Record.spb (r : Record) : Nat := bitsOf r.shape 12 19

/-- A level from its two words. -/
def recLevel (w0 w1 : Nat) : RecLevel :=
  { level := { fanout := bitsOf w0 32 32, scope := bitsOf w0 4 3, domain := bitsOf w0 0 3, bar := w1 }
    zero := bitsOf w0 7 25 == 0 && bitsOf w0 3 1 == 0 }

/-- A record from its words. -/
def recordFrom (w : List Word) : Record :=
  let n := fun i => (wordAt w i).toNat
  { code := n 0, clen := n 1, tmpl := n 2, shape := n 3, groupn := n 4, spimg := n 5, splen := n 6, pad := n 7,
    levels := (List.range (recLevels (n 3))).map fun k => recLevel (n (8 + 2 * k)) (n (9 + 2 * k)) }

/-- Reads n words at S under the context, with the timestamp reached; none where a read faults. -/
def State.ctxWords (s : State) (die x va p n : Nat) : Option (List Word × Nat × State) :=
  match s.vreads (s.ctxEnv die x) false va p n with
  | .ok r => some r
  | .error _ => none

/-- Reads the record at an address. -/
def State.readRecord (s : State) (die x va p : Nat) : Option (Record × Nat × State) :=
  match s.ctxWords die x va p 8 with
  | none => none
  | some (w, p1, s1) => match s1.ctxWords die x (va + 64) p1 (2 * recLevels (wordAt w 3).toNat) with
    | none => none
    | some (l, p2, s2) => some (recordFrom (w ++ l), p2, s2)

/-- Reads the template's header and entries. -/
def State.readTemplate (s : State) (die x va p : Nat) : Option (List Word × Nat × State) :=
  match s.ctxWords die x va p 1 with
  | none => none
  | some (w, p1, s1) => match s1.ctxWords die x (va + 8) p1 (slice (wordAt w 0) 53 48) with
    | none => none
    | some (l, p2, s2) => some (w ++ l, p2, s2)

/-! ## The checks of R204 and R205 -/

/-- The first rule of R204: zero fields and ranges; a CODE that is no virtual address is out of range (log 78, DESIGN CHOICE). -/
def Record.fieldsOk (r : Record) : Bool :=
  r.pad == 0 && r.code % 4096 == 0 && decide (r.code < 2 ^ 48)
    && r.clen % 4 == 0 && decide (4 ≤ r.clen) && decide (r.clen ≤ 2 ^ 32) && r.tmpl % 8 == 0
    && bitsOf r.shape 31 33 == 0 && bitsOf r.shape 10 2 == 0
    && r.spb % 16 == 0 && decide (16 ≤ r.spb) && decide (r.spb ≤ spSize) && decide (1 ≤ r.gang) && decide (r.gang ≤ 36)
    && decide (1 ≤ r.groupn) && decide (r.groupn < 2 ^ 32)
    && r.spimg % 16 == 0 && decide (r.splen < 2 ^ 19) && r.splen % 16 == 0 && decide (r.splen ≤ r.spb)
    && (r.spimg != 0 || r.splen == 0)
    && r.levels.all fun l => l.zero && decide (l.level.scope ≤ 4) && decide (l.level.domain ≤ 4) && l.level.bar % 64 == 0

/-- Domains narrow from each level to the next. -/
def narrows : List RecLevel → Bool
  | a :: b :: r => decide (a.level.domain < b.level.domain) && narrows (b :: r)
  | _ => true

/-- SCOPE covers DOMAIN. -/
def scopeCovers (l : Level) : Bool :=
  match l.domain with
  | 0 => 3 ≤ l.scope
  | 1 | 2 => 2 ≤ l.scope
  | 3 => 1 ≤ l.scope
  | _ => true

/-- FANOUT of level 0 is GROUPN, and no inner FANOUT is 0. -/
def Record.fanoutsOk (r : Record) : Bool :=
  match r.levels with
  | [] => true
  | a :: rest => a.level.fanout == r.groupn && rest.all fun l => l.level.fanout != 0

/-- A level has the domain kind. -/
def Record.has (r : Record) (d : Nat) : Bool := r.levels.any fun l => l.level.domain == d

/-- Entries of a template from their words. -/
def templateEntries (w : List Word) : List (Nat × Nat × Nat) :=
  (w.drop 1).map fun e => (slice e 5 0, slice e 10 8, slice e 63 32)

/-- No channel stands twice. -/
def distinctChannels : List (Nat × Nat × Nat) → Bool
  | [] => true
  | e :: r => (r.all fun f => f.1 != e.1) && distinctChannels r

/-- The template obeys R205. -/
def templateOk (clen : Nat) (w : List Word) : Bool :=
  let h := wordAt w 0
  let es := templateEntries w
  slice h 63 54 == 0
    && (match es with
      | e :: _ => e.1 == 0
      | [] => false)
    && ((w.drop 1).all fun e => slice e 31 11 == 0 && slice e 7 6 == 0)
    && (es.all fun e => decide (e.1 < 48) && decide (e.2.1 ≤ 6) && e.2.2 % 4 == 0 && decide (e.2.2 < clen))
    && distinctChannels es
    && (List.range 48).all fun c => bitAt h c == es.any fun e => e.1 == c

/-! ## Domains (R203, R241) -/

/-- Physical cores of a domain of a kind. -/
def domainSize (kind : Nat) : Nat := match kind with
  | 0 => 1152
  | 1 => 576
  | 2 => 36
  | 3 => 4
  | _ => 1

/-- Enabled cores of a domain, in logical order. -/
def insertByKey (key : Nat → Nat) (c : Nat) : List Nat → List Nat
  | [] => [c]
  | d :: r => if key c < key d then c :: d :: r else d :: insertByKey key c r

/-- Sorts cores by a key. -/
def sortByKey (key : Nat → Nat) (l : List Nat) : List Nat := l.foldr (insertByKey key) []

/-- Enabled cores of a range. -/
def State.enabledIn (s : State) (start n : Nat) : List Nat := ((List.range n).map (start + ·)).filter s.enabled
/-- Enabled cores of a range in logical order. -/
def State.orderedIn (s : State) (start n : Nat) : List Nat := sortByKey s.logical (s.enabledIn start n)


/-- A core whose slot 0 is free and that holds no group (R245). -/
def State.freeCore (s : State) (c : Nat) : Bool :=
  let k := s.core c
  s.enabled c && k.group.isNone && k.act.isNone && k.slot3 == .idle && k.drained

/-- Free cores of a range. -/
def State.freeIn (s : State) (start n : Nat) : Nat := (((List.range n).map (start + ·)).filter s.freeCore).length

/-- The first domain of a list with the most free cores. -/
def State.mostFree (s : State) (n : Nat) : List Nat → Option Nat
  | [] => none
  | a :: r => match State.mostFree s n r with
    | none => some a
    | some b => if s.freeIn a n < s.freeIn b n then some b else some a

/-- The domain of level 0 as first core and size. -/
def State.level0 (s : State) (die kind : Nat) : Option (Nat × Nat) :=
  match kind with
  | 0 => some (0, 1152)
  | 1 => some (576 * die, 576)
  | k =>
    let n := domainSize k
    (s.mostFree n (((List.range (576 / n)).map fun i => 576 * die + i * n).filter fun a => !(s.enabledIn a n).isEmpty)).map fun a => (a, n)

/-- The used children of a domain at a level: the first FANOUT that hold an enabled core. -/
def State.children (s : State) (d : Nat × Nat) (l : Level) : List (Nat × Nat) :=
  if l.domain = 4 then ((s.orderedIn d.1 d.2).take l.fanout).map fun c => (c, 1)
  else
    let n := domainSize l.domain
    ((((List.range (d.2 / n)).map fun i => (d.1 + i * n, n)).filter fun a => !(s.enabledIn a.1 a.2).isEmpty)).take l.fanout

/-- The next level exists and is above the core level. -/
def nextAbove (l : List Level) : Option Level := match l with
  | a :: _ => if a.domain = 4 then none else some a
  | [] => none

/-- The weight of a domain above the core level, with the levels below it. -/
def State.weight (s : State) (d : Nat × Nat) : List Level → Nat
  | [] => (s.enabledIn d.1 d.2).length
  | a :: r => if a.domain = 4 then (s.enabledIn d.1 d.2).length
      else ((s.children d a).map fun c => State.weight s c r).sum

/-! ## The split of R242 -/

/-- Positions ranked by remainder, largest first, the lower position among equals. -/
def rankAbove (rem : List Nat) (i : Nat) : Nat :=
  ((List.range rem.length).filter fun j => (rem[i]?.getD 0) < (rem[j]?.getD 0) || (rem[j]?.getD 0 == rem[i]?.getD 0 && j < i)).length

/-- The groups of each child by largest remainders. -/
def splitGroups (g : Nat) (ws : List Nat) : List Nat :=
  let w := ws.sum
  let base := ws.map fun x => g * x / w
  let rem := ws.map fun x => g * x % w
  let left := g - base.sum
  (List.range ws.length).map fun i => (base[i]?.getD 0) + (if rankAbove rem i < left then 1 else 0)

/-! ## The deal (R241 to R244) -/

/-- A group as the deal fixes it: its positions by level, the core it was dealt to, and its innermost domain. -/
structure DealtAt where
  path : List Nat
  core : Option Nat
  dom  : Nat × Nat

/-- The groups of the innermost domain above the core level: round-robin over its used cores (R243); none is dealt to a
core when GANG is above 1. -/
def dealRound (cores : List Nat) (byCore gang : Bool) (path : List Nat) (d : Nat × Nat) (n : Nat) : List DealtAt :=
  (List.range n).map fun j =>
    let i := j % cores.length
    { path := if byCore then path ++ [i] else path
      core := if gang then none else cores[i]?
      dom := d }

/-- Deals n groups of a domain down the levels below it. -/
def State.deal (s : State) (gang : Bool) (path : List Nat) (d : Nat × Nat) (n : Nat) : List Level → List DealtAt
  | [] => dealRound (s.orderedIn d.1 d.2) false gang path d n
  | a :: r =>
    if a.domain = 4 then dealRound ((s.children d a).map Prod.fst) true gang path d n
    else
      let ch := s.children d a
      let ns := splitGroups n (ch.map fun c => s.weight c r)
      (List.range ch.length).flatMap fun i =>
        match ch[i]? with
        | some c => State.deal s gang (path ++ [i]) c (ns[i]?.getD 0) r
        | none => []

/-- LEVELIX of a group's positions (R244). -/
def levelIx : Nat → List Nat → Nat
  | _, [] => 0
  | k, p :: r => min p 255 * 2 ^ (8 * k) + levelIx (k + 1) r

/-! ## Launch barriers (R208) -/

/-- Distinct elements in order of first appearance. -/
def dedup (l : List (List Nat)) : List (List Nat) := l.foldl (fun a p => if a.contains p then a else a ++ [p]) []

/-- The domains of a level that receive groups, in deal order, as positions. -/
def domainsAt (paths : List (List Nat)) (k : Nat) : List (List Nat) := dedup (paths.map fun p => p.take (k + 1))

/-- The place of a domain among those of its level. -/
def placeOf (l : List (List Nat)) (p : List Nat) : Nat := l.idxOf p

/-- Levels that have a barrier array. -/
def barLevels (ls : List Level) : List Nat := (List.range ls.length).filter fun k => match ls[k]? with
  | some l => l.bar != 0
  | none => false

/-- The next inner and the next outer barrier level. -/
def innerOf (bl : List Nat) (k : Nat) : Option Nat := bl.find? fun j => decide (k < j)
/-- The next outer barrier level. -/
def outerOf (bl : List Nat) (k : Nat) : Option Nat := bl.reverse.find? fun j => decide (j < k)

/-- An object to initialise: address, count, index, scope, parent. -/
structure BarInit where
  va     : Nat
  exp    : Nat
  cix    : Nat
  scope  : Nat
  parent : Nat

/-- Address of the object of a domain. -/
def barVa (ls : List Level) (paths : List (List Nat)) (k : Nat) (p : List Nat) : Nat :=
  match ls[k]? with
  | some l => l.bar + 64 * placeOf (domainsAt paths k) p
  | none => 0

/-- The objects of a launch. -/
def barInits (ls : List Level) (paths : List (List Nat)) : List BarInit :=
  let bl := barLevels ls
  bl.flatMap fun k =>
    let doms := domainsAt paths k
    doms.map fun p =>
      let exp := match innerOf bl k with
        | none => (paths.filter fun q => q.take (k + 1) == p).length
        | some j => ((domainsAt paths j).filter fun q => q.take (k + 1) == p).length
      let parent := match outerOf bl k with
        | none => 0
        | some j => barVa ls paths j (p.take (j + 1))
      let cix := match outerOf bl k with
        | none => placeOf doms p
        | some j => placeOf (doms.filter fun q => q.take (j + 1) == p.take (j + 1)) p
      { va := barVa ls paths k p, exp := exp, cix := cix, scope := (match ls[k]? with
          | some l => l.scope
          | none => 0), parent := parent }

/-- The innermost barrier object of a group, or 0 (R209). -/
def groupBar (ls : List Level) (paths : List (List Nat)) (p : List Nat) : Nat :=
  match (barLevels ls).getLast? with
  | some k => barVa ls paths k (p.take (k + 1))
  | none => 0

/-- Initialises one object; none where the write faults or the page is outside DRAM. -/
def State.initBar (s : State) (die x p : Nat) (b : BarInit) : Option (Nat × State) :=
  let e := s.ctxEnv die x
  match s.walkTouch e false .write .none b.va with
  | .error _ => none
  | .ok (t, q, s1) =>
    let pa := t.pa b.va
    if inDram pa && !s1.guarded pa 64 then some (s1.binitAt (t.home die pa) pa (max p q) x b.exp b.cix b.scope b.parent) else none

/-- Initialises the objects in turn. -/
def State.initBars (s : State) (die x p : Nat) : List BarInit → Option (Nat × State)
  | [] => some (p, s)
  | b :: r => match s.initBar die x p b with
    | none => none
    | some (q, t) => State.initBars t die x q r

/-! ## Dealing (R207) -/

/-- GANG fits the enabled cores of some bay of the level 0 domain (R204). -/
def State.gangFits (s : State) (d : Nat × Nat) (gang : Nat) : Bool :=
  (List.range 32).any fun b => gang ≤ ((s.enabledIn d.1 d.2).filter fun c => c / 36 == b).length

/-- The first rule of R204 that a record breaks. -/
def State.recordStatus (s : State) (va : Nat) (r : Record) (d : Option (Nat × Nat)) : Nat :=
  if va % 64 ≠ 0 ∨ !r.fieldsOk then 0x20
  else if !narrows r.levels ∨ !(r.levels.all fun l => scopeCovers l.level) then 0x21
  else if !r.fanoutsOk then 0x20
  else if (1 < r.gang ∧ r.has 4 = true) ∨ (4 < r.gang ∧ r.has 3 = true) then 0x22
  else match d with
    | none => 0x22
    | some x => if s.gangFits x r.gang then 0 else 0x22

/-- The scratchpad image, with the permission of a fetch (R210). -/
def State.readImage (s : State) (die x p : Nat) (r : Record) : Option (List Byte × Nat × State) :=
  s.fetchBlock (s.ctxEnv die x) r.spimg p r.splen (r.splen / 64 + 2)

/-- The cluster queue that holds a group: that of its core, or for a gang the first cluster of its domain. -/
def DealtAt.cluster (a : DealtAt) : Nat := match a.core with
  | some c => clusterOf c
  | none => clusterOf a.dom.1

/-- The entries of the die's cluster queues. -/
def entriesOn (die0 k ord ctx cycle : Nat) (ls : List Level) (ds : List DealtAt) (die : Nat) : List Dealt :=
  let paths := ds.map DealtAt.path
  (List.range ds.length).filterMap fun i => match ds[i]? with
    | none => none
    | some a =>
      if a.cluster / 144 = die then
        some { die := die0, card := k, ord := ord, ix := i, cluster := a.cluster, core := a.core,
               levelix := BitVec.ofNat 64 (levelIx 0 a.path), bar := BitVec.ofNat 64 (groupBar ls paths a.path),
               pushed := false, dom := a.dom, since := cycle, ctx := ctx }
      else none

/-- Queues the groups of a launch. -/
def State.queueGroups (s : State) (die k ord ctx : Nat) (ls : List Level) (ds : List DealtAt) : State :=
  (s.modDie 0 fun d => { d with dealt := d.dealt ++ entriesOn die k ord ctx s.cycle ls ds 0 }).modDie 1
    fun d => { d with dealt := d.dealt ++ entriesOn die k ord ctx s.cycle ls ds 1 }

/-- Deals a launch whose record and template have passed; its groups come after what the deal has read and written (R274). Barriers are
initialised before the image is read, and where one cannot be written none is (R208, R210; log 78, DESIGN CHOICE). -/
def State.dealOut (s : State) (die : Nat) (c : Card) (r : Record) (t : List Word) (d : Nat × Nat) (p : Nat) : State :=
  let ls := r.levels.map RecLevel.level
  let ds := s.deal (decide (1 < r.gang)) [0] d r.groupn (ls.drop 1)
  match s.initBars die c.ctx p (barInits ls (ds.map DealtAt.path)) with
  | none => s.endCard die c.id 0x24 0
  | some (p1, s1) => match s1.readImage die c.ctx p1 r with
    | none => s1.endCard die c.id 0x25 0
    | some (img, p2, s2) =>
      let l : Launch :=
        { st := .dealing, code := r.code, spb := r.spb, gang := r.gang, pin := bitsOf r.shape 3 1 == 1, groupn := r.groupn,
          image := img, arg := c.args[1], levels := ls, tmpl := templateEntries t, retired := 0 }
      (s2.setCard die { c with st := .running, launch := some l, ts := max c.ts p2 }).queueGroups die c.id c.ord c.ctx ls ds

/-- Dealing: the record and the template are read and checked. -/
def State.dealCard (s : State) (die : Nat) (c : Card) : State :=
  let fail := fun (u : State) (code : Nat) => u.endCard die c.id code 0
  match s.readRecord die c.ctx c.args[0].toNat c.ts with
  | none => fail s 0x26
  | some (r, p1, s1) => match s1.readTemplate die c.ctx r.tmpl p1 with
    | none => fail s1 0x26
    | some (t, p2, s2) =>
      let d := match r.levels with
        | l :: _ => s2.level0 die l.level.domain
        | [] => none
      let code := s2.recordStatus c.args[0].toNat r d
      if code ≠ 0 then fail s2 code
      else if !templateOk r.clen t then fail s2 0x23
      else match d with
        | some x => s2.dealOut die c r t x p2
        | none => fail s2 0x22

/-- LAUNCH_DEAL: a launch card whose predecessors are over. -/
def execLaunchDeal (die k : Nat) (s : State) : Out :=
  runEvent (fun s =>
    if 2 ≤ die then s
    else match s.card die k with
      | some c => if c.op == 0x80 && c.st == .ready && s.serves c.ctx 0 0x80 && s.checkpointAllows c then s.dealCard die c else s
      | none => s) s

/-! ## The end of a launch (R207, R212) -/

/-- A store or an atomic of the context. -/
def Req.writes (q : Req) (x : Nat) : Bool := q.ctx == x && (match q.kind with
  | .rst .. => true
  | .ramo .. => true
  | _ => false)

/-- Every access of the context's cores is acknowledged: none is on its way to a home, waits there or in a store buffer, or is
on its way back. -/
def State.settledCtx (s : State) (x : Nat) : Bool :=
  (s.reqs.all fun q => !q.writes x) && (s.reps.all fun m => !(m.req.any fun q => q.writes x))
  && (s.regions.all fun r => !(r.waiting.any fun q => q.writes x)) && (s.acks.all fun a => a.ctx != x)
  && s.cores.all fun p => (p.2.slot1.all fun o => o.ctx != x) && (p.2.stq.all fun o => o.ctx != x)
    && (p.2.sv.ctxid.toNat != x || p.2.group.isSome || p.2.drained)

/-- LAUNCH_COMPLETE: the last group has retired and every access is acknowledged. -/
def execLaunchComplete (die k : Nat) (s : State) : Out :=
  runEvent (fun s =>
    if 2 ≤ die then s
    else match s.card die k with
      | some c => (match c.launch with
        | some l => if c.st == .running && l.retired == l.groupn && s.settledCtx c.ctx then
            s.endCard die k 1 0 else s
        | none => s)
      | none => s) s

end Sys2Proof.Machine
end

