-- ==== Sys2Proof/Machine/Save.lean ====
section
/-! DEFINITION. Machine/Save.lean: the save area of a core (11, R251 to R254), zeroing on a change of owner (16, R323), and
giving a core to a context. -/
namespace Sys2Proof.Machine

/-! ## The words of the save area (R252) -/

/-- A number as a 64-bit word. -/
def w64 (n : Nat) : Word := BitVec.ofNat 64 n

/-- Pads a list of words with zeros to n. -/
def padWords (n : Nat) (l : List Word) : List Word := (l ++ List.replicate (n - l.length) 0).take n

/-- Bits of a truth value at a place. -/
def bitIf (b : Bool) (i : Nat) : Nat := if b then 2 ^ i else 0

/-- The class of a tile as two bits (R63). -/
def classCode (c : TileClass) : Nat := match c with
  | .int => 0
  | .f8 => 1
  | .f32 => 2

/-- A qi entry that is still to be taken as a fault. -/
def QEntry.pendingFault : QEntry → Option (Nat × Word)
  | .fault c va taken => if taken then none else some (c, va)
  | .data _ => none

/-- The qi entries that are saved: a fault already taken is fetched afresh (R113). -/
def savedQi (l : List QEntry) : List QEntry := l.filter fun
  | .fault _ _ taken => !taken
  | .data _ => true

/-- The word of a qi entry. -/
def QEntry.word : QEntry → Word
  | .data w => w
  | .fault .. => 0

/-- The load-stream fault to save. -/
def qiFault (l : List QEntry) : Option (Nat × Word) := match l.getLast? with
  | some e => e.pendingFault
  | none => none

/-- The word at 0x0008. -/
def Core.saveFlags (k : Core) : Nat :=
  let qi := savedQi k.qi
  bitIf k.u.long 0 + bitIf k.lstream.isSome 1 + bitIf k.sstream.isSome 2 + bitIf k.latch 3 + bitIf (qiFault qi).isSome 4
    + bitIf k.sfault.isSome 5 + qi.length % 32 * 2 ^ 8 + k.qs.length % 32 * 2 ^ 16 + k.vqi.length % 8 * 2 ^ 24
    + (classCode k.acc[0].cls + classCode k.acc[1].cls * 4 + classCode k.acc[2].cls * 16 + classCode k.acc[3].cls * 64) * 2 ^ 32

/-- Base, stride and remaining count of a stream. -/
def streamWords (s : Option Stream) : List Word := match s with
  | some x => [x.base, x.stride, w64 x.left]
  | none => [0, 0, 0]

/-- The registers at 0x0040, the slice counter last. -/
def Core.regWords (k : Core) (left : Nat) : List Word :=
  [k.u.fctl, k.u.fflags, k.u.accflags, k.u.rngclo, k.u.rngchi, k.u.rngkey, k.u.groupid, k.u.groupn, k.u.levelix,
   w64 k.u.hgen, w64 k.pts, k.u.stageup, k.u.stagedn, w64 k.u.window, k.u.treeup, k.u.treen, k.u.treeop, k.u.treedst, w64 left]

/-- A fault as cause and address. -/
def faultWords (f : Option (Nat × Word)) : List Word := match f with
  | some e => [w64 e.1, e.2]
  | none => [0, 0]

/-- n 64-bit words of a number, lowest first. -/
def numWords (v : Nat) (n : Nat) : List Word := (List.range n).map fun i => w64 (bitsOf v (64 * i) 64)

/-- The head message of a running activation at 0x0E80 (R185). -/
def Core.headWords (k : Core) : List Word :=
  match k.act with
  | none => []
  | some a => match (k.entry a.ch).fifo with
    | m :: _ => if a.hasMsg then [w64 (a.ch + 2 ^ 63), a.ahdr, m.pay[0], m.pay[1], m.pay[2], m.pay[3]] else []
    | [] => []

/-- Code of an entry's state. -/
def stateCode (e : EntryState) : Nat := match e with
  | .empty => 0
  | .reserved => 1
  | .bound => 2
  | .rebinding => 3

/-- Word 0 of a handler table entry (R173); `spl` tells that messages of the channel wait in the spill queue. -/
def HEntry.word (e : HEntry) (spl : Bool) : Word :=
  w64 (stateCode e.st * 2 ^ 62 + e.prio % 8 * 2 ^ 59 + bitIf e.en 58 + bitIf e.pend 57 + e.rgn % 16 * 2 ^ 53 + bitIf spl 51
    + e.fifo.length % 8 * 2 ^ 48 + slice e.code 47 2 * 4)

/-- Word 1 of an entry (R174). -/
def HEntry.word1 (e : HEntry) : Word := w64 (slice e.ncode 47 2 * 4)

/-- A region descriptor (R174). -/
def Region.word (r : Region) : Word := w64 (r.size % 2 ^ 19 * 2 ^ 24 + r.base % 2 ^ 18)

/-- The image of the handler table. -/
def Core.tableWords (k : Core) (spl : List Nat) : List Word :=
  ((List.range 64).flatMap fun ch => [(k.entry ch).word (spl.contains ch), (k.entry ch).word1]) ++ k.rgns.toList.map Region.word

/-- The full/empty bits as 256 words. -/
def Core.fullWords (k : Core) : List Word := (List.range 256).map fun i =>
  w64 ((List.range 64).foldl (fun a j => a + bitIf (k.full (64 * i + j)) j) 0)

/-- The reduction slots and their full mask; under TREEOP 6 a full slot's word is the accumulator. -/
def Core.redWords (k : Core) : List Word :=
  ((List.range 64).map fun i => (lookupK k.red.slots i).getD 0)
    ++ [w64 (k.red.slots.foldl (fun a p => a + 2 ^ p.1) 0)]

/-- The elements of a tile, row-major. -/
def tileWords (t : Tile) : List Word := (List.range 4096).map fun i => (lookupK t.elems i).getD 0

/-- The scratchpad as words. -/
def Core.spWords (k : Core) : List Word := (List.range 32768).map fun i => w64 (k.spRead (8 * i) 8)

/-- All words of the save area. -/
def Core.saveWords (k : Core) (resume : Word) (left : Nat) (spl : List Nat) : List Word :=
  let qi := savedQi k.qi
  padWords 32 ([resume, w64 k.saveFlags] ++ streamWords k.lstream ++ streamWords k.sstream ++ k.regWords left ++ [0]
      ++ faultWords (qiFault qi) ++ faultWords k.sfault)
    ++ (List.range 32).map (fun i => if i = 30 ∨ i = 31 then 0 else k.s0.x[i]?.getD 0)
    ++ k.s0.f.toList
    ++ padWords 64 (k.v.toList.flatMap fun v => numWords v.toNat 4)
    ++ (if k.u.long then k.lv.toList.flatMap fun v => numWords v.toNat 32 else List.replicate 256 0)
    ++ padWords 16 (qi.map QEntry.word) ++ padWords 16 k.qs ++ padWords 16 (k.vqi.flatMap fun v => numWords v.toNat 4)
    ++ padWords 48 k.headWords
    ++ k.tableWords spl ++ k.fullWords ++ padWords 112 k.redWords
    ++ k.acc.toList.flatMap tileWords ++ k.spWords

/-- The resume PC of slot 0; bits 63:62 are zero but for a BARW whose arrival was counted (R252, R267). -/
def Core.resumePc (k : Core) (barw : Option Bool) : Word :=
  match k.act with
  | none => 0
  | some _ => match barw with
    | some seen => w64 (slice k.s0.pc 47 0 + 2 ^ 63 + bitIf seen 62)
    | none => w64 (slice k.s0.epc 61 0)

/-! ## Reading it back (R253) -/

/-- Words i to i + n - 1. -/
def wordsFrom (l : List Word) (i n : Nat) : List Word := (l.drop i).take n

/-- A number from words, lowest first. -/
def wordsNum : List Word → Nat
  | [] => 0
  | w :: r => w.toNat + wordsNum r * 2 ^ 64

/-- Elements of n words each. -/
def groupsOf (n k : Nat) (l : List Word) : List Nat := (List.range k).map fun i => wordsNum (wordsFrom l (n * i) n)

/-- A class from its code. -/
def classOf (n : Nat) : TileClass := match n with
  | 1 => .f8
  | 2 => .f32
  | _ => .int

/-- The state of an entry from its code. -/
def stateOf (n : Nat) : EntryState := match n with
  | 0 => .empty
  | 1 => .reserved
  | 2 => .bound
  | _ => .rebinding

/-- An entry from its words. -/
def entryFrom (w0 w1 : Word) (nprio : Nat) : HEntry :=
  { st := stateOf (slice w0 63 62), prio := slice w0 61 59, en := bitAt w0 58, pend := bitAt w0 57, rgn := slice w0 56 53,
    code := w64 (slice w0 47 2 * 4), ncode := w64 (slice w1 47 2 * 4), nprio := nprio, fifo := [] }

/-- A stream from its words. -/
def streamFrom (on : Bool) (l : List Word) : Option Stream :=
  if on then some { base := wordAt l 0, stride := wordAt l 1, left := (wordAt l 2).toNat } else none

/-- Nonzero elements of a tile from its words. -/
def elemsFrom (l : List Word) : List (Nat × Word) :=
  ((List.range 4096).zip l).filter fun p => p.2 != 0

/-- The byte store of words, without zero bytes. -/
def cellsOf (l : List Word) : List Host.Cell :=
  (((List.range (8 * l.length)).zip (l.flatMap fun w => leBytes 8 w.toNat)).filter fun p => p.2 != 0)

/-- Numbers of the set bits of words. -/
def bitsFrom (l : List Word) : List Nat :=
  (List.range l.length).flatMap fun i => ((List.range 64).filter fun j => bitAt (wordAt l i) j).map fun j => 64 * i + j

/-- Slot 0 at a resume PC: a REP's repetition, or a BARW that only waits (R252, R267). -/
def Hart.resumed (h : Hart) (r : Word) : Hart :=
  if bitAt r 63 then
    let pc := w64 (slice r 47 0)
    { h with pc := pc, hint := some ⟨pc, .barw (bitAt r 62), 0⟩ }
  else h.resumeAt r

/-- The head message of the saved activation, as one queued again, with the time at which it arrived. -/
def headFrom (k : Core) (l : List Word) (x time : Nat) : Option Msg :=
  if bitAt (wordAt l 0) 63 then
    some { msgOfRecord x ((wordsFrom l 1 5).map BitVec.toNat) with time := time, pts := k.pts }
  else none

/-- The core with the saved state in its registers. -/
def Core.restored (k : Core) (g : SavedGroup) (l : List Word) (cycle : Nat) : Core :=
  let fl := wordAt l 1
  let n := fun i => wordAt l i
  let qiN := slice fl 12 8
  let qiW := (wordsFrom l 0x1A0 qiN).map QEntry.data
  let qi := if bitAt fl 4 then qiW.take (qiN - 1) ++ [.fault (n 0x1C).toNat (n 0x1D) false] else qiW
  let long := bitAt fl 0 && n 0 != 0
  let head := headFrom k (wordsFrom l 0x1D0 6) g.grp.ctx g.htime
  let ch := slice (n 0x1D0) 5 0
  let tab := Vector.ofFn fun (i : Fin 64) => entryFrom (n (0x200 + 2 * i.val)) (n (0x201 + 2 * i.val)) (g.nprio[i.val]?.getD 0)
  let tab1 := match head with
    | some m => tab.setIfInBounds ch { (tab[ch]?.getD HEntry.reset) with fifo := [m] }
    | none => tab
  let full := bitsFrom (wordsFrom l 0x3D0 1)
  let slots := full.map fun i => (i, n (0x390 + i))
  let left := (n 26).toNat
  { k.retireMatrix with
    s0 := { (k.s0.resumed (n 0)) with
      x := Vector.ofFn fun i => n (0x20 + i.val)
      f := Vector.ofFn fun i => n (0x40 + i.val) }
    act := if n 0 = 0 then none else match head with
      | some _ => some { ch := ch, ahdr := n 0x1D1, hasMsg := true }
      | none => g.ach.map fun c => { ch := c, ahdr := 0, hasMsg := false }
    u := { fctl := n 8, fflags := n 9, accflags := n 10, rngclo := n 11, rngchi := n 12, rngkey := n 13, groupid := n 14,
           groupn := n 15, levelix := n 16, hgen := (n 17).toNat, stageup := n 19, stagedn := n 20, window := (n 21).toNat,
           long := long, treeup := n 22, treen := n 23, treeop := n 24, treedst := n 25 }
    pts := max k.pts (n 18).toNat
    v := Vector.ofFn fun i => BitVec.ofNat 256 (wordsNum (wordsFrom l (0x60 + 4 * i.val) 4))
    lv := Vector.ofFn fun i => BitVec.ofNat 2048 (wordsNum (wordsFrom l (0xA0 + 32 * i.val) 32))
    acc := Vector.ofFn fun i => { cls := classOf (bitsOf fl.toNat (32 + 2 * i.val) 2), elems := elemsFrom (wordsFrom l (0x400 + 4096 * i.val) 4096) }
    qi := qi
    qs := wordsFrom l 0x1B0 (slice fl 20 16)
    vqi := (groupsOf 4 (slice fl 26 24) (wordsFrom l 0x1C0 16)).map fun v => BitVec.ofNat 256 v
    lstream := streamFrom (bitAt fl 1) (wordsFrom l 2 3)
    sstream := streamFrom (bitAt fl 2) (wordsFrom l 5 3)
    sfault := if bitAt fl 5 then some ((n 0x1E).toNat, n 0x1F) else none
    staken := false
    sp := cellsOf (wordsFrom l 0x4400 32768)
    fe := bitsFrom (wordsFrom l 0x290 256)
    latch := bitAt fl 3
    pend := match g.scan with
      | some i => .scan i
      | none => .none
    htab := tab1
    rgns := Vector.ofFn fun i => { size := slice (n (0x280 + i.val)) 42 24, base := slice (n (0x280 + i.val)) 17 0 }
    rrptr := g.rrptr
    red := { slots := slots, acc := (slots.head?.map Prod.snd).getD 0 }
    sliceEnd := if k.sv.slice = 0 then 0 else cycle + (if left = 0 then k.sv.slice.toNat else left)
    group := some g.grp
    saved := k.saved.filter fun q => q != g
    ended := g.ended
    jobs := g.jobs
    preempt := .none
    passing := false
    gated := false }

/-! ## Zeroing and giving (R323, R315) -/

/-- A core's state after zeroing; its timestamps, its generation counter, its L1, what memory still asks of it and its saved groups stay
(R323), and one that HALT has stopped stays stopped (R322). Messages that wait in its FIFOs go with its entries (R175; log 81, DESIGN
CHOICE). -/
def Core.zeroed (k : Core) : Core :=
  { Core.reset with
    pts := k.pts, sts := k.sts, jts := k.jts, gen := k.gen, l1 := k.l1, saved := k.saved, unacked := k.unacked, stq := k.stq, slot1 := k.slot1,
    issued := k.issued, halted := k.halted, arrived := k.arrived }

/-- Watches armed by a core go, and wait entries that name it (R323). -/
def State.forgetCore (s : State) (c : Nat) : State :=
  { s.cancelWaits c with watches := s.watches.filter fun w => w.core != c }

/-- The answers that a core's stage instructions still wait for go with them. -/
def State.dropAnswers (s : State) (c : Nat) : State :=
  { s with credits := s.credits.filter fun q => !(q.dst == c && q.kind == .answer) }

/-- Zeroes a core. -/
def State.zeroCore (s : State) (c : Nat) : State :=
  ((((s.detachJoined c).endLeading c).revokeUp c |>.dropAnswers c).forgetCore c).modCore c Core.zeroed

/-- The supervisor registers of a context's descriptor (R314). -/
def Context.svFor (k : Context) (x l : Nat) : SSys :=
  { SSys.reset with
    tvec := k.tvec, ctxid := w64 x, ptbase := k.ptbase, htab := k.savebase + w64 (0x62000 * l + 0x1000),
    spillq := k.spillq, orphq := k.orphq, slice := k.slice, hometab := k.hometab, lintab := k.lintab, protomask := k.protomask }

/-- The core passes to a context: zeroed, its supervisor registers loaded, its slice begun. -/
def State.giveCore (s : State) (c x : Nat) : State :=
  match s.ctx? x with
  | none => s
  | some k =>
    let s1 := s.zeroCore c
    s1.modCore c fun q => { q with
      sv := k.svFor x (s1.logical c)
      owned := true
      sliceEnd := if k.slice = 0 then 0 else s1.cycle + k.slice.toNat }

/-! ## Which context a core may serve (R245, R250) -/

/-- A context whose groups may be placed (R315). -/
def State.runs (s : State) (x : Nat) : Bool := match s.ctx? x with
  | some k => k.st == .runnable || k.st == .running
  | none => false

/-- Queue priority of a card. -/
def State.cardPrio (s : State) (die k : Nat) : Nat := match s.card die k with
  | some c => c.prio
  | none => 0

/-- DEALT and SAVED groups waiting on a die: priority, cycle since, context. -/
def State.waiting (s : State) (die : Nat) : List (Nat × Nat × Nat) :=
  ((s.die die).dealt.filter fun e => s.runs e.ctx).map (fun e => (s.cardPrio e.die e.card, e.since, e.ctx))
  ++ (s.cores.filter fun p => dieOf p.1 == die).flatMap fun p =>
      (p.2.saved.filter fun g => s.runs g.grp.ctx).map fun g => (s.cardPrio g.grp.die g.grp.card, g.time, g.grp.ctx)

/-- The waiting group that goes first: highest priority, longest wait, lowest context. -/
def firstWaiting : List (Nat × Nat × Nat) → Option (Nat × Nat × Nat)
  | [] => none
  | a :: r => match firstWaiting r with
    | none => some a
    | some b =>
      if b.1 > a.1 ∨ (b.1 = a.1 ∧ (b.2.1 < a.2.1 ∨ (b.2.1 = a.2.1 ∧ b.2.2 < a.2.2))) then some b else some a

/-- The context that a core passes to, other than its own. -/
def State.nextCtx (s : State) (c : Nat) : Option Nat :=
  let mine := (s.core c).sv.ctxid.toNat
  (firstWaiting ((s.waiting (dieOf c)).filter fun w => !((s.core c).owned && w.2.2 == mine))).map fun w => w.2.2

/-- The core is held by a context that may run there. -/
def State.heldByRunner (s : State) (c : Nat) : Bool := (s.core c).owned && s.runs (s.core c).sv.ctxid.toNat

/-- The context whose groups a free core takes: its own, or, where no context that runs holds it, the one that waits first. -/
def State.coreCtx (s : State) (c : Nat) : Option Nat :=
  if s.heldByRunner c then some (s.core c).sv.ctxid.toNat
  else (firstWaiting (s.waiting (dieOf c))).map fun w => w.2.2

/-- The core holds the context, taking it when it does not. -/
def State.take (s : State) (c x : Nat) : State :=
  if (s.core c).owned && (s.core c).sv.ctxid.toNat == x then s else s.giveCore c x

/-- RUNNABLE becomes RUNNING when a group is placed or resumed (R315). -/
def State.running (s : State) (x : Nat) : State :=
  match s.ctx? x with
  | some k => if k.st = .runnable then { s.setCtx x { k with st := .running } with toHost := s.toHost ++ [.contextEvent x] } else s
  | none => s

end Sys2Proof.Machine
end

