-- ==== Sys2Proof/Machine/Group.lean ====
section
/-! DEFINITION. Machine/Group.lean: placement, gangs, balancing, slices, pre-emption and resumption (11, R240 to R254; 09,
R209, R210). -/
namespace Sys2Proof.Machine

/-! ## Placement (R245, R209, R210, R249) -/

/-- The launch of a dealt group, with its card. -/
def State.launchOf (s : State) (die k : Nat) : Option (Card × Launch) := match s.card die k with
  | some c => c.launch.map fun l => (c, l)
  | none => none

/-- An entry's queue order: launches in the order of their appends, then group index (R245). -/
def Dealt.before (a b : Dealt) : Bool := a.ord < b.ord || (a.ord == b.ord && a.ix < b.ix)

/-- The lowest entry of a list. -/
def lowest : List Dealt → Option Dealt
  | [] => none
  | e :: r => match lowest r with
    | none => some e
    | some b => if b.before e then some b else some e

/-- The highest entry of a list. -/
def highest : List Dealt → Option Dealt
  | [] => none
  | e :: r => match highest r with
    | none => some e
    | some b => if e.before b then some b else some e

/-- The single group that a free core takes next: one that was dealt to it, else one that was pushed in (R245). -/
def State.nextEntry (s : State) (c x : Nat) : Option Dealt :=
  let q := (s.die (dieOf c)).dealt.filter fun e => e.ctx == x && e.cluster == clusterOf c
  (lowest (q.filter fun e => e.core == some c)).or (lowest (q.filter fun e => e.core.isSome && e.pushed))

/-- A channel's entry as placement leaves it: bound when the template names it (R175, R209). -/
def placedEntry (e : HEntry) (l : Launch) (ch : Nat) : HEntry :=
  match l.tmpl.find? fun t => t.1 == ch with
  | some t => { e with st := .bound, prio := t.2.1, en := true, pend := !e.fifo.isEmpty, rgn := 0, code := w64 (l.code + t.2.2) }
  | none => e

/-- The registers that placement sets (R35, R50, R249). -/
def placedRegs (e : Dealt) (l : Launch) (tag : Nat) : USys :=
  { USys.reset with groupid := w64 e.ix, groupn := w64 l.groupn, levelix := e.levelix, hgen := tag }

/-- The named region after placement: zero and empty, then the image, full (R210). -/
def Core.withRegion (k : Core) (l : Launch) : Core :=
  let k1 := { k with sp := cellClear k.sp 0 l.spb, fe := k.fe.filter fun g => l.spb / 16 ≤ g }
  (k1.spWrites 0 l.image).marks 0 true (l.image.length / 16)

/-- The start message (R209). -/
def startMsg (s : State) (c : Nat) (e : Dealt) (k : Card) (l : Launch) (tag rank : Nat) : Msg :=
  { hwMsg (s.logical c) 0 tag 0xFFF 4 0 (pay4 l.arg e.bar (w64 k.addr) (w64 rank)) k.ts e.ctx with time := s.time }

/-- A core as placement leaves it, before its start message. -/
def Core.placed (k : Core) (e : Dealt) (l : Launch) (tag rank cycle : Nat) : Core :=
  let k1 := { k.retireMatrix with
    u := placedRegs e l tag
    htab := Vector.ofFn fun (i : Fin 64) => if i.val < 48 then placedEntry k.htab[i] l i.val else k.htab[i]
    rgns := k.rgns.set 0 { size := l.spb, base := 0 }
    rrptr := Vector.replicate 8 63
    gen := tag
    acc := Vector.replicate 4 Tile.reset
    qi := []
    qs := []
    vqi := []
    revoked := false
    lstream := none
    sstream := none
    sfault := none
    staken := false
    latch := false
    red := ⟨[], 0⟩
    sliceEnd := if k.sv.slice = 0 then 0 else cycle + k.sv.slice.toNat
    group := some { die := e.die, card := e.card, ix := e.ix, rank := rank, gang := l.gang, ctx := e.ctx }
    ended := false
    preempt := .none
    passing := false
    pend := .none
    jobs := []
    gated := false }
  k1.withRegion l

/-- Places a group on one of its cores; spilled messages for it come when a FIFO slot is freed (R180; log 81, DESIGN CHOICE). -/
def State.placeOn (s : State) (c : Nat) (e : Dealt) (k : Card) (l : Launch) (tag rank : Nat) : State :=
  let s1 := (s.take c e.ctx).revokeUp c
  s1.modCore c fun q => ((q.placed e l tag rank s1.cycle).raisePts k.ts).enqueue (startMsg s1 c e k l tag rank) |> fun r => { r with latch := true }

/-- Places a group on its cores in rank order. -/
def State.placeAll (s : State) (e : Dealt) (k : Card) (l : Launch) (tag : Nat) : Nat → List Nat → State
  | _, [] => s
  | rank, c :: r => State.placeAll (s.placeOn c e k l tag rank) e k l tag (rank + 1) r

/-- The tag of a placement: one above the largest counter of its cores, 0 skipped (R249). -/
def State.nextTag (s : State) (cs : List Nat) : Nat :=
  let t := ((cs.map fun c => (s.core c).gen).foldl max 0 + 1) % 4096
  if t = 0 then 1 else t

/-- Places an entry on cores: it leaves its queue, its launch is RUNNING, its context RUNNING. -/
def State.place (s : State) (d : Nat) (e : Dealt) (cs : List Nat) : State :=
  match s.launchOf e.die e.card with
  | none => s
  | some (k, l) =>
    let s1 := s.modDie d fun x => { x with dealt := x.dealt.erase e }
    let s2 := s1.setCard e.die { k with launch := some { l with st := .running } }
    (s2.placeAll e k l (s2.nextTag cs) 0 cs).running e.ctx

/-! ## Gangs (R249) -/

/-- The bay that a die has reserved. -/
def State.reservedBay (s : State) (die : Nat) : Option Nat := (s.die die).reserve.map fun r => r.1

/-- The core lies in its die's reserved bay. -/
def State.inReserve (s : State) (c : Nat) : Bool := s.reservedBay (dieOf c) == some (bayOf c)

/-- The reservation of a die is for this entry. -/
def Die.reservedFor (d : Die) (e : Dealt) : Bool := d.reserve.any fun r => r.2.1 == e.ord && r.2.2 == e.ix

/-- A core that a gang's entry may take: reserved for it; or free of a SAVED group of its context (R245), and of that context or of none
that runs. -/
def State.gangCore (s : State) (e : Dealt) (c : Nat) : Bool :=
  s.freeCore c && (((s.die (dieOf c)).reservedFor e && s.inReserve c)
    || ((!s.heldByRunner c || (s.core c).sv.ctxid.toNat == e.ctx) && !(s.core c).saved.any fun g => g.grp.ctx == e.ctx))

/-- GANG free cores of a unit in logical order. -/
def State.gangIn (s : State) (e : Dealt) (gang start n : Nat) : Option (List Nat) :=
  let cs := (s.orderedIn start n).filter (s.gangCore e)
  if gang ≤ cs.length then some (cs.take gang) else none

/-- Units of a gang's domain: clusters where its innermost level is cluster, else bays. -/
def gangUnits (e : Dealt) : List (Nat × Nat) :=
  let n := if e.dom.2 ≤ 4 then 4 else 36
  (List.range ((e.dom.2 + n - 1) / n)).map fun i => (e.dom.1 / n * n + i * n, n)

/-- The cores on which a gang is placed. -/
def State.gangCores (s : State) (e : Dealt) (gang : Nat) : Option (List Nat) :=
  (gangUnits e).findSome? fun u => s.gangIn e gang u.1 u.2

/-- GANGMAX (R247). -/
def Die.gangMax (d : Die) : Nat := 2 ^ max 10 d.gangexp

/-- Gang entries of a die in queue order of their launches. -/
def State.gangs (s : State) (d : Nat) : List Dealt := (s.die d).dealt.filter fun e => e.core.isNone && s.runs e.ctx

/-- The gang in the queues of a die whose first core is c. -/
def State.gangOf (s : State) (d c : Nat) : Option (Nat × Dealt × List Nat) :=
  (s.gangs d).findSome? fun e => match s.launchOf e.die e.card with
    | none => none
    | some (_, l) => match s.gangCores e l.gang with
      | some cs => if cs.head? = some c then some (d, e, cs) else none
      | none => none

/-- The gang whose first core is c, with the die whose queues hold it: a domain may span both dies. -/
def State.gangAt (s : State) (c : Nat) : Option (Nat × Dealt × List Nat) := (s.gangOf (dieOf c) c).or (s.gangOf (1 - dieOf c) c)

/-- The reservation for an entry ends. -/
def Die.unreserve (d : Die) (e : Dealt) : Die := if d.reservedFor e then { d with reserve := none } else d

/-- A gang's entry that goes on its cores; the reservation for it ends. -/
def State.placeGang (s : State) (d : Nat) (e : Dealt) (cs : List Nat) : State :=
  ((s.place d e cs).modDie 0 fun x => x.unreserve e).modDie 1 fun x => x.unreserve e

/-- GROUP_PLACEMENT on a core: a single group of its context, or a gang whose lowest core it is. A core whose context has a
SAVED group there takes that one first (R245), and a reserved bay takes no single group. -/
def execGroupPlacement (c : Nat) (s : State) : Out :=
  runEvent (fun s =>
    if coreCount ≤ c ∨ !s.freeCore c then s
    else match s.gangAt c with
      | some (d, e, cs) => s.placeGang d e cs
      | none => match s.coreCtx c with
        | none => s
        | some x =>
          if s.inReserve c || !s.runs x || (s.core c).saved.any fun g => g.grp.ctx == x then s
          else match s.nextEntry c x with
            | some e => s.place (dieOf c) e [c]
            | none => s) s

/-- The bay of a gang's domain with enough enabled cores and the most free ones. -/
def State.bayFor (s : State) (e : Dealt) (gang : Nat) : Option Nat :=
  s.mostFree 36 (((List.range 32).map (· * 36)).filter fun a =>
    meets a 36 e.dom.1 e.dom.2 && gang ≤ (s.enabledIn a 36).length)

/-- Requests a pre-emption of a core that runs a group (R251). -/
def State.request' (s : State) (c : Nat) : State :=
  s.modCore c fun k => if k.group.isSome && k.preempt == .none then { k with preempt := .requested, wake := true } else k

/-- Requests pre-emption of the single groups of a list of cores. -/
def State.clearSingles (s : State) : List Nat → State
  | [] => s
  | c :: r => State.clearSingles (match (s.core c).group with
    | some g => if g.gang = 1 then s.request' c else s
    | none => s) r

/-- The gang that has waited longest past GANGMAX and has no reservation. -/
def State.dueGang (s : State) (d : Nat) : Option Dealt :=
  ((s.gangs d).filter fun e => e.since + (s.die d).gangMax ≤ s.cycle && !s.dies.any fun x => x.reservedFor e).foldl
    (fun b e => match b with
      | none => some e
      | some x => if e.since < x.since || (e.since == x.since && e.before x) then some e else some x) none

/-- GANG_RESERVE: the oldest gang of a die's queues reserves a bay, where the bay's die holds no reservation. -/
def execGangReserve (die : Nat) (s : State) : Out :=
  runEvent (fun s =>
    if 2 ≤ die then s
    else match s.dueGang die with
      | none => s
      | some e => match s.launchOf e.die e.card with
        | none => s
        | some (_, l) => match s.bayFor e l.gang with
          | none => s
          | some a =>
            if (s.die (dieOf a)).reserve.isSome then s
            else (s.modDie (dieOf a) fun x => { x with reserve := some (bayOf a, e.ord, e.ix) }).clearSingles
              ((List.range 36).map (a + ·))) s

/-! ## Balancing (R246) -/

/-- Mesh row and column of a cluster of a die, by index in the die (R150). -/
def meshAt (q : Nat) : Nat × Nat := (3 * (q / 9 / 4) + q % 9 / 3, 3 * (q / 9 % 4) + q % 9 % 3)

/-- The mesh position used for ties. -/
def meshPos (q : Nat) : Nat := (meshAt q).1 * 12 + (meshAt q).2

/-- Two clusters are adjacent on the mesh. -/
def adjacent (a b : Nat) : Bool :=
  let d := fun (x y : Nat) => max x y - min x y
  d (meshAt a).1 (meshAt b).1 + d (meshAt a).2 (meshAt b).2 == 1

/-- Depth of a cluster's queue, as the exchange reports it. -/
def depthIn (l : List Dealt) (cl : Nat) : Nat := (l.filter fun e => e.cluster == cl).length

/-- The neighbour to which a cluster of die d pushes: the shallowest that it exceeds by more than BALTHR. -/
def State.pushTo (s : State) (d : Nat) (l : List Dealt) (q thr : Nat) : Option Nat :=
  let depth := fun x => depthIn l (144 * d + x)
  let live := fun x => !(s.enabledIn (4 * (144 * d + x)) 4).isEmpty
  ((List.range 144).filter fun x => adjacent q x && live x && depth x + thr < depth q).foldl
    (fun b x => match b with
      | none => some x
      | some y => if depth x < depth y || (depth x == depth y && meshPos x < meshPos y) then some x else some y) none

/-- The launch of an entry may be pushed (R246). -/
def State.pushable (s : State) (e : Dealt) : Bool := e.core.isSome && (match s.launchOf e.die e.card with
  | some (_, l) => !l.pin && l.gang == 1
  | none => false)

/-- The pushes of one exchange: the entry and its new cluster, decided on the depths that were reported. -/
def State.pushes' (s : State) (d : Nat) : List (Dealt × Nat) :=
  let l := (s.die d).dealt
  let thr := (s.die d).balthr
  if thr = 0 then []
  else (List.range 144).filterMap fun q =>
    if (s.enabledIn (4 * (144 * d + q)) 4).isEmpty then none
    else match s.pushTo d l q thr, highest (l.filter fun e => e.cluster == 144 * d + q && s.pushable e) with
      | some x, some e => some (e, 144 * d + x)
      | _, _ => none

/-- BALANCE_EXCHANGE. -/
def execBalanceExchange (die : Nat) (s : State) : Out :=
  runEvent (fun s =>
    if 2 ≤ die then s
    else
      let ps := s.pushes' die
      s.modDie die fun x => { x with dealt := x.dealt.map fun e => match ps.find? fun p => p.1 == e with
        | some p => { e with cluster := p.2, pushed := true }
        | none => e }) s

/-! ## Pre-emption (R250, R251) -/

/-- SLICE_EXPIRY, under no SLICE of 0: another context waits on the die, and the core is pre-empted or passes to it; else the counter
reloads. -/
def execSliceExpiry (c : Nat) (s : State) : Out :=
  runEvent (fun s =>
    let k := s.core c
    if coreCount ≤ c ∨ !k.owned ∨ k.sv.slice = 0 ∨ k.sliceEnd = 0 ∨ s.cycle < k.sliceEnd ∨ k.preempt ≠ .none then s
    else match s.nextCtx c with
      | none => s.setCore c { k with sliceEnd := s.cycle + k.sv.slice.toNat }
      | some x =>
        if k.group.isSome then (s.setCore c { k with passing := true }).request' c
        else if s.freeCore c then s.giveCore c x
        else s) s

/-- A PREEMPT word (R247). -/
def preemptOk (v : Word) (w : Writer) : Bool :=
  slice v 63 32 == 0 && slice v 15 12 == 0 && (match w with
    | .supervisor x => x == slice v 31 16
    | _ => true)

/-- A write of PREEMPT. -/
def State.preemptWrite (s : State) (die : Nat) (v : Word) (w : Writer) : State :=
  if !preemptOk v w then s
  else match s.physical (slice v 11 0) with
    | none => s
    | some c => match (s.core c).group with
      | some g => if dieOf c == die && g.ctx == slice v 31 16 then s.request' c else s
      | none => s

/-- PREEMPT. -/
def execPreempt (die : Nat) (v : Word) (w : Writer) (s : State) : Out :=
  runEvent (fun s => if die < 2 ∧ s.writerReaches w = true then s.preemptWrite die v w else s) s

/-- Slot 0 can stop: slot 3 is idle. -/
def Core.atBoundary (k : Core) : Bool := k.slot3 == .idle && k.stands

/-- The pennant that a BARW has seen, when its arrival was counted (R267). -/
def Core.barwSeen (k : Core) : Option Bool :=
  match k.pend with
  | .waitOnly seen barw => if barw then some seen else none
  | _ => match k.s0.hint with
    | some ⟨_, .barw seen, _⟩ => some seen
    | _ => none

/-- PREEMPTION_REQUEST: steps 1 and 2 of R251. -/
def execPreemptionRequest (c : Nat) (s : State) : Out :=
  runEvent (fun s =>
    let k := s.core c
    if coreCount ≤ c ∨ k.preempt ≠ .requested ∨ !k.atBoundary then s
    else
      let s1 := ((s.cancelWaits c).detachJoined c).endLeading c
      s1.modCore c fun q => { q.retireMatrix with
        preempt := .saving k.barwSeen
        pend := match k.scanAt with
          | some i => .scan i
          | none => .none
        hostWait := none
        follow := .none }) s

/-- Every access of the core is acknowledged and its messages are delivered (R251 step 3). -/
def State.accessesDone (s : State) (c : Nat) : Bool :=
  (s.core c).storesDone && !(s.net.any fun n => n.origin == c) && !(s.pushes.any fun p => p.src == c)

/-- Moves messages to the spill queue in order. -/
def State.spillAll (s : State) (c : Nat) : List Msg → State
  | [] => s
  | m :: r => State.spillAll (s.toSpill c ⟨c, m, none⟩) c r

/-- The FIFO messages that are moved: all but the head message of the running activation (R251 step 5). -/
def Core.queued (k : Core) : List Msg :=
  (List.range 64).flatMap fun ch =>
    let f := (k.entry ch).fifo
    match k.act with
    | some a => if a.ch = ch ∧ a.hasMsg = true then f.drop 1 else f
    | none => f

/-- Messages by time of arrival. -/
def insertByTime (m : Msg) : List Msg → List Msg
  | [] => [m]
  | n :: r => if m.time ≤ n.time then m :: n :: r else n :: insertByTime m r

/-- The time at which the head message of the running activation arrived. -/
def Core.headTime (k : Core) : Nat := match k.act with
  | some a => ((k.entry a.ch).fifo.head?.map Msg.time).getD 0
  | none => 0

/-- The core after its save: free, with the group SAVED in its area, which holds what the chains and streams of the group go on with
(R152, R252); the slice counter pauses (R250). -/
def Core.afterSave (k : Core) (g : GroupRef) (cycle : Nat) : Core :=
  { k with
    group := none
    act := none
    saved := k.saved ++ [{ grp := g, time := cycle, area := k.saveArea.toNat, ach := k.act.map Activation.ch, htime := k.headTime,
                           scan := k.scanAt, ended := k.ended, rrptr := k.rrptr, nprio := k.htab.toList.map HEntry.nprio, jobs := k.jobs }]
    htab := k.htab.map fun e => { e with fifo := [] }
    pend := .none
    qi := []
    qs := []
    vqi := []
    revoked := false
    lstream := none
    sstream := none
    sfault := none
    staken := false
    preempt := .none
    passing := false
    ended := false
    sliceEnd := 0
    jobs := []
    s0 := { k.s0 with hint := none }
    u := { k.u with long := false, stageup := 0, stagedn := 0, window := 0 } }

/-- Steps 4 and 5 of R251 on a core whose accesses are done. -/
def State.saveCore (s : State) (c : Nat) (g : GroupRef) (barw : Option Bool) : State :=
  let k := s.core c
  let l := s.logical c
  let left := if k.passing || k.sliceEnd = 0 || k.sv.slice = 0 then 0 else k.sliceEnd - s.cycle
  let spl := (s.spilledFor c g.ctx l).map fun r => r.msg.ch
  match s.storeWords (k.tenv (dieOf c)) false k.saveArea.toNat k.pts (k.saveWords (k.resumePc barw) left spl) with
  | (some e, _, s1) => (s1.faultCtx g.ctx 6 e.1 l).zeroCore c
  | (none, p, s1) =>
    let s2 := (s1.modCore c fun q => q.raisePts p).spillAll c (k.queued.foldr insertByTime [])
    let s3 := s2.modCore c fun q => q.afterSave g s2.cycle
    if k.passing then (match s3.nextCtx c with
      | some x => s3.giveCore c x
      | none => s3) else s3

/-- SAVE_COMPLETE. -/
def execSaveComplete (c : Nat) (s : State) : Out :=
  runEvent (fun s =>
    let k := s.core c
    if coreCount ≤ c ∨ !s.accessesDone c then s
    else match k.preempt, k.group with
      | .saving b, some g => ((s.saveCore c g b).settleCtx g.ctx).settleStop g.ctx
      | _, _ => s) s

/-! ## Resumption (R253) -/

/-- Delivers a spill record under R179 to a core that has just been restored. -/
def State.redeliver (s : State) (c : Nat) (r : Spilled) : State :=
  let x := r.msg.ctx
  let die := dieOf c
  match s.spillQ c x with
  | none => s
  | some q =>
    let k := s.core c
    let done := fun (u : State) => u.consume die x q r.ix
    if !k.tagOk x r.msg.ch r.msg.gen then (done s).orphan die r.msg r.dst 2
    else if (k.entry r.msg.ch).st = .empty ∧ r.msg.ch ≠ 62 ∧ r.msg.ch ≠ 63 then (done s).orphan die r.msg r.dst 1
    else if (k.entry r.msg.ch).fifo.length < 4 then (done s).modCore c fun k => k.enqueue r.msg
    else s

/-- Delivers a list of records. -/
def State.redeliverAll (s : State) (c : Nat) : List Spilled → State
  | [] => s
  | r :: rest => State.redeliverAll (s.redeliver c r) c rest

/-- Records by time of arrival. -/
def insertSpilled (m : Spilled) : List Spilled → List Spilled
  | [] => [m]
  | n :: r => if m.time ≤ n.time then m :: n :: r else n :: insertSpilled m r

/-- Restores a saved group on a free core. -/
def State.restoreCore (s : State) (c : Nat) (g : SavedGroup) : State :=
  let k := s.core c
  match s.vreads (k.tenv (dieOf c)) false g.area k.pts 50176 with
  | .error e => ((s.faultCtx g.grp.ctx 6 e.1 (s.logical c)).zeroCore c).modCore c
      fun q => { q with saved := q.saved.filter fun x => x != g }
  | .ok (w, p, s1) =>
    let s2 := s1.modCore c fun q => (q.restored g w s1.cycle).raisePts p
    let rs := (s2.spilledFor c g.grp.ctx (s2.logical c)).foldr insertSpilled []
    ((s2.redeliverAll c rs).running g.grp.ctx).tryRetire c

/-- GROUP_RESUME: a free core takes back the SAVED group of its context; a reserved bay takes none until its gang has come. -/
def execGroupResume (c : Nat) (s : State) : Out :=
  runEvent (fun s =>
    if coreCount ≤ c ∨ !s.freeCore c then s
    else match s.coreCtx c with
      | none => s
      | some x =>
        if !s.runs x then s
        else match (s.core c).saved.find? fun g => g.grp.ctx == x with
          | some g => if s.inReserve c && g.grp.gang == 1 then s else (s.take c x).restoreCore c g
          | none => s) s

end Sys2Proof.Machine
end

