-- ==== Sys2Proof/Machine/Ctx.lean ====
section
/-! DEFINITION. Machine/Ctx.lean: the context block and the states of a context (16, R313 to R315). -/
namespace Sys2Proof.Machine

/-! ## The block (R313) -/

/-- Code of a context state. -/
def ctxCode (c : CtxState) : Nat := match c with
  | .empty => 0 | .loading => 1 | .runnable => 2 | .running => 3 | .preempting => 4 | .saved => 5 | .faulted => 6
  | .draining => 7 | .dead => 8

/-- State of a context. -/
def State.ctxSt (s : State) (x : Nat) : CtxState := match s.ctx? x with
  | some k => k.st
  | none => .empty

/-- CTXSTAT. -/
def State.ctxstat (s : State) : Word :=
  w64 (ctxCode (s.ctxSt s.plat.ctxNamed) * 2 ^ 8 + bitIf s.plat.ctxErr 1)

/-- The context that a command names. -/
def cmdCtx (v : Word) : Nat := slice v 15 0
/-- OP of a command. -/
def cmdOp (v : Word) : Nat := slice v 19 16

/-- A command is accepted or rejected. -/
def State.ctxDone (s : State) (v : Word) (err : Bool) : State :=
  { s with plat := { s.plat with ctxNamed := cmdCtx v, ctxErr := err } }

/-- A context changes state, and the host is told. -/
def State.ctxTo (s : State) (x : Nat) (k : Context) (st : CtxState) : State :=
  { s.setCtx x { k with st := st } with toHost := s.toHost ++ [.contextEvent x] }

/-! ## The descriptor (R314) -/

/-- A virtual address that is a multiple of n. -/
def vaOk (w : Word) (n : Nat) : Bool := slice w 63 48 == 0 && w.toNat % n == 0

/-- The words of a descriptor obey R314. -/
def descOk (w : List Word) : Bool :=
  let n := wordAt w
  slice (n 0) 63 52 == 0 && slice (n 0) 11 0 == 0 && slice (n 1) 63 52 == 0 && slice (n 1) 10 0 == 0
    && vaOk (n 2) 4096 && vaOk (n 3) 8 && vaOk (n 4) 8 && vaOk (n 5) 4096 && vaOk (n 6) 4
    && slice (n 8) 63 11 == 0 && vaOk (n 9) 8 && slice (n 11) 63 28 == 0
    && n 12 == 0 && n 13 == 0 && n 14 == 0 && n 15 == 0

/-- The context that a descriptor describes. -/
def contextFrom (desc : Nat) (w : List Word) : Context :=
  let n := wordAt w
  { st := .loading, desc := desc, ptbase := n 0, hometab := n 1, lintab := n 2, spillq := n 3, orphq := n 4, savebase := n 5,
    tvec := n 6, slice := n 7, protomask := w64 (slice (n 8) 7 0) ||| 1, prio := slice (n 8) 10 8, qtab := n 9, ckseq := 0,
    fcause := n 11, lostHw := [] }

/-- n words of physical memory. -/
def State.words (s : State) (pa n : Nat) : List Word := (List.range n).map fun i => s.word (pa + 8 * i)

/-- A 64-bit write of the platform to a word of DRAM, at its home (log 60, DESIGN CHOICE); watches compare (R199). -/
def State.putWord (s : State) (pa v ctx : Nat) : State := (s.homeWrite (s.entryHome (dramDie pa) pa) pa 8 v 0 ctx).2

/-- Ends the reservations whose gang no queue holds. -/
def State.dropReserves (s : State) : State :=
  { s with dies := s.dies.map fun d =>
      if s.dies.any fun x => x.dealt.any fun e => d.reservedFor e then d else { d with reserve := none } }

/-- Cards of an earlier context of the same id no longer belong to it. -/
def State.retireOld (s : State) (x : Nat) : State :=
  { s with dies := s.dies.map fun d => { d with
      cards := d.cards.map fun c => if c.ctx = x then { c with ctx := x + 65536, st := .retired } else c
      dealt := d.dealt.filter fun e => e.ctx != x } }

/-! ## Commands (R315) -/

/-- CREATE; rejected before the device is in service (R379). -/
def State.ctxCreate (s : State) (v : Word) : State :=
  let x := cmdCtx v
  let desc := slice s.plat.ctxarg 51 12
  let w := s.words (desc * 4096) 16
  if s.plat.stage = 6 ∧ (s.ctxSt x = .empty ∨ s.ctxSt x = .dead) ∧ inDram (desc * 4096) = true ∧ descOk w = true then
    let s1 := ((s.retireOld x).clearDoors x).putWord (desc * 4096 + 0x50) 0 x
    (s1.ctxTo x (contextFrom desc w) .loading).ctxDone v false
  else s.ctxDone v true

/-- START. -/
def State.ctxStart (s : State) (v : Word) : State :=
  match s.ctx? (cmdCtx v) with
  | some k => if k.st = .loading then (s.ctxTo (cmdCtx v) k .runnable).ctxDone v false else s.ctxDone v true
  | none => s.ctxDone v true

/-- Requests pre-emption of every core that holds a group of a context. -/
def State.stopCores (s : State) (x : Nat) : State :=
  { s with cores := s.cores.map fun p => match p.2.group with
      | some g => if g.ctx = x ∧ p.2.preempt = .none then (p.1, { p.2 with preempt := .requested, wake := true }) else p
      | none => p }

/-- RUNNABLE or RUNNING becomes PREEMPTING. -/
def State.beginStop (s : State) (x : Nat) (k : Context) : State := ((s.ctxTo x k .preempting).stopCores x).settleStop x

/-- STOP. -/
def State.ctxStop (s : State) (v : Word) : State :=
  match s.ctx? (cmdCtx v) with
  | some k => if k.st = .runnable ∨ k.st = .running then (s.beginStop (cmdCtx v) k).ctxDone v false else s.ctxDone v true
  | none => s.ctxDone v true

/-- RESUME. -/
def State.ctxResume (s : State) (v : Word) : State :=
  match s.ctx? (cmdCtx v) with
  | some k => if k.st = .saved then (s.ctxTo (cmdCtx v) k .runnable).ctxDone v false else s.ctxDone v true
  | none => s.ctxDone v true

/-- A core of a destroyed context stops. -/
def Core.stopped (k : Core) (x : Nat) : Core :=
  let k1 := { k with saved := k.saved.filter fun g => g.grp.ctx != x }
  if k.owned && k.sv.ctxid.toNat == x then
    { k1 with group := none, act := none, slot3 := .idle, preempt := .none, passing := false, pend := .none, pend3 := .none,
              mat := none, lstream := none, sstream := none, follow := .none, jobs := [] }
  else k1

/-- Ends the RUNNING jobs of a context on a die with 0x30; a launch is no job, and its groups stop with their cores (R315). -/
def State.abortRunning (s : State) (die x : Nat) : State :=
  (List.range (s.die die).cards.length).foldl (fun u k => match u.card die k with
    | some c => if c.ctx = x ∧ c.st = .running ∧ c.op ≠ 0x80 then u.endCard die k 0x30 0 else u
    | none => u) s

/-- DESTROY. -/
def State.ctxDestroy (s : State) (v : Word) : State :=
  let x := cmdCtx v
  match s.ctx? x with
  | some k =>
    if k.st = .empty ∨ k.st = .dead then s.ctxDone v true
    else
      let s1 := (s.abortRunning 0 x).abortRunning 1 x
      let s2 := match s1.ctx? x with
        | some q => s1.ctxTo x q .draining
        | none => s1
      let s3 : State :=
        { s2 with
          cores := s2.cores.map fun p => (p.1, p.2.stopped x)
          watches := s2.watches.filter fun w => w.ctx != x
          barWaits := s2.barWaits.filter fun w => w.ctx != x
          dies := s2.dies.map fun d => { d with dealt := d.dealt.filter fun e => e.ctx != x } }
      ((s3.dropReserves).clearDoors x).ctxDone v false
  | none => s.ctxDone v true

/-- A command whose zero fields are zero and whose OP is the one given. -/
def cmdIs (v : Word) (op : Nat) : Bool := slice v 63 20 == 0 && cmdOp v == op

/-- CREATE. -/
def execCreate (v : Word) (s : State) : Out := runEvent (fun s => if cmdIs v 1 then s.ctxCreate v else s.ctxDone v true) s
/-- START. -/
def execStart (v : Word) (s : State) : Out := runEvent (fun s => if cmdIs v 2 then s.ctxStart v else s.ctxDone v true) s
/-- STOP. -/
def execStop (v : Word) (s : State) : Out := runEvent (fun s => if cmdIs v 3 then s.ctxStop v else s.ctxDone v true) s
/-- RESUME. -/
def execResume (v : Word) (s : State) : Out := runEvent (fun s => if cmdIs v 4 then s.ctxResume v else s.ctxDone v true) s
/-- DESTROY. -/
def execDestroy (v : Word) (s : State) : Out := runEvent (fun s => if cmdIs v 5 then s.ctxDestroy v else s.ctxDone v true) s

/-- A write of CTXCMD. -/
def State.ctxCmd (s : State) (v : Word) : State :=
  if slice v 63 20 ≠ 0 then s.ctxDone v true
  else match cmdOp v with
    | 1 => s.ctxCreate v
    | 2 => s.ctxStart v
    | 3 => s.ctxStop v
    | 4 => s.ctxResume v
    | 5 => s.ctxDestroy v
    | _ => s.ctxDone v true

/-! ## DRAINING to DEAD (R315) -/

/-- No frame of either die belongs to the context, and none is being zeroed for it. -/
def State.framesFree (s : State) (x : Nat) : Bool :=
  s.dies.all fun d => d.frames.all fun f => f.2 != .mapped x && f.2 != .zeroing (some x)

/-- Zeroes every core that a context owns. -/
def State.zeroOwned (s : State) (x : Nat) : List Nat → State
  | [] => s
  | c :: r => State.zeroOwned (if (s.core c).owned && (s.core c).sv.ctxid.toNat == x then s.zeroCore c else s) x r

/-- CONTEXT_DRAINED: every core zeroed, every frame released; its protocol tables and translations go (R304). -/
def execContextDrained (ctx : Nat) (s : State) : Out :=
  runEvent (fun s =>
    match s.ctx? ctx with
    | some k =>
      if k.st = .draining ∧ s.framesFree ctx = true then
        let s1 := ((s.zeroOwned ctx (s.cores.map Prod.fst)).dropTlb (fun t => t.ctx == ctx) fun w => w.ctx == ctx).ctxTo ctx k .dead
        { s1 with tables := s1.tables.filter fun t => t.1 != ctx }
      else s
    | none => s) s

end Sys2Proof.Machine
end

