-- ==== Sys2Proof/Machine/Lineage.lean ====
section
/-! DEFINITION. Machine/Lineage.lean: the Orrery: the lineage table, delta maps, resolution, the five LIN instructions and
the four lineage jobs (17_lineage.md). -/
namespace Sys2Proof.Machine

/-! ## Access to lineage storage (R340) -/

/-- What an Orrery step works on: the package and the timestamp it has reached. -/
structure Orrery where
  s : State
  p : Nat

/-- A step of the Orrery; a fault discards all of it. -/
abbrev LinM (α : Type) := M Orrery α

/-- Whose table: the context's translation and LINTAB. -/
structure LinEnv where
  e   : TEnv
  tab : Nat

/-- An n-byte read of lineage storage. -/
def linRead (v : LinEnv) (va n : Nat) : LinM Nat := fun o =>
  match o.s.vread v.e false .orrery va n o.p with
  | .ok (x, t, s) => .ok (x, ⟨s, t⟩)
  | .error c => .error (.trap c (BitVec.ofNat 64 va))

/-- An n-byte write of lineage storage. -/
def linWrite (v : LinEnv) (va n x : Nat) : LinM Unit := fun o =>
  match o.s.vwrite v.e false .orrery va n x o.p with
  | .ok (t, s) => .ok ((), ⟨s, t⟩)
  | .error c => .error (.trap c (BitVec.ofNat 64 va))

/-- Bytes of lineage storage. -/
def linBytes (v : LinEnv) (va n : Nat) : LinM (List Byte) := fun o =>
  match o.s.readBlock v.e false .orrery va o.p n (n + 1) with
  | .ok (l, t, s) => .ok (l, ⟨s, t⟩)
  | .error e => .error (.trap e.1 (BitVec.ofNat 64 e.2))

/-- Writes bytes of lineage storage. -/
def linPut (v : LinEnv) (va : Nat) (l : List Byte) : LinM Unit := fun o =>
  match o.s.writeBlock v.e false .orrery va o.p l (l.length + 1) with
  | (none, t, s) => .ok ((), ⟨s, t⟩)
  | (some e, _, _) => .error (.trap e.1 (BitVec.ofNat 64 e.2))

/-! ## The header (R331) -/

/-- The header's words. -/
structure LinHeader where
  cap  : Nat
  free : Nat
  pool : Nat
  len  : Nat
  used : Nat
  hwm  : Nat
  zero : Nat

/-- Reads the header. -/
def linHeader (v : LinEnv) : LinM LinHeader := do
  let w ← (List.range 8).mapM fun i => linRead v (v.tab + 8 * i) 8
  let at_ := fun i => w[i]?.getD 0
  pure ⟨at_ 0, at_ 1, at_ 2, at_ 3, at_ 4, at_ 5, Nat.lor (at_ 6) (at_ 7)⟩

/-- R331's test of a header. -/
def LinHeader.ok (h : LinHeader) (tab : Nat) : Bool :=
  h.zero == 0 && 64 ≤ h.cap && h.cap ≤ 2 ^ 20 && h.cap == 2 ^ Nat.log2 h.cap && 1 ≤ h.hwm && h.hwm ≤ h.cap
    && h.free < h.hwm && h.pool % 65536 == 0 && tab % 4096 == 0

/-! ## Descriptors (R334) -/

/-- States of a node. -/
def nFREE : Nat := 0
/-- LIVE. -/
def nLIVE : Nat := 1
/-- FROZEN. -/
def nFROZEN : Nat := 2
/-- RETIRED. -/
def nRETIRED : Nat := 3

/-- A node: its index and its descriptor. -/
structure Node where
  ix     : Nat
  st     : Nat
  kids   : Nat
  reuse  : Nat
  ndim   : Nat
  depth  : Nat
  fmt    : Nat
  parent : Nat
  d01    : Nat
  d23    : Nat
  root   : Nat
  dmap   : Nat
  nblk   : Nat
  dlen   : Nat

/-- Word 0 of a descriptor. -/
def Node.word0 (n : Node) : Nat :=
  n.st + n.fmt * 2 ^ 4 + n.depth * 2 ^ 8 + n.ndim * 2 ^ 12 + n.reuse % 4096 * 2 ^ 16 + n.kids * 2 ^ 32

/-- Address of a slot. -/
def LinEnv.slot (v : LinEnv) (ix : Nat) : Nat := v.tab + 64 * ix

/-- Reads the descriptor of a slot. -/
def linNode (v : LinEnv) (ix : Nat) : LinM Node := do
  let w ← (List.range 8).mapM fun i => linRead v (v.slot ix + 8 * i) 8
  let at_ := fun i => w[i]?.getD 0
  let a := at_ 0
  pure { ix := ix, st := bitsOf a 0 2, kids := bitsOf a 32 32, reuse := bitsOf a 16 12, ndim := bitsOf a 12 2,
         depth := bitsOf a 8 3, fmt := bitsOf a 4 3, parent := bitsOf (at_ 1) 0 32, d01 := at_ 2, d23 := at_ 3,
         root := at_ 4, dmap := at_ 5, nblk := bitsOf (at_ 6) 0 32, dlen := at_ 7 }

/-- Writes a descriptor. -/
def linSet (v : LinEnv) (n : Node) : LinM Unit :=
  linPut v (v.slot n.ix) ([n.word0, n.parent, n.d01, n.d23, n.root, n.dmap, n.nblk, n.dlen].flatMap (leBytes 8))

/-- d0 of a node. -/
def Node.d0 (n : Node) : Nat := bitsOf n.d01 0 32
/-- The element count. -/
def Node.count (n : Node) : Nat := n.d0 * bitsOf n.d01 32 32 * bitsOf n.d23 0 32 * bitsOf n.d23 32 32
/-- The number of blocks. -/
def Node.blocks (n : Node) : Nat := (n.count + 63) / 64
/-- A root has no parent. -/
def Node.isRoot (n : Node) : Bool := n.parent == 0
/-- Index part of a handle. -/
def handleIx (h : Nat) : Nat := h % 2 ^ 20
/-- The handle of a node. -/
def Node.handle (n : Node) : Nat := n.reuse * 2 ^ 20 + n.ix

/-- The node of a valid handle (R332). -/
def linHandle (v : LinEnv) (h : LinHeader) (x : Nat) : LinM (Option Node) :=
  if 2 ^ 32 ≤ x ∨ handleIx x = 0 ∨ h.cap ≤ handleIx x then pure none
  else do
    let n ← linNode v (handleIx x)
    pure (if n.st ≠ nFREE ∧ n.reuse = x / 2 ^ 20 then some n else none)

/-- A node that accepts a new operation: LIVE or FROZEN. -/
def Node.usable (n : Node) : Bool := n.st == nLIVE || n.st == nFROZEN

/-! ## Formats (R335) -/

/-- Bits of a value. -/
def valBits (fmt : Nat) : Nat := if fmt = 1 then 4 else if fmt = 4 then 16 else if fmt = 5 then 32 else 8
/-- The root layout is bit planes. -/
def isPlanes (fmt : Nat) : Bool := fmt == 1 || fmt == 2
/-- Bytes of a root block. -/
def blockBytes (fmt : Nat) : Nat := 8 * valBits fmt
/-- The format holds signed integers. -/
def isSigned (fmt : Nat) : Bool := fmt ≤ 2

/-- The bytes of a root block from its 64 values. -/
def blockOf (fmt : Nat) (l : List Nat) : List Byte :=
  if isPlanes fmt then
    (List.range (valBits fmt)).flatMap fun j =>
      leBytes 8 (((List.range 64).map fun i => bitsOf (l[i]?.getD 0) j 1 * 2 ^ i).foldl (· + ·) 0)
  else l.flatMap (leBytes (valBits fmt / 8))

/-- An element of a root's dense data. -/
def linDense (v : LinEnv) (n : Node) (i : Nat) : LinM Nat :=
  if isPlanes n.fmt then do
    let a := n.root + i / 64 * blockBytes n.fmt
    let w ← (List.range (valBits n.fmt)).mapM fun j => linRead v (a + 8 * j) 8
    pure (((List.range (valBits n.fmt)).map fun j => bitsOf (w[j]?.getD 0) (i % 64) 1 * 2 ^ j).foldl (· + ·) 0)
  else linRead v (n.root + i * (valBits n.fmt / 8)) (valBits n.fmt / 8)

/-- Writes an element of a root's dense data. -/
def linDensePut (v : LinEnv) (n : Node) (i x : Nat) : LinM Unit :=
  if isPlanes n.fmt then
    (List.range (valBits n.fmt)).forM fun j => do
      let a := n.root + i / 64 * blockBytes n.fmt + 8 * j
      let w ← linRead v a 8
      linWrite v a 8 (w - bitsOf w (i % 64) 1 * 2 ^ (i % 64) + bitsOf x j 1 * 2 ^ (i % 64))
  else linWrite v (n.root + i * (valBits n.fmt / 8)) (valBits n.fmt / 8) x

/-! ## Delta maps (R336) -/

/-- A block record: block number, change mask, packed values in bit order. -/
structure Delta where
  blk  : Nat
  mask : Nat
  vals : List Nat

/-- A length padded to a multiple of 8. -/
def up8 (n : Nat) : Nat := (n + 7) / 8 * 8
/-- Bytes padded with zeros to a multiple of 8. -/
def padded (l : List Byte) : List Byte := l ++ List.replicate (up8 l.length - l.length) 0

/-- Number of set bits of a mask below bit n. -/
def maskBelow (m n : Nat) : Nat := ((List.range n).filter fun j => m.testBit j).length

/-- The records of a map. -/
def decodeDeltas (w nblk : Nat) (b : List Byte) : List Delta :=
  let num := fun off n => bytesNat ((b.drop off).take n)
  (List.range nblk).map fun k =>
    let off := num (up8 (4 * nblk) + 4 * k) 4
    let mask := num off 8
    let cnt := maskBelow mask 64
    let packed := num (off + 8) ((w * cnt + 7) / 8)
    ⟨num (4 * k) 4, mask, (List.range cnt).map fun i => bitsOf packed (w * i) w⟩

/-- The bytes of a record. -/
def Delta.bytes (w : Nat) (d : Delta) : List Byte :=
  padded (leBytes 8 d.mask ++ leBytes ((w * d.vals.length + 7) / 8) (ofBits w d.vals))
where
  /-- Values packed upward. -/
  ofBits (w : Nat) : List Nat → Nat
    | [] => 0
    | x :: r => x % 2 ^ w + ofBits w r * 2 ^ w

/-- Offsets of records laid one after another. -/
def recordOffsets : Nat → List (List Byte) → List Nat
  | _, [] => []
  | o, r :: l => o :: recordOffsets (o + r.length) l

/-- The bytes of a map. -/
def encodeDeltas (w : Nat) (l : List Delta) : List Byte :=
  let recs := l.map (Delta.bytes w)
  let start := 2 * up8 (4 * l.length)
  padded (l.flatMap fun d => leBytes 4 d.blk) ++ padded ((recordOffsets start recs).flatMap (leBytes 4)) ++ recs.flatten

/-- The value a map holds for element i. -/
def deltaFind (l : List Delta) (i : Nat) : Option Nat :=
  match l.find? fun d => d.blk == i / 64 with
  | some d => if d.mask.testBit (i % 64) then d.vals[maskBelow d.mask (i % 64)]? else none
  | none => none

/-- A record with bit j set to a value. -/
def Delta.put (d : Delta) (j x : Nat) : Delta :=
  let k := maskBelow d.mask j
  if d.mask.testBit j then { d with vals := setAt d.vals k x }
  else { d with mask := d.mask + 2 ^ j, vals := d.vals.take k ++ x :: d.vals.drop k }

/-- A map with element i set to a value; blocks stay in ascending order. -/
def deltaPut (i x : Nat) : List Delta → List Delta
  | [] => [(⟨i / 64, 0, []⟩ : Delta).put (i % 64) x]
  | d :: r =>
    if d.blk = i / 64 then d.put (i % 64) x :: r
    else if i / 64 < d.blk then (⟨i / 64, 0, []⟩ : Delta).put (i % 64) x :: d :: r
    else d :: deltaPut i x r

/-- The map of a node. -/
def linMap (v : LinEnv) (n : Node) : LinM (List Delta) :=
  if n.dmap = 0 then pure []
  else do
    let b ← linBytes v n.dmap n.dlen
    pure (decodeDeltas (valBits n.fmt) n.nblk b)

/-- Resolve (R21, R337); a chain holds at most 8 nodes. -/
def resolve (v : LinEnv) (i : Nat) : Nat → Node → LinM Nat
  | 0, n => linDense v n i
  | fuel + 1, n =>
    if n.isRoot then linDense v n i
    else do
      let l ← linMap v n
      match deltaFind l i with
      | some x => pure x
      | none => do
        let p ← linNode v (handleIx n.parent)
        resolve v i fuel p

/-- The nodes from a node up to its root. -/
def ancestry (v : LinEnv) : Nat → Node → LinM (List Node)
  | 0, n => pure [n]
  | fuel + 1, n =>
    if n.isRoot then pure [n]
    else do
      let p ← linNode v (handleIx n.parent)
      let l ← ancestry v fuel p
      pure (n :: l)

/-! ## Slots and the pool (R333) -/

/-- Changes POOLUSED. -/
def linUsed (v : LinEnv) (f : Nat → Nat) : LinM Unit := do
  let u ← linRead v (v.tab + 0x20) 8
  linWrite v (v.tab + 0x20) 8 (f u % 2 ^ 64)

/-- The pool ranges that nodes hold. -/
def extents (v : LinEnv) (h : LinHeader) : LinM (List (Nat × Nat)) := do
  let l ← (List.range h.hwm).mapM fun i => if i = 0 then pure none else do
    let n ← linNode v i
    pure (if n.st ≠ nFREE ∧ n.dmap ≠ 0 then some (n.dmap, n.dlen) else none)
  pure (l.filterMap id)

/-- The lowest start of a list that leaves room for n bytes. -/
def firstFit (h : LinHeader) (ex : List (Nat × Nat)) (n : Nat) : Option Nat :=
  ((h.pool :: ex.map fun x => x.1 + x.2).filter fun a =>
    h.pool ≤ a && a + n ≤ h.pool + h.len && ex.all fun x => !meets a n x.1 x.2).foldl
    (fun best a => match best with
      | none => some a
      | some b => some (min a b)) none

/-- The bytes of storage for a map: units of 64. -/
def storeLen (n : Nat) : Nat := (n + 63) / 64 * 64

/-- Writes a map for a node: in place where it fits, else in new storage; the node with its new map, or none where the
pool has no room (R342). -/
def linStore (v : LinEnv) (h : LinHeader) (n : Node) (l : List Delta) : LinM (Option Node) := do
  let b := encodeDeltas (valBits n.fmt) l
  if b.length ≤ n.dlen then
    linPut v n.dmap b
    pure (some { n with nblk := l.length })
  else
    let ex ← extents v h
    match firstFit h ex (storeLen b.length) with
    | none => pure none
    | some a =>
      linPut v a b
      linUsed v fun u => u + storeLen b.length + 2 ^ 64 - n.dlen
      pure (some { n with dmap := a, nblk := l.length, dlen := storeLen b.length })

/-- Takes a slot: the head of the free list, or HWM; its REUSE. None where the table is full. -/
def linAlloc (v : LinEnv) (h : LinHeader) : LinM (Option (Nat × Nat)) :=
  if h.free ≠ 0 then do
    let n ← linNode v h.free
    linWrite v (v.tab + 8) 8 n.parent
    pure (some (h.free, n.reuse))
  else if h.hwm < h.cap then do
    let n ← linNode v h.hwm
    linWrite v (v.tab + 0x28) 8 (h.hwm + 1)
    pure (some (h.hwm, n.reuse))
  else pure none

/-! ## Pins (R350) -/

/-- The pins of a context's table on both dies: the card's die and number, the node, and whether the job changes it. -/
def State.pinsOf (s : State) (x : Nat) : List (Nat × Nat × Nat × Bool) :=
  (List.range 2).flatMap fun d => ((s.die d).pins.filter fun p => match s.card d p.1 with
    | some c => c.ctx == x && c.st == .running
    | none => false).map fun p => (d, p)

/-- A running job pins the node. -/
def State.pinned (s : State) (x ix : Nat) : Bool := (s.pinsOf x).any fun p => p.2.2.1 == ix
/-- A running LFLATTEN or LREBASE changes the node. -/
def State.rewritten (s : State) (x ix : Nat) : Bool := (s.pinsOf x).any fun p => p.2.2.1 == ix && p.2.2.2

/-! ## Releasing and freeing (R338) -/

/-- Frees a slot. -/
def linFree (v : LinEnv) (n : Node) : LinM Unit := do
  let f ← linRead v (v.tab + 8) 8
  linUsed v fun u => u + 2 ^ 64 - n.dlen
  linSet v { n with st := nFREE, reuse := (n.reuse + 1) % 4096, parent := f }
  linWrite v (v.tab + 8) 8 n.ix

/-- Releases the parent of a node and what that cascades to; a pinned RETIRED node waits for its last pin. -/
def linRelease (v : LinEnv) : Nat → Nat → LinM Unit
  | 0, _ => pure ()
  | fuel + 1, parent =>
    if parent = 0 then pure ()
    else do
      let p0 ← linNode v (handleIx parent)
      let p := { p0 with kids := p0.kids - 1 }
      let o ← rd
      if p.kids = 0 ∧ p.st = nRETIRED ∧ o.s.pinned v.e.ctx p.ix = false then
        linSet v p
        linFree v p
        linRelease v fuel p.parent
      else linSet v { p with st := if p.kids = 0 ∧ p.st = nFROZEN then nLIVE else p.st }

/-- Frees the RETIRED nodes of a list that nothing holds any more. -/
def linSweep (v : LinEnv) : List Nat → LinM Unit
  | [] => pure ()
  | ix :: r => do
    let n ← linNode v ix
    let o ← rd
    if n.st = nRETIRED ∧ n.kids = 0 ∧ o.s.pinned v.e.ctx ix = false then
      linFree v n
      linRelease v 8 n.parent
    linSweep v r

/-! ## The instructions (R339 to R345) -/

/-- Trap(LINEAGE, code | handle << 32). -/
def linTrap {α : Type} (code x : Nat) : LinM α := trapM causeLineage (BitVec.ofNat 64 (code + x % 2 ^ 32 * 2 ^ 32))

/-- Checks 1 and 2 of R339. -/
def linOpen (v : LinEnv) (x : Nat) : LinM (LinHeader × Node) := do
  let h ← linHeader v
  if !h.ok v.tab then linTrap 7 x
  else match ← linHandle v h x with
    | some n => if n.usable then pure (h, n) else linTrap 1 x
    | none => linTrap 1 x

/-- Waits while a job changes the node (R350). -/
def linStall (v : LinEnv) (n : Node) : LinM Unit := do
  let o ← rd
  waitIf (o.s.rewritten v.e.ctx n.ix)

/-- LFORK: the child's handle (R341). -/
def lfork (v : LinEnv) (x : Nat) : LinM Nat := do
  let (h, p) ← linOpen v x
  linStall v p
  if p.depth = 7 then linTrap 3 x
  else match ← linAlloc v h with
    | none => linTrap 4 x
    | some (k, reuse) => do
      let c : Node := { p with ix := k, st := nLIVE, kids := 0, reuse := reuse, depth := p.depth + 1, parent := x,
                               dmap := 0, nblk := 0, dlen := 0 }
      linSet v c
      linSet v { p with kids := p.kids + 1, st := nFROZEN }
      pure c.handle

/-- LDROP (R344). -/
def ldrop (v : LinEnv) (x : Nat) : LinM Unit := do
  let (_, n) ← linOpen v x
  linStall v n
  let o ← rd
  if n.st = nLIVE ∧ o.s.pinned v.e.ctx n.ix = false then
    linFree v n
    linRelease v 8 n.parent
  else linSet v { n with st := nRETIRED }

/-- A page of lineage storage: LIN, R and W (R331, R342). -/
def State.linPage (s : State) (e : TEnv) (va : Nat) : Bool :=
  match s.findLeaf e.die va 3 e.ptbase.toNat with
  | some f => leafLin f.word && leafR f.word && leafW f.word
  | none => true

/-- The bits of a value, and the check of R342. -/
def valueOk (w : Nat) (x : Word) : Bool := x.toNat < 2 ^ w || x == wordOfInt (sextNat x.toNat w)

/-- LWR (R342). -/
def lwr (v : LinEnv) (x : Nat) (ix val : Word) : LinM Unit := do
  let (h, n) ← linOpen v x
  trapIf (n.count ≤ ix.toNat) causeBadOp ix
  trapIf (!valueOk (valBits n.fmt) val) causeBadOp val
  linStall v n
  let i := ix.toNat
  let y := val.toNat % 2 ^ valBits n.fmt
  if n.st = nFROZEN then linTrap 2 x
  else if n.isRoot then
    let o ← rd
    let a := if isPlanes n.fmt then n.root + i / 64 * blockBytes n.fmt else n.root + i * (valBits n.fmt / 8)
    if !o.s.linPage v.e a then linTrap 6 x
    else linDensePut v n i y
  else
    let l ← linMap v n
    match ← linStore v h n (deltaPut i y l) with
    | some m => linSet v m
    | none => linTrap 5 x

/-- The word that LRD gives for a value (R343). -/
def valueWord (fmt x : Nat) : Word :=
  if isSigned fmt then wordOfInt (sextNat x (valBits fmt)) else BitVec.ofNat 64 x

/-- LRD. -/
def lrd (v : LinEnv) (x : Nat) (ix : Word) : LinM Word := do
  let (_, n) ← linOpen v x
  trapIf (n.count ≤ ix.toNat) causeBadOp ix
  let y ← resolve v ix.toNat 8 n
  pure (valueWord n.fmt y)

/-- LSTAT (R345). -/
def lstat (v : LinEnv) (x : Nat) : LinM Word := do
  let h ← linHeader v
  if !h.ok v.tab then pure 0
  else match ← linHandle v h x with
    | some n => pure (BitVec.ofNat 64 n.word0)
    | none => pure 0

/-- Runs an Orrery step for the issuing core, whose PTS it raises (R275, R278). -/
def withOrrery {α : Type} (f : LinEnv → LinM α) : DevM α := fun s =>
  let k := s.core s.cur
  if !k.storesDone then .error (.wait id)
  else match f ⟨k.tenv (dieOf s.cur), k.sv.lintab.toNat⟩ ⟨s, k.pts⟩ with
  | .ok (a, o) => .ok (a, o.s.modCore s.cur fun q => q.raisePts o.p)
  | .error e => .error e

/-- LFORK. -/
def execLfork (d a : Reg) (s : State) : Out :=
  runInstr (do
    let x ← onCore (getX a)
    let r ← withOrrery fun v => lfork v x.toNat
    onCore (setX d (BitVec.ofNat 64 r))) s

/-- LDROP. -/
def execLdrop (a : Reg) (s : State) : Out :=
  runInstr (do
    let x ← onCore (getX a)
    withOrrery fun v => ldrop v x.toNat) s

/-- LWR. -/
def execLwr (a b e : Reg) (s : State) : Out :=
  runInstr (do
    let x ← onCore (getX a)
    let i ← onCore (getX b)
    let y ← onCore (getX e)
    withOrrery fun v => lwr v x.toNat i y) s

/-- LRD. -/
def execLrd (d a b : Reg) (s : State) : Out :=
  runInstr (do
    let x ← onCore (getX a)
    let i ← onCore (getX b)
    let r ← withOrrery fun v => lrd v x.toNat i
    onCore (setX d r)) s

/-- LSTAT. -/
def execLstat (d a : Reg) (s : State) : Out :=
  runInstr (do
    let x ← onCore (getX a)
    let r ← withOrrery fun v => lstat v x.toNat
    onCore (setX d r)) s

/-! ## Starting a job: handles and pins (R350) -/

/-- What a job names: its nodes, whether it changes the first. -/
def jobHandles (c : Card) : List Nat :=
  if c.op = 0x12 then [slice c.args[0] 31 0, slice c.args[0] 63 32]
  else if c.op = 0x11 then [c.args[0].toNat, c.args[1].toNat]
  else [c.args[0].toNat]

/-- LFLATTEN or LREBASE. -/
def rewrites (c : Card) : Bool := c.op == 0x10 || c.op == 0x11

/-- The usable nodes of handles, or the operand index of the first that is none. -/
def linUsable (v : LinEnv) (h : LinHeader) : Nat → List Nat → LinM (Except Nat (List Node))
  | _, [] => pure (.ok [])
  | i, x :: r => do
    let o ← linHandle v h x
    match o.filter Node.usable with
    | none => pure (.error i)
    | some n => do
      let rest ← linUsable v h (i + 1) r
      pure (rest.map fun l => n :: l)

/-- The environment of a card's context on a die. -/
def State.linEnv (s : State) (die x : Nat) : LinEnv :=
  ⟨s.ctxEnv die x, match s.ctx? x with
    | some k => k.lintab.toNat
    | none => 0⟩

/-- Checks a job's handles: its nodes, or STATUS and DETAIL. -/
def linCheck (v : LinEnv) (c : Card) : LinM (Except (Nat × Nat) (List Node)) := do
  let h ← linHeader v
  if !h.ok v.tab then pure (.error (0x40, 0))
  else match ← linUsable v h 0 (jobHandles c) with
    | .ok l => pure (.ok l)
    | .error i => pure (.error (0x40, i))

/-- The nodes that a job pins: its node with its ancestors, and for LDIFF those of its ancestor. -/
def linPins (v : LinEnv) (c : Card) (l : List Node) : LinM (List (Nat × Bool)) := do
  let up ← (if c.op = 0x12 then l else l.take 1).mapM (ancestry v 8)
  let node := (l[0]?.map Node.ix).getD 0
  pure (up.flatten.map fun n => (n.ix, rewrites c && n.ix == node))

/-- A job would pin a node that a running job changes, or changes one that a running job pins. -/
def State.pinClash (s : State) (x : Nat) (l : List (Nat × Bool)) : Bool :=
  l.any fun p => s.rewritten x p.1 || (p.2 && s.pinned x p.1)

/-- A job that has started takes its pins, or ends where a handle is bad; with a clash it waits. -/
def State.startLineage (s : State) (die k : Nat) : State :=
  match s.card die k with
  | none => s
  | some c =>
    if c.st != .running || c.cls != 2 then s
    else
      let v := s.linEnv die c.ctx
      match (do
        match ← linCheck v c with
        | .error e => pure (.error e)
        | .ok l => do
          let p ← linPins v c l
          pure (.ok p) : LinM (Except (Nat × Nat) (List (Nat × Bool)))) ⟨s, c.ts⟩ with
      | .error (.trap e _) => s.endCard die k 3 (faultDetail e 0)
      | .error _ => s
      | .ok (.error e, o) => o.s.endCard die k e.1 e.2
      | .ok (.ok l, o) =>
        if s.pinClash c.ctx l then s
        else (o.s.modDie die fun d => { d with pins := d.pins ++ l.map fun p => (k, p.1, p.2) })

/-- The job's pins are released, and RETIRED nodes that waited for them go. -/
def State.unpin (s : State) (die k : Nat) : State :=
  let mine := ((s.die die).pins.filter fun p => p.1 == k).map fun p => p.2.1
  let s1 := s.modDie die fun d => { d with pins := d.pins.filter fun p => p.1 != k }
  match s.card die k with
  | none => s1
  | some c => match linSweep (s1.linEnv die c.ctx) mine ⟨s1, 0⟩ with
    | .ok (_, o) => o.s
    | .error _ => s1

/-- Runs a pinned lineage job to its end; a job without pins tries to take them. -/
def runLineage (die k op : Nat) (f : LinEnv → Card → Node → LinM (Nat × Nat)) (s : State) : Out :=
  runEvent (fun s =>
    if 2 ≤ die then s
    else match s.card die k with
      | none => s
      | some c =>
        if c.st != .running || c.op != op then s
        else if !(s.die die).pins.any (fun p => p.1 == k) then s.startLineage die k
        else
          let v := s.linEnv die c.ctx
          match (do
            let n ← linNode v (handleIx (c.args[0].toNat % 2 ^ 32))
            f v c n) ⟨s, c.ts⟩ with
          | .ok (r, o) => ((⟨r.1, r.2, o.p, o.s⟩ : JobEnd).close die k).unpin die k
          | .error (.trap e _) => (s.endCard die k 3 (faultDetail e 0)).unpin die k
          | .error _ => s) s

/-- A job's output at a place, from an offset: what ends the job, or none. -/
def linOut (die : Nat) (c : Card) (p : Place) (at_ : Nat) (b : List Byte) : LinM (Option (Nat × Nat)) := fun o =>
  match p with
  | .mem va =>
    let r := o.s.writeBlock (o.s.ctxEnv die c.ctx) c.user .orrery (va + at_) o.p b (b.length + 1)
    .ok (r.1.map fun e => (3, faultDetail e.1 1), ⟨r.2.2, r.2.1⟩)
  | _ =>
    let r := o.s.output die c p at_ o.p b
    .ok (r.1, ⟨r.2.2, r.2.1⟩)

/-- Writes pieces upward; what ends the job, or none. -/
def linOuts (die : Nat) (c : Card) (p : Place) : Nat → List (List Byte) → LinM (Option (Nat × Nat))
  | _, [] => pure none
  | at_, b :: r => do
    match ← linOut die c p at_ b with
    | some e => pure (some e)
    | none => linOuts die c p (at_ + b.length) r

/-- The count of a job, written to its result address. -/
def linResult (die : Nat) (c : Card) (va v : Nat) (done : Nat × Nat) : LinM (Nat × Nat) := fun o =>
  if va = 0 then .ok (done, o)
  else match o.s.vwrite (o.s.ctxEnv die c.ctx) c.user .none va 8 v o.p with
    | .ok (t, s) => .ok (done, ⟨s, t⟩)
    | .error e => .ok ((3, faultDetail e 2), o)

/-- A block of a node, resolved, with zero padding. -/
def linBlock (v : LinEnv) (n : Node) (b : Nat) : LinM (List Byte) := do
  let l ← (List.range 64).mapM fun j => if 64 * b + j < n.count then resolve v (64 * b + j) 8 n else pure 0
  pure (blockOf n.fmt l)

/-- The descendants of a node. -/
def descendants (v : LinEnv) (ix : Nat) : LinM (List Node) := do
  let h ← linHeader v
  let l ← (List.range h.hwm).mapM fun i => if i = 0 ∨ i = ix then pure none else do
    let n ← linNode v i
    if n.st = nFREE then pure none
    else do
      let up ← ancestry v 8 n
      pure (if up.any fun q => q.ix == ix then some n else none)
  pure (l.filterMap id)

/-! ## LFLATTEN -/

/-- Every page of a range carries LIN, R and W. -/
def State.linRange (s : State) (e : TEnv) (va n : Nat) : Nat → Bool
  | 0 => true
  | fuel + 1 =>
    n == 0 || (decide (va < 2 ^ 48) && (match s.findLeaf e.die va 3 e.ptbase.toNat with
      | some f => leafLin f.word && leafR f.word && leafW f.word
      | none => false)
      && (let k := min n (4096 - va % 4096)
          State.linRange s e (va + k) (n - k) fuel))

/-- LFLATTEN (R347). -/
def jobFlatten (die : Nat) (v : LinEnv) (c : Card) (n : Node) : LinM (Nat × Nat) := do
  let dst := c.args[1].toNat
  let size := n.blocks * blockBytes n.fmt
  let o ← rd
  if c.args[3] ≠ 0 ∨ dst % 64 ≠ 0 then pure (5, 0)
  else if c.args[2].toNat < size then pure (0x44, 0)
  else if !o.s.linRange v.e dst size (size / 4096 + 2) then pure (0x47, 0)
  else if n.isRoot then pure (1, 0)
  else do
    let bs ← (List.range n.blocks).mapM (linBlock v n)
    match ← linOuts die c (.mem dst) 0 bs with
    | some e => pure e
    | none => do
      let ds ← descendants v n.ix
      ds.forM fun d => linSet v { d with depth := d.depth - n.depth, root := dst }
      linUsed v fun u => u + 2 ^ 64 - n.dlen
      let m ← linNode v n.ix
      linSet v { m with parent := 0, depth := 0, root := dst, dmap := 0, nblk := 0, dlen := 0 }
      linRelease v 8 n.parent
      pure (1, 0)

/-- LFLATTEN. -/
def execLflatten (die k : Nat) (s : State) : Out := runLineage die k 0x10 (jobFlatten die) s

/-! ## LREBASE -/

/-- The difference of two nodes as a map: block b, where some element differs. -/
def rebaseBlock (v : LinEnv) (n p : Node) (b : Nat) : LinM (Option Delta) := do
  let l ← (List.range 64).mapM fun j =>
    if 64 * b + j < n.count then do
      let x ← resolve v (64 * b + j) 8 n
      let y ← resolve v (64 * b + j) 8 p
      pure (if x = y then none else some (j, x))
    else pure none
  let d := l.filterMap id
  pure (if d.isEmpty then none else some ⟨b, (d.map fun q => 2 ^ q.1).foldl (· + ·) 0, d.map Prod.snd⟩)

/-- The node with its new map and parent, and its descendants at their new depths. -/
def rebaseInstall (v : LinEnv) (n p m : Node) (ds : List Node) : LinM Unit := do
  linSet v { m with parent := p.handle, depth := p.depth + 1, root := p.root }
  ds.forM fun d => linSet v { d with depth := p.depth + 1 + d.depth - n.depth, root := p.root }
  let q ← linNode v p.ix
  linSet v { q with kids := q.kids + 1, st := if q.st = nLIVE then nFROZEN else q.st }
  linRelease v 8 n.parent

/-- LREBASE (R347). A new parent that has gone since the job started is 0x40. -/
def jobRebase (v : LinEnv) (c : Card) (n : Node) : LinM (Nat × Nat) := do
  let h ← linHeader v
  match ← linHandle v h c.args[1].toNat with
  | none => pure (0x40, 1)
  | some p =>
    let ds ← descendants v n.ix
    let deep := (ds.map fun d => d.depth - n.depth).foldl max 0
    if c.args[2] ≠ 0 ∨ c.args[3] ≠ 0 then pure (5, 0)
    else if !p.usable then pure (0x40, 1)
    else if p.fmt ≠ n.fmt ∨ p.ndim ≠ n.ndim ∨ p.d01 ≠ n.d01 ∨ p.d23 ≠ n.d23 then pure (0x41, 0)
    else if p.ix = n.ix ∨ (ds.any fun d => d.ix == p.ix) = true ∨ 7 < p.depth + 1 + deep then pure (0x42, 0)
    else do
      let bs ← (List.range n.blocks).mapM (rebaseBlock v n p)
      let l := bs.filterMap id
      if l.isEmpty then do
        linUsed v fun u => u + 2 ^ 64 - n.dlen
        rebaseInstall v n p { n with dmap := 0, nblk := 0, dlen := 0 } ds
        pure (1, 0)
      else match ← linStore v h { n with dlen := 0 } l with
        | none => pure (0x46, 0)
        | some m => do
          linUsed v fun u => u + 2 ^ 64 - n.dlen
          rebaseInstall v n p m ds
          pure (1, 0)

/-- LREBASE. -/
def execLrebase (die k : Nat) (s : State) : Out := runLineage die k 0x11 jobRebase s

/-! ## LDIFF -/

/-- The difference of two values, as LDIFF emits it (R347). -/
def diffWord (fmt x y : Nat) : Word :=
  if isSigned fmt then wordOfInt (sextNat x (valBits fmt) - sextNat y (valBits fmt))
  else
    let ty : Ty := if fmt = 3 then .e4m3 else if fmt = 4 then .bf16 else .f32
    let w := fun b => if fmt = 5 then b else (floatToFloat ty .f32 modesRNE b).1
    BitVec.ofNat 64 (fpBin .sub .f32 modesRNE (w x) (w y)).1

/-- A difference that is nonzero: a negative zero is none. -/
def diffSome (fmt : Nat) (w : Word) : Bool := if isSigned fmt then w != 0 else w.toNat % 2 ^ 31 != 0

/-- The elements that some node of a list has in its map, ascending. -/
def changed (v : LinEnv) (n : Node) (path : List Node) : LinM (List Nat) := do
  let ms ← path.mapM fun q => if q.isRoot then pure [] else linMap v q
  pure ((List.range n.blocks).flatMap fun b =>
    let m := ((ms.flatten.filter fun d => d.blk == b).map Delta.mask).foldl Nat.lor 0
    ((List.range 64).filter fun j => m.testBit j).map fun j => 64 * b + j)

/-- The triples of an LDIFF: element and difference. -/
def diffs (v : LinEnv) (n a : Node) (l : List Nat) : LinM (List (Nat × Word)) := do
  let ds ← l.mapM fun i => do
    let x ← resolve v i 8 n
    let y ← resolve v i 8 a
    pure (i, diffWord n.fmt x y)
  pure (ds.filter fun d => diffSome n.fmt d.2)

/-- The record of a triple in the scratchpad (R348). -/
def diffRecord (n : Node) (d : Nat × Word) : List Byte :=
  leBytes 4 (d.1 / n.d0) ++ leBytes 4 (d.1 % n.d0) ++ leBytes 8 d.2.toNat

/-- The message of a triple. -/
def diffMsg (c : Card) (n : Node) (src gen dst ch : Nat) (ts : Nat) (d : Nat × Word) : Msg :=
  hwMsg dst ch gen src 2 7 (pay4 (BitVec.ofNat 64 (d.1 / n.d0 * 2 ^ 32 + d.1 % n.d0)) d.2 0 0) ts c.ctx

/-- Posts messages of a die's engines in order. -/
def State.posts (s : State) (origin : Nat) : List Msg → State
  | [] => s
  | m :: r => State.posts (s.post origin m) origin r

/-- LDIFF in scratchpad mode (R348). -/
def diffToSp (die : Nat) (c : Card) (n : Node) (ts : List (Nat × Word)) : LinM (Nat × Nat) := do
  let w := slice c.args[1] 63 0
  let cap := c.args[2].toNat
  let o ← rd
  match spPlace w 0 with
  | none => pure (5, 0)
  | some p =>
    if spSize < bitsOf w 0 18 + 16 * cap then pure (5, 0)
    else if !o.s.placeHeld c p then pure (8, 0)
    else match ← linOuts die c p 0 ((ts.take cap).map (diffRecord n)) with
      | some e => pure e
      | none =>
        if cap < ts.length then linResult die c c.args[3].toNat cap (0x44, 0)
        else linResult die c c.args[3].toNat ts.length (1, 0)

/-- LDIFF in message mode (R348). -/
def diffToMsgs (die : Nat) (c : Card) (n : Node) (ts : List (Nat × Word)) : LinM (Nat × Nat) := do
  let w := c.args[1].toNat
  let o ← rd
  let ch := bitsOf w 32 6
  if bitsOf w 28 3 ≠ 0 ∨ bitsOf w 12 4 ≠ 0 ∨ bitsOf w 38 25 ≠ 0 ∨ ch = 0 ∨ 47 < ch ∨ c.args[2] ≠ 0 then pure (5, 0)
  else do
    let src := match c.core with
      | some q => o.s.logical q
      | none => 0xFFF
    let gen := if bitsOf w 31 1 = 1 then bitsOf w 16 12 else c.hgen
    wr fun u => { u with s := u.s.posts (dieOrigin die) (ts.map (diffMsg c n src gen (bitsOf w 0 12) ch u.p)) }
    linResult die c c.args[3].toNat ts.length (1, 0)

/-- LDIFF. -/
def jobDiff (die : Nat) (v : LinEnv) (c : Card) (n : Node) : LinM (Nat × Nat) := do
  let anc := handleIx (slice c.args[0] 63 32)
  let path ← ancestry v 8 n
  let below := path.takeWhile fun q => q.ix != anc
  match path.find? fun q => q.ix == anc with
  | none => pure (0x43, 0)
  | some a =>
    if anc = n.ix then pure (0x43, 0)
    else if c.args[3].toNat % 8 ≠ 0 then pure (5, 0)
    else do
      let is_ ← changed v n below
      let ts ← diffs v n a is_
      if bitsOf c.args[1].toNat 63 1 = 0 then diffToSp die c n ts else diffToMsgs die c n ts

/-- LDIFF. -/
def execLdiff (die k : Nat) (s : State) : Out := runLineage die k 0x12 (jobDiff die) s

/-! ## LRESOLVE -/

/-- LRESOLVE's destination for n bytes. -/
def resolvePlace (c : Card) (n : Nat) : Option Place :=
  let w := c.args[2].toNat
  if bitsOf c.args[3].toNat 63 1 = 0 then (if w % 64 = 0 then some (.mem w) else none)
  else if w % 64 = 0 then spPlace w n else none

/-- LRESOLVE. -/
def jobResolve (die : Nat) (v : LinEnv) (c : Card) (n : Node) : LinM (Nat × Nat) := do
  let first := c.args[1].toNat
  let cnt := slice c.args[3] 31 0
  let o ← rd
  if slice c.args[3] 62 32 ≠ 0 ∨ cnt = 0 then pure (5, 0)
  else if n.blocks < first + cnt then pure (0x45, 0)
  else match resolvePlace c (cnt * blockBytes n.fmt) with
    | none => pure (5, 0)
    | some p =>
      if !o.s.placeHeld c p then pure (8, 0)
      else do
        let bs ← (List.range cnt).mapM fun i => linBlock v n (first + i)
        match ← linOuts die c p 0 bs with
        | some e => pure e
        | none => pure (1, 0)

/-- LRESOLVE. -/
def execLresolve (die k : Nat) (s : State) : Out := runLineage die k 0x13 (jobResolve die) s

end Sys2Proof.Machine
end

