-- ==== Sys2Proof/Machine/Stash.lean ====
section
/-! DEFINITION. Machine/Stash.lean: stash regions: their headers, the block code, the operations of the codecs, and the
three STSH instructions (18_stash.md). -/
namespace Sys2Proof.Machine

/-! ## Shape and header (R352 to R354) -/

/-- A region's shape: element type and bytes, bits of a block, code bits, elements, bound exponent. -/
structure StashShape where
  ty    : Ty
  size  : Nat
  bits  : Nat
  m     : Nat
  n     : Nat
  bound : Int

/-- Bits of a block for a source and a ratio (R352). -/
def blockBits (src ratio : Nat) : Option Nat :=
  match src, ratio with
  | 0, 0 => some 1024
  | 0, 1 => some 512
  | 0, 2 => some 256
  | 1, 0 => some 512
  | 1, 1 => some 256
  | 2, 0 => some 512
  | 2, 1 => some 256
  | _, _ => none

/-- Blocks of a region. -/
def StashShape.blocks (z : StashShape) : Nat := (z.n + 63) / 64
/-- Words of the status bitmap. -/
def StashShape.mapWords (z : StashShape) : Nat := (z.blocks + 63) / 64
/-- Offset of block j. -/
def StashShape.blockAt (z : StashShape) (j : Nat) : Nat := 64 + 8 * z.mapWords + j * (z.bits / 8)
/-- Length of the region (R352). -/
def StashShape.length (z : StashShape) : Nat := z.blockAt z.blocks
/-- Elements of block j that lie below n. -/
def StashShape.live (z : StashShape) (j : Nat) : Nat := min 64 (z.n - 64 * j)

/-- The shape that CFG and LEN state, when they obey R352 and R354. -/
def shapeOfCfg (cfg len : Nat) : Option StashShape :=
  match blockBits (bitsOf cfg 0 2) (bitsOf cfg 4 2) with
  | none => none
  | some b =>
    let src := bitsOf cfg 0 2
    let z : StashShape :=
      { ty := if src = 0 then .f32 else if src = 1 then .bf16 else .f16, size := if src = 0 then 4 else 2, bits := b,
        m := (b - 16) / 64, n := bitsOf cfg 32 32, bound := sextNat (bitsOf cfg 24 8) 8 }
    if bitsOf cfg 2 2 = 0 ∧ bitsOf cfg 6 2 = 0 ∧ bitsOf cfg 12 12 = 0 ∧ z.n ≠ 0 ∧ bitsOf cfg 8 4 = z.m ∧ len = z.length
    then some z else none

/-- BUSY of STAT. -/
def stBUSY : Nat := 2 ^ 39
/-- TORN of STAT. -/
def stTORN : Nat := 2 ^ 33
/-- STASHED of STAT. -/
def stSTASHED : Nat := 2 ^ 32

/-- STAT and GEN agree with the region (R354). -/
def statOk (z : StashShape) (stat gen : Nat) (map : List Nat) (busy : Bool) : Bool :=
  let bit := fun j => bitsOf (map[j / 64]?.getD 0) (j % 64) 1
  let set := ((List.range (64 * z.mapWords)).filter fun j => bit j == 1).length
  bitsOf stat 40 24 == 0 && bitsOf stat 34 5 == 0 && bitsOf stat 0 32 == set
    && (List.range (64 * z.mapWords - z.blocks)).all (fun i => bit (z.blocks + i) == 0)
    && (bitsOf stat 39 1 == 0 || busy) && (gen == 0 || bitsOf stat 32 1 == 1)

/-- Words of a region, read by the codecs, with the timestamp reached. -/
def State.regionWords (s : State) (e : TEnv) (user : Bool) (va p : Nat) : Nat → Except (Nat × Nat) (List Nat × Nat × State)
  | 0 => .ok ([], p, s)
  | n + 1 => match s.vread e user .codec va 8 p with
    | .error c => .error (c, va)
    | .ok (v, q, s1) => match State.regionWords s1 e user (va + 8) q n with
      | .error c => .error c
      | .ok (l, r) => .ok (v :: l, r)

/-- An operation of the region is in flight on a die (R354, R358). -/
def State.regionBusy (s : State) (die x region : Nat) : Bool :=
  (s.die die).cards.any fun c => 0x100 ≤ c.op && c.ctx == x && c.args[0].toNat == region && !c.ended

/-- A header that obeys R354: its words and shape. -/
structure StashHeader where
  cfg   : Nat
  len   : Nat
  stat  : Nat
  gen   : Nat
  shape : StashShape

/-- Reads and checks a header: none where it is invalid; the timestamp reached. -/
def State.stashHeader (s : State) (e : TEnv) (user : Bool) (va p : Nat) (busy : Bool) :
    Except (Nat × Nat) (Option StashHeader × Nat × State) :=
  match s.regionWords e user va p 8 with
  | .error x => .error x
  | .ok (w, q, s1) =>
    let a := fun i => w[i]?.getD 0
    match shapeOfCfg (a 0) (a 1) with
    | none => .ok (none, q, s1)
    | some z => match s1.regionWords e user (va + 64) q z.mapWords with
      | .error x => .error x
      | .ok (map, r) =>
        if (w.drop 4).all (· == 0) && statOk z (a 2) (a 3) map busy then .ok (some ⟨a 0, a 1, a 2, a 3, z⟩, r)
        else .ok (none, r)

/-- What is wrong with the pages of a region. -/
inductive PageFlaw where
  | fault (cause va : Nat)
  | notStash

/-- Every page of a region translates with R, W and STASH into the DRAM of a die (R359 step 5). Fuel bounds the pages. -/
def State.regionFlaw (s : State) (e : TEnv) (user : Bool) (die va n : Nat) : Nat → Option PageFlaw
  | 0 => none
  | fuel + 1 =>
    if n = 0 then none
    else match s.walk e user .amo .codec va with
      | .error c => some (.fault c va)
      | .ok (t, _) =>
        if !leafStash t.leaf || !inDram (t.pa va) || dramDie (t.pa va) != die then some .notStash
        else
          let k := min n (4096 - va % 4096)
          State.regionFlaw s e user die (va + k) (n - k) fuel

/-! ## The block code (R355 to R357) -/

/-- A finite value in units of 2^-149; none for NaN and the infinities. -/
def stashUnits (ty : Ty) (b : Nat) : Option Int :=
  match (fmtOf ty).val b with
  | .fin neg m e => some (signedAt neg m e (-149))
  | _ => none

/-- The exponent E and ZERO of a block's values (R356). -/
def blockExp (l : List (Option Int)) : Nat × Bool :=
  let top := (l.map fun x => match x with
    | some v => v.natAbs
    | none => 0).foldl max 0
  if top = 0 then (0, true) else (max 1 (Nat.log2 top - 22), false)

/-- The code of a value. -/
def blockCode (m e : Nat) (nf : Bool) (x : Option Int) : Int :=
  match x with
  | none => -(2 ^ (m - 1) : Nat)
  | some v =>
    let r : Int := (roundDiv 0 (v < 0) v.natAbs (2 ^ (e + 24 - m))).1
    (clampTo (if nf then 1 - (2 ^ (m - 1) : Nat) else -(2 ^ (m - 1) : Nat)) ((2 ^ (m - 1) : Nat) - 1) (if v < 0 then -r else r)).1

/-- Some finite value decodes farther than 2^bound from itself. -/
def blockOver (m e : Nat) (bound : Int) (l : List (Option Int × Int)) : Bool :=
  l.any fun p => match p.1 with
    | some v => (2 ^ (bound + 149).toNat : Int) < ((p.2 * (2 ^ (e + 24 - m) : Nat) - v).natAbs : Nat)
    | none => false

/-- The bits of a block from its 64 values, and OVERBOUND. -/
def encodeBlock (z : StashShape) (xs : List Nat) : Nat × Bool :=
  let l := xs.map (stashUnits z.ty)
  let nf := l.any Option.isNone
  let e := blockExp l
  let q := l.map (blockCode z.m e.1 nf)
  let more := blockOver z.m e.1 z.bound (l.zip q)
  let body := (List.range 64).map fun i => intBits z.m (q[i]?.getD 0) * 2 ^ (16 + z.m * i)
  (e.1 + (if e.2 then 256 else 0) + (if nf then 512 else 0) + (if more then 1024 else 0) + body.foldl (· + ·) 0, more)

/-- Element i of a block. -/
def decodeElem (z : StashShape) (blk i : Nat) : Nat :=
  let q := sextNat (bitsOf blk (16 + z.m * i) z.m) z.m
  if bitsOf blk 9 1 = 1 ∧ q = -(2 ^ (z.m - 1) : Nat) then (fmtOf z.ty).nan
  else (roundTy z.ty modesRNE (exactInt q ((bitsOf blk 0 8 : Int) - 127 - (z.m - 2)) false)).1

/-! ## The operations of the codecs (R358, R360, R361) -/

/-- How an operation stands: STATUS and DETAIL once it has failed, OVERBOUND blocks, blocks written, STAT. -/
structure StashRun where
  fail  : Option (Nat × Nat)
  overs : Nat
  wrote : Nat
  stat  : Nat
  ts    : Nat
  state : State

/-- Writes a word of a region: the timestamp reached; none where it faults. -/
def State.regionPut (s : State) (e : TEnv) (va v ts : Nat) : Option (Nat × State) := (s.vwrite e false .codec va 8 v ts).toOption

/-- Commits block j with its status bit and OVC in one step (R358): STAT, the timestamp reached; none where a page of the region is
gone. -/
def State.commitBlock (s : State) (e : TEnv) (z : StashShape) (va j blk : Nat) (more : Bool) (stat ts : Nat) :
    Option (Nat × Nat × State) :=
  match s.writeBlock e false .codec (va + z.blockAt j) ts (leBytes (z.bits / 8) blk) (z.bits / 8 + 1) with
  | (some _, _, _) => none
  | (none, t1, s1) => match s1.vread e false .codec (va + 64 + 8 * (j / 64)) 8 t1 with
    | .error _ => none
    | .ok (w, t2, s2) =>
      let old := bitsOf w (j % 64) 1
      let new := if more then 1 else 0
      let st := stat + new - old
      (s2.regionPut e (va + 64 + 8 * (j / 64)) (w - old * 2 ^ (j % 64) + new * 2 ^ (j % 64)) t2).bind fun r =>
        (r.2.regionPut e (va + 16) st r.1).map fun u => (st, u)

/-- STASH from block j on, n blocks. -/
def stashBlocks (e : TEnv) (z : StashShape) (c : Card) : Nat → Nat → StashRun → StashRun
  | 0, _, r => r
  | n + 1, j, r =>
    match r.state.readBlock e c.user .none (c.args[1].toNat + 64 * j * z.size) r.ts (z.live j * z.size) (z.live j * z.size + 1) with
    | .error x => { r with fail := some (3, faultDetail x.1 0) }
    | .ok (b, ts, s1) =>
      let xs := (List.range 64).map fun i => if i < z.live j then bytesNat ((b.drop (i * z.size)).take z.size) else 0
      let q := encodeBlock z xs
      match s1.commitBlock e z c.args[0].toNat j q.1 q.2 r.stat ts with
      | none => { r with fail := some (0x60, 0) }
      | some (st, ts2, s2) => stashBlocks e z c n (j + 1)
          { r with overs := r.overs + (if q.2 then 1 else 0), wrote := r.wrote + 1, stat := st, ts := ts2, state := s2 }

/-- RESTORE from block j on, n blocks. -/
def restoreBlocks (e : TEnv) (z : StashShape) (c : Card) : Nat → Nat → StashRun → StashRun
  | 0, _, r => r
  | n + 1, j, r =>
    let dst := c.args[1].toNat + 64 * j * z.size
    match r.state.readBlock e false .codec (c.args[0].toNat + z.blockAt j) r.ts (z.bits / 8) (z.bits / 8 + 1) with
    | .error _ => { r with fail := some (0x60, 0) }
    | .ok (b, ts, s1) =>
      let blk := bytesNat b
      let out := (List.range (z.live j)).flatMap fun i => leBytes z.size (decodeElem z blk i)
      match s1.probe e c.user .write .none dst out.length (out.length + 1) with
      | some x => { r with fail := some (3, faultDetail x.1 1) }
      | none =>
        let w := s1.writeBlock e c.user .none dst ts out (out.length + 1)
        restoreBlocks e z c n (j + 1) { r with ts := w.2.1, state := w.2.2 }

/-- The completion record: word 1, then word 0 rises by 1 (R360); a record that faults is reported (R228). The timestamp reached. -/
def State.putRecord (s : State) (die : Nat) (e : TEnv) (c : Card) (status detail : Nat) (ts : Nat) : Nat × State :=
  let w1 := (if c.op = 0x101 then 1 else 0) + detail % 2 ^ 24 * 2 ^ 32 + status * 2 ^ 56
  let bad := fun (cause : Nat) =>
    (ts, s.report die (dieOrigin die) 7 (BitVec.ofNat 64 c.doneVa) (BitVec.ofNat 64 cause) c.ctx 0xFFF)
  match s.vwrite e c.user .none (c.doneVa + 8) 8 w1 ts with
  | .error x => bad x
  | .ok (t1, s1) => match s1.vread e c.user .none c.doneVa 8 t1 with
    | .error x => bad x
    | .ok (v, t2, s2) => match s2.vwrite e c.user .none c.doneVa 8 ((v + 1) % 2 ^ 64) t2 with
      | .error x => bad x
      | .ok r => r

/-- An operation ends: its record is written, its successors and its context are looked at. -/
def State.endOperation (s : State) (die : Nat) (e : TEnv) (c : Card) (status detail ts : Nat) : State :=
  let r := s.putRecord die e c status detail ts
  ((((r.2.setCard die { c with st := .retired, status := status, detail := detail, ts := r.1 }).clearJob die c r.1).wake).settleStop c.ctx)

/-- STAT and GEN at the end of an operation. -/
def State.putStat (s : State) (die : Nat) (e : TEnv) (c : Card) (stat gen ts : Nat) : Nat × State :=
  let others := (s.setCard die { c with st := .retired }).regionBusy die c.ctx c.args[0].toNat
  let st := stat - bitsOf stat 39 1 * stBUSY + (if others then stBUSY else 0)
  let va := c.args[0].toNat
  match s.regionPut e (va + 16) st ts with
  | some r => (r.2.regionPut e (va + 24) gen r.1).getD r
  | none => (ts, s)

/-- The header as an operation finds it when it starts; none where the region no longer holds what it held (R360, 0x60). -/
def State.stashStart (s : State) (die : Nat) (e : TEnv) (c : Card) : Option StashHeader :=
  match s.stashHeader e false c.args[0].toNat c.ts true with
  | .ok (some h, _) =>
    if h.cfg = c.args[2].toNat ∧ h.len = c.args[3].toNat
      ∧ (s.regionFlaw e false die c.args[0].toNat h.len (h.len / 4096 + 2)).isNone = true then some h else none
  | _ => none

/-- STAT after a STASH (R358). -/
def statAfter (r : StashRun) : Nat :=
  let base := r.stat - bitsOf r.stat 33 1 * stTORN
  match r.fail with
  | none => if bitsOf base 32 1 = 1 then base else base + stSTASHED
  | some _ => if r.wrote = 0 then r.stat else base + stTORN

/-- A STASH to its end. -/
def State.runStash (s : State) (die : Nat) (e : TEnv) (c : Card) (h : StashHeader) : State :=
  let r := stashBlocks e h.shape c h.shape.blocks 0 ⟨none, 0, 0, h.stat, c.ts, s⟩
  let u := r.state.putStat die e c (statAfter r) ((h.gen + (if r.fail.isNone then 1 else 0)) % 2 ^ 64) r.ts
  match r.fail with
  | none => u.2.endOperation die e c 1 (min r.overs (2 ^ 24 - 1)) u.1
  | some x => u.2.endOperation die e c x.1 x.2 u.1

/-- A RESTORE to its end. -/
def State.runRestore (s : State) (die : Nat) (e : TEnv) (c : Card) (h : StashHeader) : State :=
  let r : StashRun :=
    if bitsOf h.stat 33 1 = 1 then ⟨some (0x61, 0), 0, 0, h.stat, c.ts, s⟩
    else restoreBlocks e h.shape c h.shape.blocks 0 ⟨none, 0, 0, h.stat, c.ts, s⟩
  let u := r.state.putStat die e c h.stat h.gen r.ts
  match r.fail with
  | none => u.2.endOperation die e c 1 0 u.1
  | some x => u.2.endOperation die e c x.1 x.2 u.1

/-- An operation that finds its region gone ends with 0x60; STAT is written where the header still lies in a page of the region's kind on
the die. -/
def State.regionGone (s : State) (die : Nat) (e : TEnv) (c : Card) : State :=
  let u := if (s.regionFlaw e false die c.args[0].toNat 64 2).isSome then (c.ts, s) else match s.regionWords e false c.args[0].toNat c.ts 4 with
    | .ok (w, p, s1) => s1.putStat die e c (w[2]?.getD 0) (w[3]?.getD 0) p
    | .error _ => (c.ts, s)
  u.2.endOperation die e c 0x60 0 u.1

/-- Runs a codec's operation whose predecessors are over. -/
def runCodec (die k op : Nat) (f : State → TEnv → Card → StashHeader → State) (s : State) : Out :=
  runEvent (fun s =>
    if 2 ≤ die then s
    else match s.card die k with
      | none => s
      | some c =>
        if c.op != op || c.st != .ready then s
        else
          let e := s.ctxEnv die c.ctx
          match s.stashStart die e c with
          | none => s.regionGone die e c
          | some h => f s e c h) s

/-- STASH_OPERATION. -/
def execStashOperation (die k : Nat) (s : State) : Out := runCodec die k 0x100 (fun s e c h => s.runStash die e c h) s
/-- RESTORE_OPERATION. -/
def execRestoreOperation (die k : Nat) (s : State) : Out := runCodec die k 0x101 (fun s e c h => s.runRestore die e c h) s

/-! ## The instructions (R359, R362) -/

/-- A trap of a codec check. -/
def stashTrap {α : Type} (va code : Nat) : DevM α := trapM causeStash (BitVec.ofNat 64 (Nat.lor va code))

/-- Checks 1 to 4 of R359: the header and the die of the region. What the core does next comes after these reads. -/
def openRegion (x : Word) : DevM (StashHeader × Nat) := do
  let va := x.toNat
  trapIf (va % 4096 != 0) causeMisalign x
  let s ← rd
  let k := s.core s.cur
  let e := k.tenv (dieOf s.cur)
  match s.walkTouch e k.user .amo .codec va with
  | .error c => trapM c x
  | .ok (t, q, s1) =>
    if !leafStash t.leaf then stashTrap va 2
    else
      let die := dramDie (t.pa va)
      match s1.stashHeader e k.user va (max k.pts q) (s1.regionBusy die e.ctx va) with
      | .error c => trapM c.1 (BitVec.ofNat 64 c.2)
      | .ok (none, _) => stashTrap va 1
      | .ok (some h, p, s2) => do
        wr fun _ => s2.modCore s2.cur fun q => q.raisePts p
        pure (h, die)

/-- The card of an operation. -/
def opCard (s : State) (die op : Nat) (x data done : Word) (h : StashHeader) : Card :=
  let k := s.core s.cur
  { id := (s.die die).cards.length, ord := s.serial, ctx := k.sv.ctxid.toNat, addr := x.toNat, queue := none, prio := 0, op := op, cls := 0,
    flags := 0, fin := 0, fout := 0, args := #v[x, data, BitVec.ofNat 64 h.cfg, BitVec.ofNat 64 h.len], doneVa := done.toNat,
    seq := 0, fps := [{ base := data.toNat, len := h.shape.n * h.shape.size, write := op == 0x101 }], preds := [], preds2 := [],
    partner := none, st := .waiting, status := 0, detail := 0, core := some s.cur, user := k.user, hgen := k.u.hgen, ts := k.pts,
    began := none, due := [], launch := none }

/-- A codec queue holds 64 operations. -/
def State.codecFull (s : State) (die : Nat) : Bool := 64 ≤ ((s.die die).cards.filter fun c => 0x100 ≤ c.op && !c.ended).length

/-- The append of an operation: BUSY is set, and FENCEJ of slot 0 waits for it (R121, R358). -/
def State.appendOp (s : State) (die : Nat) (c : Card) (h : StashHeader) : State :=
  let k := s.core s.cur
  let e := k.tenv (dieOf s.cur)
  let stat := h.stat - bitsOf h.stat 39 1 * stBUSY + stBUSY
  let r := (s.regionPut e (c.args[0].toNat + 16) stat k.pts).getD (k.pts, s)
  let s2 := (r.2.modCore r.2.cur fun q => q.raisePts r.1).accept die { c with ts := r.1 }
  if k.onSys then s2 else s2.modCore s2.cur fun q => { q with jobs := q.jobs ++ [(die, c.id)] }

/-- STASH and RESTORE. -/
def stashAppend (op : Nat) (a b e : Reg) : DevM Unit := do
  let x ← onCore (getX a)
  let data ← onCore (getX b)
  let done ← onCore (getX e)
  let (h, die) ← openRegion x
  let s ← rd
  let k := s.core s.cur
  let env := k.tenv (dieOf s.cur)
  match s.regionFlaw env k.user die x.toNat h.len (h.len / 4096 + 2) with
  | some (.fault c va) => trapM c (BitVec.ofNat 64 va)
  | some .notStash => stashTrap x.toNat 2
  | none => do
    trapIf (data.toNat % 64 != 0) causeMisalign data
    trapIf (done.toNat % 16 != 0) causeMisalign done
    match s.walkTouch env k.user .write .none done.toNat with
    | .error c => trapM c done
    | .ok (_, _, s1) => do
      waitAppend
      waitIf (s.codecFull die)
      wr fun _ => s1.appendOp die (opCard s1 die op x data done h) h

/-- STASH. -/
def execStash (a b e : Reg) (s : State) : Out := runInstr (stashAppend 0x100 a b e) s
/-- RESTORE. -/
def execRestore (a b e : Reg) (s : State) : Out := runInstr (stashAppend 0x101 a b e) s

/-- SSTAT. -/
def execSstat (d a : Reg) (s : State) : Out :=
  runInstr (do
    let x ← onCore (getX a)
    let (h, _) ← openRegion x
    onCore (setX d (BitVec.ofNat 64 h.stat))) s

end Sys2Proof.Machine
end

