-- ==== Sys2Proof/Machine/Ckpt.lean ====
section
/-! DEFINITION. Machine/Ckpt.lean: starting a job of any class; checkpoint images, CKSAVE and CKLOAD (16, R324 to R330).
The bytes of the control section's items are the model's choice (log 22, DESIGN CHOICE). -/
namespace Sys2Proof.Machine

/-! ## Starting a job (R225, R350) -/

/-- JOB_START: an engine of a class takes the best READY card, with the cards chained to it; a lineage job then checks its
handles and takes its pins. -/
def execJobStart (die cls : Nat) (s : State) : Out :=
  runEvent (fun s =>
    if 2 ≤ die then s
    else match bestCard ((s.die die).cards.filter (s.mayStart die cls)) with
      | none => s
      | some c =>
        let t := s.startAll die ((s.die die).chain (s.die die).cards.length [c.id])
        if cls = 2 then t.startLineage die c.id else t) s

/-! ## Items of the control section as words (R325) -/

/-- A number that may be absent. -/
def optW (o : Option Nat) : List Nat := match o with
  | some n => [1, n]
  | none => [0]
/-- A list with its length before it. -/
def listW {α : Type} (f : α → List Nat) (l : List α) : List Nat := l.length :: l.flatMap f
/-- A truth value. -/
def boolW (b : Bool) : List Nat := [if b then 1 else 0]
/-- Bytes, each as a word. -/
def bytesW (l : List Byte) : List Nat := listW (fun b => [b.toNat]) l

/-- Codes of a card's states. -/
def cardCode (c : CardState) : Nat := match c with
  | .waiting => 0 | .ready => 1 | .running => 2 | .done => 3 | .retired => 4
/-- Codes of a launch's states. -/
def launchCode (c : LaunchState) : Nat := match c with
  | .queued => 0 | .dealing => 1 | .running => 2 | .draining => 3 | .complete => 4 | .failed => 5 | .aborted => 6

/-- A launch. -/
def launchW (l : Launch) : List Nat :=
  [launchCode l.st, l.code, l.spb, l.gang] ++ boolW l.pin ++ [l.groupn] ++ bytesW l.image ++ [l.arg.toNat]
    ++ listW (fun v : Level => [v.fanout, v.scope, v.domain, v.bar]) l.levels
    ++ listW (fun t : Nat × Nat × Nat => [t.1, t.2.1, t.2.2]) l.tmpl ++ [l.retired]

/-- A card. -/
def cardW (c : Card) : List Nat :=
  [c.id, c.ord, c.addr, c.prio, c.op, c.cls, c.flags, c.fin, c.fout] ++ optW c.queue
    ++ c.args.toList.map BitVec.toNat ++ [c.doneVa, c.seq.toNat]
    ++ listW (fun f : Foot => [f.base, f.len] ++ boolW f.write) c.fps
    ++ optW c.partner ++ [cardCode c.st, c.status, c.detail] ++ optW c.core ++ boolW c.user ++ [c.hgen, c.ts]
    ++ (match c.launch with
      | some l => 1 :: launchW l
      | none => [0])

/-- A dealt group. -/
def dealtW (d : Dealt) : List Nat :=
  [d.die, d.card, d.ord, d.ix, d.cluster] ++ optW d.core ++ [d.levelix.toNat, d.bar.toNat] ++ boolW d.pushed
    ++ [d.dom.1, d.dom.2, d.since]

/-- A saved group on a core, with the core's logical id. -/
def savedW (l c : Nat) (g : SavedGroup) : List Nat :=
  [l, c, g.grp.die, g.grp.card, g.grp.ix, g.grp.rank, g.grp.gang, g.time, g.area, g.htime] ++ optW g.ach ++ optW g.scan
    ++ boolW g.ended ++ g.rrptr.toList ++ listW (fun n => [n]) g.nprio ++ listW (fun j : Nat × Nat => [j.1, j.2]) g.jobs

/-- A watch. -/
def watchW (w : Watch) : List Nat := [w.home, w.pa, w.va.toNat, w.n, w.target.toNat, w.core, w.ch, w.gen]

/-- A wait entry of a child object. -/
def barWaitW (w : BarWait) : List Nat := match w.waiter with
  | .child h va pa => [w.home, w.obj] ++ boolW w.seen ++ [h, va, pa]
  | .core _ => []

/-- A loaded table. -/
def tableW (t : Nat × Nat × List Byte) : List Nat := t.2.1 :: bytesW t.2.2

/-! ## Reading them back -/

/-- Takes words from a list; none where the list does not hold the item. -/
abbrev Take (α : Type) := StateT (List Nat) Option α

/-- The next word. -/
def takeW : Take Nat := fun l => match l with
  | [] => none
  | w :: r => some (w, r)
/-- n items. -/
def takeN {α : Type} (p : Take α) : Nat → Take (List α)
  | 0 => pure []
  | n + 1 => do
    let a ← p
    let l ← takeN p n
    pure (a :: l)
/-- A list with its length before it. -/
def takeL {α : Type} (p : Take α) : Take (List α) := do
  let n ← takeW
  takeN p n
/-- A number that may be absent. -/
def takeO : Take (Option Nat) := do
  let t ← takeW
  if t = 0 then pure none else do
    let n ← takeW
    pure (some n)
/-- A truth value. -/
def takeB : Take Bool := do
  let t ← takeW
  pure (t != 0)
/-- Bytes. -/
def takeBytes : Take (List Byte) := do
  let l ← takeL takeW
  pure (l.map fun n => BitVec.ofNat 8 n)

/-- A card's state from its code. -/
def cardStOf (n : Nat) : CardState := match n with
  | 0 => .waiting | 1 => .ready | 2 => .running | 3 => .done | _ => .retired
/-- A launch's state from its code. -/
def launchStOf (n : Nat) : LaunchState := match n with
  | 0 => .queued | 1 => .dealing | 2 => .running | 3 => .draining | 4 => .complete | 5 => .failed | _ => .aborted

/-- A launch. -/
def takeLaunch : Take Launch := do
  let h ← takeN takeW 4
  let pin ← takeB
  let n ← takeW
  let image ← takeBytes
  let arg ← takeW
  let levels ← takeL (do let v ← takeN takeW 4; pure (⟨v[0]?.getD 0, v[1]?.getD 0, v[2]?.getD 0, v[3]?.getD 0⟩ : Level))
  let tmpl ← takeL (do let v ← takeN takeW 3; pure (v[0]?.getD 0, v[1]?.getD 0, v[2]?.getD 0))
  let ret ← takeW
  pure { st := launchStOf (h[0]?.getD 0), code := h[1]?.getD 0, spb := h[2]?.getD 0, gang := h[3]?.getD 0, pin := pin,
         groupn := n, image := image, arg := BitVec.ofNat 64 arg, levels := levels, tmpl := tmpl, retired := ret }

/-- A card of a context. -/
def takeCard (x : Nat) : Take Card := do
  let h ← takeN takeW 9
  let queue ← takeO
  let args ← takeN takeW 4
  let done ← takeW
  let seq ← takeW
  let fps ← takeL (do let b ← takeW; let l ← takeW; let w ← takeB; pure (⟨b, l, w⟩ : Foot))
  let partner ← takeO
  let st ← takeN takeW 3
  let core ← takeO
  let user ← takeB
  let hgen ← takeW
  let ts ← takeW
  let some_ ← takeB
  let launch ← if some_ then (do let l ← takeLaunch; pure (some l)) else pure none
  let a := fun i => h[i]?.getD 0
  let v := fun i => BitVec.ofNat 64 (args[i]?.getD 0)
  pure { id := a 0, ord := a 1, ctx := x, addr := a 2, queue := queue, prio := a 3, op := a 4, cls := a 5, flags := a 6, fin := a 7,
         fout := a 8, args := #v[v 0, v 1, v 2, v 3], doneVa := done, seq := BitVec.ofNat 64 seq, fps := fps, preds := [],
         preds2 := [], partner := partner, st := cardStOf (st[0]?.getD 0), status := st[1]?.getD 0, detail := st[2]?.getD 0,
         core := core, user := user, hgen := hgen, ts := ts, began := none, due := [], launch := launch }

/-- A dealt group of a context. -/
def takeDealt (x : Nat) : Take Dealt := do
  let h ← takeN takeW 5
  let core ← takeO
  let lv ← takeW
  let bar ← takeW
  let pushed ← takeB
  let t ← takeN takeW 3
  pure { die := h[0]?.getD 0, card := h[1]?.getD 0, ord := h[2]?.getD 0, ix := h[3]?.getD 0, cluster := h[4]?.getD 0, core := core,
         levelix := BitVec.ofNat 64 lv, bar := BitVec.ofNat 64 bar, pushed := pushed, dom := (t[0]?.getD 0, t[1]?.getD 0),
         since := t[2]?.getD 0, ctx := x }

/-- A saved group of a context: its core's logical id, its physical core, the group. -/
def takeSaved (x : Nat) : Take (Nat × Nat × SavedGroup) := do
  let h ← takeN takeW 10
  let ach ← takeO
  let scan ← takeO
  let ended ← takeB
  let rr ← takeN takeW 8
  let np ← takeL takeW
  let jobs ← takeL (do let d ← takeW; let k ← takeW; pure (d, k))
  let a := fun i => h[i]?.getD 0
  pure (a 0, a 1,
    { grp := { die := a 2, card := a 3, ix := a 4, rank := a 5, gang := a 6, ctx := x }, time := a 7, area := a 8, htime := a 9,
      ach := ach, scan := scan, ended := ended,
      rrptr := Vector.ofFn fun i => rr[i.val]?.getD 0, nprio := np, jobs := jobs })

/-- A watch of a context. -/
def takeWatch (x : Nat) : Take Watch := do
  let h ← takeN takeW 8
  let a := fun i => h[i]?.getD 0
  pure { home := a 0, pa := a 1, va := BitVec.ofNat 64 (a 2), n := a 3, target := BitVec.ofNat 64 (a 4), core := a 5, ch := a 6,
         gen := a 7, ctx := x }

/-- A wait entry of a child object of a context. -/
def takeBarWait (x : Nat) : Take BarWait := do
  let home ← takeW
  let obj ← takeW
  let seen ← takeB
  let h ← takeW
  let va ← takeW
  let pa ← takeW
  pure { home := home, obj := obj, seen := seen, waiter := .child h va pa, ctx := x }

/-- A loaded table of a context. -/
def takeTable (x : Nat) : Take (Nat × Nat × List Byte) := do
  let sel ← takeW
  let img ← takeBytes
  pure (x, sel, img)

/-! ## The control section -/

/-- What a control section holds. -/
structure Control where
  desc   : List Nat
  frames : List (Nat × Nat)
  cards  : List (Nat × Card)
  dealt  : List (Nat × Dealt)
  saved  : List (Nat × Nat × SavedGroup)
  gens   : List Nat
  watch  : List Watch
  waits  : List BarWait
  tables : List (Nat × Nat × List Byte)

/-- The frames of a context, by die and index (R325). -/
def State.framesOf (s : State) (x : Nat) : List (Nat × Nat) :=
  (List.range 2).flatMap fun d => ((s.die d).frames.filter fun f => f.2 == .mapped x).map fun f => (d, f.1)

/-- The physical address of a frame. -/
def framePa (f : Nat × Nat) : Nat := dramBase + f.1 * dramSize + f.2 * 2 ^ 21

/-- The control state of a context; the card of the CKSAVE itself is DONE with 0x01. DEALT entries and SAVED groups stand with the cycles
that they have waited. -/
def State.control (s : State) (x desc self : Nat) : Control :=
  let cards := (List.range 2).flatMap fun d => ((s.die d).cards.filter fun c =>
    c.ctx == x && c.st != .retired && c.op < 0x100).map fun c =>
      (d, if d = 0 ∧ c.id = self then { c with st := .done, status := 1 } else c)
  { desc := (s.words (desc * 4096) 16).map BitVec.toNat
    frames := s.framesOf x
    cards := cards
    dealt := (List.range 2).flatMap fun d => ((s.die d).dealt.filter fun e => e.ctx == x).map fun e =>
      (d, { e with since := s.cycle - e.since })
    saved := s.cores.flatMap fun p => (p.2.saved.filter fun g => g.grp.ctx == x).map fun g =>
      (s.logical p.1, p.1, { g with time := s.cycle - g.time })
    gens := (List.range coreCount).map fun c => (s.core c).gen
    watch := s.watches.filter fun w => w.ctx == x
    waits := s.barWaits.filter fun w => w.ctx == x && (match w.waiter with
      | .child .. => true
      | .core _ => false)
    tables := s.tables.filter fun t => t.1 == x }

/-- The frame list: 4-byte entries, two to a word. -/
def frameBytes (l : List (Nat × Nat)) : List Byte := l.flatMap fun f => leBytes 4 (f.1 * 65536 + f.2)

/-- Bytes padded with zeros to a multiple of n. -/
def padTo (n : Nat) (l : List Byte) : List Byte := l ++ List.replicate ((n - l.length % n) % n) 0

/-- The bytes of a control section: the descriptor, the frame list with its length, then the other items. -/
def Control.bytes (k : Control) : List Byte :=
  k.desc.flatMap (leBytes 8) ++ leBytes 8 k.frames.length ++ padTo 8 (frameBytes k.frames)
    ++ (listW (fun c : Nat × Card => c.1 :: cardW c.2) k.cards ++ listW (fun d : Nat × Dealt => d.1 :: dealtW d.2) k.dealt
      ++ listW (fun g : Nat × Nat × SavedGroup => savedW g.1 g.2.1 g.2.2) k.saved ++ listW (fun n => [n]) k.gens
      ++ listW watchW k.watch ++ listW barWaitW k.waits ++ listW tableW k.tables).flatMap (leBytes 8)

/-- The control section in bytes; none where they are no control section. -/
def controlOf (x : Nat) (b : List Byte) : Option Control :=
  let n := bytesNat ((b.drop 128).take 8)
  let fr := (b.drop 136).take (4 * n)
  let rest := (b.drop (136 + (4 * n + 7) / 8 * 8))
  let p : Take Control := do
    let cards ← takeL (do let d ← takeW; let c ← takeCard x; pure (d, c))
    let dealt ← takeL (do let d ← takeW; let e ← takeDealt x; pure (d, e))
    let saved ← takeL (takeSaved x)
    let gens ← takeL takeW
    let watch ← takeL (takeWatch x)
    let waits ← takeL (takeBarWait x)
    let tables ← takeL (takeTable x)
    pure { desc := (wordsOf b 16).map BitVec.toNat
           frames := (List.range n).map fun i => let w := bytesNat ((fr.drop (4 * i)).take 4); (w / 65536 % 2, w % 65536)
           cards := cards, dealt := dealt, saved := saved, gens := gens, watch := watch, waits := waits, tables := tables }
  if fr.length < 4 * n then none
  else (p ((wordsOf rest (rest.length / 8)).map BitVec.toNat)).map Prod.fst

/-! ## The image (R325, R326) -/

/-- Frames of a shard. -/
def shardFrames : Nat := 32
/-- Bytes of a frame. -/
def frameSize : Nat := 2 ^ 21
/-- Rounds up to 64 KiB. -/
def up64k (n : Nat) : Nat := (n + 65535) / 65536 * 65536
/-- Length of a manifest. -/
def manifestLen (shards : Nat) : Nat := 0x90 + 64 * shards + 96
/-- Number of shards for a number of frames. -/
def shardCount (frames : Nat) : Nat := (frames + shardFrames - 1) / shardFrames
/-- Length of shard i of a number of frames. -/
def shardLen (frames i : Nat) : Nat := min shardFrames (frames - shardFrames * i) * frameSize
/-- Offset of shard i. -/
def shardAt (shards c i : Nat) : Nat := up64k (manifestLen shards) + up64k c + i * (shardFrames * frameSize)
/-- Length of an image. -/
def imageLen (frames c : Nat) : Nat :=
  if frames = 0 then up64k (manifestLen 0) + up64k c
  else shardAt (shardCount frames) c (shardCount frames - 1) + shardLen frames (shardCount frames - 1)

/-- MAGIC. -/
def ckMagic : Nat := 0x313054504B433858

/-- A manifest before its signature, with the digest of a signer's key. -/
def manifestBytes (key : List Byte) (seq flags time : Nat) (ctl : List Byte) (shards : List (List Byte)) (c : Nat) : List Byte :=
  [ckMagic, seq, flags, time, shards.length, c].flatMap (leBytes 8)
    ++ digestBytes (sha384 key) ++ digestBytes (sha384 ctl)
    ++ ((List.range shards.length).flatMap fun i =>
      let d := shards[i]?.getD []
      digestBytes (sha384 d) ++ leBytes 8 (shardAt shards.length c i) ++ leBytes 8 d.length)

/-- The bytes of a context's shards. -/
def State.shards (s : State) (frames : List (Nat × Nat)) : List (List Byte) :=
  (List.range (shardCount frames.length)).map fun i =>
    ((frames.drop (shardFrames * i)).take shardFrames).flatMap fun f => cellGets s.mem (framePa f) frameSize

/-- Every page of a range lies in host memory: none, or what ends the job (R330). -/
def State.hostRange (s : State) (e : TEnv) (user : Bool) (acc : Acc) (operand va n : Nat) : Nat → Option (Nat × Nat)
  | 0 => none
  | fuel + 1 =>
    if n = 0 then none
    else match s.walk e user acc .none va with
      | .error c => some (3, faultDetail c operand)
      | .ok (t, _) =>
        if t.pa va < hostBase then some (0x51, 0)
        else
          let k := min n (4096 - va % 4096)
          State.hostRange s e user acc operand (va + k) (n - k) fuel

/-- Writes pieces of an image at their offsets: what ends the job, or none; the timestamp reached. -/
def State.putImage (s : State) (e : TEnv) (user : Bool) (base p : Nat) : List (Nat × List Byte) → Option (Nat × Nat) × Nat × State
  | [] => (none, p, s)
  | (off, b) :: r =>
    let w := s.writeBlock e user .none (base + off) p b (b.length + 1)
    match w.1 with
    | some x => (some (3, faultDetail x.1 1), w.2)
    | none => State.putImage w.2.2 e user base w.2.1 r

/-! ## CKSAVE (R327) -/

/-- No core holds a group of the context. -/
def State.allSaved (s : State) (x : Nat) : Bool := s.cores.all fun p => match p.2.group with
  | some g => g.ctx != x
  | none => true

/-- No operation of the codecs is in flight for the context (R364). -/
def State.regionsRest (s : State) (x : Nat) : Bool := s.dies.all fun d => d.cards.all fun c => !(c.ctx == x && 0x100 ≤ c.op && !c.ended)

/-- The context stands still for its checkpoint: SAVED, or FAULTED with every core saved, and its stash regions at rest. -/
def State.atPeace (s : State) (x : Nat) : Bool :=
  (s.ctxSt x == .saved || s.ctxSt x == .faulted) && s.allSaved x && s.regionsRest x

/-- A CKSAVE of the context runs, and its cores have delivered what they had sent: messages to its cores are held (R327 step 1; log 70,
DEDUCED). -/
def State.ckHolds (s : State) (x : Nat) : Bool :=
  s.atPeace x && s.dies.any fun d => d.cards.any fun c => c.op == 0x20 && c.ctx == x && c.st == .running

/-- A region of the context is not in state 0. -/
def State.ctxRegions (s : State) (x : Nat) : Bool := s.regions.any fun r => r.ctx == x && r.st != 0

/-- RECALL becomes due on every region of a context (R327 step 2). -/
def State.recallCtx (s : State) (x : Nat) : State :=
  { s with regions := s.regions.map fun r => if r.ctx = x ∧ r.st ≠ 0 then { r with recalled := true } else r }

/-- The physical ranges of a list of frames. -/
def frameRanges (l : List (Nat × Nat)) : List (Nat × Nat) := l.map fun f => (framePa f, 2 ^ 21)

/-- The checks of a CKSAVE before it stops the context. -/
def saveCheck (die : Nat) (c : Card) : Option (Nat × Nat) :=
  if die ≠ 0 then some (0x52, 0)
  else if c.args[2] ≠ 0 ∨ slice c.args[3] 63 1 ≠ 0 then some (5, 0)
  else if c.args[0].toNat % 65536 ≠ 0 then some (0x51, 0)
  else none

/-- With RESUME a SAVED context becomes RUNNABLE when its CKSAVE ends (R315). -/
def State.resumeSaved (s : State) (c : Card) : State := match s.ctx? c.ctx with
  | some x => if bitAt c.args[3] 0 && x.st == CtxState.saved then s.ctxTo c.ctx x .runnable else s
  | none => s

/-- The job ends. -/
def State.endSave (s : State) (k : Nat) (c : Card) (status detail : Nat) : State := (s.resumeSaved c).endCard 0 k status detail

/-- Steps 3 to 5 of R327, with every region in state 0: no copy of the context's frames remains. -/
def State.saveImage (s : State) (k : Nat) (c : Card) (x : Context) : State :=
  let s1 := s.dropLines (frameRanges (s.framesOf c.ctx))
  let ctl := s1.control c.ctx x.desc k
  let cb := ctl.bytes
  let data := s1.shards ctl.frames
  let size := imageLen ctl.frames.length cb.length
  let e := s1.ctxEnv 0 c.ctx
  let base := c.args[0].toNat
  if c.args[1].toNat < size then s1.endSave k c 0x50 ((size + 2 ^ 20 - 1) / 2 ^ 20)
  else match s1.hostRange e c.user .write 1 base size (size / 4096 + 2) with
    | some r => s1.endSave k c r.1 r.2
    | none =>
      let seq := (x.ckseq.toNat + 1) % 2 ^ 64
      let flags := c.ctx + bitIf (x.st == .faulted) 16 + (s1.plat.stepLetter + s1.plat.stepNumber * 256) * 2 ^ 32
      let man := manifestBytes (deviceKey s1.plat.meas[1]) seq flags (c.began.getD s1.time) cb data cb.length
      let full := man ++ deviceSign s1.plat.meas[1] s1.free man
      let w := { s1 with free := s1.free + 1 }.putImage e c.user base c.ts
        ((up64k full.length, cb) :: ((List.range data.length).map fun i => (shardAt data.length cb.length i, data[i]?.getD []))
          ++ [(0, full)])
      let s2 := w.2.2.setCard 0 { c with ts := w.2.1 }
      match w.1 with
      | some r => s2.endSave k c r.1 r.2
      | none =>
        ((s2.setCtx c.ctx { x with ckseq := w64 seq }).putWord (x.desc * 4096 + 0x50) seq c.ctx).endSave k c 1 0

/-- CKSAVE: it stops the context, recalls its regions, and writes the image. -/
def execCksave (die k : Nat) (s : State) : Out :=
  runEvent (fun s =>
    match s.card die k with
    | none => s
    | some c =>
      if 2 ≤ die || c.op != 0x20 || c.st != .running then s
      else match saveCheck die c with
        | some r => (s.resumeSaved c).endCard die k r.1 r.2
        | none => match s.ctx? c.ctx with
          | none => s
          | some x =>
            if x.st = .runnable ∨ x.st = .running then (s.setCard 0 { c with began := some s.time }).beginStop c.ctx x
            else if s.atPeace c.ctx then (if s.ctxRegions c.ctx then
                (s.setCard 0 { c with began := some (c.began.getD s.time) }).recallCtx c.ctx
              else s.saveImage k c x)
            else if x.st = .preempting ∨ x.st = .saved ∨ x.st = .faulted then s
            else s.endCard die k 0x52 0) s

/-! ## CKLOAD (R328) -/

/-- The fields of a manifest. -/
structure Manifest where
  seq    : Nat
  flags  : Nat
  shards : Nat
  c      : Nat

/-- A word of an image. -/
def imgWord (b : List Byte) (off : Nat) : Nat := bytesNat ((b.drop off).take 8)
/-- Bytes of an image. -/
def imgBytes (b : List Byte) (off n : Nat) : List Byte := (b.drop off).take n

/-- The manifest of an image, where it is well formed and fits. -/
def manifestOf (b : List Byte) : Option Manifest :=
  let m : Manifest := ⟨imgWord b 8, imgWord b 0x10, imgWord b 0x20, imgWord b 0x28⟩
  let n := manifestLen m.shards
  if imgWord b 0 = ckMagic ∧ bitsOf m.flags 17 15 = 0 ∧ bitsOf m.flags 48 16 = 0 ∧ n ≤ b.length
      ∧ up64k n + m.c ≤ b.length
      ∧ ((List.range m.shards).all fun i =>
        let off := imgWord b (0x90 + 64 * i + 48)
        off % 65536 == 0 && decide (off + imgWord b (0x90 + 64 * i + 56) ≤ b.length)) = true
  then some m else none

/-- The first index at which a test holds. -/
def firstIx {α : Type} (p : α → Bool) : Nat → List α → Option Nat
  | _, [] => none
  | i, a :: r => if p a then some i else firstIx p (i + 1) r

/-- Writes a frame of an image; the core map and the corrected-error log stay (R239, R382), and watches compare (R199). -/
def State.loadFrame (s : State) (pa : Nat) (b : List Byte) : State :=
  let l := if s.guarded pa frameSize then (List.range b.length).map fun i =>
      if s.guarded (pa + i) 1 then s.byte (pa + i) else b[i]?.getD 0
    else b
  s.putList pa l 0

/-- Writes the frames of the shards in order and compares each digest; the index of the first that differs. -/
def State.loadShards (s : State) (b : List Byte) (frames : List (Nat × Nat)) : Nat → Nat → Option Nat × State
  | 0, _ => (none, s)
  | n + 1, i =>
    let off := imgWord b (0x90 + 64 * i + 48)
    let d := imgBytes b off (imgWord b (0x90 + 64 * i + 56))
    let mine := (frames.drop (shardFrames * i)).take shardFrames
    let s1 := (List.range mine.length).foldl (fun (u : State) j =>
      u.loadFrame (framePa (mine[j]?.getD (0, 0))) (imgBytes d (j * frameSize) frameSize)) s
    if digestBytes (sha384 d) = imgBytes b (0x90 + 64 * i) 48 then State.loadShards s1 b frames n (i + 1)
    else (some i, s1)

/-- Inserts into a list that rises by the cards' place in the order of appends. -/
def byOrd (c : Nat × Card) : List (Nat × Card) → List (Nat × Card)
  | [] => [c]
  | d :: r => if c.2.ord < d.2.ord then c :: d :: r else d :: byOrd c r

/-- A die's new number for a card of the image. -/
def newNumber (m : List (Nat × Nat × Nat)) (die k : Nat) : Option Nat :=
  (m.find? fun t => t.1 == die && t.2.1 == k).map fun t => t.2.2

/-- Enters the cards of an image in append order; their edges are taken again (R329). Gives the new numbers. -/
def State.loadCards (s : State) (x : Nat) : List (Nat × Card) → List (Nat × Nat × Nat) → List (Nat × Nat × Nat) × State
  | [], m => (m, s)
  | (d, c) :: r, m =>
    let id := (s.die d).cards.length
    let other := c.partner.bind fun p => newNumber m (1 - d) p
    let ord := ((other.bind fun p => s.card (1 - d) p).map Card.ord).getD s.serial
    let c0 : Card := { c with id := id, ord := ord, ctx := x, fin := if c.ended then 0 else c.fin,
                              fout := if c.ended then 0 else c.fout }
    let c1 := { c0 with preds := if c.ended then [] else s.predsOn d c0
                        preds2 := if c.ended || c.partner.isNone then [] else (s.predsOn (1 - d) c0).filter fun p => other != some p }
    let s1 := s.modDie d fun y => { y with cards := y.cards ++ [c1] }
    State.loadCards { s1 with serial := s1.serial + 1 } x r ((d, c.id, id) :: m)

/-- The partners of package launches get their new numbers. -/
def State.relink (s : State) (m : List (Nat × Nat × Nat)) : State :=
  m.foldl (fun u t => match u.card t.1 t.2.2 with
    | some c => u.setCard t.1 { c with partner := c.partner.bind fun p => newNumber m (1 - t.1) p }
    | none => u) s

/-- A saved group with its launch's new number and its wait counted from now. -/
def relinkSaved (m : List (Nat × Nat × Nat)) (cycle : Nat) (g : SavedGroup) : SavedGroup :=
  { g with
    time := cycle - g.time
    grp := { g.grp with card := (newNumber m g.grp.die g.grp.card).getD g.grp.card }
    jobs := g.jobs.filterMap fun j => (newNumber m j.1 j.2).map fun k => (j.1, k) }

/-- A dealt group with its launch's new number and place, and its wait counted from now. -/
def State.relinkDealt (s : State) (m : List (Nat × Nat × Nat)) (e : Dealt) : Dealt :=
  let n := (newNumber m e.die e.card).getD e.card
  { e with card := n, ord := ((s.card e.die n).map Card.ord).getD e.ord, since := s.cycle - e.since }

/-- The last card of each host queue of an image is the last that its doorbell accepted (R220). -/
def State.loadDoors (s : State) (x : Nat) : List (Nat × Card) → State
  | [] => s
  | (d, c) :: r => State.loadDoors (match c.core, c.queue with
    | none, some q => s.setDoor d x q c.addr
    | _, _ => s) x r

/-- The regions of a list of ranges start in state 0 with EVR 0 (R328 step 6). -/
def State.freshRegions (s : State) (l : List (Nat × Nat)) : State :=
  { s with regions := s.regions.map fun r => if r.inRanges l then { r.emptied with evr := 0 } else r }

/-- Step 6 of R328: the control state enters schedulers, homes, cores and table stores. In the model a read-back finds what was written
(log 41, DEDUCED). -/
def State.install (s : State) (x : Nat) (k : Control) : State :=
  let cards := k.cards.foldl (fun l c => byOrd c l) []
  let r := s.loadCards x cards []
  let s1 := ((r.2.relink r.1).clearDoors x).loadDoors x cards
  let s2 := k.dealt.foldl (fun (u : State) e => u.modDie e.1 fun d => { d with dealt := d.dealt ++ [s1.relinkDealt r.1 e.2] }) s1
  let s3 := k.saved.foldl (fun (u : State) g => u.modCore g.2.1 fun q =>
    { q with saved := q.saved ++ [relinkSaved r.1 s.cycle g.2.2] }) s2
  let s4 := (List.range k.gens.length).foldl (fun (u : State) c => u.modCore c fun q => { q with gen := k.gens[c]?.getD 0 }) s3
  State.freshRegions { s4 with watches := s4.watches ++ k.watch, barWaits := s4.barWaits ++ k.waits,
                               tables := (s4.tables.filter fun t => t.1 != x) ++ k.tables } (frameRanges k.frames)

/-- The context takes the image's descriptor and its sequence number. -/
def State.loadContext (s : State) (x : Nat) (k : Context) (ctl : Control) (m : Manifest) (start : Bool) : State :=
  let q := { contextFrom k.desc (ctl.desc.map fun n => w64 n) with ckseq := w64 m.seq, st := .loading }
  let s1 := (List.range 16).foldl (fun (u : State) i =>
    u.putWord (k.desc * 4096 + 8 * i) (if i = 10 then m.seq else ctl.desc[i]?.getD 0) x) s
  if start then s1.ctxTo x q (if bitsOf m.flags 16 1 = 1 then .faulted else .runnable) else s1.setCtx x q

/-- Steps 2 and 3 of R328. -/
def State.signedBad (s : State) (c : Card) (k : Context) (b key : List Byte) (m : Manifest) : Option (Nat × Nat) :=
  let n := manifestLen m.shards - 96
  if digestBytes (sha384 key) ≠ imgBytes b 0x30 48
      ∨ !(key == deviceKey s.plat.meas[1] || s.plat.signers.any fun d => d.toNat == sha384 key)
      ∨ !ecdsaVerify key (b.take n) (imgBytes b n 96) then some (0x54, 0)
  else if m.seq < k.ckseq.toNat ∧ bitAt c.args[3] 1 = false then some (0x55, 0)
  else none

/-- Step 4 of R328. -/
def State.placeBad (s : State) (x : Nat) (ctl : Control) : Option (Nat × Nat) :=
  match firstIx (fun f => s.frame (framePa f) != .mapped x) 0 ctl.frames with
  | some i => some (0x56, i)
  | none => match ctl.saved.find? fun g => s.physical g.1 != some g.2.1 with
    | some g => some (0x59, g.1)
    | none => none

/-- Steps 4 to 7 of R328 on a verified image. -/
def State.loadImage (s : State) (k : Nat) (c : Card) (x : Context) (b : List Byte) (m : Manifest) : State :=
  let cb := imgBytes b (up64k (manifestLen m.shards)) m.c
  let good := digestBytes (sha384 cb) = imgBytes b 0x60 48
  match controlOf c.ctx cb with
  | none => if good then s.endCard 0 k 0x58 0 else s.endCard 0 k 0x53 0xFFFFFF
  | some ctl =>
    match s.placeBad c.ctx ctl with
    | some r => s.endCard 0 k r.1 r.2
    | none =>
      if !good then s.endCard 0 k 0x53 0xFFFFFF
      else if m.shards ≠ shardCount ctl.frames.length
          ∨ !((List.range m.shards).all fun i => imgWord b (0x90 + 64 * i + 56) == shardLen ctl.frames.length i)
        then s.endCard 0 k 0x58 0
      else
        let l := (s.dropLines (frameRanges ctl.frames)).loadShards b ctl.frames m.shards 0
        match l.1 with
        | some i => l.2.endCard 0 k 0x53 i
        | none => ((l.2.install c.ctx ctl).loadContext c.ctx x ctl m (bitAt c.args[3] 0)).endCard 0 k 1 0

/-- The checks of CKLOAD before step 1, and step 1. -/
def State.loadCheck (s : State) (die : Nat) (c : Card) : Option (Nat × Nat) :=
  if die ≠ 0 then some (0x52, 0)
  else if slice c.args[3] 63 2 ≠ 0 ∨ c.args[2].toNat % 8 ≠ 0 then some (5, 0)
  else if c.args[0].toNat % 65536 ≠ 0 then some (0x51, 0)
  else match s.ctx? c.ctx with
    | some x => if x.st = .loading then none else some (0x52, 0)
    | none => some (0x52, 0)

/-- CKLOAD after its first checks. -/
def State.runLoad (s : State) (k : Nat) (c : Card) (x : Context) : State :=
  let e := s.ctxEnv 0 c.ctx
  let base := c.args[0].toNat
  let n := c.args[1].toNat
  match s.hostRange e c.user .read 0 base n (n / 4096 + 2) with
  | some r => s.endCard 0 k r.1 r.2
  | none => match s.readBlock e c.user .none base c.ts n (n + 1) with
    | .error r => s.endCard 0 k 3 (faultDetail r.1 0)
    | .ok (b, _, s1) => match manifestOf b with
      | none => s1.endCard 0 k 0x58 0
      | some m => match s1.readBlock e c.user .none c.args[2].toNat c.ts 97 98 with
        | .error r => s1.endCard 0 k 3 (faultDetail r.1 2)
        | .ok (key, _, s2) => match s2.signedBad c x b key m with
          | some r => s2.endCard 0 k r.1 r.2
          | none => s2.loadImage k c x b m

/-- CKLOAD. -/
def execCkload (die k : Nat) (s : State) : Out :=
  runEvent (fun s =>
    match s.card die k with
    | none => s
    | some c =>
      if 2 ≤ die || c.op != 0x21 || c.st != .running then s
      else match s.loadCheck die c, s.ctx? c.ctx with
        | some r, _ => s.endCard die k r.1 r.2
        | none, some x => s.runLoad k c x
        | none, none => s) s

end Sys2Proof.Machine
end

