-- ==== Sys2Proof/Machine/Devregs.lean ====
section
/-! DEFINITION. Machine/Devregs.lean: the register region and BAR0: the scheduler blocks (R247), the frame units (R288), the
table images (R302), the protocol blocks (R311), the context, link and platform blocks (R313, R371, R378). -/
namespace Sys2Proof.Machine

/-- What a device register answers. -/
inductive DevAns (α : Type) where
  | ok (a : α)
  /-- The privilege does not reach the block. -/
  | prot
  /-- No rule puts a register there. -/
  | hole

/-- The blocks of the register region. -/
inductive DevBlock where
  | sched (die : Nat) | frame (die : Nat) | image (k : Nat) | proto (die : Nat) | link | plat
  deriving DecidableEq, Repr

/-- The block of a physical address, and the offset in it. -/
def devBlock (pa : Nat) : Option (DevBlock × Nat) :=
  let b := pa / 2 ^ 24
  let o := pa % 2 ^ 24
  if b = 0xFFF then (if o < 0x2000 then some (.sched (o / 0x1000), o % 0x1000) else none)
  else if b = 0xFFE then (if o < 0x2000 then some (.frame (o / 0x1000), o % 0x1000) else none)
  else if b = 0xFFD then (if 0x800 ≤ o ∧ o < 0x2000 ∧ o % 0x800 < 0x440 then some (.image (o / 0x800), o % 0x800) else none)
  else if b = 0xFFC then (if o < 0x2000 then some (.proto (o / 0x1000), o % 0x1000) else none)
  else if b = 0xFFB then some (.link, o)
  else if b = 0xFFA then some (.plat, o)
  else none

/-- Blocks that only M reaches. -/
def DevBlock.machineOnly : DevBlock → Bool
  | .sched _ => false
  | .image _ => false
  | _ => true

/-- SCHEDCFG (R247). -/
def Die.schedcfg (d : Die) : Word := w64 (d.balthr * 2 ^ 8 + d.gangexp)

/-- A write of SCHEDCFG: ignored whole when a zero bit is set. -/
def State.putSchedcfg (s : State) (die : Nat) (v : Word) : State :=
  if slice v 63 16 ≠ 0 ∨ slice v 7 5 ≠ 0 then s
  else s.modDie die fun d => { d with balthr := slice v 15 8, gangexp := slice v 4 0 }

/-- A word of the device attestation key at 0x300 of the platform block (R381). -/
def keyWord (m1 : BitVec 384) (off : Nat) : Option Word :=
  if 0x300 ≤ off ∧ off < 0x368 then some (w64 (bytesNat (((deviceKey m1).drop (off - 0x300)).take 8))) else none

/-- What a read of a write-only register gives: a value that no rule states (log 68, DESIGN CHOICE). -/
def State.freeRead (s : State) : Word × State := (Config.freeWord s.free, { s with free := s.free + 1 })

/-- An 8-byte register; PREEMPT, FCMD and LCMD are write-only (R247, R289, R371). -/
def State.devWord (s : State) (b : DevBlock) (o : Nat) : Option (Word × State) :=
  match b with
  | .sched d => if o = 0 then some ((s.die d).schedcfg, s) else if o = 8 then some s.freeRead else none
  | .frame d => if o = 0 then some s.freeRead else if o = 8 then some (s.fstat d, s) else none
  | .image k => some (w64 (romWord k o), s)
  | .proto d =>
    if o = 0 then some (w64 (s.die d).logBase, s) else if o = 8 then some (w64 (s.die d).logCap, s) else none
  | .link => if o < 0x1100 ∧ o % 0x100 = 0x10 then some s.freeRead else (s.linkRead o).map fun w => (w, s)
  | .plat => ((s.platRead o).or (keyWord s.plat.meas[1] o)).map fun w => (w, s)

/-- A load of n bytes from the register region at S or M, in pieces that end at multiples of 8; fuel bounds the pieces. -/
def State.devRead (s : State) (machine : Bool) (pa n : Nat) : Nat → DevAns (Nat × State)
  | 0 => .ok (0, s)
  | fuel + 1 =>
    if n = 0 then .ok (0, s)
    else match devBlock pa with
      | none => .hole
      | some (b, o) =>
        if b.machineOnly && !machine then .prot
        else match s.devWord b (o / 8 * 8) with
          | none => .hole
          | some (w, s1) =>
            let k := min n (8 - pa % 8)
            match State.devRead s1 machine (pa + k) (n - k) fuel with
            | .ok r => .ok (bitsOf w.toNat (8 * (pa % 8)) (8 * k) + r.1 * 2 ^ (8 * k), r.2)
            | a => a

/-- A write of an 8-byte register; words that nothing writes keep their value. -/
def State.devPut (s : State) (b : DevBlock) (o : Nat) (v : Word) (w : Writer) : DevAns State :=
  match b with
  | .sched d => if o = 0 then .ok (if outsideWriter w then s.putSchedcfg d v else s)
    else if o = 8 then .ok (s.preemptWrite d v w) else .hole
  | .frame d => if o = 0 then .ok (s.fcmd d v) else if o = 8 then .ok s else .hole
  | .image _ => .ok s
  | .proto d =>
    if o = 0 then .ok (s.modDie d fun x => { x with logBase := v.toNat, logCount := 0 })
    else if o = 8 then .ok (s.modDie d fun x => { x with logCap := v.toNat }) else .hole
  | .link => if o < 0x1100 ∧ o % 0x100 < 0x18 then .ok (s.linkWrite o v w) else .hole
  | .plat => if (s.platRead o).isSome ∨ (keyWord s.plat.meas[1] o).isSome then .ok (s.platWrite o v w) else .hole

/-- A store of k bytes from byte i of the register at an offset: the other bytes are written as they read (log 68, DESIGN CHOICE). -/
def State.devPiece (s : State) (b : DevBlock) (o i k v : Nat) (w : Writer) : DevAns State :=
  if k = 8 then s.devPut b o (w64 v) w
  else match s.devWord b o with
    | none => .hole
    | some (old, s1) =>
      s1.devPut b o (w64 (old.toNat - bitsOf old.toNat (8 * i) (8 * k) * 2 ^ (8 * i) + v * 2 ^ (8 * i))) w

/-- A store of n bytes to the register region at S or M, in pieces that end at multiples of 8; fuel bounds the pieces. -/
def State.devWrite (s : State) (pa n v : Nat) (w : Writer) : Nat → DevAns State
  | 0 => .ok s
  | fuel + 1 =>
    if n = 0 then .ok s
    else match devBlock pa with
      | none => .hole
      | some (b, o) =>
        if b.machineOnly && !outsideWriter w then .prot
        else
          let k := min n (8 - pa % 8)
          match s.devPiece b (o / 8 * 8) (o % 8) k (v % 2 ^ (8 * k)) w with
          | .ok s1 => State.devWrite s1 (pa + k) (n - k) (v / 2 ^ (8 * k)) w fuel
          | a => a

/-- A write of CTXARG (R313). -/
def State.putCtxarg (s : State) (v : Word) : State :=
  { s with plat := { s.plat with ctxarg := w64 (slice v 51 12 * 4096) } }

/-- A write at a BAR0 offset. -/
def State.barWrite (s : State) (off : Nat) (v : Word) (w : Writer) : State :=
  let o := off % 2 ^ 16
  match off / 2 ^ 16 with
  | 0x40 => if w = .host ∧ o < 0x4000 then s.doorbell (o / 0x2000) (o % 0x2000 / 8) v.toNat else s
  | 0x41 => if o < 0x2000 then (match s.devPut (.sched (o / 0x1000)) (o % 0x1000) v w with
      | .ok t => t
      | _ => s) else s
  | 0x42 => if !outsideWriter w then s else if o = 0 then s.ctxCmd v else if o = 8 then s.putCtxarg v else s
  | 0x43 => if outsideWriter w then s.linkWrite o v w else s
  | 0x44 => if outsideWriter w then s.platWrite o v w else s
  | _ => s

/-- What the host reads at a BAR0 offset: the words of the scheduler, context, link and platform blocks and the attestation key; none
where no rule puts a word that can be read. A read changes nothing (R247, R313, R371, R378, R381; log 84, DEDUCED). -/
def State.barRead (s : State) (off : Nat) : Option Word :=
  let o := off % 2 ^ 16
  if off % 8 ≠ 0 then none
  else match off / 2 ^ 16 with
  | 0x41 => if o < 0x2000 ∧ o % 0x1000 = 0 then some (s.die (o / 0x1000)).schedcfg else none
  | 0x42 => if o = 8 then some s.plat.ctxarg else if o = 0x10 then some s.ctxstat else none
  | 0x43 => s.linkRead o
  | 0x44 => (s.platRead o).or (keyWord s.plat.meas[1] o)
  | _ => none

/-- REGISTER_WRITE: an 8-byte write at a BAR0 offset; the host's comes through a UCIe module (R365, R377). -/
def execRegisterWrite (off : Nat) (v : Word) (w : Writer) (s : State) : Out :=
  runEvent (fun s => if off % 8 = 0 ∧ s.writerReaches w = true then s.barWrite off v w else s) s

end Sys2Proof.Machine
end

