-- ==== Sys2Proof/Machine/Access.lean ====
section
/-! DEFINITION. Machine/Access.lean: what a core's load, store or atomic does: translation, the L1, requests to the home,
stores in their order and device registers (05, R105 to R107, R116, R117; 14, R283, R286, R287; 15, R293, R294; 20, R382). -/
namespace Sys2Proof.Machine

/-! ## Translation -/

/-- The trap that a walk for a page has ended with, for an access of its kind to the page. -/
def walkTrap (k : Core) (acc : Acc) (va : Nat) : Option Nat :=
  match k.pending with
  | .walked a v c => if a = acc ∧ v / 4096 = va / 4096 then some c else none
  | _ => none

/-- The translation that the core holds for an access: a miss, or a write through a leaf with D = 0, asks the bay's walker; after a
PROT under a translation the core holds, the next access walks (R286, R287, R291). -/
def translate (acc : Acc) (va : Word) : DevM TlbEntry := fun s =>
  let k := s.core s.cur
  match walkTrap k acc va.toNat with
  | some c => .error (.trap c va)
  | none =>
    if 2 ^ 48 ≤ va.toNat then .error (.trap causeNotPresent va)
    else match s.tlbHit s.cur va.toNat with
      | none => .error (.wait fun u => u.askWalk u.cur k.user acc va.toNat)
      | some (t, s1) =>
        if !s.hitOk k acc t va.toNat then .error (.markTrap (fun u => u.dropStale u.cur va.toNat) (s.hitCause t va.toNat) va)
        else if (acc == .write || acc == .amo) && !leafD t.leaf then .error (.wait fun u => u.askWalk u.cur k.user acc va.toNat)
        else .ok (t, s1)

/-- MISALIGN of R105. -/
def checkAlign (va : Word) (n : Nat) : CpuM Unit := trapIf (va.toNat % n != 0) causeMisalign va

/-! ## The home of an access -/

/-- Where an access goes (R107, R117, R280). -/
inductive Target where
  | device
  /-- Cacheable in the core's L1: die-local memory. -/
  | near (home : Nat)
  /-- An NC page of die-local memory. -/
  | uncached (home : Nat)
  /-- A line of the other die, homed on a core there. -/
  | far (home core : Nat)
  | host (home : Nat)
  deriving DecidableEq, Repr

/-- The target of a physical address under a translation. -/
def State.target (s : State) (t : TlbEntry) (pa : Nat) : Target :=
  let d := dieOf s.cur
  if pa < dramBase then .device
  else
    let h := t.home d pa
    if 4096 ≤ h then .host h
    else match s.physical h with
      | some c => if dieOf c != d then .far h c else if leafNc t.leaf then .uncached h else .near h
      | none => .near h

/-- A request of the issuing core. -/
def State.reqOf (s : State) (t : TlbEntry) (home pa : Nat) (kind : ReqKind) : Req :=
  let k := s.core s.cur
  { kind := kind, home := home, pa := pa, agent := agentOf s home s.cur, core := s.cur, p := k.pts, ctx := k.sv.ctxid.toNat,
    sel := leafProto t.leaf, retryAt := none }

/-- A slot that waits for host memory counts the time (R316, WATCHDOG). -/
def Core.startHostWait (k : Core) (time : Nat) (va : Word) : Core :=
  if k.onSys || k.hostWait.isSome then k else { k with hostWait := some (time, va) }

/-- The answer for a home comes from host memory, or over the bridge while that is cut, where the wait ends in WATCHDOG (R316, R373). -/
def State.slowHome (s : State) (c home : Nat) : Bool := 4096 ≤ home || (homeDie s home != dieOf c && s.cut 12)

/-- The issuing core counts the time of an access whose answer comes from such a home. -/
def State.timed (s : State) (home : Nat) (va : Word) : State :=
  if s.slowHome s.cur home then s.modCore s.cur fun k => k.startHostWait s.time va else s

/-- A core waits for an answer of such a home: its request or the answer is on its way, or the home holds the request. -/
def State.waitsSlow (s : State) (c : Nat) : Bool :=
  let mine := fun (q : Req) => q.core == c && s.slowHome c q.home
  s.reqs.any mine || (s.reps.any fun m => m.core == c && s.slowHome c m.home)
    || (s.acks.any fun a => a.core == c && s.slowHome c a.home) || (s.regions.any fun r => r.waiting.any mine)
    || (s.cut 12 && s.cores.any fun p => dieOf p.1 != dieOf c && p.2.slot1.any fun o => o.core == c)

/-- The access goes on waiting for an answer, and counts the time where a slow home owes it (R316, R373). -/
def State.waitOn (s : State) (va : Word) : State :=
  if s.waitsSlow s.cur then s.modCore s.cur fun k => k.startHostWait s.time va else s

/-- Waits for every acknowledgement of an earlier store, and counts the time (R107, R316). -/
def waitAckedAt (va : Word) : DevM Unit := fun s =>
  if (s.core s.cur).storesDone then .ok ((), s) else .error (.wait fun u => u.waitOn va)

/-- A copy that the core holds under another home is given up before it asks the new one: software has changed the home of the
page without R291 (log 36, DEDUCED). -/
def State.dropElsewhere (s : State) (q : Req) : Option State :=
  match lookupK (s.core s.cur).l1 (q.pa / 64) with
  | some l => if l.home = q.home then some s else s.giveUp s.cur (q.pa / 64)
  | none => some s

/-- Sends a request when no copy under another home has to go first. -/
def State.askHome (s : State) (q : Req) (f : Core → Core) : State := match s.dropElsewhere q with
  | some t => (t.modCore s.cur f).request q
  | none => s

/-- Sends a request, unless one of the core for the line is on its way; a host line starts the watchdog. -/
def State.sendMiss (s : State) (q : Req) (va : Word) : State :=
  let s1 := s.timed q.home va
  if s1.asked s.cur q.pa then s1 else s1.askHome q id

/-- Sends a request whose answer the instruction takes. -/
def State.sendAsk (s : State) (q : Req) (va : Word) : State := (s.timed q.home va).askHome q fun k => k.setPending .sent

/-- The core's pending loads of NC lines, with the next on its way. -/
def Pend.askLine : Pend → Pend
  | .lines g _ => .lines g true
  | _ => .lines [] true

/-- Sends a no-copy read, whose answer joins those that the access has. -/
def State.sendNocopy (s : State) (q : Req) (va : Word) : State :=
  (s.timed q.home va).askHome q fun k => k.setPending k.pending.askLine

/-! ## The L1 (R293) -/

/-- The physical lease of a copy has not ended, and its agent has not fenced itself (R307, R308). -/
def State.copyUsable (s : State) (c : Nat) (l : L1Line) : Bool :=
  !(s.agent (clusterOf c)).drift && (!s.leaseMode (clusterOf c) || decide (s.time < l.lease))

/-- n bytes of a line's data from an offset. -/
def L1Line.read (l : L1Line) (off n : Nat) : Nat := bitsOf l.data.toNat (8 * off) (8 * n)

/-- A load that hits: its timestamp and the line after it; none where the copy does not serve it. -/
def L1Line.loadHit (l : L1Line) (p : Nat) : Option (Nat × L1Line) :=
  if l.excl then some (max p l.wts, { l with rts := max l.rts (max p l.wts) })
  else if p ≤ l.rts then some (max p l.wts, l)
  else none

/-- The copy of a remote-data cache serves the die: its lease has not ended, and the cache has not fenced itself (R307, R308). -/
def State.rdcUsable (s : State) (die : Nat) (l : L1Line) : Bool :=
  !(s.agent (288 + die)).drift && (!s.leaseMode (288 + die) || decide (s.time < l.lease))

/-- Replaces a line of the L1; PTS reaches the access's timestamp. -/
def Core.putLine (k : Core) (line : Nat) (l : L1Line) (tau : Nat) : Core :=
  { k with l1 := insertK k.l1 line l, pts := max k.pts tau }

/-- The copy that serves a load: the L1's, or a sub-lease of the die's remote-data cache (R294). -/
def State.copyFor (s : State) (home line : Nat) : Option L1Line :=
  let k := s.core s.cur
  match lookupK k.l1 line with
  | some l => if l.home = home ∧ s.copyUsable s.cur l = true ∧ (l.loadHit k.pts).isSome = true then some l
    else sub k
  | none => sub k
where
  /-- A sub-lease. -/
  sub (k : Core) : Option L1Line := match lookupK (s.die (dieOf s.cur)).rdc line with
    | some l =>
      if l.home = home ∧ s.copyUsable s.cur l = true ∧ s.rdcUsable (dieOf s.cur) l = true ∧ k.pts ≤ l.rts
      then some { l with excl := false } else none
    | none => none

/-- A cacheable load of n bytes within a line. -/
def loadCached (t : TlbEntry) (va : Word) (pa home n : Nat) : DevM Nat := fun s =>
  match s.copyFor home (pa / 64) with
  | none => .error (.wait fun u => u.sendMiss (u.reqOf t home pa (.rd false)) va)
  | some l => match l.loadHit (s.core s.cur).pts with
    | none => .error (.wait id)
    | some (tau, l1) => .ok (l.read (pa % 64) n, s.modCore s.cur fun k => k.putLine (pa / 64) l1 tau)

/-- A load of an NC page: the home answers with the line, and the answers to a longer access are taken in their order (R293). -/
def loadUncached (t : TlbEntry) (va : Word) (pa home n : Nat) : DevM Nat := fun s =>
  match (s.core s.cur).pending with
  | .lines (g :: rest) asked => .ok (bitsOf g (8 * (pa % 64)) (8 * n), s.modCore s.cur fun k => k.setPending (.lines rest asked))
  | .lines [] true => .error (.wait fun u => u.waitOn va)
  | _ => .error (.wait fun u => u.sendNocopy (u.reqOf t home pa (.rd true)) va)

/-- A load of the register region (R247). -/
def loadDevice (va : Word) (pa n : Nat) : DevM Nat := fun s =>
  match s.devRead ((s.core s.cur).priv == 3) pa n (n + 1) with
  | .ok r => .ok r
  | .prot => .error (.trap causeProt va)
  | .hole => .error (.fault (.deviceHole pa))

/-- n bytes at a virtual address, within one line. -/
def loadMem (va : Word) (n : Nat) : DevM Nat := do
  let t ← translate .read va
  let pa := t.pa va.toNat
  waitAckedAt va
  let s ← rd
  match s.target t pa with
  | .device => loadDevice va pa n
  | .uncached h => loadUncached t va pa h n
  | .host h => if leafNc t.leaf then loadUncached t va pa h n else loadCached t va pa h n
  | .far h _ => if leafNc t.leaf then loadUncached t va pa h n else loadCached t va pa h n
  | .near h => loadCached t va pa h n

/-! ## Stores -/

/-- 8-byte events of an access of n bytes (R269). -/
def eventsOf (n : Nat) : Nat := max 1 (n / 8)

/-- The last timestamp of a store of n bytes to a line held exclusively: at the grant's stamp where the grant answers this
store, else above the line's rts (R293). -/
def L1Line.storeTau (l : L1Line) (fresh : Bool) (p n : Nat) : Nat :=
  (if fresh then l.wts else max p (l.rts + 1)) + (eventsOf n - 1)

/-- A line after a store. -/
def L1Line.stored (l : L1Line) (off n v tau : Nat) : L1Line := { l with data := lineSets l.data off n v, wts := tau, rts := tau }

/-- Writes bytes at a home in events of at most 8 bytes; the timestamp reached (R269). Fuel bounds the events. -/
def State.homeStore (s : State) (home pa p ctx : Nat) (who : Option Nat) : Nat → Nat → Nat → Nat × State
  | 0, _, _ => (p, s)
  | fuel + 1, n, v =>
    if n = 0 then (p, s)
    else
      let k := min (8 - pa % 8) n
      let r := s.homeWrite home pa k (v % 2 ^ (8 * k)) p ctx who
      State.homeStore r.2 home (pa + k) r.1 ctx who fuel (n - k) (v / 2 ^ (8 * k))

/-- A store of a core to a watched line, performed at its home in this step (R199; log 7, DEDUCED). -/
def State.storeHere (s : State) (c : Nat) (o : StoreOp) : State :=
  let r := s.homeStore o.home o.pa (s.core c).pts o.ctx (some c) o.n o.n o.data
  r.2.modCore c fun q => q.raisePts r.1

/-- The line is held exclusively and usable by a core. -/
def State.ownedLine (s : State) (c home line : Nat) : Option L1Line :=
  match lookupK (s.core c).l1 line with
  | some l => if l.home = home ∧ l.excl = true ∧ s.copyUsable c l = true then some l else none
  | none => none

/-- A store in the core's L1, to a line that it owns; `fresh` where the grant of the line answers this store (R293). -/
def State.storeOwned (s : State) (c : Nat) (o : StoreOp) (l : L1Line) (fresh : Bool) : State :=
  let k := s.core c
  let tau := l.storeTau fresh k.pts o.n
  (s.setCore c (k.putLine (o.pa / 64) (l.stored (o.pa % 64) o.n o.data tau) tau)).noteWrite o.pa o.n

/-- The pending request was answered by the grant of the line. -/
def Core.grantedLine (k : Core) (line : Nat) : Bool := match k.pending with
  | .granted w => w == line
  | _ => false

/-- Waits for exclusive ownership of a line: sends RDX once. -/
def askOwner (t : TlbEntry) (va : Word) (pa home : Nat) : DevM L1Line := fun s =>
  match s.ownedLine s.cur home (pa / 64) with
  | some l => .ok (l, s)
  | none => .error (.wait fun u => u.sendAsk (u.reqOf t home pa .rdx) va)

/-- Waits while the answer to an RDX of the issuing slot is on its way. -/
def waitSent : DevM Unit := fun s => match (s.core s.cur).pending with
  | .sent => .error (.wait id)
  | _ => .ok ((), s)

/-- A write performed at its home waits while the home takes nothing from the core (R307, R309). -/
def waitHome (home : Nat) : DevM Unit := fun s => if s.reaches home s.cur then .ok ((), s) else .error (.wait id)

/-- A store to a die-local cacheable line. -/
def storeNear (t : TlbEntry) (va : Word) (o : StoreOp) : DevM Unit := do
  waitSent
  let s ← rd
  if s.watched (o.pa / 64) then do
    waitHome o.home
    wr fun u => u.storeHere u.cur o
  else do
    let l ← askOwner t va o.pa o.home
    wr fun u => u.storeOwned u.cur o l ((u.core u.cur).grantedLine (o.pa / 64))

/-- A request that a store of a core makes of its home. -/
def State.storeReq (s : State) (c : Nat) (o : StoreOp) (kind : ReqKind) : Req :=
  { kind := kind, home := o.home, pa := o.pa, agent := agentOf s o.home c, core := c, p := (s.core c).pts, ctx := o.ctx, sel := o.sel,
    retryAt := none }

/-- A store travels to its home, to slot 1 on the other die, and the home acknowledges it (R107, R293). -/
def State.sendStore (s : State) (c : Nat) (o : StoreOp) : State :=
  let s1 := s.modCore c fun k => { k with unacked := k.unacked + 1 }
  match o.dest with
  | .far h =>
    let r : RemoteOp :=
      { core := c, pa := o.pa, n := o.n, amo := none, data := o.data, cmp := 0, rm := 0, pts := (s.core c).pts, ctx := o.ctx, sel := o.sel,
        time := s.time }
    s1.modCore h fun q => { q with slot1 := q.slot1 ++ [r] }
  | _ => s1.request (s.storeReq c o (.rst o.n o.data))

/-- Sets the stores that a core has still to perform. -/
def State.setStq (s : State) (c : Nat) (l : List StoreOp) : State := s.modCore c fun k => { k with stq := l }

/-- A store of a core that its group left to be performed later is an access of the group: the sequence writes of the launches that run
follow it (R212, R276). -/
def State.storeSeen (s : State) (c : Nat) (o : StoreOp) : State := s.raiseLaunches o.ctx (s.core c).pts

/-- Performs the stores that have issued behind an unacknowledged one, in their order, as far as this step can: one that travels to
its home keeps the later ones back until its timestamp is known (R107, R272). `fresh` is a line that has just been granted. -/
def State.drainFrom (s : State) (c : Nat) (fresh : Option Nat) : List StoreOp → State
  | [] => s.setStq c []
  | o :: rest =>
    let line := o.pa / 64
    match o.dest with
    | .near =>
      if s.asked c o.pa || (s.watched line && !s.reaches o.home c) then s.setStq c (o :: rest)
      else if s.watched line then State.drainFrom ((s.storeHere c o).storeSeen c o) c none rest
      else match s.ownedLine c o.home line with
        | some l => State.drainFrom ((s.storeOwned c o l (fresh == some line)).storeSeen c o) c none rest
        | none => (s.setStq c (o :: rest)).request (s.storeReq c o .rdx)
    | _ => (s.setStq c rest).sendStore c o

/-- The stores of a core that wait go on, where the one before them is acknowledged. -/
def State.drainStores (s : State) (c : Nat) (fresh : Option Nat) : State :=
  let k := s.core c
  if k.unacked = 0 ∧ k.stq ≠ [] then s.drainFrom c fresh k.stq else s

/-- Remote stores of the core that are not acknowledged. -/
def Core.remoteOut (k : Core) : Nat := k.unacked + (k.stq.filter fun o => o.dest != .near).length

/-- The 17th unacknowledged store stalls (R107). -/
def waitRoom (o : StoreOp) : DevM Unit := fun s =>
  if o.dest = .near ∨ (s.core s.cur).remoteOut < 16 then .ok ((), s) else .error (.wait id)

/-- A store issues: behind one that is not acknowledged it waits in its turn, and the core goes on (R107). -/
def issueStore (t : TlbEntry) (va : Word) (o : StoreOp) : DevM Unit := do
  waitRoom o
  let s ← rd
  if (s.core s.cur).storesDone then
    (match o.dest with
      | .near => storeNear t va o
      | _ => wr fun u => u.sendStore u.cur o)
  else wr fun u => u.setStq u.cur ((u.core u.cur).stq ++ [o])

/-- A store to the register region. -/
def storeDevice (va : Word) (pa n v : Nat) : DevM Unit := fun s =>
  let k := s.core s.cur
  match s.devWrite pa n v (if k.priv = 3 then .machine else .supervisor k.sv.ctxid.toNat) (n + 1) with
  | .ok t => .ok ((), t)
  | .prot => .error (.trap causeProt va)
  | .hole => .error (.fault (.deviceHole pa))

/-- A write of n bytes to the core map or the corrected-error log's range: PROT from S or U; one from M to the log is discarded after
FWLOCK (R239, R382). -/
def storeGuard (va : Word) (pa n : Nat) : DevM Bool := fun s =>
  if !s.guarded pa n then .ok (false, s)
  else if (s.core s.cur).priv ≠ 3 then .error (.trap causeProt va)
  else .ok (s.inCel pa && s.plat.fwlock, s)

/-- Where a store to a target is performed; none in the register region. -/
def State.storeTo (s : State) (t : TlbEntry) : Target → Option (StoreTo × Nat)
  | .device => none
  | .uncached h => some (.home, h)
  | .host h => some (.home, h)
  | .far h c => some (.far c, h)
  | .near h => some (if s.owns (s.core s.cur).sv.ctxid.toNat (leafProto t.leaf) then .near else .home, h)

/-- n bytes to a virtual address, within one line. -/
def storeMem (va : Word) (n v : Nat) : DevM Unit := do
  let t ← translate .write va
  let pa := t.pa va.toNat
  let gone ← storeGuard va pa n
  let s ← rd
  if gone then pure ()
  else match s.storeTo t (s.target t pa) with
    | none => do
      waitAcked
      storeDevice va pa n v
    | some (dest, h) =>
      let o : StoreOp :=
        { dest := dest, home := h, pa := pa, n := n, data := v, ctx := (s.core s.cur).sv.ctxid.toNat, sel := leafProto t.leaf }
      issueStore t va o

/-! ## Atomics (R116, R117) -/

/-- What an atomic asks: bytes, op, operand, compare value, rounding mode. -/
structure AmoArgs where
  n    : Nat
  op   : Nat
  data : Word
  cmp  : Word
  rm   : Nat

/-- The new value of an atomic and its flags. -/
def AmoArgs.new (a : AmoArgs) (old : Nat) : Nat × FFlags := amoNew a.op a.n old a.data.toNat a.cmp.toNat a.rm

/-- An atomic in the core's L1, or at the home of a watched line. -/
def amoNear (t : TlbEntry) (va : Word) (o : StoreOp) (a : AmoArgs) : DevM Nat := do
  let s ← rd
  if s.watched (o.pa / 64) then do
    waitHome o.home
    let old := s.bytes o.pa a.n
    onCore (addFlags (a.new old).2)
    wr fun u => u.storeHere u.cur { o with data := (a.new old).1 }
    pure old
  else do
    let l ← askOwner t va o.pa o.home
    let old := l.read (o.pa % 64) a.n
    onCore (addFlags (a.new old).2)
    wr fun u => u.storeOwned u.cur { o with data := (a.new old).1 } l ((u.core u.cur).grantedLine (o.pa / 64))
    pure old

/-- An atomic sent to slot 1 of its home on the other die. -/
def State.sendFar (s : State) (h : Nat) (o : StoreOp) (a : AmoArgs) : State :=
  let r : RemoteOp :=
    { core := s.cur, pa := o.pa, n := a.n, amo := some a.op, data := a.data.toNat, cmp := a.cmp, rm := a.rm, pts := (s.core s.cur).pts,
      ctx := o.ctx, sel := o.sel, time := s.time }
  (s.modCore s.cur fun q => q.setPending .sent).modCore h fun q => { q with slot1 := q.slot1 ++ [r] }

/-- An atomic on a register: it is read and written in one step. -/
def amoDevice (va : Word) (pa : Nat) (a : AmoArgs) : DevM Nat := do
  let old ← loadDevice va pa a.n
  onCore (addFlags (a.new old).2)
  storeDevice va pa a.n (a.new old).1
  pure old

/-- The old value of an atomic at a virtual address. `room` is what the destination asks before a request goes; the answer of a home
ends the instruction. -/
def amoMem (room : CpuM Unit) (va : Word) (a : AmoArgs) : DevM Nat := do
  let s0 ← rd
  match (s0.core s0.cur).pending with
  | .got w => pure w.toNat
  | .sent => waitFor fun u => u.waitOn va
  | _ => do
    onCore (checkAlign va a.n)
    let t ← translate .amo va
    let pa := t.pa va.toNat
    let gone ← storeGuard va pa a.n
    onCore room
    waitAckedAt va
    let s ← rd
    if gone then pure (s.bytes pa a.n)
    else match s.storeTo t (s.target t pa) with
      | none => amoDevice va pa a
      | some (dest, h) =>
        let o : StoreOp :=
          { dest := dest, home := h, pa := pa, n := a.n, data := 0, ctx := (s.core s.cur).sv.ctxid.toNat, sel := leafProto t.leaf }
        match dest with
        | .near => amoNear t va o a
        | .home => waitFor fun u => u.sendAsk (u.reqOf t h pa (.ramo a.n a.op a.data a.cmp a.rm)) va
        | .far c => waitFor fun u => (u.timed h va).sendFar c o a

/-! ## PREF and CFLUSH (R115) -/

/-- PREF: asks for a line that the core does not hold; dropped where the core's TLB does not allow the read. -/
def State.prefetch (s : State) (va : Nat) : State :=
  let k := s.core s.cur
  if 2 ^ 48 ≤ va then s
  else match s.tlbHit s.cur va with
    | none => s
    | some (t, s1) =>
      let pa := t.pa va
      if !s.hitOk k .read t va || leafNc t.leaf || decide (pa < dramBase) then s
      else
        let h := t.home (dieOf s.cur) pa
        if (s1.copyFor h (pa / 64)).isSome || s1.asked s.cur pa then s1 else s1.request (s1.reqOf t h pa (.rd false))

/-- CFLUSH: the copy goes, a modified one home with WB, where the event need not wait (R115, R298). -/
def flushMem (va : Word) : DevM Unit := do
  let t ← translate .read va
  waitAcked
  fun s => match (if t.pa va.toNat < dramBase then some s else s.giveUp s.cur (t.pa va.toNat / 64)) with
    | some u => .ok ((), u)
    | none => .error (.wait id)

end Sys2Proof.Machine
end

