-- ==== Sys2Proof/Machine/Mem.lean ====
section
/-! DEFINITION. Machine/Mem.lean: loads and stores, the scratchpad with its full/empty bits, vector memory access, streams,
prefetch, atomics, fences and WFE (05, R105 to R122). -/
namespace Sys2Proof.Machine

/-! ## Scalar loads and stores (R105) -/

/-- The address of format I and B. -/
def memAddr (a : Reg) (i : BitVec 16) : CpuM Word := do
  let x ← getX a
  let y ← getImm i
  pure (x + y)

/-- The register value of a load of n bytes. -/
def loadWord (n : Nat) (signed : Bool) (v : Nat) : Word := if signed then wordOfInt (sextNat v (8 * n)) else BitVec.ofNat 64 v

/-- A load of n bytes into x[d]. -/
def loadX (n : Nat) (signed : Bool) (d a : Reg) (i : BitVec 16) : DevM Unit := do
  let va ← onCore (memAddr a i)
  onCore (checkAlign va n)
  let v ← loadMem va n
  onCore (setX d (loadWord n signed v))

/-- A store of n bytes from x[b]. -/
def storeX (n : Nat) (a b : Reg) (i : BitVec 16) : DevM Unit := do
  let va ← onCore (memAddr a i)
  let v ← onCore (getX b)
  onCore (checkAlign va n)
  storeMem va n (v.toNat % 2 ^ (8 * n))

/-- LD. -/
def execLd (d a : Reg) (i : BitVec 16) (s : State) : Out := runInstr (loadX 8 false d a i) s
/-- LW. -/
def execLw (d a : Reg) (i : BitVec 16) (s : State) : Out := runInstr (loadX 4 true d a i) s
/-- LWU. -/
def execLwu (d a : Reg) (i : BitVec 16) (s : State) : Out := runInstr (loadX 4 false d a i) s
/-- LH. -/
def execLh (d a : Reg) (i : BitVec 16) (s : State) : Out := runInstr (loadX 2 true d a i) s
/-- LHU. -/
def execLhu (d a : Reg) (i : BitVec 16) (s : State) : Out := runInstr (loadX 2 false d a i) s
/-- LB. -/
def execLb (d a : Reg) (i : BitVec 16) (s : State) : Out := runInstr (loadX 1 true d a i) s
/-- LBU. -/
def execLbu (d a : Reg) (i : BitVec 16) (s : State) : Out := runInstr (loadX 1 false d a i) s
/-- SD. -/
def execSd (a b : Reg) (i : BitVec 16) (s : State) : Out := runInstr (storeX 8 a b i) s
/-- SW. -/
def execSw (a b : Reg) (i : BitVec 16) (s : State) : Out := runInstr (storeX 4 a b i) s
/-- SH. -/
def execSh (a b : Reg) (i : BitVec 16) (s : State) : Out := runInstr (storeX 2 a b i) s
/-- SB. -/
def execSb (a b : Reg) (i : BitVec 16) (s : State) : Out := runInstr (storeX 1 a b i) s

/-- FLD. -/
def execFld (d a : Reg) (i : BitVec 16) (s : State) : Out :=
  runInstr (do
    let va ← onCore (memAddr a i)
    onCore (checkAlign va 8)
    let v ← loadMem va 8
    onCore (setFn d v)) s

/-- FSD. -/
def execFsd (a b : Reg) (i : BitVec 16) (s : State) : Out :=
  runInstr (do
    let va ← onCore (memAddr a i)
    let v ← onCore (getF b)
    onCore (checkAlign va 8)
    storeMem va 8 v.toNat) s

/-! ## The scratchpad (R108, R109) -/

/-- The n granules from g are all full, or all empty. -/
def Core.allMarked (k : Core) (f : Bool) (g : Nat) : Nat → Bool
  | 0 => true
  | n + 1 => k.full g == f && Core.allMarked k f (g + 1) n

/-- Granules that an access of n bytes covers. -/
def granules (n : Nat) : Nat := (n + 15) / 16

/-- A scratchpad load of n bytes with its qualifier, in one step. -/
def spLoad (off : Word) (n : Nat) (q : LoadQ) : CpuM Nat := do
  checkSp off n
  waitMat off.toNat n false
  let k ← rd
  let g := off.toNat / 16
  let v := k.spRead off.toNat n
  match q with
  | .plain => pure v
  | .f => do
    stallIf (!k.allMarked true g (granules n))
    pure v
  | .fe => do
    stallIf (!k.allMarked true g (granules n))
    wr fun u => u.marks g false (granules n)
    pure v

/-- A scratchpad store of n bytes with its qualifier, in one step. -/
def spStore (off : Word) (n v : Nat) (q : StoreQ) : CpuM Unit := do
  checkSp off n
  waitMat off.toNat n true
  let k ← rd
  let g := off.toNat / 16
  match q with
  | .plain => wr fun u => u.spWrite off.toNat n v
  | .ef => do
    stallIf (!k.allMarked false g (granules n))
    wr fun u => (u.spWrite off.toNat n v).marks g true (granules n)
  | .f => wr fun u => (u.spWrite off.toNat n v).marks g true (granules n)

/-- SLD. -/
def execSld (d a : Reg) (q : LoadQ) (i : BitVec 14) (s : State) : Out :=
  runCore (do
    let x ← getX a
    let v ← spLoad (x + i.signExtend 64) 8 q
    setX d (BitVec.ofNat 64 v)) s

/-- SST. -/
def execSst (a b : Reg) (q : StoreQ) (i : BitVec 14) (s : State) : Out :=
  runCore (do
    let x ← getX a
    let v ← getX b
    spStore (x + i.signExtend 64) 8 v.toNat q) s

/-! ## Vector access (R110, R111) -/

/-- The address of VMEM: x[a] + x[b]. -/
def vmemAddr (a b : Reg) : CpuM Word := do
  let x ← getX a
  let y ← getX b
  pure (x + y)

/-- An instruction that may pop vqi or push vqo. -/
def runVmem (m : DevM Unit) (s : State) : Out := runInstr (do m; wr State.flushChain) s

/-- The lines of a long access, from the i-th on, n of them; the bytes as a number. -/
def loadLines (va : Word) : Nat → Nat → DevM Nat
  | 0, _ => pure 0
  | n + 1, i => do
    let v ← loadMem (va + BitVec.ofNat 64 (64 * i)) 64
    let r ← loadLines va n (i + 1)
    pure (v + r * 2 ^ 512)

/-- A vector load: 32 bytes, or 256 in long mode. -/
def loadVec (long : Bool) (va : Word) : DevM Nat := if long then loadLines va 4 0 else loadMem va 32

/-- Stores the lines of a long access. -/
def storeLines (va : Word) (v : Nat) : Nat → Nat → DevM Unit
  | 0, _ => pure ()
  | n + 1, i => do
    storeMem (va + BitVec.ofNat 64 (64 * i)) 64 (bitsOf v (512 * i) 512)
    storeLines va v n (i + 1)

/-- VLD. -/
def execVld (d a b : Reg) (s : State) : Out :=
  runVmem (do
    let long ← onCore (vecMode [d])
    let va ← onCore (vmemAddr a b)
    onCore (checkAlign va (if long then 256 else 32))
    let v ← loadVec long va
    onCore (setVN long d v)) s

/-- VST. -/
def execVst (d a b : Reg) (s : State) : Out :=
  runVmem (do
    let long ← onCore (vecMode [d])
    let va ← onCore (vmemAddr a b)
    let v ← onCore (getVN long d)
    onCore (checkAlign va (if long then 256 else 32))
    if long then storeLines va v 4 0 else storeMem va 32 v) s

/-- VSLD. -/
def execVsld (d a b : Reg) (q : LoadQ) (s : State) : Out :=
  runVec (do
    let long ← vecMode [d]
    let off ← vmemAddr a b
    let v ← spLoad off (if long then 256 else 32) q
    setVN long d v) s

/-- VSST. -/
def execVsst (d a b : Reg) (q : StoreQ) (s : State) : Out :=
  runVec (do
    let long ← vecMode [d]
    let off ← vmemAddr a b
    let v ← getVN long d
    spStore off (if long then 256 else 32) v q) s

/-- Bytes of an element size. -/
def sizeBytes (z : Size) : Nat := match z with
  | .s64 => 8
  | .s32 => 4
  | .s16 => 2
  | .s8 => 1

/-- VLDBC. -/
def execVldbc (d a b : Reg) (z : Size) (s : State) : Out :=
  runVmem (do
    let long ← onCore (vecMode [d])
    let va ← onCore (vmemAddr a b)
    onCore (checkAlign va (sizeBytes z))
    let v ← loadMem va (sizeBytes z)
    onCore (setVN long d (ofLanes (8 * sizeBytes z) (List.replicate (vBits long / (8 * sizeBytes z)) v)))) s

/-- FLW. -/
def execFlw (d a b : Reg) (s : State) : Out :=
  runInstr (do
    let va ← onCore (vmemAddr a b)
    onCore (checkAlign va 4)
    let v ← loadMem va 4
    onCore (setFn d v)) s

/-- FSW. -/
def execFsw (d a b : Reg) (s : State) : Out :=
  runInstr (do
    let va ← onCore (vmemAddr a b)
    let v ← onCore (getF d)
    onCore (checkAlign va 4)
    storeMem va 4 (v.toNat % 2 ^ 32)) s

/-! ## Streams (R112 to R114) -/

/-- The checks of QLD and QST at issue; none where the count is 0. -/
def streamOf (a b e : Reg) : CpuM (Option Stream) := do
  let base ← getX a
  let stride ← getX b
  let cnt ← getX e
  trapIf (base.toNat % 8 != 0) causeMisalign base
  trapIf (stride.toNat % 8 != 0) causeBadOp stride
  trapIf (2 ^ 32 ≤ cnt.toNat) causeBadOp cnt
  pure (if cnt = 0 then none else some { base := base, stride := stride, left := cnt.toNat })

/-- QLD; it waits behind an active load stream, and is stopped for a pre-emption (R112, R251). -/
def execQld (a b e : Reg) (s : State) : Out :=
  runCore (do
    match ← streamOf a b e with
    | none => pure ()
    | some t => do
      let k ← rd
      stallIf k.lstream.isSome
      wr fun u => { u with lstream := some t }) s

/-- QST; it waits behind an active store stream, and is stopped for a pre-emption (R112, R113, R251). -/
def execQst (a b e : Reg) (s : State) : Out :=
  runCore (do
    match ← streamOf a b e with
    | none => pure ()
    | some t => do
      let k ← rd
      stallIf k.sstream.isSome
      wr fun u => { u with sstream := some t }) s

/-- The stream after one element; none after the last. -/
def Stream.next (t : Stream) : Option Stream :=
  if t.left ≤ 1 then none else some { base := t.base + t.stride, stride := t.stride, left := t.left - 1 }

/-- A fault of the load stream stands in qi: not yet taken, or to be fetched afresh. -/
def qiFaulted (l : List QEntry) : Option Bool := match l.getLast? with
  | some (.fault _ _ taken) => some taken
  | _ => none

/-- The queue with the result of a fetch: a new entry, or the faulting entry replaced. -/
def qiPut (l : List QEntry) (again : Bool) (e : QEntry) : List QEntry := (if again then l.dropLast else l) ++ [e]

/-- The privilege of a core's streams: they belong to slot 0. -/
def State.streamRead (s : State) (c : Nat) (va : Word) : Except Nat (Nat × Nat × State) :=
  s.vread ((s.core c).tenv (dieOf c)) true .none va.toNat 8 (s.core c).pts

/-- LOAD_STREAM_FETCH: the next element enters qi, or its fault does; a taken fault is fetched afresh once the popping
instruction runs again. A save of the core stops it (R113, R251 step 3). -/
def execLoadStreamFetch (c : Nat) (s : State) : Out :=
  runEvent (fun s =>
    let k := s.core c
    let f := qiFaulted k.qi
    match k.lstream with
    | none => s
    | some t =>
      if coreCount ≤ c || f == some false || (f == none && 16 ≤ k.qi.length) || k.inSave
          || (f == some true && k.onSys && k.pend3 != .stalled) then s
      else match s.streamRead c t.base with
        | .ok (v, tau, s1) => s1.modCore c fun q =>
            ({ q with qi := qiPut q.qi f.isSome (.data (BitVec.ofNat 64 v)), lstream := t.next }.raisePts tau).event
        | .error x => s.modCore c fun q => ({ q with qi := qiPut q.qi f.isSome (.fault x t.base false) }).event) s

/-- An element of the store stream is written: the stream's timestamp is the element's, PTS reaches it, and so do the launches of its
context that run (R114, R212, R271). -/
def Core.wrote (k : Core) (rest : List Word) (t : Stream) (tau : Nat) : Core :=
  { k with qs := rest, sstream := t.next, staken := false, sts := tau, pts := max k.pts tau }

/-- The home of the stream's next entry takes nothing from the core (R307, R309). -/
def State.streamHeld (s : State) (c va : Nat) : Bool :=
  match s.walk ((s.core c).tenv (dieOf c)) true .write .none va with
  | .ok (t, _) => !s.reaches (t.home (dieOf c) (t.pa va)) c
  | .error _ => false

/-- STORE_STREAM_WRITE: the oldest entry of qs is written, or the fault stops the stream; an entry whose fault has been taken is retried
after ERET (R113). -/
def execStoreStreamWrite (c : Nat) (s : State) : Out :=
  runEvent (fun s =>
    let k := s.core c
    match k.sstream, k.qs with
    | some t, w :: rest =>
      if coreCount ≤ c || k.sfault.isSome || (k.staken && k.onSys) || k.inSave || s.streamHeld c t.base.toNat then s
      else match s.vwrite (k.tenv (dieOf c)) true .none t.base.toNat 8 w.toNat k.sts with
        | .ok (tau, s1) => (s1.modCore c fun q => q.wrote rest t tau).raiseLaunches k.sv.ctxid.toNat tau
        | .error x => s.modCore c fun q => { q with sfault := some (x, t.base), staken := false }
    | _, _ => s) s

/-! ## PREF and CFLUSH -/

/-- PREF. -/
def execPref (a b : Reg) (s : State) : Out :=
  runInstr (do
    let va ← onCore (vmemAddr a b)
    wr fun u => u.prefetch va.toNat) s

/-- CFLUSH. -/
def execCflush (a b : Reg) (s : State) : Out :=
  runInstr (do
    let va ← onCore (vmemAddr a b)
    flushMem va) s

/-! ## Atomics (R116 to R119) -/

/-- Bytes of an atomic. -/
def widthBytes (w : Width) : Nat := match w with
  | .w64 => 8
  | .w32 => 4

/-- An integer atomic of op 0 to 8. -/
def amoX (op : Nat) (d a b : Reg) (w : Width) : DevM Unit := do
  let va ← onCore (getX a)
  let v ← onCore (getX b)
  let n := widthBytes w
  let old ← amoMem (roomX d) va ⟨n, op, v, 0, 0⟩
  onCore (setXDone d (wordOfInt (sextNat old (8 * n))))

/-- AMOADD. -/
def execAmoadd (d a b : Reg) (w : Width) (s : State) : Out := runInstr (amoX 0 d a b w) s
/-- AMOAND. -/
def execAmoand (d a b : Reg) (w : Width) (s : State) : Out := runInstr (amoX 1 d a b w) s
/-- AMOOR. -/
def execAmoor (d a b : Reg) (w : Width) (s : State) : Out := runInstr (amoX 2 d a b w) s
/-- AMOXOR. -/
def execAmoxor (d a b : Reg) (w : Width) (s : State) : Out := runInstr (amoX 3 d a b w) s
/-- AMOMIN. -/
def execAmomin (d a b : Reg) (w : Width) (s : State) : Out := runInstr (amoX 4 d a b w) s
/-- AMOMAX. -/
def execAmomax (d a b : Reg) (w : Width) (s : State) : Out := runInstr (amoX 5 d a b w) s
/-- AMOMINU. -/
def execAmominu (d a b : Reg) (w : Width) (s : State) : Out := runInstr (amoX 6 d a b w) s
/-- AMOMAXU. -/
def execAmomaxu (d a b : Reg) (w : Width) (s : State) : Out := runInstr (amoX 7 d a b w) s
/-- AMOSWAP. -/
def execAmoswap (d a b : Reg) (w : Width) (s : State) : Out := runInstr (amoX 8 d a b w) s

/-- AMOCAS (R118). -/
def execAmocas (d a b : Reg) (w : Width) (s : State) : Out :=
  runInstr (do
    let va ← onCore (getX a)
    let cmp ← onCore (getX b)
    let v ← onCore (getX d)
    let n := widthBytes w
    let old ← amoMem (pure ()) va ⟨n, 9, v, cmp, 0⟩
    onCore (setX d (wordOfInt (sextNat old (8 * n))))) s

/-- AMOFADD (R119). -/
def execAmofadd (d a b : Reg) (w : Width) (s : State) : Out :=
  runInstr (do
    let va ← onCore (getX a)
    let v ← onCore (getF b)
    let md ← onCore getModes
    let n := widthBytes w
    let old ← amoMem (pure ()) va ⟨n, 10, v, 0, md.rm⟩
    onCore (setFn d (old % 2 ^ (8 * n)))) s

/-! ## Fences and WFE (R120 to R122) -/

/-- A core lies within a scope of another. -/
def inScope (c q : Nat) (sc : Scope) : Bool := match sc with
  | .core => q == c
  | .cluster => clusterOf q == clusterOf c
  | .die => dieOf q == dieOf c
  | .package => true
  | .system => true

/-- A home lies within a scope of a core: a slice, or host memory. -/
def State.homeInScope (s : State) (c home : Nat) (sc : Scope) : Bool :=
  if 4096 ≤ home then sc == .system
  else match s.physical home with
    | some q => inScope c q sc
    | none => true

/-- A request is a store or atomic of the core to a home of the scope. -/
def State.writesIn (s : State) (c : Nat) (sc : Scope) (q : Req) : Bool := q.core == c && q.width != 0 && s.homeInScope c q.home sc

/-- A store or atomic of the core to a home of the scope is not acknowledged: it is in the core, on its way, at the home, or its
acknowledgement is on its way. -/
def State.storesOut (s : State) (c : Nat) (sc : Scope) : Bool :=
  ((s.core c).stq.any fun o => s.homeInScope c o.home sc)
    || (s.acks.any fun a => a.core == c && s.homeInScope c a.home sc)
    || (s.cores.any fun p => inScope c p.1 sc && p.2.slot1.any fun o => o.core == c)
    || (s.reqs.any (s.writesIn c sc))
    || (s.reps.any fun m => m.req.any (s.writesIn c sc))
    || s.regions.any fun r => r.waiting.any (s.writesIn c sc)

/-- An entry of qs that the store stream has to write has its home in the scope; where its address does not translate, the fence
waits for its fault (R113, R120). -/
def State.streamOut (s : State) (c : Nat) (sc : Scope) : Bool :=
  let k := s.core c
  match k.sstream with
  | none => false
  | some t => (List.range (min k.qs.length t.left)).any fun i =>
    let va := (t.base + t.stride * BitVec.ofNat 64 i).toNat
    match s.walk (k.tenv (dieOf c)) true .write .none va with
    | .ok (e, _) => s.homeInScope c (e.home (dieOf c) (e.pa va)) sc
    | .error _ => true

/-- A message that the core sent to the scope has not been placed. -/
def State.sendsOut (s : State) (c : Nat) (sc : Scope) : Bool :=
  (s.net ++ s.held).any fun m => m.origin == c && m.msg.kind < 4 && (match s.physical m.msg.dst with
    | some q => inScope c q sc
    | none => true)

/-- What a fence of a scope still waits for. -/
def State.fenceBusy (s : State) (c : Nat) (sc : Scope) : Bool :=
  s.storesOut c sc || s.sendsOut c sc || s.streamOut c sc

/-- A pending store-stream fault is taken by slot 0 (R113). -/
def takeStreamFault : CpuM Unit := fun k =>
  match k.sfault, k.onSys with
  | some (c, va), false => .error (queueTrap (fun q => { q with sfault := none, staken := true }) c va)
  | _, _ => .ok ((), k)

/-- A FENCE that waits for a store to host memory, or over a bridge that is cut, counts the time (R316, R373). -/
def State.fenceWaits (s : State) : State :=
  let host := fun (q : Req) => q.core == s.cur && q.width != 0 && s.slowHome s.cur q.home
  if (s.reqs.any host) || (s.regions.any fun r => r.waiting.any host)
      || (s.cut 12 && s.cores.any fun p => dieOf p.1 != dieOf s.cur && p.2.slot1.any fun o => o.core == s.cur) then s.modCore s.cur fun k => k.startHostWait s.time 0 else s

/-- After a fence the accesses of slot 0 and the elements of its store stream follow each other's timestamps (R114, R271). -/
def Core.fenced (k : Core) : Core := { k with pts := max k.pts k.sts, sts := max k.pts k.sts }

/-- FENCE. -/
def execFence (sc : Scope) (s : State) : Out :=
  runInstr (do
    onCore takeStreamFault
    let u ← rd
    if u.fenceBusy u.cur sc then waitFor State.fenceWaits else onCore (wr Core.fenced)) s

/-- A scope for FENCEJ covers a die's engines. -/
def jobInScope (c die : Nat) (sc : Scope) : Bool := match sc with
  | .package => true
  | .system => true
  | _ => die == dieOf c

/-- FENCEJ: later accesses follow the sequence writes (R121). -/
def execFencej (sc : Scope) (s : State) : Out :=
  runInstr (do
    let u ← rd
    waitIf ((u.core u.cur).jobs.any fun j => jobInScope u.cur j.1 sc)
    onCore (wr fun k => k.raisePts k.jts)) s

/-- Cycles that WFE waits at most. -/
def wfeLimit : Nat := 4096

/-- WFE. -/
def execWfe (s : State) : Out :=
  runInstr (do
    let u ← rd
    let k := u.core u.cur
    let ended := match k.pending with
      | .idle c => c + wfeLimit ≤ u.cycle
      | _ => false
    if k.latch || ended then onCore (wr fun q => { q with latch := false })
    else match k.pending with
      | .idle _ => waitM
      | _ => waitFor fun t => t.modCore t.cur fun q => q.setPending (.idle t.cycle)) s

/-- Slot 0 of a core completes the WFE that it waits in. -/
def State.endWfe (s : State) (c : Nat) : State :=
  { (({ s with cur := c }.modCore c fun k => { k with latch := false }).retire) with cur := s.cur }

/-- Slot 0 of a core waits in WFE since a cycle. -/
def Core.inWfe (k : Core) : Option Nat := if k.onSys then none else match k.pend with
  | .idle c => some c
  | _ => none

/-- WFE_WAKE. -/
def execWfeWake (c : Nat) (s : State) : Out :=
  runEvent (fun s => if c < coreCount ∧ (s.core c).inWfe.isSome = true ∧ (s.core c).latch = true then s.endWfe c else s) s

/-- WFE_TIMEOUT. -/
def execWfeTimeout (c : Nat) (s : State) : Out :=
  runEvent (fun s => match (s.core c).inWfe with
    | some t => if c < coreCount ∧ t + wfeLimit ≤ s.cycle then s.endWfe c else s
    | none => s) s

end Sys2Proof.Machine
end

