-- ==== Sys2Proof/Machine/Bar.lean ====
section
/-! DEFINITION. Machine/Bar.lean: the barrier instructions (12, R256, R263 to R267). -/
namespace Sys2Proof.Machine

/-- The home and the physical address of a barrier object, after the checks of R256: alignment, translation with read and
write permission, and a DRAM page. -/
def barPlace (va : Word) : DevM (Nat × Nat) := do
  onCore (checkAlign va 64)
  let t ← translate .amo va
  let pa := t.pa va.toNat
  trapIf (!inDram pa) causeProt va
  let s ← rd
  pure (t.home (dieOf s.cur) pa, pa)

/-- SCOPE of an object as a scope; the codes above 4 are taken as system. -/
def scopeAt (n : Nat) : Scope := match n with
  | 0 => .core
  | 1 => .cluster
  | 2 => .die
  | 3 => .package
  | _ => .system

/-- The implicit fence of BARR and BARW, of the object's SCOPE (R263). -/
def barFence (pa : Nat) : DevM Unit := do
  onCore takeStreamFault
  let s ← rd
  waitIf (s.fenceBusy s.cur (scopeAt ((s.settle pa).barObj pa).scope))

/-- The arrival of the issuing core. -/
def State.sendArrival (s : State) (home pa : Nat) (va : Word) : State :=
  let k := s.core s.cur
  let s1 := s.modCore s.cur fun q => q.setPending .sent
  { s1 with bars := s1.bars ++ [.arrival home pa va s.cur k.sv.ctxid.toNat k.pts] }

/-- The wait of the issuing core. -/
def State.sendWait (s : State) (home pa : Nat) (seen barw : Bool) : State :=
  let k := s.core s.cur
  let s1 := s.modCore s.cur fun q => q.setPending (.waitOnly seen barw)
  { s1 with bars := s1.bars ++ [.wait home pa seen (.core s.cur) k.sv.ctxid.toNat] }

/-- The home and the physical address of an object that the instruction writes: no context writes the core map or the
corrected-error log (R239, R382). -/
def barTarget (va : Word) : DevM (Nat × Nat) := do
  let p ← barPlace va
  let _ ← storeGuard va p.2 64
  pure p

/-- Arrives at an object: the checks, what the destination asks, the fence, the arrival. -/
def arrive (room : CpuM Unit) (va : Word) : DevM Unit := do
  let p ← barTarget va
  onCore room
  barFence p.2
  waitFor fun u => (u.modCore u.cur Core.fenced).sendArrival p.1 p.2 va

/-- Waits at an object. -/
def waitOn (va : Word) (seen barw : Bool) : DevM Unit := do
  let p ← barPlace va
  waitFor fun u => u.sendWait p.1 p.2 seen barw

/-- BARR (R265). -/
def execBarr (d a : Reg) (s : State) : Out :=
  runInstr (do
    let va ← onCore (getX a)
    let k ← onCore rd
    match k.pending with
    | .got v => onCore (setXDone d v)
    | .bad c v => trapM c v
    | .sent => waitM
    | _ => arrive (roomX d) va) s

/-- BWAIT (R266). -/
def execBwait (a b : Reg) (s : State) : Out :=
  runInstr (do
    let va ← onCore (getX a)
    let v ← onCore (getX b)
    let k ← onCore rd
    match k.pending with
    | .released => pure ()
    | .waitOnly .. => waitM
    | _ => do
      let p ← barPlace va
      trapIf (decide (1 < v.toNat)) causeBadOp v
      waitFor fun u => u.sendWait p.1 p.2 (v != 0) false) s

/-- The pennant that a resumed BARW has seen. -/
def Core.resumedBarw (k : Core) : Option Bool := match k.hart.hint with
  | some ⟨_, .barw seen, _⟩ => some seen
  | _ => none

/-- BARW (R267). -/
def execBarw (a : Reg) (s : State) : Out :=
  runInstr (do
    let va ← onCore (getX a)
    let k ← onCore rd
    match k.pending with
    | .released => pure ()
    | .waitOnly .. => waitM
    | .sent => waitM
    | .bad c v => trapM c v
    | .got v => waitOn va (v != 0) true
    | _ => match k.resumedBarw with
      | some seen => waitOn va seen true
      | none => arrive (pure ()) va) s

/-- The checks of BINIT on the count word and the parent (R264). -/
def binitChecks (o c par : Word) : CpuM Unit := do
  trapIf (!countOk c) causeBadOp c
  trapIf (par.toNat % 64 != 0 || slice par 63 48 != 0 || par == o) causeBadOp par

/-- BINIT. -/
def execBinit (a b e : Reg) (s : State) : Out :=
  runInstr (do
    let o ← onCore (getX a)
    let c ← onCore (getX b)
    let par ← onCore (getX e)
    let p ← barTarget o
    onCore (binitChecks o c par)
    waitAcked
    let u ← rd
    waitIf (homeDie u p.1 != dieOf u.cur && !u.bridgeUp)
    wr fun v =>
      let k := v.core v.cur
      let r := v.binitAt p.1 p.2 k.pts k.sv.ctxid.toNat (slice c 63 32) (slice c 31 8) (slice c 6 4) par.toNat
      r.2.modCore r.2.cur fun q => q.raisePts r.1) s

end Sys2Proof.Machine
end

