-- ==== Sys2Proof/Machine/Send.lean ====
section
/-! DEFINITION. Machine/Send.lean: the message instructions: sends, the end of an activation, the handler table, watches
(08, R175, R191 to R200). -/
namespace Sys2Proof.Machine

/-! ## Building a message (R191, R192) -/

/-- Messages that a core's outbound interface holds (R191). -/
def niLimit : Nat := 8

/-- The places that are free in the outbound interface of a core. -/
def State.niRoom (s : State) (c : Nat) : Nat := niLimit - (s.net.filter fun m => m.origin == c).length

/-- The store goes to another die or to host memory. -/
def StoreOp.remote (o : StoreOp) : Bool := 4096 ≤ o.home || (o.dest matches .far _)

/-- A store of the core to its own die is not acknowledged: a send follows it (R271). -/
def State.nearStores (s : State) (c : Nat) : Bool :=
  let mine := fun (q : Req) => q.core == c && q.width != 0 && !q.remote
  ((s.core c).stq.any fun o => !o.remote) || (s.reqs.any mine) || (s.reps.any fun m => m.req.any mine)
    || s.regions.any fun r => r.waiting.any mine

/-- Dest(v): the logical core and the generation (R192). -/
def sendDest (v : Word) : DevM (Nat × Nat) := do
  trapIf (slice v 63 32 != 0 || slice v 30 28 != 0 || slice v 15 12 != 0) causeBadOp v
  let s ← rd
  trapIf (decide (s.logicalCount ≤ slice v 11 0)) causeMsg 2
  pure (slice v 11 0, if bitAt v 31 then slice v 27 16 else (s.core s.cur).u.hgen)

/-- A channel that a program may not name: 61, and at U also 0 and 48 to 60 (R192). -/
def channelBarred (user : Bool) (ch : Nat) : Bool := ch == 61 || (user && (ch == 0 || (48 ≤ ch && ch ≤ 60)))

/-- CheckChannel(ch). -/
def checkChannel (ch : BitVec 6) : CpuM Unit := do
  let k ← rd
  trapIf (channelBarred k.user ch.toNat) causeBadOp (ch.zeroExtend 64)

/-- Payload words x[d] to x[d + n - 1], in order. -/
def payloadX (d : Reg) : Nat → CpuM (List Word)
  | 0 => pure []
  | n + 1 => do
    let l ← payloadX d n
    let v ← getX (d + BitVec.ofNat 5 n)
    pure (l ++ [v])

/-- Four payload words from a list, unused ones zero. -/
def payOf (l : List Word) : Vector Word 4 := pay4 (l.getD 0 0) (l.getD 1 0) (l.getD 2 0) (l.getD 3 0)

/-- A message of the issuing core with its PTS (R177, R275). -/
def State.programMsg (s : State) (dst gen : Nat) (ch : BitVec 6) (kind : Nat) (l : List Word) : Msg :=
  let k := s.core s.cur
  { dst := dst, ch := ch.toNat, gen := gen, src := s.logical s.cur % 4096, len := l.length, kind := kind, info := 0,
    pay := payOf l, pts := k.pts, ctx := k.sv.ctxid.toNat, time := 0 }

/-- The outbound interface takes no message now: it is full, or an own access that precedes the send is not performed. -/
def waitNi : DevM Unit := fun s =>
  if s.niRoom s.cur == 0 || s.nearStores s.cur then .error (.wait id) else .ok ((), s)

/-- Hands one message to the interface. -/
def sendOne (dst gen : Nat) (ch : BitVec 6) (kind : Nat) (l : List Word) : DevM Unit := do
  waitNi
  wr fun s => s.post s.cur (s.programMsg dst gen ch kind l)

/-- SEND. -/
def execSend (d a : Reg) (ch : BitVec 6) (len : BitVec 4) (s : State) : Out :=
  runInstr (do
    let v ← onCore (getX a)
    let t ← sendDest v
    let l ← onCore (payloadX d len.toNat)
    onCore (checkChannel ch)
    sendOne t.1 t.2 ch 0 l) s

/-- AHDR of the issuing slot: slot 3 has none (R191). -/
def Core.sendAhdr (k : Core) : Word := if k.onSys then 0 else match k.act with
  | some a => a.ahdr
  | none => 0

/-- RSEND. -/
def execRsend (d : Reg) (ch : BitVec 6) (len : BitVec 4) (s : State) : Out :=
  runInstr (do
    let k ← onCore rd
    let h := k.sendAhdr
    trapIf (h == 0 || slice h 18 16 == 4) causeMsg 4
    let l ← onCore (payloadX d len.toNat)
    onCore (checkChannel ch)
    sendOne (slice h 33 22) k.u.hgen ch 3 l) s

/-- A vector operand of SENDV: a long register in long mode traps BADOP (R191). -/
def sendVec (d : Reg) : CpuM VWord := do
  let k ← rd
  trapIf (isLong k d) causeBadOp (d.zeroExtend 64)
  getV d

/-- SENDV. -/
def execSendv (d a : Reg) (ch : BitVec 6) (s : State) : Out :=
  runVmem (do
    let v ← onCore (getX a)
    let t ← sendDest v
    let w ← onCore (sendVec d)
    onCore (checkChannel ch)
    sendOne t.1 t.2 ch 1 (numWords w.toNat 4)) s

/-! ## SENDNZ (R193) -/

/-- A lane is nonzero under its type: a floating lane of -0 is zero. -/
def laneNonzero (t : Ty) (v : Nat) : Bool := if t.isFloat then v % 2 ^ (tyBits t - 1) != 0 else v != 0

/-- m1 for a lane value. -/
def laneWord (t : Ty) (v : Nat) : Word := if t.isSigned then wordOfInt (sextNat v (tyBits t)) else BitVec.ofNat 64 v

/-- The nonzero lanes of a scan of n lanes from one on, each with its payload, in lane order. -/
def scanLanes (t : Ty) (v first n : Nat) : List (Nat × List Word) :=
  (List.range n).filterMap fun i =>
    if first ≤ i && laneNonzero t (lane v (tyBits t) i)
    then some (i, [BitVec.ofNat 64 i, laneWord t (lane v (tyBits t) i)]) else none

/-- Hands the messages of a list of lanes to the interface. -/
def State.postAll (s : State) (dst gen : Nat) (ch : BitVec 6) (kind : Nat) : List (Nat × List Word) → State
  | [] => s
  | l :: r => State.postAll (s.post s.cur (s.programMsg dst gen ch kind l.2)) dst gen ch kind r

/-- The interface takes the messages of as many lanes as it has places; the scan goes on at the next lane. -/
def sendLanes (dst gen : Nat) (ch : BitVec 6) (l : List (Nat × List Word)) : DevM Unit := do
  waitNi
  let s ← rd
  let n := s.niRoom s.cur
  match l.drop n with
  | [] => wr fun u => u.postAll dst gen ch 2 l
  | r :: _ => waitFor fun u => (u.postAll dst gen ch 2 (l.take n)).modCore u.cur fun k => k.setPending (.scan r.1)

/-- The lane at which the scan of the issuing slot stands. -/
def Core.scanFrom (k : Core) : Nat := match k.pending with
  | .scan i => i
  | _ => 0

/-- SENDNZ: Dest and CheckChannel come before the first message; a pre-emption may come between two messages (R193). -/
def execSendnz (d a : Reg) (ch : BitVec 6) (t : Ty) (s : State) : Out :=
  runVmem (do
    let v ← onCore (getX a)
    let g ← sendDest v
    onCore (checkChannel ch)
    let k ← onCore rd
    let w ← onCore (getVN (isLong k d) d)
    let l := scanLanes t w k.scanFrom (vBits (isLong k d) / tyBits t)
    if l.isEmpty then pure () else sendLanes g.1 g.2 ch l) s

/-! ## The end of an activation (R194) -/

/-- Slot 0 counts the instruction that ends its activation; followers issue the same end themselves (R98). -/
def State.ended (s : State) : State := s.modCore s.cur fun k => { k with issued := k.issued + 1, hostWait := none }

/-- HRET. -/
def execHret (s : State) : Out :=
  runDev (do
    let k ← onCore rd
    trapIf k.onSys causeMsg 5
    onCore takeStreamFault
    wr fun u => u.ended.endActivation u.cur) s

/-- HYIELD. -/
def execHyield (s : State) : Out :=
  runDev (do
    let k ← onCore rd
    trapIf k.onSys causeMsg 5
    onCore takeStreamFault
    wr fun u => u.ended.yieldActivation u.cur) s

/-! ## The handler table (R175, R195, R196) -/

/-- The channel of the issuing activation; slot 3 has none, whatever activation it has interrupted (log 71, DESIGN CHOICE). -/
def Core.issuingChannel (k : Core) : Option Nat := if k.onSys then none else k.act.map fun a => a.ch

/-- An entry after HBIND with x[a] and its code address, a priority and a region index; `own` tells that the issuing activation
belongs to the channel, `waits` that messages of it wait. -/
def HEntry.bind (e : HEntry) (xa code : Word) (prio rgn : Nat) (own waits : Bool) : HEntry :=
  match e.st with
  | .empty =>
    if xa = 0 then { e with st := .reserved, prio := prio, en := true, rgn := rgn }
    else if code = 0 then e
    else { e with st := .bound, code := code, prio := prio, en := true, pend := false, rgn := rgn }
  | .reserved =>
    if code = 0 then e
    else { e with st := .bound, code := code, prio := prio, pend := e.pend || waits, rgn := rgn }
  | .bound =>
    if own then { e with st := .rebinding, ncode := code, nprio := prio, rgn := rgn }
    else { e with code := code, prio := prio, rgn := rgn }
  | .rebinding => { e with ncode := code, nprio := prio, rgn := rgn }

/-- Privilege of HBIND (R58). -/
def bindPriv (ch : BitVec 6) (prio : BitVec 4) : Nat := if 48 ≤ ch.toNat ∨ prio = 7 then 1 else 0

/-- The region index that HBIND gives: of x[a] at S, of the issuing activation's entry at U. -/
def Core.bindRegion (k : Core) (c : Word) : Nat :=
  if !k.user then slice c 63 60
  else match k.issuingChannel with
    | some ch => (k.entry ch).rgn
    | none => 0

/-- HBIND. -/
def execHbind (a : Reg) (ch : BitVec 6) (prio : BitVec 4) (s : State) : Out :=
  runInstr (do
    onCore (needPriv (bindPriv ch prio) (.hbind a ch prio))
    let c ← onCore (getX a)
    let k ← onCore rd
    trapIf (decide (61 ≤ ch.toNat)) causeBadOp (ch.zeroExtend 64)
    trapIf (if k.user then slice c 63 48 != 0 else slice c 59 48 != 0) causeBadOp c
    trapIf (slice c 1 0 != 0) causeMisalign c
    wr fun u =>
      let q := u.core u.cur
      let e := (q.entry ch.toNat).bind c (BitVec.ofNat 64 (slice c 47 0)) prio.toNat (q.bindRegion c)
        (q.issuingChannel == some ch.toNat) (u.waits u.cur ch.toNat)
      u.setCore u.cur (q.setEntry ch.toNat e)) s

/-- The checks of R196: privilege, BADOP for channels 61 to 63, MSG for an EMPTY entry. -/
def channelChecks (ch : BitVec 6) (i : Instr) : CpuM Unit := do
  needPriv (if 48 ≤ ch.toNat then 1 else 0) i
  trapIf (decide (61 ≤ ch.toNat)) causeBadOp (ch.zeroExtend 64)
  let k ← rd
  trapIf ((k.entry ch.toNat).st == .empty) causeMsg 1

/-- The head message of the running activation of a channel stays with it (R175). -/
def Core.keepsHead (k : Core) (ch : Nat) : Bool := match k.act with
  | some a => a.ch == ch && a.hasMsg
  | none => false

/-- HUNBIND of a channel of a core. -/
def State.unbind (s : State) (c ch : Nat) : State :=
  let k := s.core c
  let e := k.entry ch
  let n := if k.keepsHead ch then 1 else 0
  let s1 := s.setCore c (k.setEntry ch { e with st := .empty, pend := false, fifo := e.fifo.take n })
  let s2 := s1.orphans c 3 (e.fifo.drop n)
  (s2.orphanSpilled c ch 3 (s2.spilledFor c k.sv.ctxid.toNat (s2.logical c))).tryRetire c

/-- HUNBIND. -/
def execHunbind (ch : BitVec 6) (s : State) : Out :=
  runInstr (do
    onCore (channelChecks ch (.hunbind ch))
    wr fun u => u.unbind u.cur ch.toNat) s

/-- Changes the entry of a channel of the issuing core. -/
def onEntry (ch : BitVec 6) (f : HEntry → HEntry) : CpuM Unit := wr fun k => k.setEntry ch.toNat (f (k.entry ch.toNat))

/-- HMASK. -/
def execHmask (ch : BitVec 6) (s : State) : Out :=
  runCore (do
    channelChecks ch (.hmask ch)
    onEntry ch fun e => { e with en := false }) s

/-- HUNMASK. -/
def execHunmask (ch : BitVec 6) (s : State) : Out :=
  runCore (do
    channelChecks ch (.hunmask ch)
    onEntry ch fun e => { e with en := true }) s

/-- HPEND. -/
def execHpend (ch : BitVec 6) (s : State) : Out :=
  runCore (do
    channelChecks ch (.hpend ch)
    onEntry ch fun e => { e with pend := true }) s

/-- Word 0 of an entry with SPL as it stands (R173). -/
def State.entryWord (s : State) (c ch : Nat) : Word :=
  let k := s.core c
  (k.entry ch).word ((s.spilledFor c k.sv.ctxid.toNat (s.logical c)).any fun r => r.msg.ch == ch)

/-- HQUERY. -/
def execHquery (d : Reg) (ch : BitVec 6) (s : State) : Out :=
  runInstr (do
    let u ← rd
    onCore (setX d (u.entryWord u.cur ch.toNat))) s

/-! ## WATCH (R198, R199) -/

/-- Watch entries of a home. -/
def watchEntries : Nat := 64

/-- A channel that WATCH may name. -/
def watchChannel (ch : Nat) : Bool := (1 ≤ ch && ch ≤ 47) || ch == 57

/-- Arms a watch at its home: an exclusive copy is recalled, and the word is compared once. -/
def State.arm (s : State) (home pa : Nat) (va target : Word) (n ch : Nat) : State :=
  let k := s.core s.cur
  let r := s.homeRead home pa k.pts (some s.cur) (some k.sv.ctxid.toNat)
  let w : Watch := { home := home, pa := pa, va := va, n := n, target := target, core := s.cur, ch := ch, gen := k.u.hgen,
                     ctx := k.sv.ctxid.toNat }
  { r.2 with watches := r.2.watches ++ [w] }.fireList r.1 [w]

/-- WATCH: a page of the register region has no home, and traps PROT. -/
def execWatch (d a : Reg) (ch : BitVec 6) (w : Width) (s : State) : Out :=
  runInstr (do
    let va ← onCore (getX a)
    let target ← onCore (getX d)
    let n := widthBytes w
    trapIf (!watchChannel ch.toNat) causeBadOp (ch.zeroExtend 64)
    onCore (checkAlign va n)
    let t ← translate .read va
    let pa := t.pa va.toNat
    trapIf (decide (pa < dramBase)) causeProt va
    let u ← rd
    let home := t.home (dieOf u.cur) pa
    trapIf (decide (watchEntries ≤ (u.watches.filter fun x => x.home == home).length)) causeMsg 3
    wr fun v => v.arm home pa va (BitVec.ofNat 64 (target.toNat % 2 ^ (8 * n))) n ch.toNat) s

end Sys2Proof.Machine
end

