-- ==== Sys2Proof/Machine/Events.lean ====
section
/-! DEFINITION. Machine/Events.lean: hints, illegal words and fetch faults; the events of a core and of its chain; delivery,
the start of an activation and the system channel (03, R64 to R69; 05, R96 to R100; 06, R150 to R152; 08, R179 to R185; 16, R319). -/
namespace Sys2Proof.Machine

/-! ## Hints (R66 to R69) -/

/-- Slot 0 or 3 of the issuing core goes on at the hint's target. -/
def Core.hinted (k : Core) (h : Hint) (j : Nat) : Core :=
  (k.setHart { k.hart with pc := k.hart.pc + 4, hint := some ⟨k.hart.pc, h, j⟩ }).setPending .none

/-- A hint issues. -/
def runHint (h : Hint) (j : Core → Nat) (s : State) : Out :=
  .next (s.setCore s.cur (s.countIssue ((s.core s.cur).hinted h (j (s.core s.cur)))))

/-- HIMM. -/
def execHimm (p : BitVec 23) (s : State) : Out := runHint (.himm p) (fun _ => 0) s
/-- HMOD. -/
def execHmod (m : HMod) (s : State) : Out := runHint (.hmod m) (fun _ => 0) s
/-- HSCHED changes timing only, with either payload. -/
def execHsched (_first : Bool) (s : State) : Out := runHint .hsched (fun _ => 0) s
/-- REALIGN. -/
def execRealign (n : BitVec 5) (s : State) : Out := runHint (.realign n.toNat) (fun _ => 0) s

/-- The repetition at which a REP begins: the one that ERET or a restore names (R69). -/
def Core.firstRep (k : Core) : Nat := match k.hart.hint with
  | some ⟨_, .resume, j⟩ => j
  | _ => 0

/-- REP. -/
def execRep (c : BitVec 6) (ds as bs : BitVec 3) (s : State) : Out :=
  runHint (.rep (c.toNat + 1) ds.toNat as.toNat bs.toNat) Core.firstRep s

/-- ILLEGAL_WORD (R64, R65). -/
def execIllegalWord (w : IWord) (s : State) : Out := .next (s.takeTrap causeIllegal (w.zeroExtend 64))

/-- FETCH_FAULT (R65). -/
def execFetchFault (cause : Nat) (va : Word) (s : State) : Out := .next (s.takeTrap cause va)

/-! ## Followers (R96 to R100) -/

/-- Slot 0 of a core may issue the instruction at its PC next: it runs an activation, no trap, and no hint waits. -/
def Core.runsUser (k : Core) : Bool := k.act.isSome && k.slot3 == .idle && k.preempt == .none && !k.halted && !k.gated

/-- FOLLOW_JOIN: the leader issues at the follower's next PC. -/
def execFollowJoin (c : Nat) (s : State) : Out :=
  runEvent (fun s =>
    let k := s.core c
    match k.follow with
    | .waiting l t _ =>
      let q := s.core l
      if c < coreCount ∧ k.runsUser = true ∧ q.runsUser = true ∧ q.s0.inHint = false ∧ q.s0.pc = k.s0.pc ∧ s.cycle < t + followLimit
      then s.setCore c { k with follow := .joined l q.issued } else s
    | _ => s) s

/-- A core that could not join goes on alone; it is still a diverged follower of the leader that it has left (R96, R98). -/
def Follow.lapsed (old : Option Nat) : Follow := match old with
  | some l => .diverged l
  | Option.none => .none

/-- FOLLOW_TIMEOUT. -/
def execFollowTimeout (c : Nat) (s : State) : Out :=
  runEvent (fun s =>
    let k := s.core c
    match k.follow with
    | .waiting _ t old => if c < coreCount ∧ t + followLimit ≤ s.cycle then s.setCore c { k with follow := Follow.lapsed old } else s
    | _ => s) s

/-- The core holds at a REALIGN target: its exponent and the cycle since which it holds. -/
def Core.held (k : Core) : Option (Nat × Nat) := match k.s0.hint, k.pend with
  | some ⟨_, .realign n, _⟩, .realign t _ => some (n, t)
  | _, _ => none

/-- The wait before a REALIGN target is over. -/
def Core.passHold (k : Core) : Core :=
  { k with pend := .none, s0 := { k.s0 with hint := k.s0.hint.map fun h => { h with hint := .met } } }

/-- REALIGN_JOIN: a diverged follower and its leader stand at the same target. -/
def execRealignJoin (c : Nat) (s : State) : Out :=
  runEvent (fun s =>
    let k := s.core c
    match k.follow.left, k.held with
    | some l, some _ =>
      let q := s.core l
      if c < coreCount ∧ q.held.isSome = true ∧ q.s0.pc = k.s0.pc then
        s.setCore c { k.passHold with follow := .joined l q.issued }
      else s
    | _, _ => s) s

/-- REALIGN_TIMEOUT. -/
def execRealignTimeout (c : Nat) (s : State) : Out :=
  runEvent (fun s =>
    let k := s.core c
    match k.held with
    | some (n, t) => if c < coreCount ∧ t + 2 ^ n ≤ s.cycle then s.setCore c k.passHold else s
    | none => s) s

/-- MATRIX_RETIRE. -/
def execMatrixRetire (c : Nat) (s : State) : Out :=
  runEvent (fun s => if c < coreCount ∧ (s.core c).mat.isSome = true then s.modCore c Core.retireMatrix else s) s

/-! ## Acknowledgements (R107, R117) -/

/-- The slot that waits for an answer takes it. -/
def Core.answered (k : Core) (p : Pend) : Core :=
  match k.pend3, k.pend with
  | .sent, _ => { k with pend3 := p }
  | _, .sent => { k with pend := p }
  | _, _ => k

/-- The slot that waits for the next line of an access to NC pages takes it (R293). -/
def Core.answeredLine (k : Core) (v : Nat) : Core :=
  match k.pend3, k.pend with
  | .lines l true, _ => { k with pend3 := .lines (l ++ [v]) false }
  | _, .lines l true => { k with pend := .lines (l ++ [v]) false }
  | _, _ => k

/-- A core's store is acknowledged: PTS reaches its timestamp, and so do the running launches of its context; the stores behind it go on
(R107, R212, R293). -/
def State.storeAcked (s : State) (c x tau : Nat) : State :=
  ((s.modCore c fun k => { k.raisePts tau with unacked := k.unacked - 1 }).raiseLaunches x tau).drainStores c none

/-- REMOTE_STORE_ACK: an acknowledgement reaches its core, after those that cross the bridge before it (R367). -/
def execRemoteStoreAck (k : Nat) (s : State) : Out :=
  runEvent (fun s => match takeAt s.acks k with
    | none => s
    | some (a, r) =>
      if !s.reaches a.home a.core || !firstOf s.acks k (fun q => sameWay (s.wayFrom q.home q.core) (s.wayFrom a.home a.core)) then s
      else
      let s1 := { s with acks := r }
      if a.store then s1.storeAcked a.core a.ctx a.tau
      else s1.modCore a.core fun q => ((q.raisePts a.tau).orFlags (BitVec.ofNat 5 a.flags)).answered (.got a.old)) s

/-! ## Pushes and credits of a chain (R149, R150, R152) -/

/-- VQO_PUSH_ARRIVAL: a push is placed at the core whose STAGEUP names its source, live or saved; elsewhere it is discarded. -/
def execVqoPushArrival (k : Nat) (s : State) : Out :=
  runEvent (fun s => match takeAt s.pushes k with
    | none => s
    | some (p, r) =>
      if !firstOf s.pushes k fun q => q.src == p.src && q.dst == p.dst then s
      else
        let s1 := { s with pushes := r }
        let q := s1.core p.dst
        if s1.stageCore q.u.stageup == some p.src then
          s1.setCore p.dst { q with vqi := q.vqi ++ [p.val] }.event
        else match s1.savedNaming p.dst offStageUp p.src with
          | some g => s1.pushSaved p.dst g p.val
          | none => s1) s

/-- WINDOW after a credit. -/
def Credit.window (r : Credit) (w : Nat) : Nat := match r.kind with
  | .add => w + r.amount
  | _ => r.amount

/-- STAGE_CREDIT_ARRIVAL: a credit is added to WINDOW; one of R149 step 3 replaces it, and so does an answer, which ends the SYSWR
STAGEDN that asked (R149, R150). -/
def execStageCreditArrival (k : Nat) (s : State) : Out :=
  runEvent (fun s => match takeAt s.credits k with
    | none => s
    | some (r, l) =>
      if r.kind == .revoke || !firstOf s.credits k fun q => q.src == r.src && q.dst == r.dst then s
      else
        let s1 := { s with credits := l }.setWindow r.dst r.src r.window
        if r.kind == .answer then s1.modCore r.dst Core.released else s1) s

/-- STAGE_CREDIT_REVOKE: the old upstream sets WINDOW to 0, and its acknowledgement follows its earlier pushes (R149 step 1). -/
def execStageCreditRevoke (k : Nat) (s : State) : Out :=
  runEvent (fun s => match takeAt s.credits k with
    | none => s
    | some (r, l) =>
      if r.kind != .revoke || !firstOf s.credits k (fun q => q.src == r.src && q.dst == r.dst)
        || s.pushes.any fun p => p.src == r.dst && p.dst == r.src then s
      else
        ({ s with credits := l }.setWindow r.dst r.src fun _ => 0).modCore r.src Core.released) s

end Sys2Proof.Machine
end

