-- ==== Sys2Proof/Machine/Coher.lean ====
section
/-! DEFINITION. Machine/Coher.lean: the events that reach a home, and the messages of a home that reach an agent (15, R293 to
R300). Messages between a home and a core arrive in the order in which they were sent. -/
namespace Sys2Proof.Machine

/-! ## Requests that reach their home (R298) -/

/-- The request has been sent and nothing keeps it from its home (R307, R309, R365). -/
def State.sent (s : State) (q : Req) : Bool := q.retryAt.isNone && s.reaches q.home q.core && s.hostUp q.home q.pa

/-- The k-th request, when it may reach its home: no answer that its core sent the home earlier is still on its way, and none of its
virtual channel that crosses the bridge before it (R367). -/
def State.arriving (s : State) (k : Nat) : Option (Req × State) :=
  match takeAt s.reqs k with
  | none => none
  | some (q, rest) =>
    if s.sent q && !((s.reqs.take k).any fun e => (e.isRack && e.core == q.core && e.home == q.home)
        || (e.isRack == q.isRack && sameWay (s.wayTo e.home e.core) (s.wayTo q.home q.core) && s.sent e))
    then some (q, { s with reqs := rest }) else none

/-- The k-th request reaches its home as an event of a code. -/
def State.reachHome (s : State) (k ev : Nat) (p : ReqKind → Bool) : State :=
  match s.arriving k with
  | some (q, s1) => if p q.kind then s1.serve q ev else s
  | none => s

/-- RD. -/
def execRd (k : Nat) (s : State) : Out := runEvent (fun s => s.reachHome k 0 fun q => q matches .rd _) s
/-- RDX. -/
def execRdx (k : Nat) (s : State) : Out := runEvent (fun s => s.reachHome k 1 fun q => q matches .rdx) s
/-- RST. -/
def execRst (k : Nat) (s : State) : Out := runEvent (fun s => s.reachHome k 6 fun q => q matches .rst ..) s
/-- RAMO. -/
def execRamo (k : Nat) (s : State) : Out := runEvent (fun s => s.reachHome k 7 fun q => q matches .ramo ..) s

/-- An answer of the old owner: the event is handled, with the copies that it brings, when the answer names the ownership that the
region still records; where its guard is false the answer is sent again (R298, R300, R301). -/
def State.serveRack (s : State) (q : Req) (copies : List (Nat × Line × Nat × Nat)) (keep : Bool) (epoch : Nat) : State :=
  match s.region? q.home q.pa with
  | none => s
  | some r =>
    if r.owner = some (q.agent, q.core) ∧ r.epoch = epoch then
      (if s.takes r q.pa 4 (q.agent, q.core) then s.protoEvent r q.pa 4 (some (q.agent, q.core)) none (some ⟨copies, keep⟩) else s.retry q)
    else s

/-- RACK. -/
def execRack (k : Nat) (s : State) : Out :=
  runEvent (fun s => match s.arriving k with
    | some (q, s1) => (match q.kind with
      | .rack c keep e => s1.serveRack q c keep e
      | _ => s)
    | none => s) s

/-- PROTO_RETRY: the 64 cycles of a request answered RETRY are over, and it is sent again (R299). -/
def execProtoRetry (k : Nat) (s : State) : Out :=
  runEvent (fun s => match takeAt s.reqs k with
    | some (q, rest) => (match q.retryAt with
      | some t => if t ≤ s.cycle then { s with reqs := rest ++ [{ q with retryAt := none }] } else s
      | none => s)
    | none => s) s

/-! ## Copies given up (R298) -/

/-- WB: the owner of the region of a line gives it up. -/
def execWb (c line : Nat) (s : State) : Out :=
  runEvent (fun s => match s.owned c line with
    | some r => if c < coreCount then (s.giveBack c line r).getD s else s
    | none => s) s

/-- DROP: a leased copy goes, from the L1 of a core or, from 1,152 upward, from a die's remote-data cache. -/
def execDrop (c line : Nat) (s : State) : Out :=
  runEvent (fun s =>
    let held := if c < coreCount then (s.core c).l1 else (s.die (c - coreCount)).rdc
    if coreCount + 2 ≤ c then s
    else match lookupK held line with
      | none => s
      | some l =>
        if l.excl then s
        else
          let s1 := if c < coreCount then s.modCore c fun k => { k with l1 := removeK k.l1 line }
            else s.modDie (c - coreCount) fun d => { d with rdc := removeK d.rdc line }
          let who := if c < coreCount then (agentOf s l.home c, c) else (144, 0)
          let told := if c < coreCount then s.reaches l.home c else s.bridgeUp && !s.agentLost l.home 144
          if !told then s1 else s1.regionEvent l.home (line * 64) 3 (some who) none) s

/-! ## What a home does on its own (R296, R298) -/

/-- The home issues RECALL on a region that must reach state 0. -/
def State.recallNow (s : State) (h base : Nat) : State :=
  match s.region? h base with
  | some r => if r.recalled && r.st != 0 then s.protoEvent r base 10 none none none else s
  | none => s

/-- TIMEOUT: the timer of a region has run out; a pending RECALL is issued again. -/
def execTimeout (h base : Nat) (s : State) : Out :=
  runEvent (fun s => match s.region? h base with
    | some r => (match r.timer with
      | some t => if t ≤ s.cycle then (s.regionEvent h base 5 none none).recallNow h base else s
      | none => s)
    | none => s) s

/-- RECALL. -/
def execRecall (h base : Nat) (s : State) : Out := runEvent (fun s => s.recallNow h base) s

/-- Cycles without an event after which sibling regions merge. -/
def mergeIdle : Nat := 2 ^ 20

/-- Two regions are siblings in the same stable state with the same owner, and both have been idle. -/
def State.mergeable (s : State) (r q : RegionEntry) : Bool :=
  q.home == r.home && q.size == r.size && decide (r.size < 65536) && r.base % (2 * r.size) == 0 && q.base == r.base + r.size
    && r.ctx == q.ctx && r.sel == q.sel && r.st == q.st && r.owner == q.owner && !s.transient r.ctx r.sel r.st
    && decide (r.last + mergeIdle ≤ s.cycle) && decide (q.last + mergeIdle ≤ s.cycle)

/-- REGION_MERGE: the region at `base` takes in its sibling. -/
def execRegionMerge (h base : Nat) (s : State) : Out :=
  runEvent (fun s => match s.region? h base with
    | none => s
    | some r => match s.region? h (r.base + r.size) with
      | none => s
      | some q =>
        if s.mergeable r q then
          let m : RegionEntry :=
            { r with size := 2 * r.size, sharers := q.sharers.foldl insertN r.sharers, evr := max r.evr q.evr,
                     recalled := r.recalled || q.recalled, last := max r.last q.last, epoch := max r.epoch q.epoch + 1 }
          { s with regions := (s.regions.filter fun x => !(x.home == q.home && x.base == q.base)).map fun x =>
            if x.home == r.home && x.base == r.base then m else x }
        else s) s

/-! ## Messages that reach an agent (R300) -/

/-- The core that a message goes to; a die's remote-data cache stands for a core of its die. -/
def Rep.via (m : Rep) : Nat := if m.core < coreCount then m.core else 576 * (m.core - coreCount)

/-- The core has been granted a line of the region at an address and performs the access that it asked the line for at its
next issue, which it may make now: the access keeps the grant's timestamp (R293), and an owner answers RECALL or DOWNGRADE
after it (log 35, DEDUCED). -/
def State.usesGrant (s : State) (c home pa : Nat) : Bool :=
  match (s.core c).pending with
  | .granted w =>
    s.mayIssue c && (match lookupK (s.core c).l1 w with
      | some l => l.excl && l.home == home && s.copyUsable c l && (match s.region? home pa with
        | some r => r.covers home (w * 64)
        | none => false)
      | none => false)
  | _ => false

/-- The message is coherence control, which has a virtual channel of its own (R367). -/
def Rep.control (m : Rep) : Bool := 4 ≤ m.code && m.code ≤ 7

/-- Nothing keeps a message from its agent. -/
def State.mayCome (s : State) (m : Rep) : Bool :=
  s.reaches m.home m.via && !((m.code == 4 || m.code == 5) && s.usesGrant m.core m.home m.pa)

/-- The k-th message, when it may reach its agent: none that the home sent the same agent earlier is still on its way, and none of its
virtual channel that crosses the bridge before it (R367). -/
def State.coming (s : State) (k : Nat) : Option (Rep × State) :=
  match takeAt s.reps k with
  | none => none
  | some (m, rest) =>
    if s.mayCome m && !((s.reps.take k).any fun e => (e.core == m.core && e.home == m.home)
        || (e.control == m.control && sameWay (s.wayFrom e.home e.via) (s.wayFrom m.home m.via) && s.mayCome e))
    then some (m, { s with reps := rest }) else none

/-- The k-th message reaches its agent, when it has a code. -/
def State.come (s : State) (k code : Nat) (f : State → Rep → State) : State :=
  match s.coming k with
  | some (m, s1) => if m.code = code then f s1 m else s
  | none => s

/-- The answer to a no-copy read (R301). -/
def Rep.nocopy (m : Rep) : Bool := match m.req with
  | some q => q.kind == .rd true
  | none => false

/-- The requester takes an answer: an acknowledged store, the old value of an atomic, the line of a no-copy read, or word that the
line is there, for the store that waits for it or for the issuing slot; PTS follows τ (R107, R293). -/
def State.takeAnswer (s : State) (m : Rep) : State :=
  match m.req with
  | none => s
  | some q => match q.kind with
    | .rst .. => s.storeAcked m.core q.ctx m.tau
    | .ramo .. => s.modCore m.core fun k => ((k.raisePts m.tau).orFlags (BitVec.ofNat 5 m.flags)).answered (.got m.old)
    | .rd true => s.modCore m.core fun k => (k.raisePts m.tau).answeredLine m.data.toNat
    | .rd false => s.drainStores m.core none
    | .rdx =>
      if (s.core m.core).stq.isEmpty then s.modCore m.core fun k => k.answered (.granted (m.pa / 64))
      else s.drainStores m.core (some (m.pa / 64))
    | .rack .. => s

/-- GRANTS. -/
def execGrants (k : Nat) (s : State) : Out :=
  runEvent (fun s => s.come k 1 fun s m =>
    (if m.nocopy then s else s.installLease m).takeAnswer m) s

/-- GRANTX. -/
def execGrantx (k : Nat) (s : State) : Out :=
  runEvent (fun s => s.come k 2 fun s m =>
    (if m.nocopy then s
      else s.modCore m.core fun q => { q with l1 := insertK q.l1 (m.pa / 64) (m.copy true) }).takeAnswer m) s

/-- ACKW. -/
def execAckw (k : Nat) (s : State) : Out := runEvent (fun s => s.come k 3 State.takeAnswer) s

/-- AMORES. -/
def execAmores (k : Nat) (s : State) : Out := runEvent (fun s => s.come k 8 State.takeAnswer) s

/-- A region of one line, for a message about a line that no region of its home covers. -/
def lineRegion (home pa : Nat) : RegionEntry :=
  { home := home, base := pa / 64 * 64, size := 64, st := 0, sharers := [], owner := none, pending := none, waits := false, timer := none,
    evr := 0, sel := 0, ctx := 0, recalled := false, last := 0, epoch := 0 }

/-- The answer of an owner to RECALL or DOWNGRADE: its exclusive lines of the region go home with it. -/
def State.answerRecall (s : State) (m : Rep) (keep : Bool) : State :=
  let r := (s.region? m.home m.pa).getD (lineRegion m.home m.pa)
  let k := s.core m.core
  (s.setCore m.core (if keep then k.leaseIn r else k.dropIn r)).request
    { kind := .rack (k.copiesOf r) keep m.epoch, home := m.home, pa := m.pa, agent := agentOf s m.home m.core, core := m.core,
      p := k.pts, ctx := r.ctx, sel := r.sel, retryAt := none }

/-- OWNER_RECALL. -/
def execOwnerRecall (k : Nat) (s : State) : Out := runEvent (fun s => s.come k 4 fun s m => s.answerRecall m false) s
/-- DOWNGRADE. -/
def execDowngrade (k : Nat) (s : State) : Out := runEvent (fun s => s.come k 5 fun s m => s.answerRecall m true) s

/-- UPD: a holder takes the new data; a requester whose store it answers also takes the acknowledgement. -/
def execUpd (k : Nat) (s : State) : Out :=
  runEvent (fun s => s.come k 6 fun s m =>
    if m.core < coreCount then (s.modCore m.core fun q => { q with l1 := updIn q.l1 m }).takeAnswer m
    else s.modDie (m.core - coreCount) fun d => { d with rdc := updIn d.rdc m }) s

/-- INV: a core drops its copy; where it goes to a remote-data cache the L1s of the die drop their sub-leases too (R300; for the
exclusive copies of those L1s log 19, DEDUCED). -/
def execInv (k : Nat) (s : State) : Out :=
  runEvent (fun s => s.come k 7 fun s m =>
    let line := m.pa / 64
    let gone := fun (l : List (Nat × L1Line)) => l.filter fun p => !(p.1 == line && p.2.home == m.home && !p.2.excl)
    if m.core < coreCount then s.modCore m.core fun q => { q with l1 := q.l1.filter fun p => !(p.1 == line && p.2.home == m.home) }
    else
      let d := m.core - coreCount
      { s.modDie d (fun x => { x with rdc := gone x.rdc }) with
        cores := s.cores.map fun p => if dieOf p.1 == d then (p.1, { p.2 with l1 := gone p.2.l1 }) else p }) s

end Sys2Proof.Machine
end

