-- ==== Sys2Proof/Machine/Deliver.lean ====
section
/-! DEFINITION. Machine/Deliver.lean: delivery of messages, the start of an activation, and the system channel (08, R179 to
R185, R201; 02, R49; 16, R319). -/
namespace Sys2Proof.Machine

/-! ## Delivery -/

/-- MESSAGE_DELIVERY: a message reaches its destination core, after the earlier ones of its source (R201); a release goes to the
barrier unit (R261). One that would cross a bridge that is cut is discarded and reported (R373). A checkpoint that saves the context holds it. A message that is no report to a logical core that does not exist
becomes an orphan with reason 5 (log 69, DESIGN CHOICE). A core takes at most one message at a time, so that times of arrival differ
(R253). -/
def execMessageDelivery (k : Nat) (s : State) : Out :=
  runEvent (fun s => match takeAt s.net k with
    | none => s
    | some (n, r) =>
      if !s.inOrder k n || n.child.isSome || s.ckHolds n.msg.ctx then s
      else match s.physical n.msg.dst with
        | none => { s with net := r }.orphan (originDie s n.origin) { n.msg with time := s.time } n.msg.dst 5
        | some c =>
          if s.cut 12 && crosses s n then { s with net := r }.loseMsg n.msg
          else if s.canTravel n c && (s.core c).arrived != some s.time then { s with net := r }.arrive c n else s) s

/-- SPILL_HOLD_RELEASE: the message held longest for its core is handled again, where that no longer holds it (R180). -/
def execSpillHoldRelease (k : Nat) (s : State) : Out :=
  runEvent (fun s => match takeAt s.held k with
    | none => s
    | some (n, r) =>
      if !firstOf s.held k (fun q => q.msg.dst == n.msg.dst) || s.ckHolds n.msg.ctx then s
      else match s.physical n.msg.dst with
        | none => s
        | some c =>
          let t := { s with held := r }.deliver c n
          if t.held.length = r.length then t else s) s

/-! ## Selection and activation (R184, R185, R49) -/

/-- An entry is runnable. -/
def HEntry.runnable (e : HEntry) : Bool := e.st == .bound && e.en && e.pend

/-- The channels that selection serves: not the system channel, nor those of the fixed-function slots. -/
def selectable (ch : Nat) : Bool := ch < 60

/-- The highest priority of a runnable entry. -/
def Core.topPrio (k : Core) : Option Nat :=
  (((List.range 64).filter fun ch => selectable ch && (k.entry ch).runnable).map fun ch => (k.entry ch).prio).foldl
    (fun b p => match b with
      | none => some p
      | some q => some (max q p)) none

/-- The channel that selection picks, with its priority. -/
def Core.selected (k : Core) : Option (Nat × Nat) :=
  match k.topPrio with
  | none => none
  | some p =>
    let from_ := (k.rrptr[p]?.getD 63) + 1
    (((List.range 64).map fun i => (from_ + i) % 64).find? fun ch =>
      selectable ch && (k.entry ch).runnable && (k.entry ch).prio == p).map fun ch => (ch, p)

/-- The x registers at entry: x2, x9 and x10 to x13 (R49). -/
def entryX (sb : Nat) (m : Option Msg) : Vector Word 32 :=
  let z : Vector Word 32 := (Vector.replicate 32 0).set 2 (BitVec.ofNat 64 sb)
  match m with
  | none => z
  | some q => ((((z.set 9 q.header).set 10 q.pay[0]).set 11 q.pay[1]).set 12 q.pay[2]).set 13 q.pay[3]

/-- An activation begins on a channel: the entry state of R49, RRPTR moved. -/
def Core.activate (k : Core) (ch p : Nat) : Core :=
  let e := k.entry ch
  let m := e.fifo.head?
  { k with
    act := some { ch := ch, ahdr := (match m with
      | some q => q.header
      | none => 0), hasMsg := m.isSome }
    s0 := { x := entryX (k.rgns[e.rgn]?.getD ⟨0, 0⟩).base m, f := Vector.replicate 32 0, pc := e.code, hint := none }
    v := Vector.replicate 14 0
    u := { k.u with long := false }
    rrptr := k.rrptr.setIfInBounds p ch
    pend := .none }

/-- Slot 0 is free for an activation of a group. -/
def Core.canActivate (k : Core) : Bool :=
  k.act.isNone && k.group.isSome && k.slot3 == .idle && k.preempt == .none && !k.halted && !k.gated

/-- ACTIVATION_START. -/
def execActivationStart (c : Nat) (s : State) : Out :=
  runEvent (fun s =>
    let k := s.core c
    if coreCount ≤ c ∨ !k.canActivate then s
    else match k.selected with
      | some (ch, p) => s.setCore c (k.activate ch p)
      | none => s) s

/-! ## The system channel (R319) -/

/-- Slot 0 is free, or stands at an instruction boundary at which nothing is lost. -/
def Core.canEnter (k : Core) : Bool :=
  k.slot3 == .idle && k.preempt == .none && !k.halted && !k.gated
    && (k.act.isNone || (k.stands && k.scanAt.isNone && k.barwSeen.isNone))

/-- The x registers of slot 3 with a message's x9 to x13. -/
def Core.withMessage (k : Core) (m : Msg) : Core :=
  { k with s3 := { k.s3 with
      x := ((((k.s3.x.set 9 m.header).set 10 m.pay[0]).set 11 m.pay[1]).set 12 m.pay[2]).set 13 m.pay[3] } }

/-- SYSTEM_CHANNEL_ENTRY: slot 3 is entered as by a trap, with CAUSE 0 and TVAL the header; EPC between two repetitions of a REP names the
next one, as it does for a trap (R69, R319; log 74, DESIGN CHOICE). -/
def execSystemChannelEntry (c : Nat) (s : State) : Out :=
  runEvent (fun s =>
    let k := s.core c
    let e := k.entry 60
    match e.fifo with
    | [] => s
    | m :: _ =>
      if coreCount ≤ c ∨ !k.canEnter ∨ e.st ≠ .bound ∨ !e.en ∨ !k.owned ∨ !s.runs k.sv.ctxid.toNat then s
      else
        let epc := if k.act.isSome then k.s0.epc else 0
        let s1 := (s.cancelWaits c).enterSys c .system epc 0 m.header
        if (s1.core c).slot3 == .system then s1.modCore c fun q => q.withMessage m else s1) s

end Sys2Proof.Machine
end

