-- ==== Sys2Proof/Machine/Fpa.lean ====
section
/-! DEFINITION. Machine/Fpa.lean: scalar floating point (06, R127 to R134). -/
namespace Sys2Proof.Machine

/-- f[d] := op(f[a], f[b]) in a format, with its flags (R127). -/
def fpaBin (op : FOp) (d a b : Reg) (t : Ty) : CpuM Unit := do
  let md ← getModes
  let x ← getF a
  let y ← getF b
  let r := fpBin op t md x.toNat y.toNat
  addFlags r.2
  setFn d r.1

/-- x[d] := the truth of a comparison (R128). -/
def fpaCmp (c : FCmp) (d a b : Reg) (t : Ty) : CpuM Unit := do
  let md ← getModes
  let x ← getF a
  let y ← getF b
  let r := fpCmp c t md x.toNat y.toNat
  addFlags r.2
  setX d (boolWord r.1)

/-- f[d] := the magnitude of f[a] with a sign (R130). -/
def fpaSgn (o : SgnOp) (d a b : Reg) (t : Ty) : CpuM Unit := do
  let x ← getF a
  let y ← getF b
  setFn d (fpSgn o t x.toNat y.toNat)

/-- The fused operations (R134). -/
def fmaOp (t : Ty) (np ns : Bool) (d a b e : Reg) : CpuM Unit := do
  let md ← getModes
  let x ← getF a
  let y ← getF b
  let z ← getF e
  let r := fpFma t md np ns x.toNat y.toNat z.toNat
  addFlags r.2
  setFn d r.1

/-- The type of an integer kind. -/
def kindTy : IntKind → Ty
  | .i64 => .i64 | .i32 => .i32 | .u64 => .u64 | .u32 => .u32

/-- FADD (R127). -/
def execFadd (d a b : Reg) (t : Ty) (s : State) : Out := runCore (fpaBin .add d a b t) s
/-- FSUB (R127). -/
def execFsub (d a b : Reg) (t : Ty) (s : State) : Out := runCore (fpaBin .sub d a b t) s
/-- FMUL (R127). -/
def execFmul (d a b : Reg) (t : Ty) (s : State) : Out := runCore (fpaBin .mul d a b t) s
/-- FDIV (R127). -/
def execFdiv (d a b : Reg) (t : Ty) (s : State) : Out := runCore (fpaBin .div d a b t) s
/-- FMIN (R127). -/
def execFmin (d a b : Reg) (t : Ty) (s : State) : Out := runCore (fpaBin .min d a b t) s
/-- FMAX (R127). -/
def execFmax (d a b : Reg) (t : Ty) (s : State) : Out := runCore (fpaBin .max d a b t) s
/-- FSQRT (R127). -/
def execFsqrt (d a : Reg) (t : Ty) (s : State) : Out :=
  runCore (do
    let md ← getModes
    let x ← getF a
    let r := fpSqrt t md x.toNat
    addFlags r.2
    setFn d r.1) s
/-- FEQ (R128). -/
def execFeq (d a b : Reg) (t : Ty) (s : State) : Out := runCore (fpaCmp .eq d a b t) s
/-- FLT (R128). -/
def execFlt (d a b : Reg) (t : Ty) (s : State) : Out := runCore (fpaCmp .lt d a b t) s
/-- FLE (R128). -/
def execFle (d a b : Reg) (t : Ty) (s : State) : Out := runCore (fpaCmp .le d a b t) s
/-- FCLASS (R129). -/
def execFclass (d a : Reg) (t : Ty) (s : State) : Out :=
  runCore (do
    let x ← getF a
    setX d (BitVec.ofNat 64 (fpClass t x.toNat))) s
/-- FSGNJ (R130). -/
def execFsgnj (d a b : Reg) (t : Ty) (s : State) : Out := runCore (fpaSgn .copy d a b t) s
/-- FSGNJN (R130). -/
def execFsgnjn (d a b : Reg) (t : Ty) (s : State) : Out := runCore (fpaSgn .invert d a b t) s
/-- FSGNJX (R130). -/
def execFsgnjx (d a b : Reg) (t : Ty) (s : State) : Out := runCore (fpaSgn .xor d a b t) s
/-- FCVTF (R131). -/
def execFcvtf (d a : Reg) (src dst : Ty) (s : State) : Out :=
  runCore (do
    let md ← getModes
    let x ← getF a
    let r := floatToFloat src dst md x.toNat
    addFlags r.2
    setFn d r.1) s

/-- FCVTFI (R132): I32 is sign-extended, UI32 zero-extended. -/
def execFcvtfi (d a : Reg) (k : IntKind) (t : Ty) (s : State) : Out :=
  runCore (do
    let md ← getModes
    let x ← getF a
    let r := floatToInt (kindTy k) md.rm ((fmtOf t).operand md x.toNat)
    addFlags r.2
    setX d (wordOfInt (intVal (kindTy k) r.1))) s

/-- FCVTIF (R132). -/
def execFcvtif (d a : Reg) (k : IntKind) (t : Ty) (s : State) : Out :=
  runCore (do
    let md ← getModes
    let x ← getX a
    let r := intToFloat t md (intVal (kindTy k) x.toNat)
    addFlags r.2
    setFn d r.1) s

/-- FMVXF (R133). -/
def execFmvxf (d a : Reg) (t : Ty) (s : State) : Out :=
  runCore (do
    let x ← getF a
    setX d (BitVec.ofNat 64 (bitsOf x.toNat 0 (tyBits t)))) s

/-- FMVFX (R133): all 64 bits, whatever the format code. -/
def execFmvfx (d a : Reg) (_t : Ty) (s : State) : Out :=
  runCore (do
    let x ← getX a
    setF d x) s

/-- FMADD.D (R134). -/
def execFmaddD (d a b e : Reg) (s : State) : Out := runCore (fmaOp .f64 false false d a b e) s
/-- FMADD.S (R134). -/
def execFmaddS (d a b e : Reg) (s : State) : Out := runCore (fmaOp .f32 false false d a b e) s
/-- FMSUB.D (R134). -/
def execFmsubD (d a b e : Reg) (s : State) : Out := runCore (fmaOp .f64 false true d a b e) s
/-- FMSUB.S (R134). -/
def execFmsubS (d a b e : Reg) (s : State) : Out := runCore (fmaOp .f32 false true d a b e) s
/-- FNMADD.D (R134). -/
def execFnmaddD (d a b e : Reg) (s : State) : Out := runCore (fmaOp .f64 true true d a b e) s
/-- FNMADD.S (R134). -/
def execFnmaddS (d a b e : Reg) (s : State) : Out := runCore (fmaOp .f32 true true d a b e) s
/-- FNMSUB.D (R134). -/
def execFnmsubD (d a b e : Reg) (s : State) : Out := runCore (fmaOp .f64 true false d a b e) s
/-- FNMSUB.S (R134). -/
def execFnmsubS (d a b e : Reg) (s : State) : Out := runCore (fmaOp .f32 true false d a b e) s

end Sys2Proof.Machine
end

