-- ==== Sys2Proof/Machine/Int.lean ====
section
/-! DEFINITION. Machine/Int.lean: the INTA major and the immediate majors (05, R88 to R91). -/
namespace Sys2Proof.Machine

/-! ## Functions of R88 -/

/-- A truth value as a compare writes it: 1 or 0. -/
def fSlt (a b : Word) : Word := boolWord (a.slt b)
/-- Unsigned compare. -/
def fSltu (a b : Word) : Word := boolWord (a.ult b)
/-- Signed minimum. -/
def fMin (a b : Word) : Word := if b.slt a then b else a
/-- Signed maximum. -/
def fMax (a b : Word) : Word := if a.slt b then b else a
/-- Unsigned minimum. -/
def fMinu (a b : Word) : Word := if b.ult a then b else a
/-- Unsigned maximum. -/
def fMaxu (a b : Word) : Word := if a.ult b then b else a
/-- The shift count x[b][5:0]. -/
def shAmt (b : Word) : Nat := b.toNat % 64
/-- High half of the signed product. -/
def fMulh (a b : Word) : Word := wordOfInt (a.toInt * b.toInt / 2 ^ 64)
/-- High half of the unsigned product. -/
def fMulhu (a b : Word) : Word := BitVec.ofNat 64 (a.toNat * b.toNat / 2 ^ 64)
/-- Signed division toward zero; a zero divisor gives all ones, and -2^63 / -1 wraps to -2^63. -/
def fDiv (a b : Word) : Word := if b = 0 then BitVec.allOnes 64 else wordOfInt (Int.tdiv a.toInt b.toInt)
/-- Unsigned division; a zero divisor gives 2^64 - 1. -/
def fDivu (a b : Word) : Word := if b = 0 then BitVec.allOnes 64 else BitVec.ofNat 64 (a.toNat / b.toNat)
/-- Signed remainder; a zero divisor gives a. -/
def fRem (a b : Word) : Word := if b = 0 then a else wordOfInt (Int.tmod a.toInt b.toInt)
/-- Unsigned remainder; a zero divisor gives a. -/
def fRemu (a b : Word) : Word := if b = 0 then a else BitVec.ofNat 64 (a.toNat % b.toNat)
/-- w32(v): sext of bits 31:0. -/
def w32 (v : Word) : Word := (v.truncate 32).signExtend 64
/-- Number of one bits among the low n. -/
def popCount (a : Word) : Nat → Nat
  | 0 => 0
  | n + 1 => popCount a n + (if a.getLsbD n then 1 else 0)
/-- Zero bits above the highest one bit among the low n, counted from bit n - 1. -/
def leadZeros (a : Word) : Nat → Nat
  | 0 => 0
  | n + 1 => if a.getLsbD n then 0 else 1 + leadZeros a n
/-- Zero bits below the lowest one bit, from bit i, among n bits. -/
def trailZeros (a : Word) : Nat → Nat → Nat
  | _, 0 => 0
  | i, n + 1 => if a.getLsbD i then 0 else 1 + trailZeros a (i + 1) n
/-- Bytes in reverse order. -/
def byteSwap (a : Word) : Word :=
  (List.range 8).foldl (fun acc i => acc ||| (((a >>> (8 * i)) &&& 0xFF) <<< (56 - 8 * i))) 0

/-! ## Forms -/

/-- x[d] := f(x[a], x[b]). -/
def opXX (f : Word → Word → Word) (d a b : Reg) : CpuM Unit := do
  let x ← getX a
  let y ← getX b
  setX d (f x y)
/-- x[d] := f(x[a]). -/
def opX (f : Word → Word) (d a : Reg) : CpuM Unit := do
  let x ← getX a
  setX d (f x)
/-- x[d] := f(x[a], i) with the immediate of R67. -/
def opXI (f : Word → Word → Word) (d a : Reg) (i : BitVec 16) : CpuM Unit := do
  let x ← getX a
  let v ← getImm i
  setX d (f x v)

/-- ADD. -/
def execAdd (d a b : Reg) (s : State) : Out := runCore (opXX (· + ·) d a b) s
/-- SUB. -/
def execSub (d a b : Reg) (s : State) : Out := runCore (opXX (· - ·) d a b) s
/-- AND. -/
def execAnd (d a b : Reg) (s : State) : Out := runCore (opXX (· &&& ·) d a b) s
/-- OR. -/
def execOr (d a b : Reg) (s : State) : Out := runCore (opXX (· ||| ·) d a b) s
/-- XOR. -/
def execXor (d a b : Reg) (s : State) : Out := runCore (opXX (· ^^^ ·) d a b) s
/-- ANDN: a AND NOT b. -/
def execAndn (d a b : Reg) (s : State) : Out := runCore (opXX (fun x y => x &&& ~~~y) d a b) s
/-- SLL. -/
def execSll (d a b : Reg) (s : State) : Out := runCore (opXX (fun x y => x <<< shAmt y) d a b) s
/-- SRL. -/
def execSrl (d a b : Reg) (s : State) : Out := runCore (opXX (fun x y => x >>> shAmt y) d a b) s
/-- SRA. -/
def execSra (d a b : Reg) (s : State) : Out := runCore (opXX (fun x y => x.sshiftRight (shAmt y)) d a b) s
/-- ROL. -/
def execRol (d a b : Reg) (s : State) : Out := runCore (opXX (fun x y => x.rotateLeft (shAmt y)) d a b) s
/-- ROR. -/
def execRor (d a b : Reg) (s : State) : Out := runCore (opXX (fun x y => x.rotateRight (shAmt y)) d a b) s
/-- SLT. -/
def execSlt (d a b : Reg) (s : State) : Out := runCore (opXX fSlt d a b) s
/-- SLTU. -/
def execSltu (d a b : Reg) (s : State) : Out := runCore (opXX fSltu d a b) s
/-- MIN. -/
def execMin (d a b : Reg) (s : State) : Out := runCore (opXX fMin d a b) s
/-- MAX. -/
def execMax (d a b : Reg) (s : State) : Out := runCore (opXX fMax d a b) s
/-- MINU. -/
def execMinu (d a b : Reg) (s : State) : Out := runCore (opXX fMinu d a b) s
/-- MAXU. -/
def execMaxu (d a b : Reg) (s : State) : Out := runCore (opXX fMaxu d a b) s
/-- MUL. -/
def execMul (d a b : Reg) (s : State) : Out := runCore (opXX (· * ·) d a b) s
/-- MULH. -/
def execMulh (d a b : Reg) (s : State) : Out := runCore (opXX fMulh d a b) s
/-- MULHU. -/
def execMulhu (d a b : Reg) (s : State) : Out := runCore (opXX fMulhu d a b) s
/-- DIV. -/
def execDiv (d a b : Reg) (s : State) : Out := runCore (opXX fDiv d a b) s
/-- DIVU. -/
def execDivu (d a b : Reg) (s : State) : Out := runCore (opXX fDivu d a b) s
/-- REM. -/
def execRem (d a b : Reg) (s : State) : Out := runCore (opXX fRem d a b) s
/-- REMU. -/
def execRemu (d a b : Reg) (s : State) : Out := runCore (opXX fRemu d a b) s
/-- ADDW. -/
def execAddw (d a b : Reg) (s : State) : Out := runCore (opXX (fun x y => w32 (x + y)) d a b) s
/-- SUBW. -/
def execSubw (d a b : Reg) (s : State) : Out := runCore (opXX (fun x y => w32 (x - y)) d a b) s
/-- MULW. -/
def execMulw (d a b : Reg) (s : State) : Out := runCore (opXX (fun x y => w32 (x * y)) d a b) s
/-- CNT. -/
def execCnt (d a : Reg) (s : State) : Out := runCore (opX (fun x => BitVec.ofNat 64 (popCount x 64)) d a) s
/-- CLZ. -/
def execClz (d a : Reg) (s : State) : Out := runCore (opX (fun x => BitVec.ofNat 64 (leadZeros x 64)) d a) s
/-- CTZ. -/
def execCtz (d a : Reg) (s : State) : Out := runCore (opX (fun x => BitVec.ofNat 64 (trailZeros x 0 64)) d a) s
/-- BSWAP. -/
def execBswap (d a : Reg) (s : State) : Out := runCore (opX byteSwap d a) s
/-- SEL: x[d] := x[a] when x[e] is not 0, else x[b]. -/
def execSel (d a b e : Reg) (s : State) : Out :=
  runCore (do
    let x ← getX a
    let y ← getX b
    let c ← getX e
    setX d (if c ≠ 0 then x else y)) s

/-! ## Immediates (R90, R91) -/

/-- ADDI. -/
def execAddi (d a : Reg) (i : BitVec 16) (s : State) : Out := runCore (opXI (· + ·) d a i) s
/-- ANDI. -/
def execAndi (d a : Reg) (i : BitVec 16) (s : State) : Out := runCore (opXI (· &&& ·) d a i) s
/-- ORI. -/
def execOri (d a : Reg) (i : BitVec 16) (s : State) : Out := runCore (opXI (· ||| ·) d a i) s
/-- XORI. -/
def execXori (d a : Reg) (i : BitVec 16) (s : State) : Out := runCore (opXI (· ^^^ ·) d a i) s
/-- SLTI. -/
def execSlti (d a : Reg) (i : BitVec 16) (s : State) : Out := runCore (opXI fSlt d a i) s
/-- SLTIU. -/
def execSltiu (d a : Reg) (i : BitVec 16) (s : State) : Out := runCore (opXI fSltu d a i) s
/-- SLLI. -/
def execSlli (d a : Reg) (sh : BitVec 6) (s : State) : Out := runCore (opX (fun x => x <<< sh.toNat) d a) s
/-- SRLI. -/
def execSrli (d a : Reg) (sh : BitVec 6) (s : State) : Out := runCore (opX (fun x => x >>> sh.toNat) d a) s
/-- SRAI. -/
def execSrai (d a : Reg) (sh : BitVec 6) (s : State) : Out := runCore (opX (fun x => x.sshiftRight sh.toNat) d a) s
/-- LUI: i << 16. -/
def execLui (d : Reg) (i : BitVec 16) (s : State) : Out :=
  runCore (do
    let v ← getImm i
    setX d (v <<< 16)) s
/-- AUIPC: PC + (i << 16). -/
def execAuipc (d : Reg) (i : BitVec 16) (s : State) : Out :=
  runCore (do
    let v ← getImm i
    let k ← rd
    setX d (k.hart.pc + (v <<< 16))) s

end Sys2Proof.Machine
end

