-- ==== Sys2Proof/Machine/Job.lean ====
section
/-! DEFINITION. Machine/Job.lean: appending cards, waiting for completion words, aborting (09, R215, R216; 10, R218, R236, R237). -/
namespace Sys2Proof.Machine

/-! ## What an append reads and checks -/

/-- n bytes read by the hardware for the issuing core, at its privilege; a fault traps with its address. -/
def readAs (va n : Nat) : DevM (List Byte) := fun s =>
  let k := s.core s.cur
  match s.readBlock (k.tenv (dieOf s.cur)) k.user .none va k.pts n (n / 64 + 2) with
  | .error e => .error (.trap e.1 (BitVec.ofNat 64 e.2))
  | .ok (b, p, t) => .ok (b, t.modCore t.cur fun q => q.raisePts p)

/-- The physical address of an access of a kind that a privilege must allow. -/
def placeAs (user : Bool) (acc : Acc) (va : Nat) : DevM Nat := fun s =>
  let k := s.core s.cur
  match s.walkTouch (k.tenv (dieOf s.cur)) user acc .none va with
  | .error c => .error (.trap c (BitVec.ofNat 64 va))
  | .ok (t, p, u) => .ok (t.pa va, u.modCore u.cur fun q => q.raisePts p)

/-- An access of a kind that a privilege must allow, to memory: no hardware access goes to the register region (R228). -/
def permit (user : Bool) (acc : Acc) (va : Nat) : DevM Unit := do
  let pa ← placeAs user acc va
  trapIf (decide (pa < dramBase)) causeProt (BitVec.ofNat 64 va)

/-- A 64-bit word. -/
def readWordAs (va : Nat) : DevM Nat := do
  let b ← readAs va 8
  pure (bytesNat b)

/-- The words that the link step writes are writable: the old tail's next pointer and the descriptor's own. -/
def permitLink (q : Nat) : DevM Unit := do
  permit false .write q
  let t ← readWordAs (q + 8)
  if t = 0 then pure () else permit false .write t

/-- CTL of a descriptor, checked for a kind and a class; JOB where it may not be used (R218). -/
def openQueue (q : Word) (kind cls : Nat) : DevM Nat := do
  let ctl ← readWordAs (q.toNat + 0x10)
  trapIf (!ctlValid ctl || ctlHost ctl || ctlKind ctl != kind || ctlClass ctl != cls || !ctlZero ctl) causeJob q
  pure ctl

/-- The scheduler of a die can be reached. -/
def waitDie (die : Nat) : DevM Unit := fun s =>
  if die = dieOf s.cur ∨ s.bridgeUp = true then .ok ((), s) else .error (.wait id)

/-- The issuing core's snapshot of a card for a die's scheduler. -/
def State.snapshot (s : State) (die : Nat) (c q ctl : Nat) (w : List Word) : Card :=
  let k := s.core s.cur
  cardOf (s.die die).cards.length s.serial k.sv.ctxid.toNat c q (ctlPrio ctl) k.u.hgen k.pts (some s.cur) k.user w

/-- Slot 0 remembers a card for FENCEJ (R121). -/
def State.noteJob (s : State) (die k : Nat) : State :=
  if (s.core s.cur).onSys then s else s.modCore s.cur fun q => { q with jobs := q.jobs ++ [(die, k)] }

/-- Links a card and hands it to the scheduler. -/
def State.appendCard (s : State) (die c q ctl : Nat) (package : Bool) (w : List Word) : State :=
  let card := s.snapshot die c q ctl w
  let s1 := s.linkCard die card.ctx q c (wordAt w 1).toNat (s.core s.cur).pts
  let s2 := if package && card.st == .waiting then s1.acceptPackage die card else s1.accept die card
  s2.noteJob die card.id

/-! ## JAPP and KAPP -/

/-- The card is one that only the supervisor may append. -/
def checkpointOp (h : Nat) : Bool := bitsOf h 0 8 == 0x20 || bitsOf h 0 8 == 0x21

/-- JAPP (R218). -/
def execJapp (a b : Reg) (s : State) : Out :=
  runInstr (do
    let c ← onCore (getX a)
    let q ← onCore (getX b)
    trapIf (c.toNat % 128 != 0) causeMisalign c
    trapIf (q.toNat % 64 != 0) causeMisalign q
    waitAppend
    let bytes ← readAs c.toNat 128
    let k ← onCore rd
    permit k.user .write c.toNat
    let w := wordsOf bytes 16
    let h := (wordAt w 1).toNat
    trapIf (!jobHeaderOk h (wordAt w 2).toNat) causeJob c
    trapIf (checkpointOp h && !k.onSys) causeJob c
    let ctl ← openQueue q 1 (bitsOf h 8 4)
    permitLink q.toNat
    waitDie (ctlDie ctl)
    wr fun u => u.appendCard (ctlDie ctl) c.toNat q.toNat ctl false w) s

/-- What KAPP reads of a record and of its template; the level 0 domain is the package. -/
def readLaunch (r : Nat) : DevM Bool := do
  let b ← readAs r 64
  let shape := (wordAt (wordsOf b 8) 3).toNat
  let l ← readAs (r + 64) (16 * (bitsOf shape 0 3 + 1))
  let _ ← readAs (wordAt (wordsOf b 8) 2).toNat 16
  pure (bitsOf (wordAt (wordsOf l 2) 0).toNat 0 3 == 0)

/-- KAPP (R215). -/
def execKapp (a b : Reg) (s : State) : Out :=
  runInstr (do
    let c ← onCore (getX a)
    let q ← onCore (getX b)
    trapIf (c.toNat % 128 != 0) causeMisalign c
    waitAppend
    let h ← readWordAs (c.toNat + 8)
    let k ← onCore rd
    permit k.user .write c.toNat
    trapIf (bitsOf h 0 8 != 0x80 || bitsOf h 8 48 != 0) causeJob c
    trapIf (q.toNat % 64 != 0) causeMisalign q
    let ctl ← openQueue q 0 0
    let r ← readWordAs (c.toNat + 0x60)
    let package ← readLaunch r
    permitLink q.toNat
    waitDie (ctlDie ctl)
    if package then waitDie (1 - dieOf s.cur)
    let bytes ← readAs c.toNat 128
    wr fun u => u.appendCard (ctlDie ctl) c.toNat q.toNat ctl package (wordsOf bytes 16)) s

/-! ## Completion words (R216, R236) -/

/-- A probe that did not end the wait: its copy goes, so that the next probe asks the home again; a pre-emption stops the instruction
between probes (R216, R251). -/
def State.probeAgain (s : State) (va : Nat) : State :=
  match (s.core s.cur).tlbFind va with
  | none => s
  | some t =>
    let line := t.pa va / 64
    let s1 := s.modCore s.cur fun k => { (k.setPending .stalled) with
      hostWait := none
      l1 := match lookupK k.l1 line with
        | some l => if l.excl then k.l1 else removeK k.l1 line
        | none => k.l1 }
    s1.modDie (dieOf s.cur) fun d => { d with rdc := removeK d.rdc line }

/-- KWAIT: each probe is an ordinary load. -/
def waitWord (a b : Reg) : DevM Unit := do
  let va ← onCore (getX a)
  let v ← onCore (getX b)
  onCore (checkAlign va 8)
  let w ← loadMem va 8
  if v.toNat ≤ w then pure () else waitFor fun u => u.probeAgain va.toNat

/-- JWAIT. -/
def execJwait (a b : Reg) (s : State) : Out := runInstr (waitWord a b) s
/-- KWAIT. -/
def execKwait (a b : Reg) (s : State) : Out := runInstr (waitWord a b) s

/-- JPOLL. -/
def execJpoll (d a : Reg) (s : State) : Out :=
  runInstr (do
    let va ← onCore (getX a)
    onCore (checkAlign va 8)
    let w ← loadMem va 8
    onCore (setX d (BitVec.ofNat 64 w))) s

/-! ## JABORT (R237) -/

/-- JABORT. -/
def execJabort (a : Reg) (s : State) : Out :=
  runInstr (do
    let c ← onCore (getX a)
    trapIf (c.toNat % 128 != 0) causeMisalign c
    let k ← onCore rd
    let _ ← placeAs k.user .read c.toNat
    waitAcked
    wr fun u => u.abortCard k.sv.ctxid.toNat c.toNat) s

end Sys2Proof.Machine
end

