-- ==== Sys2Proof/Machine/Mat.lean ====
section
/-! DEFINITION. Machine/Mat.lean: the matrix and bit-plane instructions at issue (07, R153 to R172). A matrix
instruction enters the unit with the registers and modes it sampled; its effect is `matEffect` at retirement. -/
namespace Sys2Proof.Machine

/-- BADOP with one of the codes of R156. -/
def badMat (c : Bool) (code : Nat) : CpuM Unit := trapIf c causeBadOp (BitVec.ofNat 64 code)

/-- The pairing rule: E4M3 pairs with E4M3 only (R156). -/
def pairBad (fa fb : MatFmt) : Bool := (fa == .e4m3) != (fb == .e4m3)

/-- The class a product needs of its destination. -/
def pairClass (fa : MatFmt) : TileClass := if fa = .e4m3 then .f8 else .int

/-- The instruction enters the matrix unit (R155). -/
def issueMat (op : MatOp) : CpuM Unit := wr fun k => { k with mat := some op }

/-- MMUL and MMULZ with A in the scratchpad (R159). The operands are read, and an empty queue faults, before the BADOP conditions of
R156 are tested (log 25, DESIGN CHOICE). -/
def mmulSpOp (zero : Bool) (t : BitVec 2) (fa : MatFmt) (a b : Reg) (fb : MatFmt) : CpuM Unit := do
  waitMatFree
  let x ← getX a
  let y ← getX b
  let k ← rd
  badMat (pairBad fa fb) 1
  badMat (!zero && (k.tile t.toNat).cls != pairClass fa) 2
  checkOperand x (matBytes fa) 64
  checkOperand y (matBytes fb) 64
  issueMat (.mmul zero t.toNat fa x.toNat y.toNat fb)

/-- MMUL and MMULZ with A from tile ta through the down-converter (R159): x[a] is the offset of B, x[b] the shift. -/
def mmulAccOp (zero : Bool) (t : BitVec 2) (fa : MatFmt) (a b : Reg) (fb : MatFmt) (ta : BitVec 2) : CpuM Unit := do
  waitMatFree
  let x ← getX a
  let y ← getX b
  let k ← rd
  badMat (pairBad fa fb) 1
  badMat (!zero && (k.tile t.toNat).cls != pairClass fa) 2
  badMat ((k.tile ta.toNat).cls == .f32) 3
  badMat (63 < y.toNat) 4
  checkOperand x (matBytes fb) 64
  issueMat (.mmulAcc zero t.toNat fa ta.toNat y.toNat x.toNat fb)

/-- MMUL from the scratchpad (R159). -/
def execMmulSp (t : BitVec 2) (fa : MatFmt) (a b : Reg) (fb : MatFmt) (s : State) : Out := runCore (mmulSpOp false t fa a b fb) s
/-- MMUL from a tile (R159). -/
def execMmulAcc (t : BitVec 2) (fa : MatFmt) (a b : Reg) (fb : MatFmt) (ta : BitVec 2) (s : State) : Out :=
  runCore (mmulAccOp false t fa a b fb ta) s
/-- MMULZ from the scratchpad (R159). -/
def execMmulzSp (t : BitVec 2) (fa : MatFmt) (a b : Reg) (fb : MatFmt) (s : State) : Out := runCore (mmulSpOp true t fa a b fb) s
/-- MMULZ from a tile (R159). -/
def execMmulzAcc (t : BitVec 2) (fa : MatFmt) (a b : Reg) (fb : MatFmt) (ta : BitVec 2) (s : State) : Out :=
  runCore (mmulAccOp true t fa a b fb ta) s

/-- MZERO (R161). -/
def execMzero (d : Reg) (c : TileClass) (s : State) : Out :=
  runCore (do
    waitMatFree
    issueMat (.mzero d.toNat c)) s

/-- The offset and shift of MLOAD and MSTORE with their checks (R162). -/
def tileOperand (a b : Reg) (t : Ty) : CpuM (Nat × Int) := do
  waitMatFree
  let x ← getX a
  let y ← getX b
  badMat (y.toInt < -64 || 63 < y.toInt) 4
  checkOperand x (4096 * (tyBits t / 8)) 64
  return (x.toNat, y.toInt)

/-- MLOAD (R162). -/
def execMload (d a b : Reg) (t : Ty) (s : State) : Out :=
  runCore (do
    let p ← tileOperand a b t
    issueMat (.mload d.toNat p.1 p.2 t)) s

/-- MSTORE (R163). -/
def execMstore (d a b : Reg) (t : Ty) (s : State) : Out :=
  runCore (do
    let p ← tileOperand a b t
    let md ← getModes
    issueMat (.mstore d.toNat p.1 p.2 t md.sat)) s

/-- MSCACC (R164). -/
def execMscacc (d a b e : Reg) (s : State) : Out :=
  runCore (do
    waitMatFree
    let x ← getX b
    let y ← getX e
    let k ← rd
    badMat ((k.tile d.toNat).cls != .f32 || (k.tile a.toNat).cls == .f32) 5
    checkOperand x 64 64
    checkOperand y 64 64
    let md ← getModes
    issueMat (.mscacc d.toNat a.toNat x.toNat y.toNat md.rm md.ftz md.daz)) s

/-- MCVT (R165). -/
def execMcvt (d : Reg) (c : TileClass) (s : State) : Out :=
  runCore (do
    waitMatFree
    issueMat (.mcvt d.toNat c)) s

/-- MCOPY (R166). -/
def execMcopy (d a : Reg) (s : State) : Out :=
  runCore (do
    waitMatFree
    issueMat (.mcopy d.toNat a.toNat)) s

/-- The word of R167. -/
def mflagsWord (k : Core) : Word :=
  BitVec.ofNat 64 (bitsOf k.u.accflags.toNat 0 1 * 2 ^ 8 + (k.tile 3).cls.code * 2 ^ 6 + (k.tile 2).cls.code * 2 ^ 4
    + (k.tile 1).cls.code * 2 ^ 2 + (k.tile 0).cls.code)

/-- MFLAGS (R167). -/
def execMflags (d : Reg) (s : State) : Out :=
  runCore (do
    waitMatFree
    let k ← rd
    setX d (mflagsWord k)) s

/-! ## Bit planes (R169 to R172) -/

/-- FP32 element i at an offset. -/
def spF32 (k : Core) (off i : Nat) : Nat := k.spRead (off + 4 * i) 4

/-- The source and destination of a BPL instruction with their checks and waits (R157, R169). The destination, which no rule places
in the order of operands, is read and checked after the sources (log 25, DESIGN CHOICE). -/
def bplOperands (d a : Reg) (src dst : Nat) : CpuM (Nat × Nat) := do
  let x ← getX a
  let y ← getX d
  checkOperand x src 8
  checkOperand y dst 8
  waitMat x.toNat src false
  waitMat y.toNat dst true
  return (x.toNat, y.toNat)

/-- BPQ on one element: the clamped integer, OVF, flags (R170). -/
def bpqElem (m : Nat) (rm : Nat) (ex : Int) (b : Nat) : Int × Bool × FFlags :=
  match (fmtOf .f32).val b with
  | .nan _ => (0, false, fNV)
  | .inf neg => let c := satBits m (if neg then -(2 ^ 64 : Nat) else (2 ^ 64 : Nat)); (c.1, true, 0)
  | .fin neg n e =>
    let x : Exact := if n = 0 then .zero neg else .num neg n 1 (e + 127 - ex)
    match x.toInt rm with
    | none => (0, false, 0)
    | some (v, inex) => let c := satBits m v; (c.1, c.2, flagIf inex fNX)

/-- The exponent operand of BPQ and BPDQ: above 255 traps BADOP 6. -/
def bpExponent (b : Reg) : CpuM Nat := do
  let y ← getX b
  badMat (255 < y.toNat) 6
  return y.toNat

/-- BPQ (R170). -/
def execBpq (d a b : Reg) (m : BitVec 5) (s : State) : Out :=
  runCore (do
    let md ← getModes
    let k0 ← rd
    let x ← getX a
    let ex ← bpExponent b
    let y ← getX d
    checkOperand x 256 8
    checkOperand y (8 * m.toNat) 8
    waitMat x.toNat 256 false
    waitMat y.toNat (8 * m.toNat) true
    let l := (List.range 64).map fun i => bpqElem m.toNat md.rm ex (spF32 k0 x.toNat i)
    wr fun k =>
      ((k.spWrites y.toNat ((planesOf m.toNat (l.map Prod.fst)).flatMap (leBytes 8))).orOvf
        (l.any fun p => p.2.1)).orFlags (l.foldl (fun f p => f ||| p.2.2) 0)) s

/-- BPDQ (R170): always to nearest even. -/
def execBpdq (d a b : Reg) (m : BitVec 5) (s : State) : Out :=
  runCore (do
    let k0 ← rd
    let x ← getX a
    let ex ← bpExponent b
    let y ← getX d
    checkOperand x (8 * m.toNat) 8
    checkOperand y 256 8
    waitMat x.toNat (8 * m.toNat) false
    waitMat y.toNat 256 true
    let l := (planeBlock k0 x.toNat m.toNat).map fun v =>
      (fmtOf .f32).round modesRNE (exactInt v ((ex : Int) - 127) false)
    wr fun k => (k.spWrites y.toNat (l.flatMap fun p => leBytes 4 p.1)).orFlags (l.foldl (fun f p => f ||| p.2) 0)) s

/-- BPACK (R171). -/
def execBpack (d a : Reg) (m : BitVec 5) (s : State) : Out :=
  runCore (do
    let p ← bplOperands d a 64 (8 * m.toNat)
    let k0 ← rd
    let l := (List.range 64).map fun i => satBits m.toNat (sextNat (k0.spRead (p.1 + i) 1) 8)
    wr fun k => (k.spWrites p.2 ((planesOf m.toNat (l.map Prod.fst)).flatMap (leBytes 8))).orOvf (l.any Prod.snd)) s

/-- BUNPACK (R171). -/
def execBunpack (d a : Reg) (m : BitVec 5) (s : State) : Out :=
  runCore (do
    let p ← bplOperands d a (8 * m.toNat) 64
    let k0 ← rd
    let l := planeBlock k0 p.1 m.toNat
    wr fun k => k.spWrites p.2 (l.map fun v => BitVec.ofInt 8 v)) s

/-- The largest biased exponent among the finite elements (R172). -/
def maxExponent (k : Core) (off : Nat) : Nat :=
  (List.range 64).foldl (fun best i =>
    let e := bitsOf (spF32 k off i) 23 8
    if e = 255 then best else max best e) 0

/-- BPMAXE (R172). -/
def execBpmaxe (d a : Reg) (s : State) : Out :=
  runCore (do
    let x ← getX a
    checkOperand x 256 8
    waitMat x.toNat 256 false
    let k ← rd
    setX d (BitVec.ofNat 64 (maxExponent k x.toNat))) s

end Sys2Proof.Machine
end

