-- ==== Sys2Proof/Machine/Outside.lean ====
section
/-! DEFINITION. Machine/Outside.lean: what comes from the host and from reset: CXL snoops, host accesses to device memory, the
watchdog, and device reset (15, R294, R312; 16, R316; 19, R377; 20, R379 to R382). -/
namespace Sys2Proof.Machine

/-! ## Snoops of host lines (R294, R312) -/

/-- A die's remote-data cache holds the host line. -/
def State.dieHolds (s : State) (die line : Nat) : Bool := (lookupK s.lines (lineKey (4096 + die) line)).isSome

/-- Some die's remote-data cache holds the host line. -/
def State.holdsHost (s : State) (line : Nat) : Bool := s.dieHolds 0 line || s.dieHolds 1 line

/-- A snoop for a host line reaches the device: a UCIe module of a die that holds the line, or of any where none does, is ACTIVE (R312,
R375). -/
def State.snoopable (s : State) (line : Nat) : Bool :=
  if s.holdsHost line then (s.dieHolds 0 line && s.ucieUp 0) || (s.dieHolds 1 line && s.ucieUp 1) else s.ucieUp 0 || s.ucieUp 1

/-- The line leaves both dies. -/
def State.loseHosts (s : State) (line : Nat) : State := (s.loseHost 4096 line).loseHost 4097 line

/-- HOST_SNOOP: the device answers with the data of a line that it holds; an invalidating snoop takes the line, and `data` is
what the host then writes. -/
def execHostSnoop (line : Nat) (invalidate : Bool) (data : Option Line) (s : State) : Out :=
  runEvent (fun s =>
    if !s.snoopable line || paRegion (line * 64) != some .host then s
    else
      let s1 := s.settle (line * 64)
      let s2 := if s1.holdsHost line then { s1 with toHost := s1.toHost ++ [.snoopAnswer line (s1.storeLine line)] } else s1
      if !invalidate then s2
      else
        let s3 := s2.loseHosts line
        match data with
        | some d => s3.putMem (line * 64) 64 d.toNat 0
        | none => s3) s

/-! ## Host accesses to device memory (R377) -/

/-- The home that serves a DRAM address to an agent that translates nothing: that of the region which covers it. -/
def State.homeFor (s : State) (pa : Nat) : Nat :=
  match s.regions.find? fun r => decide (r.home < 4096) && decide (r.base ≤ pa) && decide (pa < r.base + r.size) with
  | some r => r.home
  | none => 0

/-- The context to which a DRAM address belongs. -/
def State.ownerOf (s : State) (pa : Nat) : Nat := match s.frame pa with
  | .mapped x => x
  | _ => 0

/-- A store of the host, as RST at the home under protocol 0 (R377). -/
def State.hostStore (s : State) (pa n v : Nat) : State :=
  let home := s.homeFor pa
  let q : Req := { kind := .rst n v, home := home, pa := pa, agent := 145, core := coreCount + 2, p := 0, ctx := s.ownerOf pa, sel := 0,
                   retryAt := none }
  match s.unitEvent q 6 with
  | some r => r.2
  | none => (s.homeWrite home pa n v 0 (s.ownerOf pa)).2

/-- HOST_MEM_ACCESS: a naturally aligned load or store of 1, 2, 4 or 8 bytes of device DRAM, through a UCIe module of its die; a store
into the corrected-error log after FWLOCK (R382), or into the core map (R239; log 67, DESIGN CHOICE), is discarded. -/
def execHostMemAccess (pa n : Nat) (store : Option Word) (s : State) : Out :=
  runEvent (fun s =>
    if !s.ucieUp (dramDie pa) || !inDram pa || !(n == 1 || n == 2 || n == 4 || n == 8) || pa % n != 0 then s
    else match store with
      | none =>
        let r := s.agentLine 145 (s.ownerOf pa) 0 (s.homeFor pa) pa 0
        { r.2.2 with toHost := r.2.2.toHost ++ [.memAnswer pa (BitVec.ofNat 64 (bitsOf r.1.toNat (8 * (pa % 64)) (8 * n)))] }
      | some v =>
        if (s.inCel pa && s.plat.fwlock) || s.inMap pa n then s
        else s.hostStore pa n (v.toNat % 2 ^ (8 * n))) s

/-! ## The watchdog (R316) -/

/-- Nanoseconds that an access of slot 0 waits for host memory. -/
def watchdogNs : Nat := 1000000

/-- WATCHDOG_EXPIRY: slot 0 of a core has waited 1 ms for host memory. -/
def execWatchdogExpiry (c : Nat) (s : State) : Out :=
  runEvent (fun s => match (s.core c).hostWait with
    | some (t, va) =>
      if c < coreCount && !(s.core c).onSys && decide (t + watchdogNs ≤ s.time)
      then { { s with cur := c }.takeTrap causeWatchdog va with cur := s.cur } else s
    | none => s) s

/-! ## Reset (R379) -/

/-- Writes back the modified host lines of a list of cores (step 1). -/
def State.writeAllHost (s : State) : List Nat → State
  | [] => s
  | c :: r => State.writeAllHost (s.writeHost c (hostLines (s.core c))) r

/-- Host lines that answers carry home are written back too (step 1). -/
def State.landHost (s : State) : List Req → State
  | [] => s
  | q :: r => State.landHost (if 4096 ≤ q.home then s.takeBack q.home q.copies else s) r

/-- Step 2: every agent is cleared and DRAM is zero; host memory, what the outside has been told, and the model's own schedule
stay. -/
def State.cleared (s : State) : State :=
  { State.reset with
    agenda := s.agenda
    cur := s.cur
    free := s.free
    mem := s.mem.filter fun p => decide (hostBase ≤ p.1)
    toHost := s.toHost
    toPeer := s.toPeer
    plat := { Platform.reset with stage := 2 } }

/-- The image carries the root key, or a key that the root key signs (R380). -/
def signerTrusted : Bool :=
  sha384 Config.firmwareKey == Config.rootDigest.toNat
    || (sha384 Config.keySigner == Config.rootDigest.toNat && ecdsaVerify Config.keySigner Config.firmwareKey Config.keySignature)

/-- BOOTERR that the boot ROM's checks end with (R378, R380): the fuses, the signer, the signature of the image, in an order that no
rule gives (log 5, DESIGN CHOICE). -/
def bootError : Nat :=
  if Config.fusesRead = false then 3
  else if signerTrusted = false then 2
  else if ecdsaVerify Config.firmwareKey Config.firmware Config.firmwareSignature = false then 1
  else 0

/-- MEAS0 to MEAS3: the digests of the ROM, the firmware image, its configuration and the list of trusted signers (R380). -/
def measures : Vector (BitVec 384) 4 :=
  #v[BitVec.ofNat 384 (sha384 Config.romCode), BitVec.ofNat 384 (sha384 Config.firmware), BitVec.ofNat 384 (sha384 Config.firmwareConfig),
    BitVec.ofNat 384 (sha384 (Config.signers.flatMap fun d => digestBytes d.toNat))]

/-- A vector of 18 words. -/
def words18 (f : Fin 18 → Word) : Vector Word 18 := Vector.ofFn f

/-- Bits set in the harvest words of a die. -/
def harvestCount (f : Fin 18 → Word) (die : Nat) : Nat :=
  ((List.range 9).map fun i => bitCount ((words18 f)[9 * die + i]?.getD 0) 64).foldl (· + ·) 0

/-- At most 16 cores of each die are marked, so that at least 560 are enabled (R2). -/
def harvestOk (f : Fin 18 → Word) : Bool := harvestCount f 0 ≤ 16 && harvestCount f 1 ≤ 16

/-- The fuses of a shipped part (R2; log 2, DESIGN CHOICE). -/
def bootFuses : Fin 18 → Word := if harvestOk Config.fuses then Config.fuses else fun _ => 0

/-- The harvest words of the core map: the fuses and the spares that firmware holds back (R239, R2; log 5, DESIGN CHOICE). -/
def bootHarvest : Fin 18 → Word :=
  let f := fun i => bootFuses i ||| Config.spares i
  if harvestOk f then f else bootFuses

/-- The cores that the harvest words do not mark, in the order of R238. -/
def bootCores : List Nat :=
  (List.range coreCount).filter fun c =>
    !((words18 bootHarvest)[dieOf c * 9 + c % 576 / 64]?.getD 0).getLsbD (c % 64)

/-- The core map (R239). -/
def coreMap : List Byte :=
  (words18 bootHarvest).toList.flatMap (fun w => leBytes 8 w.toNat) ++ leBytes 8 bootCores.length ++ List.replicate 104 0
    ++ bootCores.flatMap fun c => leBytes 2 (physId c)

/-- Where firmware writes the core map. -/
def mapBase : Nat := dramBase + Config.mapFrame.val * 2 ^ 21
/-- Where firmware places the corrected-error log. -/
def logBasePa : Nat := dramBase + Config.logFrame.val * 2 ^ 21

/-- Links 12 to 16 begin training (R372). -/
def State.trainAll (s : State) : List Nat → State
  | [] => s
  | p :: r => State.trainAll (s.startTraining p) r

/-- Step 3 and the start of step 4: the ROM reads the fuses and measures, firmware starts the links, writes the core map, and places the
log and its signers; the rest follows the training of the links. -/
def State.booted (s : State) : State :=
  ({ s with
    mem := cellSets s.mem mapBase coreMap
    plat := { s.plat with
      hmap := words18 bootFuses
      meas := measures
      signers := Config.signers
      l2pbase := BitVec.ofNat 64 mapBase
      l2pn := BitVec.ofNat 64 bootCores.length
      celbase := BitVec.ofNat 64 logBasePa
      celcap := BitVec.ofNat 64 Config.logCapacity
      stage := 3 } }).trainAll [12, 13, 14, 15, 16]

/-- DEVICE_RESET: a power-on reset or a CXL reset; the boot ROM stops after step 2 when its checks fail. -/
def execDeviceReset (s : State) : Out :=
  runEvent (fun s =>
    let s0 := s.landHost s.reqs
    let s1 := (s0.writeAllHost (s0.cores.map Prod.fst)).cleared
    if bootError = 0 then s1.booted
    else { s1 with plat := { s1.plat with booterr := bootError, hmap := if bootError = 3 then s1.plat.hmap else words18 bootFuses } }) s

end Sys2Proof.Machine
end

