-- ==== Sys2Proof/Machine/Serve.lean ====
section
/-! DEFINITION. Machine/Serve.lean: the remote-operation server on slot 1 and the reduction server on slot 2 (08, R186 to R190;
05, R107, R117). -/
namespace Sys2Proof.Machine

/-! ## Requests (R186) -/

/-- The fields of a program's request. -/
structure RemoteReq where
  op    : Nat
  aop   : Nat
  n     : Nat
  sp    : Bool
  qual  : Nat
  reply : Nat
  m1    : Word
  m2    : Word
  m3    : Word

/-- The fields of a message on channel 62. -/
def reqOfMsg (m : Msg) : RemoteReq :=
  let w := m.pay[0].toNat
  { op := bitsOf w 0 4, aop := bitsOf w 4 4, n := if bitsOf w 8 1 = 1 then 4 else 8, sp := bitsOf w 9 1 == 1, qual := bitsOf w 10 2,
    reply := bitsOf w 16 6, m1 := m.pay[1], m2 := m.pay[2], m3 := m.pay[3] }

/-- The checks that give status 7 before any access (R187). -/
def reqBad (m : Msg) (r : RemoteReq) : Bool :=
  let w := m.pay[0].toNat
  m.len != 4 || bitsOf w 22 42 != 0 || bitsOf w 12 4 != 0 || decide (3 < r.op) || decide (10 < r.aop)
    || (r.aop != 0 && r.op != 3) || (r.sp && decide (2 ≤ r.op)) || (r.qual != 0 && !r.sp) || r.qual == 3
    || (r.op == 2 && (r.n == 4 || r.m3.toNat % 16 != 0 || decide (r.m3.toNat < 16) || decide (4096 < r.m3.toNat)
        || r.m2.toNat % 16 != 0))

/-- How a request ends: its status, the value of its reply, its timestamp, the state; or none while it waits. -/
abbrev Served := Option (Nat × Nat × Nat × State)

/-- A faulting request has no effect. -/
def refusedReq (s : State) (cause : Nat) : Served := some (cause, 0, 0, s)

/-- A scratchpad load or store with its qualifier (R108, R109). -/
def State.serveSp (s : State) (c : Nat) (r : RemoteReq) : Served :=
  let k := s.core c
  let off := r.m1.toNat
  let g := off / 16
  if spSize < off + r.n then refusedReq s causeSpRange
  else if off % r.n ≠ 0 then refusedReq s causeMisalign
  else if r.op = 0 then
    (if r.qual ≠ 0 ∧ k.full g = false then none
     else some (0, k.spRead off r.n, k.pts, if r.qual = 2 then s.setCore c (k.mark g false).event else s))
  else if r.qual = 1 ∧ k.full g = true then none
  else
    let k1 := k.spWrite off r.n (r.m2.toNat % 2 ^ (8 * r.n))
    some (0, 0, k.pts, s.setCore c (if r.qual = 0 then k1 else k1.fill g 1))

/-- The environment of slot 1 for a message's context: user permissions. -/
def State.serveEnv (s : State) (c : Nat) (m : Msg) : TEnv := s.ctxEnv (dieOf c) m.ctx

/-- The value of a 32-bit atomic in a reply: sign-extended, but for AMOFADD (R186). -/
def atomicReply (aop n v : Nat) : Nat := if aop = 10 then v else (wordOfInt (sextNat v (8 * n))).toNat

/-! ## Accesses of slot 1 (R186, R268, R293) -/

/-- A request of slot 1 for the context of a message. -/
def State.slotReq (s : State) (t : TlbEntry) (x home pa : Nat) (kind : ReqKind) : Req :=
  { kind := kind, home := home, pa := pa, agent := agentOf s home s.cur, core := s.cur, p := (s.core s.cur).pts, ctx := x,
    sel := leafProto t.leaf, retryAt := none }

/-- An access of slot 1 for which the table answers nothing at once, or to a watched line, is performed at the home (R199; log 7,
DEDUCED): the old value of the word, and the state. -/
def State.slotHome (s : State) (home pa n x : Nat) (new : Option (Nat → Nat)) : Nat × State :=
  let c := s.cur
  let r := match new with
    | some _ => (((s.core c).pts, s.settle pa) : Nat × State)
    | none => s.homeRead home pa (s.core c).pts (some c) (some x)
  let old := r.2.bytes pa n
  let w := match new with
    | some f => r.2.homeWrite home pa n (f old) r.1 x (some c)
    | none => r
  (old, w.2.modCore c fun k => k.raisePts w.1)

/-- The line of an address as a load of slot 1 finds it, from the core's copy or by RD, and PTS at the load's timestamp. -/
def State.slotLine (s : State) (t : TlbEntry) (x pa : Nat) : Line × State :=
  let c := s.cur
  let home := t.home (dieOf c) pa
  let nc := leafNc t.leaf
  let hit := if nc then none else (s.copyFor home (pa / 64)).bind fun l => l.loadHit (s.core c).pts
  match hit with
  | some (tau, l) => (l.data, s.modCore c fun k => k.putLine (pa / 64) l tau)
  | none => match s.unitEvent (s.slotReq t x home pa (.rd nc)) 0 with
    | some (some m, u) =>
      let v := if nc then u else if m.code = 2 then u.modCore c (fun k => { k with l1 := insertK k.l1 (pa / 64) (m.copy true) })
        else u.installLease m
      (m.data, v.modCore c fun k => k.raisePts m.tau)
    | some (none, u) => (u.storeLine (pa / 64), u)
    | none =>
      let r := s.slotHome home (pa / 64 * 64) 64 x none
      (BitVec.ofNat 512 r.1, r.2)

/-- A store or an atomic of slot 1 with the function that gives the new value: in a line that the core owns or gains by RDX, or by
RST or RAMO at the home; the old value of an atomic, and the state. -/
def State.slotPut (s : State) (t : TlbEntry) (x pa n : Nat) (kind : ReqKind) (new : Nat → Nat) : Nat × State :=
  let c := s.cur
  let home := t.home (dieOf c) pa
  let line := pa / 64
  let near := match s.target t pa with
    | .near _ => s.owns x (leafProto t.leaf)
    | _ => false
  let put := fun (u : State) (l : L1Line) (fresh : Bool) =>
    let old := l.read (pa % 64) n
    (old, u.storeOwned c { dest := .near, home := home, pa := pa, n := n, data := new old, ctx := x, sel := leafProto t.leaf } l fresh)
  if near && s.watched line then s.slotHome home pa n x (some new)
  else match (if near then s.ownedLine c home line else none) with
    | some l => put s l false
    | none => match s.unitEvent (s.slotReq t x home pa (if near then .rdx else kind)) (if near then 1 else if kind matches .rst .. then 6 else 7) with
      | some (some m, u) =>
        if near then (if m.code = 2 then put u (m.copy true) true else s.slotHome home pa n x (some new))
        else
          let v := if m.code = 6 then u.modCore c fun k => { k with l1 := updIn k.l1 m } else u
          (m.old.toNat, v.modCore c fun k => k.raisePts m.tau)
      | some (none, u) => (0, u)
      | none => s.slotHome home pa n x (some new)

/-- A home serves slot 1 now: it takes the core's messages, and host memory answers (R307, R309, R365). -/
def State.slotReaches (s : State) (home pa : Nat) : Bool := s.reaches home s.cur && s.hostUp home pa

/-- A load, store or atomic of memory, by the core that serves. -/
def State.serveMem (s : State) (c : Nat) (m : Msg) (r : RemoteReq) : Served :=
  let e := s.serveEnv c m
  let va := r.m1.toNat
  if va % r.n ≠ 0 then refusedReq s causeMisalign
  else match s.walkTouch e true (if r.op = 0 then .read else if r.op = 1 then .write else .amo) .none va with
    | .error x => refusedReq s x
    | .ok (t, q, s1) =>
      let pa := t.pa va
      let u := { s1.modCore c (fun k => k.raisePts q) with cur := c }
      if pa < dramBase ∨ (r.op ≠ 0 ∧ s.guarded pa r.n = true) then refusedReq s causeProt
      else if !u.slotReaches (t.home e.die pa) pa then none
      else
        let d := r.m2.toNat % 2 ^ (8 * r.n)
        let w := if r.op = 0 then (fun (x : Line × State) => (bitsOf x.1.toNat (8 * (pa % 64)) (8 * r.n), x.2)) (u.slotLine t m.ctx pa)
          else if r.op = 1 then u.slotPut t m.ctx pa r.n (.rst r.n d) fun _ => d
          else u.slotPut t m.ctx pa r.n (.ramo r.n r.aop r.m2 r.m3 0) fun old => (amoNew r.aop r.n old r.m2.toNat r.m3.toNat 0).1
        let v := if r.op = 0 then w.1 else if r.op = 1 then 0 else atomicReply r.aop r.n w.1
        some (0, v, (w.2.core c).pts, { w.2 with cur := s.cur })

/-- Reads n bytes of memory with ordinary loads of the core that serves: the bytes and the state; at a fault its cause, and no cause
while a home takes nothing from the core. Fuel bounds the pieces. -/
def State.copyIn (s : State) (e : TEnv) (x va n : Nat) : Nat → Except (Option Nat) (List Byte × State)
  | 0 => .ok ([], s)
  | fuel + 1 =>
    if n = 0 then .ok ([], s)
    else
      let k := min n (64 - va % 64)
      match s.walkTouch e true .read .none va with
      | .error c => .error (some c)
      | .ok (t, q, s1) =>
        let pa := t.pa va
        if pa < dramBase then .error (some causeProt)
        else if !s1.slotReaches (t.home e.die pa) pa then .error none
        else
          let r := (s1.modCore s1.cur fun c => c.raisePts q).slotLine t x pa
          match State.copyIn r.2 e x (va + k) (n - k) fuel with
          | .error c => .error c
          | .ok (l, u) => .ok (leBytes k (bitsOf r.1.toNat (8 * (pa % 64)) (8 * k)) ++ l, u)

/-- A copy into the scratchpad: ordinary loads, then WriteSP, every granule covered set full. -/
def State.serveCopy (s : State) (c : Nat) (m : Msg) (r : RemoteReq) : Served :=
  let n := r.m3.toNat
  let off := r.m2.toNat
  if spSize < off + n then refusedReq s causeSpRange
  else match { s with cur := c }.copyIn (s.serveEnv c m) m.ctx r.m1.toNat n (n / 64 + 2) with
    | .error (some x) => refusedReq s x
    | .error none => none
    | .ok (b, u) =>
      some (0, 0, (u.core c).pts, { u.modCore c (fun q => (q.spWrites off b).fill (off / 16) (n / 16)) with cur := s.cur })

/-- A program's request (R186, R187). -/
def State.serveReq (s : State) (c : Nat) (m : Msg) (r : RemoteReq) : Served :=
  if reqBad m r then refusedReq s causeBadOp
  else if r.sp then s.serveSp c r
  else if r.op = 2 then s.serveCopy c m r
  else s.serveMem c m r

/-- The reply, or the report of a fault that asked for none (R187). -/
def State.replyTo (s : State) (c : Nat) (m : Msg) (r : RemoteReq) (status value p : Nat) : State :=
  let l := s.logical c % 4096
  if r.reply ≠ 0 then
    s.post c (hwMsg m.src r.reply m.gen l 2 5 (pay4 (w64 status) (w64 value) 0 0) p m.ctx)
  else if status = 0 then s
  else match s.physical m.src with
    | some q => s.post c (reportMsg s 3 r.m1 (w64 (status + l * 2 ^ 16)) m.ctx l (s.core c).pts (m.src, q))
    | none => s

/-- The head of a channel's FIFO goes: the FIFO refills, and PEND follows (R180). -/
def State.dropHead (s : State) (c ch ix : Nat) : State :=
  let s1 := (s.modCore c fun k => let e := k.entry ch; k.setEntry ch { e with fifo := e.fifo.eraseIdx ix }).refill c ch
  let w := s1.waits c ch
  s1.modCore c fun k => k.setEntry ch { k.entry ch with pend := w }

/-! ## What slot 1 serves next (R32) -/

/-- A remote store or atomic of another die is still at the home of the core: slot 1 runs one at a time. -/
def State.serving (s : State) (c : Nat) : Bool :=
  let mine := fun (q : Req) => q.agent == 144 && q.width != 0 && q.home == s.logical c
  s.reqs.any mine || s.regions.any fun r => r.waiting.any mine

/-- What has waited longest at slot 1. -/
inductive Slot1 where
  | none
  | msg (m : Msg)
  | op (o : RemoteOp)

/-- The messages of channel 62 that slot 1 may serve. -/
def Core.requests (k : Core) : List Msg := if k.inSave then [] else (k.entry 62).fifo

/-- The remote operation that slot 1 may serve: those of an agent that is fenced, or from which nothing comes, have no effect (R307,
R309). -/
def State.firstOp (s : State) (c : Nat) : Option RemoteOp :=
  (s.core c).slot1.find? fun o => s.bridgeUp && !s.agentLost (s.logical c) 144 && !(s.agent (clusterOf o.core)).fenced
    && !(s.agent (clusterOf o.core)).drift

/-- The next thing that slot 1 serves, in order of arrival. -/
def State.nextAt (s : State) (c : Nat) : Slot1 :=
  if s.serving c then .none
  else match (s.core c).requests, s.firstOp c with
    | m :: _, some o => if m.time ≤ o.time then .msg m else .op o
    | m :: _, none => .msg m
    | [], some o => .op o
    | [], none => .none

/-- Serves a program's request. -/
def State.runReq (s : State) (c : Nat) (m : Msg) : State :=
  let r := reqOfMsg m
  match s.serveReq c m r with
  | none => s
  | some (status, v, p, s1) =>
    let s2 := s1.modCore c fun k => k.raisePts p
    (s2.replyTo c m r status v (s2.core c).pts).dropHead c 62 0

/-- Carries a remote store or atomic to the slice (R107, R117). -/
def State.runOp (s : State) (c : Nat) (o : RemoteOp) : State :=
  let kind : ReqKind := match o.amo with
    | none => .rst o.n o.data
    | some op => .ramo o.n op (w64 o.data) o.cmp o.rm
  let q : Req := { kind := kind, home := s.logical c, pa := o.pa, agent := 144, core := o.core, p := o.pts, ctx := o.ctx,
                   sel := o.sel, retryAt := none }
  (s.modCore c fun k => { k with slot1 := k.slot1.erase o }).serve q (if o.amo.isNone then 6 else 7)

/-- REMOTE_LOAD: a load, or a request whose op is none of the four. -/
def execRemoteLoad (c : Nat) (s : State) : Out :=
  runEvent (fun s => match s.nextAt c with
    | .msg m => if (reqOfMsg m).op = 0 ∨ 3 < (reqOfMsg m).op then s.runReq c m else s
    | _ => s) s

/-- REMOTE_STORE. -/
def execRemoteStore (c : Nat) (s : State) : Out :=
  runEvent (fun s => match s.nextAt c with
    | .msg m => if (reqOfMsg m).op = 1 then s.runReq c m else s
    | .op o => if o.amo.isNone then s.runOp c o else s
    | .none => s) s

/-- REMOTE_COPY. -/
def execRemoteCopy (c : Nat) (s : State) : Out :=
  runEvent (fun s => match s.nextAt c with
    | .msg m => if (reqOfMsg m).op = 2 then s.runReq c m else s
    | _ => s) s

/-- REMOTE_ATOMIC. -/
def execRemoteAtomic (c : Nat) (s : State) : Out :=
  runEvent (fun s => match s.nextAt c with
    | .msg m => if (reqOfMsg m).op = 3 then s.runReq c m else s
    | .op o => if o.amo.isSome then s.runOp c o else s
    | .none => s) s

/-! ## The reduction server (R188 to R190) -/

/-- Op of a TREEOP code on 64-bit values. -/
def treeOp (op a b : Nat) : Nat :=
  match op with
  | 0 => (a + b) % 2 ^ 64
  | 1 => (fpBin .add .f64 modesRNE a b).1
  | 2 => (fpBin .add .f32 modesRNE (a % 2 ^ 32) (b % 2 ^ 32)).1
  | 3 => if sextNat a 64 < sextNat b 64 then b else a
  | 4 => if sextNat b 64 < sextNat a 64 then b else a
  | 5 => (fpBin .max .f64 modesRNE a b).1
  | _ => (fpBin .add .f64 modesRNE a b).1

/-- A result of a floating TREEOP: every NaN is the canonical one, that of a round of one partial too (R189). -/
def treeResult (op v : Nat) : Nat :=
  let canon := fun (f : Fmt) => if (f.val v).isNan then f.nan else v
  if op = 2 then canon (fmtOf .f32) else if op = 1 ∨ op = 5 ∨ op = 6 then canon (fmtOf .f64) else v

/-- The combination of slots 0 to n - 1, left to right. -/
def treeFold (op : Nat) (slots : List (Nat × Word)) (n : Nat) : Nat :=
  let v := fun i => ((lookupK slots i).getD 0).toNat
  (List.range (n - 1)).foldl (fun r i => treeOp op r (v (i + 1))) (if op = 2 then v 0 % 2 ^ 32 else v 0)

/-- A partial breaks R189. -/
def partialBad (k : Core) (m : Msg) : Bool :=
  m.len != 2 || bitsOf m.pay[0].toNat 6 58 != 0 || decide (k.u.treen.toNat ≤ bitsOf m.pay[0].toNat 0 6)

/-- The first partial that need not wait for the next round. -/
def Core.nextPartial (k : Core) : Option Nat :=
  (k.entry 63).fifo.findIdx? fun m => partialBad k m || !(k.red.slots.any fun p => p.1 == bitsOf m.pay[0].toNat 0 6)

/-- The slots with a partial placed; TREEOP 6 adds to the accumulator. -/
def Core.placePartial (k : Core) (m : Msg) : Reduction :=
  let i := bitsOf m.pay[0].toNat 0 6
  let v := m.pay[1]
  let eager := k.u.treeop = 6
  { slots := insertK k.red.slots i v
    acc := if eager then (if k.red.slots.isEmpty then v else w64 (treeOp 6 k.red.acc.toNat v.toNat)) else k.red.acc }

/-- The notification of a root (R189). -/
def State.treeNotify (s : State) (c p : Nat) (r : Word) : State :=
  let k := s.core c
  let u := k.u.treeup
  if slice u 37 32 = 0 then s
  else s.post c (hwMsg (slice u 11 0) (slice u 37 32) (slice u 49 38) (s.logical c % 4096) 1 6 (pay4 r 0 0 0) p k.sv.ctxid.toNat)

/-- The end of a round: the result goes to the parent, or to TREEDST. -/
def State.endRound (s : State) (c : Nat) (r : Word) : State :=
  let k := s.core c
  let u := k.u.treeup
  let l := s.logical c % 4096
  let x := k.sv.ctxid.toNat
  if bitAt u 63 then
    s.post c (hwMsg (slice u 11 0) 63 (slice u 49 38) l 2 6 (pay4 (w64 (slice u 21 16)) r 0 0) k.pts x)
  else match s.vwrite (k.tenv (dieOf c)) true .none k.u.treedst.toNat 8 r.toNat k.pts with
    | .ok (tau, s1) => (s1.modCore c fun q => q.raisePts tau).treeNotify c tau r
    | .error e => (s.treeNotify c k.pts r).report (dieOf c) c 4 k.u.treedst (w64 (e + l * 2 ^ 16)) x l

/-- Takes a partial. -/
def State.runPartial (s : State) (c ix : Nat) (m : Msg) : State :=
  let k := s.core c
  if partialBad k m then (s.orphan (dieOf c) m m.dst 4).dropHead c 63 ix
  else
    let red := k.placePartial m
    let s1 := s.setCore c { k with red := red }
    if red.slots.length < k.u.treen.toNat then s1.dropHead c 63 ix
    else
      let v := if k.u.treeop = 6 then red.acc.toNat else treeFold k.u.treeop.toNat red.slots k.u.treen.toNat
      let r := w64 (treeResult k.u.treeop.toNat v)
      ((s1.endRound c r).modCore c fun q => { q with red := ⟨[], 0⟩ }).dropHead c 63 ix

/-- REDUCTION_PARTIAL. -/
def execReductionPartial (c : Nat) (s : State) : Out :=
  runEvent (fun s =>
    let k := s.core c
    match k.nextPartial with
    | none => s
    | some ix => match (k.entry 63).fifo[ix]? with
      | some m => if coreCount ≤ c || k.inSave then s else s.runPartial c ix m
      | none => s) s

end Sys2Proof.Machine
end

