-- ==== Sys2Proof/Machine/Table.lean ====
section
/-! DEFINITION. Machine/Table.lean: the checker of protocol tables (15, R297, R303). -/
namespace Sys2Proof.Machine

/-- A table image as the checker reads it: 256 entries and TCFG. -/
structure TableImage where
  cells : Array Nat
  cfg   : Nat

/-- Little-endian numbers of n bytes each. -/
def numsOf (n : Nat) : Nat → List Byte → List Nat
  | 0, _ => []
  | k + 1, b => bytesNat (b.take n) :: numsOf n k (b.drop n)

/-- The image's parts. -/
def tableOf (img : List Byte) : TableImage :=
  { cells := (numsOf 4 256 (img.take 1024)).toArray, cfg := bytesNat ((img.drop 0x400).take 8) }

/-- The entry of a state and an event. -/
def TableImage.at (t : TableImage) (st ev : Nat) : Nat := t.cells.getD (16 * st + ev) 0
/-- A state is transient. -/
def TableImage.trans (t : TableImage) (st : Nat) : Bool := bitsOf t.cfg st 1 == 1

/-- ACT, MSG, GUARD and TSR are zero. -/
def cellIdle (w : Nat) : Bool := bitsOf w 16 12 == 0 && cMsg w == 0 && cGuard w == 0 && cTsr w == 0

/-- ACT, MSG and TSR are zero. -/
def cellQuiet (w : Nat) : Bool := bitsOf w 16 12 == 0 && cMsg w == 0 && cTsr w == 0

/-- Rule 1. -/
def cfgOk (c : Nat) : Bool :=
  bitsOf c 48 16 == 0 && bitsOf c 21 11 == 0 && bitsOf c 32 16 != 0 && decide (8 ≤ bitsOf c 16 5) && decide (bitsOf c 16 5 ≤ 20)
    && bitsOf c 0 1 == 0

/-- Rule 2 of a cell. -/
def cellLegal (w st ev : Nat) : Bool :=
  bitsOf w 0 1 == 1 && bitsOf w 1 3 == 0 && decide (cMsg w ≤ 8) && decide (cGuard w ≤ 6) && decide (cTsr w ≤ 6)
    && (decide (ev < 11) || (cNext w == st && cellIdle w))

/-- Rule 3 of a cell. -/
def cellTimed (w ev : Nat) : Bool :=
  let m := cMsg w
  let t := cTsr w
  (m != 1 || t == 1 || t == 5) && (m != 2 || t == 2 || t == 6) && ((m != 3 && m != 8) || t == 2 || t == 3 || t == 6)
    && (m != 6 || t == 3) && (!cHas w aWDATA || decide (2 ≤ t ∧ t ≤ 6)) && (decide (t < 4) || ev == 2 || ev == 4)
    && (t == 0 || cHas w aRDATA || cHas w aWDATA || m == 3)

/-- Rule 4 of a cell. -/
def TableImage.timerOk (t : TableImage) (st ev : Nat) : Bool :=
  let w := t.at st ev
  (!t.trans (cNext w) || cHas w aTIMER || st == cNext w)
    && (ev != 5 || (if t.trans st then !t.trans (cNext w) else cNext w == st && cellQuiet w))

/-- States reached from a set of states by one more step along NEXT. -/
def TableImage.widen (t : TableImage) (l : List Nat) : List Nat :=
  (List.range 16).filter fun st => l.contains st || l.any fun q => (List.range 16).any fun ev => cNext (t.at q ev) == st

/-- A function applied n times. -/
def times {α : Type} (f : α → α) : Nat → α → α
  | 0, a => a
  | n + 1, a => times f n (f a)

/-- Rule 5. -/
def TableImage.reachable (t : TableImage) : Bool := (times t.widen 15 [0]).length == 16

/-- Transient states of a list that lead to another state of the list. -/
def TableImage.onward (t : TableImage) (l : List Nat) : List Nat :=
  l.filter fun st => (List.range 16).any fun ev => cNext (t.at st ev) != st && l.contains (cNext (t.at st ev))

/-- Rule 6. -/
def TableImage.acyclic (t : TableImage) : Bool := (times t.onward 16 ((List.range 16).filter t.trans)).isEmpty

/-- A loss cell: to state 0 with CLRS, CLRO, LOG and REVERT. -/
def cellLoses (w : Nat) : Bool := cNext w == 0 && cHas w aCLRS && cHas w aCLRO && cHas w aLOG && cHas w aREVERT

/-- Rule 7 of a cell. -/
def TableImage.lossOk (t : TableImage) (st ev : Nat) : Bool :=
  let w := t.at st ev
  if ev = 8 ∨ ev = 9 then cellLoses w
  else if ev = 10 ∧ st ≠ 0 then cNext w == 0 || (t.trans (cNext w) && cNext (t.at (cNext w) 4) == 0)
  else true

/-- Rule 8 of a cell. -/
def TableImage.writeOk (t : TableImage) (st ev : Nat) : Bool :=
  if st = 0 ∧ (ev = 1 ∨ ev = 6 ∨ ev = 7) then cGuard (t.at st ev) == 0 else true

/-- The first cell that a test refuses. -/
def badCell (p : Nat → Nat → Bool) : Option Nat := (List.range 256).find? fun i => !p (i / 16) (i % 16)

/-- The first failing rule of R303 with its cell; `room` tells that the table store has room. -/
def TableImage.flaw (t : TableImage) (room : Bool) : Option (Nat × Nat) :=
  if !cfgOk t.cfg then some (1, 0)
  else match badCell fun st ev => cellLegal (t.at st ev) st ev with
    | some i => some (2, i)
    | none => match badCell fun st ev => cellTimed (t.at st ev) ev with
      | some i => some (3, i)
      | none => match badCell t.timerOk with
        | some i => some (4, i)
        | none =>
          if !t.reachable then some (5, 0)
          else if !t.acyclic then some (6, 0)
          else match badCell t.lossOk with
            | some i => some (7, i)
            | none => match badCell t.writeOk with
              | some i => some (8, i)
              | none => if room then none else some (9, 0)

/-- RESULT (R304). -/
def resultWord (f : Option (Nat × Nat)) : Nat := match f with
  | none => 2 ^ 63
  | some (r, i) => 2 ^ 63 + 2 ^ 62 + r * 2 ^ 48 + i * 2 ^ 8

end Sys2Proof.Machine
end

