-- ==== Sys2Proof/Machine/System.lean ====
section
/-! DEFINITION. Machine/System.lean: system calls, returns and breakpoints, waiting and halting, TLBINV and PTLOAD (16, R319
to R322; 14, R290; 15, R304; 20, R381). -/
namespace Sys2Proof.Machine

/-! ## ECALL and BRK (R321) -/

/-- x[r] of slot 3. -/
def Core.x3 (k : Core) (r : Fin 32) : Word := k.s3.x[r]
/-- Sets x10 of slot 3. -/
def Core.result (k : Core) (v : Word) : Core := { k with s3 := { k.s3 with x := k.s3.x.set 10 v } }

/-- All ones. -/
def allOnes : Word := BitVec.allOnes 64

/-- The bytes that service 1 signs: the nonce, MEAS0 to MEAS3 and PCID (R381). -/
def State.attestMsg (s : State) (nonce : List Byte) : List Byte :=
  nonce ++ (s.plat.meas.toList.flatMap fun m => digestBytes m.toNat) ++ leBytes 8 (s.sysRead 0x200).toNat

/-- Service 1: the nonce is read at x11 and the signature written at x12 (log 12, DESIGN CHOICE). -/
def State.attest (s : State) : State :=
  let c := s.cur
  let k := s.core c
  let e := k.tenv (dieOf c)
  match s.readBlock e false .none (k.x3 11).toNat k.pts 48 3 with
  | .error _ => s.modCore c fun q => q.result allOnes
  | .ok (nonce, p, s1) =>
    match s1.probe e false .write .none (k.x3 12).toNat 96 3 with
    | some _ => s.modCore c fun q => q.result allOnes
    | none =>
      let sig := deviceSign s1.plat.meas[1] s1.free (s1.attestMsg nonce)
      let r := { s1 with free := s1.free + 1 }.writeBlock e false .none (k.x3 12).toNat p sig 97
      r.2.2.modCore c fun q => (q.raisePts r.2.1).result 0

/-- A firmware service: slot 3 runs at M, and returns at S after the ECALL (R321, R322). -/
def State.service (s : State) : State :=
  let k := s.core s.cur
  let s1 := s.setCore s.cur { k with fwRet := k.s3.pc + 4 }
  if k.x3 10 = 1 then s1.attest else s1.modCore s.cur fun q => q.result allOnes

/-- ECALL. -/
def execEcall (s : State) : Out :=
  runInstr (do
    let k ← onCore rd
    if k.priv = 0 then trapM causeEcall 0
    else if k.priv = 3 then onCore (wr fun q => q.result allOnes)
    else do
      waitAcked
      wr State.service) s

/-- BRK at S: the context becomes FAULTED with code 5 (R318). -/
def State.brkFault (s : State) : State :=
  let k := s.core s.cur
  (s.setCore s.cur { k with slot3 := .idle, pend3 := .none }).faultCtx k.sv.ctxid.toNat 5 0 (s.logical s.cur)

/-- BRK. -/
def execBrk (s : State) : Out :=
  runDev (do
    let k ← onCore rd
    if k.priv = 0 then trapM causeBrk 0
    else if k.priv = 3 then wr State.retire
    else wr State.brkFault) s

/-! ## ERET (R322) -/

/-- The head message of channel 60 goes, as HRET removes one (R194). -/
def State.endSystem (s : State) (c : Nat) : State :=
  let e := (s.core c).entry 60
  let s1 := (s.modCore c fun k => k.setEntry 60 { e with fifo := e.fifo.drop 1 }).refill c 60
  let w := s1.waits c 60
  s1.modCore c fun k => k.setEntry 60 { k.entry 60 with pend := w }

/-- Slot 0 goes on without an activation: a channel number that no entry has (log 24, DESIGN CHOICE). -/
def looseActivation : Activation := { ch := 64, ahdr := 0, hasMsg := false }

/-- Slot 3 has ended its work: slot 0 resumes, or is free and its activation ends. -/
def State.resumeUser (s : State) (c : Nat) (x f : List Word) : State :=
  let k := s.core c
  let k1 := k.leaveSys x f
  if k.sv.epc = 0 then
    (if k.act.isSome then (s.setCore c k1).endActivation c else (s.setCore c k1).tryRetire c)
  else s.setCore c (if k1.act.isSome then k1 else { k1 with act := some looseActivation })

/-- ERET at S. -/
def State.returnUser (s : State) (c : Nat) (x f : List Word) : State :=
  let s1 := if (s.core c).slot3 = .system then s.endSystem c else s
  s1.resumeUser c x f

/-- ERET at M: back to S after the ECALL. -/
def Core.returnService (k : Core) : Core :=
  { k with sv := { k.sv with status := (k.sv.status &&& ~~~(12 : Word)) ||| 4 }, s3 := { k.s3 with pc := k.fwRet, hint := none },
           pend3 := .none }

/-- An EPC that ERET accepts, with PPL = 0. -/
def eretOk (k : Core) : Bool := slice k.sv.status 1 0 == 0 && slice k.sv.epc 63 54 == 0 && slice k.sv.epc 1 0 == 0

/-- ERET. -/
def execEret (s : State) : Out :=
  runDev (do
    let k ← onCore rd
    onCore (needPriv 1 .eret)
    if k.priv = 3 then onCore (wr Core.returnService)
    else do
      trapIf (!eretOk k) causeBadOp k.sv.epc
      waitAcked
      let u ← rd
      match u.readFrame u.cur with
      | .error e => trapM e.1 (BitVec.ofNat 64 e.2)
      | .ok (x, f, p, t) => wr fun _ => (t.modCore t.cur fun q => q.raisePts p).returnUser t.cur x f) s

/-! ## WFI and HALT (R322) -/

/-- WFI. -/
def execWfi (s : State) : Out :=
  runCore (do
    needPriv 1 .wfi
    let k ← rd
    waitIf (!k.wake)
    wr fun q => { q with wake := false }) s

/-- Every access of the slots is performed: no store is unacknowledged, no request or answer is on its way, no stream entry waits. -/
def State.quiet (s : State) (c : Nat) : Bool :=
  let k := s.core c
  let mine := fun (q : Req) => q.core == c && !(q.kind matches .rack ..)
  k.storesDone && k.drained && !(s.reqs.any mine) && !(s.reps.any fun m => m.req.any mine) && !s.regions.any fun r => r.waiting.any mine

/-- A core gives up its host lines (R312); none while one has to wait. -/
def State.flushHost (s : State) (c : Nat) : Option State :=
  s.giveUps c (((s.core c).l1.filter fun p => decide (4096 ≤ p.2.home)).map Prod.fst)

/-- HALT: both slots stop; a restart goes on at HALT + 4. -/
def execHalt (s : State) : Out :=
  runInstr (do
    onCore (needPriv 3 .halt)
    let u ← rd
    waitIf (!u.quiet u.cur)
    match u.flushHost u.cur with
    | none => waitIf true
    | some v => wr fun _ => v.modCore v.cur fun k => { k with halted := true }) s

/-! ## TLBINV (R290) -/

/-- The operand checks of TLBINV. -/
def tlbinvChecks (kind : TlbKind) (va c : Word) : CpuM Unit := do
  let k ← rd
  trapIf (kind != .all && k.priv == 1 && slice c 15 0 != k.sv.ctxid.toNat % 65536) causeBadOp c
  trapIf (kind != .all && slice c 63 16 != 0) causeBadOp c
  trapIf (kind == .page && slice va 63 48 != 0) causeBadOp va

/-- A translation that TLBINV drops. -/
def tlbinvDrops (kind : TlbKind) (va c : Word) (t : TlbEntry) : Bool := match kind with
  | .page => (t.ctx == slice c 15 0 || leafG t.leaf) && t.page == va.toNat / 2 ^ t.bits
  | .context => t.ctx == slice c 15 0 && !leafG t.leaf
  | .all => true

/-- A walker's pointer that TLBINV drops: of a walk of the page, of the context, or any. -/
def tlbinvPtrs (kind : TlbKind) (va c : Word) (w : WalkPtr) : Bool := match kind with
  | .page => w.top == va.toNat / 2 ^ pageBits (w.level + 1)
  | .context => w.ctx == slice c 15 0
  | .all => true

/-- The pages of the translations in every TLB that a test names, as physical ranges. -/
def State.pagesWhere (s : State) (p : TlbEntry → Bool) : List (Nat × Nat) :=
  ((s.cores.flatMap fun q => q.2.tlb.filter p) ++ (s.ctlb.flatMap fun q => q.2.filter p)).map fun t => (t.base', 2 ^ t.bits)

/-- A dropped page is done: every access that was translated to it is performed and, where its copies go too, no owner is left. -/
def State.pageDone (s : State) (copies : Bool) (r : Nat × Nat) : Bool :=
  !s.rangeBusy r.1 r.2 && !(copies && s.recallsOut [r])

/-- TLBINV begins: the translations go, and the walkers' pointers; it has their pages to wait for. -/
def State.beginInv (s : State) (kind : TlbKind) (va c : Word) : State :=
  (s.dropTlb (tlbinvDrops kind va c) (tlbinvPtrs kind va c)).modCore s.cur fun k =>
    k.setPending (.recalling (s.pagesWhere (tlbinvDrops kind va c)) [])

/-- The copies of the pages that are done go, and RECALL is due on the regions of the others (R290). -/
def State.goOnInv (s : State) (l : List (Nat × Nat)) : State :=
  let rest := l.filter fun r => !s.pageDone true r
  let s1 := (s.dropLines (l.filter (s.pageDone true))).markRecalled (rest.filter fun r => !s.rangeBusy r.1 r.2)
  s1.modCore s1.cur fun k => k.setPending (.recalling rest [])

/-- TLBINV. -/
def execTlbinv (a b : Reg) (kind : TlbKind) (s : State) : Out :=
  runInstr (do
    onCore (needPriv 1 (.tlbinv a b kind))
    let va ← onCore (getX a)
    let c ← onCore (getX b)
    onCore (tlbinvChecks kind va c)
    waitAcked
    let u ← rd
    let copies := kind != .all
    match (u.core u.cur).pending with
    | .recalling l _ =>
      if l.all (u.pageDone copies) then wr fun v => if copies then v.dropLines l else v
      else if copies then waitFor fun v => v.goOnInv l
      else waitM
    | _ => waitFor fun v => v.beginInv kind va c) s

/-! ## PTLOAD (R304) -/

/-- Loaded tables that a die holds. -/
def tableRoom : Nat := 512

/-- The store has room for a context's table of a selector. -/
def State.tableFits (s : State) (x sel : Nat) : Bool :=
  decide ((s.tables.filter fun t => !(t.1 == x && t.2.1 == sel)).length < tableRoom)

/-- A region of a context that a selector governs, not in state 0. -/
def RegionEntry.governed (r : RegionEntry) (x sel : Nat) : Bool := r.ctx == x && r.sel == sel && r.st != 0

/-- RECALL is due on every region that a selector of a context governs; the image that passed the checker waits. -/
def State.recallGoverned (s : State) (x sel : Nat) (img : List Byte) : State :=
  State.modCore { s with regions := s.regions.map fun r => if r.governed x sel then { r with recalled := true } else r } s.cur fun k =>
    k.setPending (.recalling [] img)

/-- Installs a table. -/
def State.installTable (s : State) (x sel : Nat) (img : List Byte) : State :=
  { s with tables := (s.tables.filter fun t => !(t.1 == x && t.2.1 == sel)) ++ [(x, sel, img)] }

/-- A word written by the hardware for the issuing core, at its privilege; a fault traps with its address. -/
def writeAs (va : Nat) (v : Word) : DevM Unit := fun s =>
  let k := s.core s.cur
  match s.vwrite (k.tenv (dieOf s.cur)) k.user .none va 8 v.toNat k.pts with
  | .error c => .error (.trap c (BitVec.ofNat 64 va))
  | .ok (p, t) => .ok ((), t.modCore t.cur fun q => q.raisePts p)

/-- PTLOAD with a checked image: the regions that the selector governs reach state 0 under the old table, and the table is installed. -/
def loadImageTable (t x sel : Nat) (img : List Byte) : DevM Unit := do
  let u ← rd
  if u.regions.any fun r => r.governed x sel then waitFor fun v => v.recallGoverned x sel img
  else do
    writeAs (t + 0x408) (w64 (resultWord none))
    wr fun v => v.installTable x sel img

/-- PTLOAD. -/
def execPtload (a : Reg) (sel : BitVec 5) (s : State) : Out :=
  runInstr (do
    onCore (needPriv 1 (.ptload a sel))
    let t ← onCore (getX a)
    trapIf (t.toNat % 64 != 0) causeMisalign t
    waitAcked
    let k ← onCore rd
    let x := k.sv.ctxid.toNat
    match k.pending with
    | .recalling _ img => loadImageTable t.toNat x sel.toNat img
    | _ => do
      let img ← readAs t.toNat 1088
      permit k.user .write (t.toNat + 0x408)
      let u ← rd
      match (tableOf img).flaw (u.tableFits x sel.toNat) with
      | some f => writeAs (t.toNat + 0x408) (w64 (resultWord (some f)))
      | none => loadImageTable t.toNat x sel.toNat img) s

end Sys2Proof.Machine
end

