-- ==== Sys2Proof/Machine/Vec.lean ====
section
/-! DEFINITION. Machine/Vec.lean: vector arithmetic, conversions, reductions, lane moves, fused and dot products,
special functions, random numbers and the mode switch (06, R123 to R147; 02, R45, R46). -/
namespace Sys2Proof.Machine

/-! ## Forms -/

/-- The flags of all lanes. -/
def flagsOf (l : List (Nat × FFlags)) : FFlags := l.foldl (fun f p => f ||| p.2) 0

/-- d lane i := f(a lane i, b lane i) (R125, R135). -/
def vecBin (f : Modes → Nat → Nat → Nat × FFlags) (d a b : Reg) (t : Ty) : CpuM Unit := do
  let lg ← vecMode [d, a, b]
  let md ← getModes
  let x ← getVN lg a
  let y ← getVN lg b
  let w := tyBits t
  let n := vBits lg / w
  let r := (List.zip (lanes x w n) (lanes y w n)).map fun p => f md p.1 p.2
  addFlags (flagsOf r)
  setVN lg d (ofLanes w (r.map Prod.fst))

/-- d lane i := f(a lane i). -/
def vecUn (f : Modes → Nat → Nat × FFlags) (d a : Reg) (t : Ty) : CpuM Unit := do
  let lg ← vecMode [d, a]
  let md ← getModes
  let x ← getVN lg a
  let w := tyBits t
  let r := (lanes x w (vBits lg / w)).map (f md)
  addFlags (flagsOf r)
  setVN lg d (ofLanes w (r.map Prod.fst))

/-- d lane i := f(a lane i, b lane i, e lane i) (R143). -/
def vecTri (f : Modes → Nat → Nat → Nat → Nat × FFlags) (d a b e : Reg) (t : Ty) : CpuM Unit := do
  let lg ← vecMode [d, a, b, e]
  let md ← getModes
  let x ← getVN lg a
  let y ← getVN lg b
  let z ← getVN lg e
  let w := tyBits t
  let n := vBits lg / w
  let r := (List.zip (lanes x w n) (List.zip (lanes y w n) (lanes z w n))).map fun p => f md p.1 p.2.1 p.2.2
  addFlags (flagsOf r)
  setVN lg d (ofLanes w (r.map Prod.fst))

/-! ## Lane functions (R135 to R139) -/

/-- All ones of a lane for true. -/
def laneMask (t : Ty) (c : Bool) : Nat := if c then 2 ^ tyBits t - 1 else 0

/-- An arithmetic lane: floating as R127, integers wrapping. -/
def laneArith (op : FOp) (t : Ty) (md : Modes) (a b : Nat) : Nat × FFlags :=
  if t.isFloat then fpBin op t md a b
  else
    let x := intVal t a
    let y := intVal t b
    let v : Int := match op with
      | .add => x + y
      | .sub => x - y
      | .mul => x * y
      | .div => 0
      | .min => if y < x then y else x
      | .max => if x < y then y else x
    (intBits (tyBits t) v, 0)

/-- A compare lane. -/
def laneCmp (c : FCmp) (t : Ty) (md : Modes) (a b : Nat) : Nat × FFlags :=
  if t.isFloat then let r := fpCmp c t md a b; (laneMask t r.1, r.2)
  else
    let x := intVal t a
    let y := intVal t b
    let r := match c with
      | .eq => x == y
      | .lt => decide (x < y)
      | .le => decide (x ≤ y)
    (laneMask t r, 0)

/-- VSRA: copies of bit w - 1 for every integer type. -/
def laneSra (w a sh : Nat) : Nat := intBits w (sextNat a w / (2 ^ sh : Nat))

/-- VABS and VNEG on a lane (R137). -/
def laneSign (neg : Bool) (t : Ty) (md : Modes) (a : Nat) : Nat × FFlags :=
  if t.isFloat then fpSignLane neg t md a
  else
    let x := intVal t a
    (intBits (tyBits t) (if neg || x < 0 then -x else x), 0)

/-- VCVT's Conv (R138). -/
def laneConv (src dst : Ty) (md : Modes) (a : Nat) : Nat × FFlags :=
  if src.isFormat then
    (if dst.isFormat then floatToFloat src dst md a
    else floatToInt dst md.rm ((fmtOf src).operand { md with daz := md.daz && src.isFloat } a))
  else if dst.isFormat then intToFloat dst md (intVal src a)
  else (intBits (tyBits dst) (clampTo (tyMin dst) (tyMax dst) (intVal src a)).1, 0)

/-- One level of the tree of R85. -/
def treeLevel (f : Nat → Nat → Nat × FFlags) : List Nat → List (Nat × FFlags)
  | a :: b :: r => f a b :: treeLevel f r
  | [a] => [(a, 0)]
  | [] => []

/-- The fixed reduction tree (R85), with fuel for its levels. -/
def treeReduce (f : Nat → Nat → Nat × FFlags) : Nat → List Nat → FFlags → Nat × FFlags
  | 0, l, fl => (l.headD 0, fl)
  | n + 1, l, fl =>
    if l.length ≤ 1 then (l.headD 0, fl)
    else
      let r := treeLevel f l
      treeReduce f n (r.map Prod.fst) (fl ||| flagsOf r)

/-- VREDSUM, VREDMAX, VREDMIN (R139). -/
def vecRed (op : FOp) (d a : Reg) (t : Ty) : CpuM Unit := do
  let lg ← vecMode [d, a]
  let md ← getModes
  let x ← getVN lg a
  let w := tyBits t
  let r := treeReduce (laneArith op t md) 9 (lanes x w (vBits lg / w)) 0
  addFlags r.2
  setVN lg d r.1

/-- VADD (R135). -/
def execVadd (d a b : Reg) (t : Ty) (s : State) : Out := runVec (vecBin (laneArith .add t) d a b t) s
/-- VSUB (R135). -/
def execVsub (d a b : Reg) (t : Ty) (s : State) : Out := runVec (vecBin (laneArith .sub t) d a b t) s
/-- VMUL (R135). -/
def execVmul (d a b : Reg) (t : Ty) (s : State) : Out := runVec (vecBin (laneArith .mul t) d a b t) s
/-- VMIN (R135). -/
def execVmin (d a b : Reg) (t : Ty) (s : State) : Out := runVec (vecBin (laneArith .min t) d a b t) s
/-- VMAX (R135). -/
def execVmax (d a b : Reg) (t : Ty) (s : State) : Out := runVec (vecBin (laneArith .max t) d a b t) s
/-- VAND (R135). -/
def execVand (d a b : Reg) (t : Ty) (s : State) : Out := runVec (vecBin (fun _ x y => (Nat.land x y, 0)) d a b t) s
/-- VOR (R135). -/
def execVor (d a b : Reg) (t : Ty) (s : State) : Out := runVec (vecBin (fun _ x y => (Nat.lor x y, 0)) d a b t) s
/-- VXOR (R135). -/
def execVxor (d a b : Reg) (t : Ty) (s : State) : Out := runVec (vecBin (fun _ x y => (Nat.xor x y, 0)) d a b t) s
/-- VSLL (R135). -/
def execVsll (d a b : Reg) (t : Ty) (s : State) : Out := runVec (vecBin (fun _ x y => (bitsOf (x * 2 ^ (y % tyBits t)) 0 (tyBits t), 0)) d a b t) s
/-- VSRL (R135). -/
def execVsrl (d a b : Reg) (t : Ty) (s : State) : Out := runVec (vecBin (fun _ x y => (x / 2 ^ (y % tyBits t), 0)) d a b t) s
/-- VSRA (R135). -/
def execVsra (d a b : Reg) (t : Ty) (s : State) : Out := runVec (vecBin (fun _ x y => (laneSra (tyBits t) x (y % tyBits t), 0)) d a b t) s
/-- VCMPEQ (R135). -/
def execVcmpeq (d a b : Reg) (t : Ty) (s : State) : Out := runVec (vecBin (laneCmp .eq t) d a b t) s
/-- VCMPLT (R135). -/
def execVcmplt (d a b : Reg) (t : Ty) (s : State) : Out := runVec (vecBin (laneCmp .lt t) d a b t) s
/-- VCMPLE (R135). -/
def execVcmple (d a b : Reg) (t : Ty) (s : State) : Out := runVec (vecBin (laneCmp .le t) d a b t) s
/-- VSEL (R136): the old d lane selects. -/
def execVsel (d a b : Reg) (t : Ty) (s : State) : Out :=
  runVec (do
    let lg ← vecMode [d, a, b]
    let m ← getVN lg d
    let x ← getVN lg a
    let y ← getVN lg b
    let w := tyBits t
    let n := vBits lg / w
    setVN lg d (ofLanes w ((List.range n).map fun i => if lane m w i ≠ 0 then lane x w i else lane y w i))) s
/-- VABS (R137). -/
def execVabs (d a : Reg) (t : Ty) (s : State) : Out := runVec (vecUn (laneSign false t) d a t) s
/-- VNEG (R137). -/
def execVneg (d a : Reg) (t : Ty) (s : State) : Out := runVec (vecUn (laneSign true t) d a t) s
/-- VCVT (R138). -/
def execVcvt (d a : Reg) (src dst : Ty) (s : State) : Out :=
  runVec (do
    let lg ← vecMode [d, a]
    let md ← getModes
    let x ← getVN lg a
    let ws := tyBits src
    let wd := tyBits dst
    let r := (lanes x ws (vBits lg / max ws wd)).map (laneConv src dst md)
    addFlags (flagsOf r)
    setVN lg d (ofLanes wd (r.map Prod.fst))) s
/-- VREDSUM (R139). -/
def execVredsum (d a : Reg) (t : Ty) (s : State) : Out := runVec (vecRed .add d a t) s
/-- VREDMAX (R139). -/
def execVredmax (d a : Reg) (t : Ty) (s : State) : Out := runVec (vecRed .max d a t) s
/-- VREDMIN (R139). -/
def execVredmin (d a : Reg) (t : Ty) (s : State) : Out := runVec (vecRed .min d a t) s
/-- VPERM (R140). -/
def execVperm (d a b : Reg) (t : Ty) (s : State) : Out :=
  runVec (do
    let lg ← vecMode [d, a, b]
    let x ← getVN lg a
    let y ← getVN lg b
    let w := tyBits t
    let n := vBits lg / w
    setVN lg d (ofLanes w ((lanes y w n).map fun i => if i < n then lane x w i else 0))) s

/-- The lane index of R141: BADOP at or above the lane count. -/
def laneIndex (b : Reg) (n : Nat) : CpuM Nat := do
  let i ← getX b
  trapIf (decide (n ≤ i.toNat)) causeBadOp i
  return i.toNat

/-- VBCL (R141). -/
def execVbcl (d a b : Reg) (t : Ty) (s : State) : Out :=
  runVec (do
    let lg ← vecMode [d, a]
    let x ← getVN lg a
    let w := tyBits t
    let i ← laneIndex b (vBits lg / w)
    setVN lg d (ofLanes w (List.replicate (vBits lg / w) (lane x w i)))) s

/-- VEXTX (R141). -/
def execVextx (d a b : Reg) (t : Ty) (s : State) : Out :=
  runVec (do
    let lg ← vecMode [a]
    let x ← getVN lg a
    let w := tyBits t
    let i ← laneIndex b (vBits lg / w)
    setX d (if t.isSigned then wordOfInt (sextNat (lane x w i) w) else BitVec.ofNat 64 (lane x w i))) s

/-- VINSX (R141). -/
def execVinsx (d a b : Reg) (t : Ty) (s : State) : Out :=
  runVec (do
    let lg ← vecMode [d]
    let v ← getX a
    let w := tyBits t
    let i ← laneIndex b (vBits lg / w)
    let x ← getVN lg d
    setVN lg d (ofLanes w (setAt (lanes x w (vBits lg / w)) i (bitsOf v.toNat 0 w)))) s

/-- VMOV (R142). -/
def execVmov (d a : Reg) (s : State) : Out :=
  runVec (do
    let lg ← vecMode [d, a]
    let x ← getVN lg a
    setVN lg d x) s

/-- Number of one bits of a lane. -/
def onesOf (v : Nat) : Nat → Nat
  | 0 => 0
  | n + 1 => onesOf v n + bitsOf v n 1
/-- VCNT (R142). -/
def execVcnt (d a : Reg) (t : Ty) (s : State) : Out := runVec (vecUn (fun _ x => (onesOf x (tyBits t), 0)) d a t) s
/-- VZERO (R142). -/
def execVzero (d : Reg) (s : State) : Out :=
  runVec (do
    let lg ← vecMode [d]
    setVN lg d 0) s

/-! ## Fused multiply-add and dot products (R143, R144) -/

/-- VFMA.F64 (R143). -/
def execVfmaF64 (d a b e : Reg) (s : State) : Out :=
  runVec (vecTri (fun md x y z => fpFma .f64 md false false x y z) d a b e .f64) s
/-- VFMA.F32 (R143). -/
def execVfmaF32 (d a b e : Reg) (s : State) : Out :=
  runVec (vecTri (fun md x y z => fpFma .f32 md false false x y z) d a b e .f32) s
/-- VFMA.F16 (R143). -/
def execVfmaF16 (d a b e : Reg) (s : State) : Out :=
  runVec (vecTri (fun md x y z => fpFma .f16 md false false x y z) d a b e .f16) s
/-- VFMA.BF16 (R143). -/
def execVfmaBf16 (d a b e : Reg) (s : State) : Out :=
  runVec (vecTri (fun md x y z => fpFma .bf16 md false false x y z) d a b e .bf16) s
/-- VFMS.F64 (R143). -/
def execVfmsF64 (d a b e : Reg) (s : State) : Out :=
  runVec (vecTri (fun md x y z => fpFma .f64 md false true x y z) d a b e .f64) s
/-- VFMS.F32 (R143). -/
def execVfmsF32 (d a b e : Reg) (s : State) : Out :=
  runVec (vecTri (fun md x y z => fpFma .f32 md false true x y z) d a b e .f32) s
/-- The dot product of four signed byte lanes added to a 32-bit lane (R144). -/
def dot4 (x y z : Nat) : Nat :=
  intBits 32 (sextNat z 32 + sextNat (lane x 8 0) 8 * sextNat (lane y 8 0) 8 + sextNat (lane x 8 1) 8 * sextNat (lane y 8 1) 8
    + sextNat (lane x 8 2) 8 * sextNat (lane y 8 2) 8 + sextNat (lane x 8 3) 8 * sextNat (lane y 8 3) 8)

/-- VDOT4.I8 (R144). -/
def execVdot4I8 (d a b e : Reg) (s : State) : Out :=
  runVec (vecTri (fun _ x y z => (dot4 x y z, 0)) d a b e .i32) s

/-- VDOT2.BF16 (R144). -/
def execVdot2Bf16 (d a b e : Reg) (s : State) : Out :=
  runVec (vecTri (fun md x y z => fpDot2 md (lane x 16 0) (lane y 16 0) (lane x 16 1) (lane y 16 1) z) d a b e .f32) s

/-! ## Special functions and random numbers (R145, R146) -/

/-- VEXP (R145). -/
def execVexp (d a : Reg) (t : Ty) (s : State) : Out := runVec (vecUn (fun _ x => fpSpecial .exp t x) d a t) s
/-- VEXP2 (R145). -/
def execVexp2 (d a : Reg) (t : Ty) (s : State) : Out := runVec (vecUn (fun _ x => fpSpecial .exp2 t x) d a t) s
/-- VLOG2 (R145). -/
def execVlog2 (d a : Reg) (t : Ty) (s : State) : Out := runVec (vecUn (fun _ x => fpSpecial .log2 t x) d a t) s
/-- VRCP (R145). -/
def execVrcp (d a : Reg) (t : Ty) (s : State) : Out := runVec (vecUn (fun _ x => fpSpecial .rcp t x) d a t) s
/-- VRSQRT (R145). -/
def execVrsqrt (d a : Reg) (t : Ty) (s : State) : Out := runVec (vecUn (fun _ x => fpSpecial .rsqrt t x) d a t) s
/-- VTANH (R145). -/
def execVtanh (d a : Reg) (t : Ty) (s : State) : Out := runVec (vecUn (fun _ x => fpSpecial .tanh t x) d a t) s
/-- VSIGM (R145). -/
def execVsigm (d a : Reg) (t : Ty) (s : State) : Out := runVec (vecUn (fun _ x => fpSpecial .sigm t x) d a t) s
/-- The value of k * 2^-p in a format; exact (R146). -/
def uniform (t : Ty) (k p : Nat) : Nat := ((fmtOf t).round modesRNE (exactInt k (-(p : Int)) false)).1

/-- VRAND (R146): the lanes and the counter advance. -/
def execVrand (d : Reg) (t : Ty) (s : State) : Out :=
  runVec (do
    let lg ← vecMode [d]
    let k ← rd
    let nb := vBits lg / 128
    let ctr := k.u.rngchi.toNat * 2 ^ 64 + k.u.rngclo.toNat
    let ws := philoxWords ctr k.u.rngkey.toNat nb
    let w := tyBits t
    let l := (lanes ws w (vBits lg / w)).map fun x => if t = .f32 then uniform .f32 (x / 2 ^ 8) 24 else uniform .f64 (x / 2 ^ 11) 53
    let c2 := (ctr + nb) % 2 ^ 128
    wr fun q => { q with u := { q.u with rngclo := BitVec.ofNat 64 c2, rngchi := BitVec.ofNat 64 (c2 / 2 ^ 64) } }
    setVN lg d (ofLanes w l)) s

/-! ## Long mode (R46, R147) -/

/-- LVON: private mode clears the long registers and enters long mode; long mode keeps everything. -/
def execLvon (s : State) : Out :=
  runCore (wr fun k => if k.u.long then k else { k with u := { k.u with long := true }, lv := Vector.replicate 8 0 }) s
/-- LVOFF. -/
def execLvoff (s : State) : Out := runCore (wr fun k => { k with u := { k.u with long := false } }) s
/-- LVQRY: x[d] := LVMODE. -/
def execLvqry (d : Reg) (s : State) : Out :=
  runCore (do
    let k ← rd
    setX d (boolWord k.u.long)) s

end Sys2Proof.Machine
end

