-- ==== Sys2Proof/Machine/Walk.lean ====
section
/-! DEFINITION. Machine/Walk.lean: the walkers of the bays (14, R283, R286, R287). -/
namespace Sys2Proof.Machine

/-- The requests that one walk serves: those for the page and context of the first (R286). -/
def WalkReq.same (r q : WalkReq) : Bool := q.bay == r.bay && q.ctx == r.ctx && q.va / 4096 == r.va / 4096

/-- The slot that asked, by its privilege, learns that the walk for its access ended with a trap (R283); while it waits,
it asks again after the wait. -/
def Core.walkFailed (k : Core) (r : WalkReq) (cause : Nat) : Core :=
  let mark := fun (p : Pend) => match p with
    | .none => Pend.walked r.acc r.va cause
    | .stalled => Pend.walked r.acc r.va cause
    | .walked .. => Pend.walked r.acc r.va cause
    | .granted _ => Pend.walked r.acc r.va cause
    | .lines .. => Pend.walked r.acc r.va cause
    | _ => p
  if r.user then { k with pend := mark k.pend } else { k with pend3 := mark k.pend3 }

/-! ## The pointer cache (R286) -/

/-- The deepest of the pointers of a bay's cache that lie on the walk of an address. -/
def deepest (x va : Nat) : List WalkPtr → Option WalkPtr
  | [] => none
  | p :: rest =>
    let r := deepest x va rest
    if p.ctx = x ∧ p.top = va / 2 ^ pageBits (p.level + 1) then (match r with
      | some q => if q.level < p.level then some q else some p
      | none => some p) else r

/-- The pointers that a walk has followed enter a bay's cache; it keeps the 64 newest. -/
def State.keepPtrs (s : State) (bay x va : Nat) (l : List (Nat × Nat)) : State :=
  let new : List WalkPtr := l.map fun p => { ctx := x, level := p.1, top := va / 2 ^ pageBits (p.1 + 1), table := p.2 }
  let old := ((lookupK s.wcache bay).getD []).filter fun p => !(new.any fun q => q.ctx == p.ctx && q.level == p.level && q.top == p.top)
  if l.isEmpty then s else { s with wcache := insertK s.wcache bay ((new ++ old).take 64) }

/-- The leaf that a bay's walker reaches for an address, from the deepest pointer in its cache. -/
def State.walkFrom (s : State) (bay : Nat) (e : TEnv) (va : Nat) : Option Leaf :=
  match deepest e.ctx va ((lookupK s.wcache bay).getD []) with
  | some p => s.findLeaf e.die va p.level p.table
  | none => s.findLeaf e.die va 3 e.ptbase.toNat

/-! ## One walk for the requests that are merged into it -/

/-- What a request learns of a walk: its translation, or the cause. -/
def State.answerWalk (s : State) (f : Option Leaf) (r : WalkReq) : Except Nat TlbEntry :=
  match f with
  | none => .error causeNotPresent
  | some l => s.checkLeaf ((s.core r.core).tenv (dieOf r.core)) r.user r.acc .none r.va l

/-- The leaf with the bits that the accesses which passed set (R287). -/
def touchedBy (s : State) (f : Leaf) : List WalkReq → Word
  | [] => f.word
  | r :: rest => match s.answerWalk (some f) r with
    | .ok _ => leafTouched r.acc (touchedBy s f rest)
    | .error _ => touchedBy s f rest

/-- Gives each of a list of requests what it learns: the core and its cluster take the translation, and the access comes after the
timestamp of the walk (R286, R287); a trap is taken when the access issues again. -/
def State.giveWalk (s0 : State) (f : Option Leaf) (w : Word) (p : Nat) (s : State) : List WalkReq → State
  | [] => s
  | r :: rest =>
    let s1 := match s0.answerWalk f r with
      | .ok t =>
        let t1 := { t with leaf := w }
        (s.modCore r.core fun k => (k.takeEntry t1).raisePts p).clusterTake r.core t1
      | .error c => s.modCore r.core fun k => k.walkFailed r c
    State.giveWalk s0 f w p s1 rest

/-- The walk for one of the requests reaches the home entry and may read it (R283, R284). -/
def State.readsHome (s : State) (f : Leaf) (r : WalkReq) : Bool :=
  let e := (s.core r.core).tenv (dieOf r.core)
  let ea := homeEntryAt e.hometab f.word
  inDram (leafPpn f.word * 4096) && inDram ea && s.frame ea == .mapped e.ctx && (match s.answerWalk (some f) r with
    | .ok _ => true
    | .error c => c == causeHomeFault)

/-- The entries that a bay's walker reads for an address that leads to no leaf. -/
def State.readsFrom (s : State) (bay : Nat) (e : TEnv) (va : Nat) : List Nat :=
  match deepest e.ctx va ((lookupK s.wcache bay).getD []) with
  | some p => s.entriesRead e.die va p.level p.table
  | none => s.entriesRead e.die va 3 e.ptbase.toNat

/-- The walk for a list of requests of one page and context: every entry is read at its home, the home entry too (R284, R286). -/
def State.walkOnce (s : State) (bay : Nat) (r : WalkReq) (l : List WalkReq) : State :=
  let e := (s.core r.core).tenv (dieOf r.core)
  match s.walkFrom bay e r.va with
  | none => s.giveWalk none 0 0 (s.readEntries e.die e.ctx 0 (s.readsFrom bay e r.va)).2 l
  | some f =>
    let s1 := s.keepPtrs bay e.ctx r.va f.ptrs
    let w := touchedBy s f l
    let hx := if l.any (s.readsHome f) then [homeEntryAt e.hometab f.word] else []
    let rd := s1.readEntries e.die e.ctx 0 (f.reads ++ hx)
    let u := rd.2.touchLeaf e f w rd.1
    s.giveWalk (some f) w u.1 u.2 l

/-- PAGE_WALK: the oldest walk of a bay, for the requests merged into it whose cores are still in the context. -/
def execPageWalk (bay : Nat) (s : State) : Out :=
  runEvent (fun s => match s.walks.find? fun q => q.bay == bay with
    | none => s
    | some r =>
      let s1 := { s with walks := s.walks.filter fun q => !r.same q }
      match (s.walks.filter fun q => r.same q).filter fun q => (s.core q.core).sv.ctxid.toNat == q.ctx with
      | [] => s1
      | q :: l => s1.walkOnce bay q (q :: l)) s

end Sys2Proof.Machine
end

