-- ==== Sys2Proof/Machine/Dispatch.lean ====
section
/-! DEFINITION. Machine/Dispatch.lean: one arm per row of the opcode table. -/
namespace Sys2Proof.Machine

/-- The meaning of an instruction or event. -/
def exec (i : Instr) (s : State) : Host.Outcome State Fault Refusal :=
  match i with
  | .add d a b => Sys2Proof.Machine.execAdd d a b s
  | .sub d a b => Sys2Proof.Machine.execSub d a b s
  | .and d a b => Sys2Proof.Machine.execAnd d a b s
  | .or d a b => Sys2Proof.Machine.execOr d a b s
  | .xor d a b => Sys2Proof.Machine.execXor d a b s
  | .andn d a b => Sys2Proof.Machine.execAndn d a b s
  | .sll d a b => Sys2Proof.Machine.execSll d a b s
  | .srl d a b => Sys2Proof.Machine.execSrl d a b s
  | .sra d a b => Sys2Proof.Machine.execSra d a b s
  | .rol d a b => Sys2Proof.Machine.execRol d a b s
  | .ror d a b => Sys2Proof.Machine.execRor d a b s
  | .slt d a b => Sys2Proof.Machine.execSlt d a b s
  | .sltu d a b => Sys2Proof.Machine.execSltu d a b s
  | .min d a b => Sys2Proof.Machine.execMin d a b s
  | .max d a b => Sys2Proof.Machine.execMax d a b s
  | .minu d a b => Sys2Proof.Machine.execMinu d a b s
  | .maxu d a b => Sys2Proof.Machine.execMaxu d a b s
  | .mul d a b => Sys2Proof.Machine.execMul d a b s
  | .mulh d a b => Sys2Proof.Machine.execMulh d a b s
  | .mulhu d a b => Sys2Proof.Machine.execMulhu d a b s
  | .div d a b => Sys2Proof.Machine.execDiv d a b s
  | .divu d a b => Sys2Proof.Machine.execDivu d a b s
  | .rem d a b => Sys2Proof.Machine.execRem d a b s
  | .remu d a b => Sys2Proof.Machine.execRemu d a b s
  | .addw d a b => Sys2Proof.Machine.execAddw d a b s
  | .subw d a b => Sys2Proof.Machine.execSubw d a b s
  | .mulw d a b => Sys2Proof.Machine.execMulw d a b s
  | .cnt d a => Sys2Proof.Machine.execCnt d a s
  | .clz d a => Sys2Proof.Machine.execClz d a s
  | .ctz d a => Sys2Proof.Machine.execCtz d a s
  | .bswap d a => Sys2Proof.Machine.execBswap d a s
  | .sel d a b e => Sys2Proof.Machine.execSel d a b e s
  | .addi d a imm => Sys2Proof.Machine.execAddi d a imm s
  | .andi d a imm => Sys2Proof.Machine.execAndi d a imm s
  | .ori d a imm => Sys2Proof.Machine.execOri d a imm s
  | .xori d a imm => Sys2Proof.Machine.execXori d a imm s
  | .slti d a imm => Sys2Proof.Machine.execSlti d a imm s
  | .sltiu d a imm => Sys2Proof.Machine.execSltiu d a imm s
  | .slli d a sh => Sys2Proof.Machine.execSlli d a sh s
  | .srli d a sh => Sys2Proof.Machine.execSrli d a sh s
  | .srai d a sh => Sys2Proof.Machine.execSrai d a sh s
  | .lui d imm => Sys2Proof.Machine.execLui d imm s
  | .auipc d imm => Sys2Proof.Machine.execAuipc d imm s
  | .follow l => Sys2Proof.Machine.execFollow l s
  | .detach => Sys2Proof.Machine.execDetach s
  | .sysrd d id => Sys2Proof.Machine.execSysrd d id s
  | .syswr a id => Sys2Proof.Machine.execSyswr a id s
  | .beq a b imm => Sys2Proof.Machine.execBeq a b imm s
  | .bne a b imm => Sys2Proof.Machine.execBne a b imm s
  | .blt a b imm => Sys2Proof.Machine.execBlt a b imm s
  | .bge a b imm => Sys2Proof.Machine.execBge a b imm s
  | .bltu a b imm => Sys2Proof.Machine.execBltu a b imm s
  | .bgeu a b imm => Sys2Proof.Machine.execBgeu a b imm s
  | .jal off => Sys2Proof.Machine.execJal off s
  | .jalr d a imm => Sys2Proof.Machine.execJalr d a imm s
  | .ld d a imm => Sys2Proof.Machine.execLd d a imm s
  | .lw d a imm => Sys2Proof.Machine.execLw d a imm s
  | .lwu d a imm => Sys2Proof.Machine.execLwu d a imm s
  | .lh d a imm => Sys2Proof.Machine.execLh d a imm s
  | .lhu d a imm => Sys2Proof.Machine.execLhu d a imm s
  | .lb d a imm => Sys2Proof.Machine.execLb d a imm s
  | .lbu d a imm => Sys2Proof.Machine.execLbu d a imm s
  | .fld d a imm => Sys2Proof.Machine.execFld d a imm s
  | .sd a b imm => Sys2Proof.Machine.execSd a b imm s
  | .sw a b imm => Sys2Proof.Machine.execSw a b imm s
  | .sh a b imm => Sys2Proof.Machine.execSh a b imm s
  | .sb a b imm => Sys2Proof.Machine.execSb a b imm s
  | .fsd a b imm => Sys2Proof.Machine.execFsd a b imm s
  | .sld d a q imm => Sys2Proof.Machine.execSld d a q imm s
  | .sst a b q imm => Sys2Proof.Machine.execSst a b q imm s
  | .vld d a b => Sys2Proof.Machine.execVld d a b s
  | .vst d a b => Sys2Proof.Machine.execVst d a b s
  | .vsld d a b q => Sys2Proof.Machine.execVsld d a b q s
  | .vsst d a b q => Sys2Proof.Machine.execVsst d a b q s
  | .vldbc d a b x => Sys2Proof.Machine.execVldbc d a b x s
  | .flw d a b => Sys2Proof.Machine.execFlw d a b s
  | .fsw d a b => Sys2Proof.Machine.execFsw d a b s
  | .qld a b e => Sys2Proof.Machine.execQld a b e s
  | .qst a b e => Sys2Proof.Machine.execQst a b e s
  | .pref a b => Sys2Proof.Machine.execPref a b s
  | .cflush a b => Sys2Proof.Machine.execCflush a b s
  | .amoadd d a b w => Sys2Proof.Machine.execAmoadd d a b w s
  | .amoand d a b w => Sys2Proof.Machine.execAmoand d a b w s
  | .amoor d a b w => Sys2Proof.Machine.execAmoor d a b w s
  | .amoxor d a b w => Sys2Proof.Machine.execAmoxor d a b w s
  | .amomin d a b w => Sys2Proof.Machine.execAmomin d a b w s
  | .amomax d a b w => Sys2Proof.Machine.execAmomax d a b w s
  | .amominu d a b w => Sys2Proof.Machine.execAmominu d a b w s
  | .amomaxu d a b w => Sys2Proof.Machine.execAmomaxu d a b w s
  | .amoswap d a b w => Sys2Proof.Machine.execAmoswap d a b w s
  | .amocas d a b w => Sys2Proof.Machine.execAmocas d a b w s
  | .amofadd d a b w => Sys2Proof.Machine.execAmofadd d a b w s
  | .fence x => Sys2Proof.Machine.execFence x s
  | .fencej x => Sys2Proof.Machine.execFencej x s
  | .wfe => Sys2Proof.Machine.execWfe s
  | .send d a ch len => Sys2Proof.Machine.execSend d a ch len s
  | .sendv d a ch => Sys2Proof.Machine.execSendv d a ch s
  | .sendnz d a ch t => Sys2Proof.Machine.execSendnz d a ch t s
  | .hret => Sys2Proof.Machine.execHret s
  | .hyield => Sys2Proof.Machine.execHyield s
  | .hbind a ch prio => Sys2Proof.Machine.execHbind a ch prio s
  | .hunbind ch => Sys2Proof.Machine.execHunbind ch s
  | .hmask ch => Sys2Proof.Machine.execHmask ch s
  | .hunmask ch => Sys2Proof.Machine.execHunmask ch s
  | .hpend ch => Sys2Proof.Machine.execHpend ch s
  | .hquery d ch => Sys2Proof.Machine.execHquery d ch s
  | .watch d a ch w => Sys2Proof.Machine.execWatch d a ch w s
  | .rsend d ch len => Sys2Proof.Machine.execRsend d ch len s
  | .japp a b => Sys2Proof.Machine.execJapp a b s
  | .jwait a b => Sys2Proof.Machine.execJwait a b s
  | .jpoll d a => Sys2Proof.Machine.execJpoll d a s
  | .jabort a => Sys2Proof.Machine.execJabort a s
  | .kapp a b => Sys2Proof.Machine.execKapp a b s
  | .kwait a b => Sys2Proof.Machine.execKwait a b s
  | .lfork d a => Sys2Proof.Machine.execLfork d a s
  | .ldrop a => Sys2Proof.Machine.execLdrop a s
  | .lwr a b e => Sys2Proof.Machine.execLwr a b e s
  | .lrd d a b => Sys2Proof.Machine.execLrd d a b s
  | .lstat d a => Sys2Proof.Machine.execLstat d a s
  | .stash a b e => Sys2Proof.Machine.execStash a b e s
  | .restore a b e => Sys2Proof.Machine.execRestore a b e s
  | .sstat d a => Sys2Proof.Machine.execSstat d a s
  | .barr d a => Sys2Proof.Machine.execBarr d a s
  | .bwait a b => Sys2Proof.Machine.execBwait a b s
  | .barw a => Sys2Proof.Machine.execBarw a s
  | .binit a b e => Sys2Proof.Machine.execBinit a b e s
  | .fadd d a b t => Sys2Proof.Machine.execFadd d a b t s
  | .fsub d a b t => Sys2Proof.Machine.execFsub d a b t s
  | .fmul d a b t => Sys2Proof.Machine.execFmul d a b t s
  | .fdiv d a b t => Sys2Proof.Machine.execFdiv d a b t s
  | .fsqrt d a t => Sys2Proof.Machine.execFsqrt d a t s
  | .fmin d a b t => Sys2Proof.Machine.execFmin d a b t s
  | .fmax d a b t => Sys2Proof.Machine.execFmax d a b t s
  | .feq d a b t => Sys2Proof.Machine.execFeq d a b t s
  | .flt d a b t => Sys2Proof.Machine.execFlt d a b t s
  | .fle d a b t => Sys2Proof.Machine.execFle d a b t s
  | .fclass d a t => Sys2Proof.Machine.execFclass d a t s
  | .fsgnj d a b t => Sys2Proof.Machine.execFsgnj d a b t s
  | .fsgnjn d a b t => Sys2Proof.Machine.execFsgnjn d a b t s
  | .fsgnjx d a b t => Sys2Proof.Machine.execFsgnjx d a b t s
  | .fcvtf d a src dst => Sys2Proof.Machine.execFcvtf d a src dst s
  | .fcvtfi d a k t => Sys2Proof.Machine.execFcvtfi d a k t s
  | .fcvtif d a k t => Sys2Proof.Machine.execFcvtif d a k t s
  | .fmvxf d a t => Sys2Proof.Machine.execFmvxf d a t s
  | .fmvfx d a t => Sys2Proof.Machine.execFmvfx d a t s
  | .fmaddD d a b e => Sys2Proof.Machine.execFmaddD d a b e s
  | .fmsubD d a b e => Sys2Proof.Machine.execFmsubD d a b e s
  | .fnmaddD d a b e => Sys2Proof.Machine.execFnmaddD d a b e s
  | .fnmsubD d a b e => Sys2Proof.Machine.execFnmsubD d a b e s
  | .fmaddS d a b e => Sys2Proof.Machine.execFmaddS d a b e s
  | .fmsubS d a b e => Sys2Proof.Machine.execFmsubS d a b e s
  | .fnmaddS d a b e => Sys2Proof.Machine.execFnmaddS d a b e s
  | .fnmsubS d a b e => Sys2Proof.Machine.execFnmsubS d a b e s
  | .vadd d a b t => Sys2Proof.Machine.execVadd d a b t s
  | .vsub d a b t => Sys2Proof.Machine.execVsub d a b t s
  | .vmul d a b t => Sys2Proof.Machine.execVmul d a b t s
  | .vmin d a b t => Sys2Proof.Machine.execVmin d a b t s
  | .vmax d a b t => Sys2Proof.Machine.execVmax d a b t s
  | .vand d a b t => Sys2Proof.Machine.execVand d a b t s
  | .vor d a b t => Sys2Proof.Machine.execVor d a b t s
  | .vxor d a b t => Sys2Proof.Machine.execVxor d a b t s
  | .vsll d a b t => Sys2Proof.Machine.execVsll d a b t s
  | .vsrl d a b t => Sys2Proof.Machine.execVsrl d a b t s
  | .vsra d a b t => Sys2Proof.Machine.execVsra d a b t s
  | .vcmpeq d a b t => Sys2Proof.Machine.execVcmpeq d a b t s
  | .vcmplt d a b t => Sys2Proof.Machine.execVcmplt d a b t s
  | .vcmple d a b t => Sys2Proof.Machine.execVcmple d a b t s
  | .vsel d a b t => Sys2Proof.Machine.execVsel d a b t s
  | .vabs d a t => Sys2Proof.Machine.execVabs d a t s
  | .vneg d a t => Sys2Proof.Machine.execVneg d a t s
  | .vcvt d a src dst => Sys2Proof.Machine.execVcvt d a src dst s
  | .vredsum d a t => Sys2Proof.Machine.execVredsum d a t s
  | .vredmax d a t => Sys2Proof.Machine.execVredmax d a t s
  | .vredmin d a t => Sys2Proof.Machine.execVredmin d a t s
  | .vperm d a b t => Sys2Proof.Machine.execVperm d a b t s
  | .vbcl d a b t => Sys2Proof.Machine.execVbcl d a b t s
  | .vextx d a b t => Sys2Proof.Machine.execVextx d a b t s
  | .vinsx d a b t => Sys2Proof.Machine.execVinsx d a b t s
  | .vmov d a => Sys2Proof.Machine.execVmov d a s
  | .vcnt d a t => Sys2Proof.Machine.execVcnt d a t s
  | .vzero d => Sys2Proof.Machine.execVzero d s
  | .vfmaF64 d a b e => Sys2Proof.Machine.execVfmaF64 d a b e s
  | .vfmaF32 d a b e => Sys2Proof.Machine.execVfmaF32 d a b e s
  | .vfmaF16 d a b e => Sys2Proof.Machine.execVfmaF16 d a b e s
  | .vfmaBf16 d a b e => Sys2Proof.Machine.execVfmaBf16 d a b e s
  | .vfmsF64 d a b e => Sys2Proof.Machine.execVfmsF64 d a b e s
  | .vfmsF32 d a b e => Sys2Proof.Machine.execVfmsF32 d a b e s
  | .vdot4I8 d a b e => Sys2Proof.Machine.execVdot4I8 d a b e s
  | .vdot2Bf16 d a b e => Sys2Proof.Machine.execVdot2Bf16 d a b e s
  | .vexp d a t => Sys2Proof.Machine.execVexp d a t s
  | .vexp2 d a t => Sys2Proof.Machine.execVexp2 d a t s
  | .vlog2 d a t => Sys2Proof.Machine.execVlog2 d a t s
  | .vrcp d a t => Sys2Proof.Machine.execVrcp d a t s
  | .vrsqrt d a t => Sys2Proof.Machine.execVrsqrt d a t s
  | .vtanh d a t => Sys2Proof.Machine.execVtanh d a t s
  | .vsigm d a t => Sys2Proof.Machine.execVsigm d a t s
  | .vrand d t => Sys2Proof.Machine.execVrand d t s
  | .lvon => Sys2Proof.Machine.execLvon s
  | .lvoff => Sys2Proof.Machine.execLvoff s
  | .lvqry d => Sys2Proof.Machine.execLvqry d s
  | .mmulSp t fa a b fb => Sys2Proof.Machine.execMmulSp t fa a b fb s
  | .mmulAcc t fa a b fb ta => Sys2Proof.Machine.execMmulAcc t fa a b fb ta s
  | .mmulzSp t fa a b fb => Sys2Proof.Machine.execMmulzSp t fa a b fb s
  | .mmulzAcc t fa a b fb ta => Sys2Proof.Machine.execMmulzAcc t fa a b fb ta s
  | .mzero d c => Sys2Proof.Machine.execMzero d c s
  | .mload d a b t => Sys2Proof.Machine.execMload d a b t s
  | .mstore d a b t => Sys2Proof.Machine.execMstore d a b t s
  | .mscacc d a b e => Sys2Proof.Machine.execMscacc d a b e s
  | .mcvt d c => Sys2Proof.Machine.execMcvt d c s
  | .mcopy d a => Sys2Proof.Machine.execMcopy d a s
  | .mflags d => Sys2Proof.Machine.execMflags d s
  | .bpq d a b m => Sys2Proof.Machine.execBpq d a b m s
  | .bpdq d a b m => Sys2Proof.Machine.execBpdq d a b m s
  | .bpack d a m => Sys2Proof.Machine.execBpack d a m s
  | .bunpack d a m => Sys2Proof.Machine.execBunpack d a m s
  | .bpmaxe d a => Sys2Proof.Machine.execBpmaxe d a s
  | .ecall => Sys2Proof.Machine.execEcall s
  | .eret => Sys2Proof.Machine.execEret s
  | .brk => Sys2Proof.Machine.execBrk s
  | .wfi => Sys2Proof.Machine.execWfi s
  | .tlbinv a b k => Sys2Proof.Machine.execTlbinv a b k s
  | .ptload a sel => Sys2Proof.Machine.execPtload a sel s
  | .halt => Sys2Proof.Machine.execHalt s
  | .himm p => Sys2Proof.Machine.execHimm p s
  | .hmod m => Sys2Proof.Machine.execHmod m s
  | .hsched first => Sys2Proof.Machine.execHsched first s
  | .rep c ds as bs => Sys2Proof.Machine.execRep c ds as bs s
  | .realign n => Sys2Proof.Machine.execRealign n s
  | .illegalWord w => Sys2Proof.Machine.execIllegalWord w s
  | .fetchFault cause va => Sys2Proof.Machine.execFetchFault cause va s
  | .followJoin c => Sys2Proof.Machine.execFollowJoin c s
  | .followTimeout c => Sys2Proof.Machine.execFollowTimeout c s
  | .realignJoin c => Sys2Proof.Machine.execRealignJoin c s
  | .realignTimeout c => Sys2Proof.Machine.execRealignTimeout c s
  | .wfeWake c => Sys2Proof.Machine.execWfeWake c s
  | .wfeTimeout c => Sys2Proof.Machine.execWfeTimeout c s
  | .loadStreamFetch c => Sys2Proof.Machine.execLoadStreamFetch c s
  | .storeStreamWrite c => Sys2Proof.Machine.execStoreStreamWrite c s
  | .matrixRetire c => Sys2Proof.Machine.execMatrixRetire c s
  | .remoteStoreAck k => Sys2Proof.Machine.execRemoteStoreAck k s
  | .vqoPushArrival k => Sys2Proof.Machine.execVqoPushArrival k s
  | .stageCreditArrival k => Sys2Proof.Machine.execStageCreditArrival k s
  | .stageCreditRevoke k => Sys2Proof.Machine.execStageCreditRevoke k s
  | .messageDelivery k => Sys2Proof.Machine.execMessageDelivery k s
  | .spillHoldRelease k => Sys2Proof.Machine.execSpillHoldRelease k s
  | .activationStart c => Sys2Proof.Machine.execActivationStart c s
  | .systemChannelEntry c => Sys2Proof.Machine.execSystemChannelEntry c s
  | .remoteLoad c => Sys2Proof.Machine.execRemoteLoad c s
  | .remoteStore c => Sys2Proof.Machine.execRemoteStore c s
  | .remoteCopy c => Sys2Proof.Machine.execRemoteCopy c s
  | .remoteAtomic c => Sys2Proof.Machine.execRemoteAtomic c s
  | .reductionPartial c => Sys2Proof.Machine.execReductionPartial c s
  | .barrierArrival k => Sys2Proof.Machine.execBarrierArrival k s
  | .childArrival k => Sys2Proof.Machine.execChildArrival k s
  | .barrierRelease k => Sys2Proof.Machine.execBarrierRelease k s
  | .barrierWait k => Sys2Proof.Machine.execBarrierWait k s
  | .barrierWaitRetry k => Sys2Proof.Machine.execBarrierWaitRetry k s
  | .pageWalk bay => Sys2Proof.Machine.execPageWalk bay s
  | .rd k => Sys2Proof.Machine.execRd k s
  | .rdx k => Sys2Proof.Machine.execRdx k s
  | .wb c line => Sys2Proof.Machine.execWb c line s
  | .drop c line => Sys2Proof.Machine.execDrop c line s
  | .rack k => Sys2Proof.Machine.execRack k s
  | .timeout h base => Sys2Proof.Machine.execTimeout h base s
  | .rst k => Sys2Proof.Machine.execRst k s
  | .ramo k => Sys2Proof.Machine.execRamo k s
  | .lexp h base agent => Sys2Proof.Machine.execLexp h base agent s
  | .fenced h base agent => Sys2Proof.Machine.execFenced h base agent s
  | .recall h base => Sys2Proof.Machine.execRecall h base s
  | .protoRetry k => Sys2Proof.Machine.execProtoRetry k s
  | .regionMerge h base => Sys2Proof.Machine.execRegionMerge h base s
  | .grants k => Sys2Proof.Machine.execGrants k s
  | .grantx k => Sys2Proof.Machine.execGrantx k s
  | .ackw k => Sys2Proof.Machine.execAckw k s
  | .ownerRecall k => Sys2Proof.Machine.execOwnerRecall k s
  | .downgrade k => Sys2Proof.Machine.execDowngrade k s
  | .upd k => Sys2Proof.Machine.execUpd k s
  | .inv k => Sys2Proof.Machine.execInv k s
  | .amores k => Sys2Proof.Machine.execAmores k s
  | .leaseRenewal h base agent => Sys2Proof.Machine.execLeaseRenewal h base agent s
  | .heartbeatLoss agent => Sys2Proof.Machine.execHeartbeatLoss agent s
  | .meridianPulse agent localTime => Sys2Proof.Machine.execMeridianPulse agent localTime s
  | .halyardSilence agent => Sys2Proof.Machine.execHalyardSilence agent s
  | .hostSnoop line invalidate data => Sys2Proof.Machine.execHostSnoop line invalidate data s
  | .hostMemAccess pa n store => Sys2Proof.Machine.execHostMemAccess pa n store s
  | .doorbellWrite die qnum addr => Sys2Proof.Machine.execDoorbellWrite die qnum addr s
  | .jobStart die cls => Sys2Proof.Machine.execJobStart die cls s
  | .copy die k => Sys2Proof.Machine.execCopy die k s
  | .copyt die k => Sys2Proof.Machine.execCopyt die k s
  | .fill die k => Sys2Proof.Machine.execFill die k s
  | .lz4x die k => Sys2Proof.Machine.execLz4x die k s
  | .lz4c die k => Sys2Proof.Machine.execLz4c die k s
  | .crc die k => Sys2Proof.Machine.execCrc die k s
  | .lflatten die k => Sys2Proof.Machine.execLflatten die k s
  | .lrebase die k => Sys2Proof.Machine.execLrebase die k s
  | .ldiff die k => Sys2Proof.Machine.execLdiff die k s
  | .lresolve die k => Sys2Proof.Machine.execLresolve die k s
  | .cksave die k => Sys2Proof.Machine.execCksave die k s
  | .ckload die k => Sys2Proof.Machine.execCkload die k s
  | .cardRetire die k => Sys2Proof.Machine.execCardRetire die k s
  | .stashOperation die k => Sys2Proof.Machine.execStashOperation die k s
  | .restoreOperation die k => Sys2Proof.Machine.execRestoreOperation die k s
  | .launchDeal die k => Sys2Proof.Machine.execLaunchDeal die k s
  | .groupPlacement c => Sys2Proof.Machine.execGroupPlacement c s
  | .launchComplete die k => Sys2Proof.Machine.execLaunchComplete die k s
  | .balanceExchange die => Sys2Proof.Machine.execBalanceExchange die s
  | .gangReserve die => Sys2Proof.Machine.execGangReserve die s
  | .sliceExpiry c => Sys2Proof.Machine.execSliceExpiry c s
  | .preemptionRequest c => Sys2Proof.Machine.execPreemptionRequest c s
  | .saveComplete c => Sys2Proof.Machine.execSaveComplete c s
  | .groupResume c => Sys2Proof.Machine.execGroupResume c s
  | .preempt die v w => Sys2Proof.Machine.execPreempt die v w s
  | .fcmdAssign die v => Sys2Proof.Machine.execFcmdAssign die v s
  | .fcmdRelease die v => Sys2Proof.Machine.execFcmdRelease die v s
  | .fcmdRetire die v => Sys2Proof.Machine.execFcmdRetire die v s
  | .zeroingComplete die frame => Sys2Proof.Machine.execZeroingComplete die frame s
  | .create v => Sys2Proof.Machine.execCreate v s
  | .start v => Sys2Proof.Machine.execStart v s
  | .stop v => Sys2Proof.Machine.execStop v s
  | .resume v => Sys2Proof.Machine.execResume v s
  | .destroy v => Sys2Proof.Machine.execDestroy v s
  | .contextDrained ctx => Sys2Proof.Machine.execContextDrained ctx s
  | .lcmdEnable p => Sys2Proof.Machine.execLcmdEnable p s
  | .lcmdDisable p => Sys2Proof.Machine.execLcmdDisable p s
  | .lcmdUnfence p => Sys2Proof.Machine.execLcmdUnfence p s
  | .lcmdRetrain p => Sys2Proof.Machine.execLcmdRetrain p s
  | .lctlWrite p v w => Sys2Proof.Machine.execLctlWrite p v w s
  | .trainingEnd p good => Sys2Proof.Machine.execTrainingEnd p good s
  | .trainingTimeout p => Sys2Proof.Machine.execTrainingTimeout p s
  | .retrainEnd p good => Sys2Proof.Machine.execRetrainEnd p good s
  | .retrainTimeout p => Sys2Proof.Machine.execRetrainTimeout p s
  | .laneErrorLimit p lane => Sys2Proof.Machine.execLaneErrorLimit p lane s
  | .dataFlit p flit => Sys2Proof.Machine.execDataFlit p flit s
  | .nak p flit => Sys2Proof.Machine.execNak p flit s
  | .idleAckFlit p flit => Sys2Proof.Machine.execIdleAckFlit p flit s
  | .heartbeatFlit p flit => Sys2Proof.Machine.execHeartbeatFlit p flit s
  | .fenceNotice p flit => Sys2Proof.Machine.execFenceNotice p flit s
  | .compSample p => Sys2Proof.Machine.execCompSample p s
  | .halyardHeartbeat pkt => Sys2Proof.Machine.execHalyardHeartbeat pkt s
  | .halyardRestart pkt => Sys2Proof.Machine.execHalyardRestart pkt s
  | .halyardResync pkt => Sys2Proof.Machine.execHalyardResync pkt s
  | .halyardFenceNotice pkt => Sys2Proof.Machine.execHalyardFenceNotice pkt s
  | .deviceReset => Sys2Proof.Machine.execDeviceReset s
  | .powerWindow watts => Sys2Proof.Machine.execPowerWindow watts s
  | .correctedError kind unit loc detail => Sys2Proof.Machine.execCorrectedError kind unit loc detail s
  | .uncorrectableError pa => Sys2Proof.Machine.execUncorrectableError pa s
  | .watchdogExpiry c => Sys2Proof.Machine.execWatchdogExpiry c s
  | .registerWrite off v w => Sys2Proof.Machine.execRegisterWrite off v w s
  | .corePowerGating c => Sys2Proof.Machine.execCorePowerGating c s
  | .coreFailure c => Sys2Proof.Machine.execCoreFailure c s

end Sys2Proof.Machine
end

