-- ==== Sys2Proof/Machine/Follow.lean ====
section
/-! DEFINITION. Machine/Follow.lean: a core issues, with the followers that have joined it (05, R96 to R98; log 21, DEDUCED). -/
namespace Sys2Proof.Machine

/-- Runs what a core issues. -/
def runIssue : Issue → Out
  | .none s => .next s
  | .run i s => exec i s

/-- The cores that have joined a leader, by rising number. -/
def State.joinedTo (s : State) (c : Nat) : List Nat :=
  s.cores.filterMap fun p => match p.2.follow with
    | .joined l _ => if l = c then some p.1 else none
    | _ => none

/-- A core with every core that issues with it: those that have joined it, and those that have joined them; fuel bounds the chain. -/
def State.crewOf (s : State) : Nat → Nat → List Nat
  | 0, c => [c]
  | n + 1, c => c :: (s.joinedTo c).flatMap (State.crewOf s n)

/-- The group that issues with a core of a cluster of four. -/
def State.crew (s : State) (c : Nat) : List Nat := s.crewOf 3 c

/-- The instruction has issued though it has not completed: it works on memory, a barrier or a card; no queue operand and no granule
holds it. -/
def Core.works (k : Core) (i : Instr) : Bool :=
  let w := (encode i).getD 0
  let m := majOf w
  k.pend != .stalled
    && (memMajor m || (vmemOp w && opOf w != 7 && opOf w != 8) || (m == 0x29) || m == 0x28 || (0x2B ≤ m && m ≤ 0x2E))

/-- A core of a group takes its turn in a cycle: the outcome, and whether it stalls at issue. -/
def State.crewStep (s : State) (c : Nat) : Out × Bool :=
  match State.issueOf { s with cur := c } c with
  | .none t => (.next t, true)
  | .run i t => match exec i t with
    | .next u => (.next u, (u.core c).issued == (s.core c).issued && !(u.core c).works i)
    | o => (o, false)

/-- A core issues with its group as the follower that it was when the cycle began, though its leader traps in the same cycle and the
relation has ended with that (R96, R98). -/
def State.asJoined (s : State) (c : Nat) (f : Follow) : State :=
  if (s.core c).follow = f then s else s.modCore c fun k => { k with follow := f }

/-- The relation that the leader's trap has ended stays ended. -/
def State.asLeft (s : State) (c : Nat) (was now : Follow) : State :=
  if was = now then s else s.modCore c fun k => { k with follow := now }

/-- The cores of a group take their turns in one cycle, the leader first, each with the relation in which it begins; those that stall
at issue. -/
def State.crewFrom (s : State) : List (Nat × Follow) → Out × List Nat
  | [] => (.next s, [])
  | (c, f) :: rest => match (s.asJoined c f).crewStep c with
    | (.next t, held) =>
      let r := State.crewFrom (t.asLeft c f (s.core c).follow) rest
      (r.1, if held then c :: r.2 else r.2)
    | (o, _) => (o, [])

/-- The cores of a group take their turns. -/
def State.crewAll (s : State) (l : List Nat) : Out × List Nat := s.crewFrom (l.map fun c => (c, (s.core c).follow))

/-- The group holds: of a core that stalls, only what it waits with stays. -/
def State.crewHold (s : State) : List Nat → State
  | [] => s
  | c :: rest => match s.crewStep c with
    | (.next t, true) => State.crewHold t rest
    | _ => State.crewHold s rest

/-- A group issues one instruction in one cycle, or holds where one of its cores stalls (R97). -/
def State.crewIssue (s : State) (c : Nat) : Out :=
  match s.crewAll (s.crew c) with
  | (.next t, []) => .next { t with cur := c }
  | (.next _, held) => .next { s.crewHold held with cur := c }
  | (o, _) => o

/-- A core takes its turn: slot 3, one that follows nobody and leads nobody, and one that has still to end what its group has issued,
issue alone; a leader issues with its group, once every core of it has ended the last instruction and runs. -/
def State.turn (s : State) (c : Nat) : Out :=
  if (s.core c).onSys || s.late c || s.crew c == [c] then runIssue (s.issue c)
  else if s.alone c && (s.crew c).all fun m => s.mayRun m && !s.late m then s.crewIssue c
  else .next { s with cur := c }

end Sys2Proof.Machine
end

