-- ==== Sys2Proof/Machine/Step.lean ====
section
/-! DEFINITION. Machine/Step.lean: one step of the machine, and the host's probe (log 3, log 4, DESIGN CHOICE). -/
namespace Sys2Proof.Machine

/-- One step: the head of the agenda moves, after its cycles have passed; with an empty agenda core `cur` issues, and one cycle
passes. -/
def step (s : State) : Host.Outcome State Fault Refusal :=
  match s.agenda with
  | [] => (s.pass 1).turn s.cur
  | t :: rest =>
    let u := { s with agenda := rest }.pass t.cycles
    match t.act with
    | .issue c => u.turn c
    | .event i => if isEventRow i then exec i u else .next u

/-- `s` with an instruction of `nbits` bits `w` where the next step fetches it (log 4, DESIGN CHOICE). -/
def State.withFetchWord (s : State) (nbits w : Nat) : State := s.plant (leBytes 4 (w % 2 ^ nbits))

end Sys2Proof.Machine
end

