-- ==== Sys2Proof/Safety.lean ====
section
/-! DEFINITION. Safety.lean: the terms in which claims speak of a run: a step that goes on, memory in its one form, and what an
instruction of a core leaves alone. -/
namespace Sys2Proof.Safety

open Sys2Proof.Machine

/-- The outcome is a next state. -/
def GoesOn (o : Out) : Prop := ∃ t, o = .next t

/-- Memory is in its canonical form: addresses rise and no listed byte is 0, which an unlisted address reads as. -/
def Canonical (s : State) : Prop := Memory.wf s.mem = true

/-- Every byte of home storage is as before. -/
def SameMemory (s t : State) : Prop := ∀ a, cellGet t.mem a = cellGet s.mem a

/-- Every core but one is as before. -/
def OtherCoresSame (c : Nat) (s t : State) : Prop := ∀ d, d ≠ c → t.core d = s.core d

/-- Only the cores differ between two states. -/
def SameOutside (s t : State) : Prop := t = { s with cores := t.cores }

/-- A run of n steps that ends in a state. -/
def Reaches (n : Nat) (s t : State) : Prop := Host.Core.run Sys2Proof.core n s = .next t

/-! ## How an instruction completes (R33, R42) -/

/-- The instruction completes: the issuing core becomes `k`, and the slot goes on after the instruction. -/
def Completes (i : Instr) (s : State) (k : Core) : Prop := exec i s = .next ((s.setCore s.cur k).retire)

/-- The same where the package is `t` when the instruction has done its work. -/
def CompletesAt (i : Instr) (s t : State) : Prop := exec i s = .next t.retire

/-- The same for an instruction that may have popped vqi or pushed vqo: its credits and pushes leave the core (R150). -/
def CompletesVec (i : Instr) (s : State) (k : Core) : Prop := exec i s = .next ((s.setCore s.cur k).flushChain).retire

/-- The same where the package is `t` when the instruction has done its work. -/
def CompletesVecAt (i : Instr) (s t : State) : Prop := exec i s = .next t.flushChain.retire

/-- The issuing core becomes `k`, and the slot goes on at `pc`. -/
def JumpsTo (i : Instr) (s : State) (k : Core) (pc : Word) : Prop := exec i s = .next ((s.setCore s.cur k).retireTo pc)

/-- The instruction traps with nothing else done: Trap(cause, tval) of R21. -/
def Traps (i : Instr) (s : State) (cause : Nat) (tval : Word) : Prop := exec i s = .next (s.takeTrap cause tval)

/-- The instruction traps under a translation that the core found, which leaves the TLBs: the next access walks (R291). -/
def TrapsStale (i : Instr) (s : State) (cause : Nat) (va : Word) : Prop :=
  exec i s = .next ((s.dropStale s.cur va.toNat).takeTrap cause va)

/-- The instruction waits: nothing changes, and it issues again. -/
def Waits (i : Instr) (s : State) : Prop := exec i s = .next s

/-- The issuing core with what its slot waits for. -/
def pendingAs (s : State) (p : Pend) : State := s.setCore s.cur ((s.core s.cur).setPending p)

/-- The instruction waits for what others bring, and a pre-emption may stop it: it issues again (R109, R251). -/
def Stalls (i : Instr) (s : State) : Prop := exec i s = .next (pendingAs s .stalled)

/-! ## Operands (R24, R28, R29, R31) -/

/-- x[r] as a source holds `v`, and reading it leaves the core as `k'`: x0 reads zero, x30 pops qi. -/
def Source (k : Core) (r : Reg) (v : Word) (k' : Core) : Prop :=
  (r = 0 ∧ v = 0 ∧ k' = k)
  ∨ (r ≠ 0 ∧ r ≠ 30 ∧ r ≠ 31 ∧ k.hart.x[r.toNat]? = some v ∧ k' = k)
  ∨ (r = 30 ∧ ∃ rest, k.qi = .data v :: rest ∧ k' = { k with qi := rest })

/-- Writing `v` to x[r] leaves the core as `k'`: x0 ignores it, x31 pushes qs. -/
def Dest (k : Core) (r : Reg) (v : Word) (k' : Core) : Prop :=
  (r = 0 ∧ k' = k)
  ∨ (r ≠ 0 ∧ r ≠ 30 ∧ r ≠ 31 ∧ k' = k.setHart { k.hart with x := k.hart.x.setIfInBounds r.toNat v })
  ∨ (r = 31 ∧ (k.onSys = true ∨ k.sfault = none) ∧ k.qs.length < 16 ∧ k' = { k with qs := k.qs ++ [v] })

/-- f[r] holds the 64 bits `v`. -/
def FSource (k : Core) (r : Reg) (v : Word) : Prop := k.hart.f[r.toNat]? = some v

/-- The core with f[r] written. -/
def fWritten (k : Core) (r : Reg) (v : Word) : Core := k.setHart { k.hart with f := k.hart.f.setIfInBounds r.toNat v }

/-- Every field names a long register, or none does (R45, R124). -/
def OneMode (k : Core) (long : Bool) (fields : List Reg) : Prop :=
  ∀ r ∈ fields, (k.u.long && decide (r.toNat < 8)) = long

/-- A vector register as a source: a long one, a private one, or vqi as v14. -/
def VSource (k : Core) (long : Bool) (r : Reg) (v : Nat) (k' : Core) : Prop :=
  (long = true ∧ (∃ w, k.lv[r.toNat]? = some w ∧ v = w.toNat) ∧ k' = k)
  ∨ (long = false ∧ (∃ w, k.v[r.toNat]? = some w ∧ v = w.toNat) ∧ k' = k)
  ∨ (long = false ∧ r = 14 ∧ ∃ w rest, k.vqi = w :: rest ∧ v = w.toNat ∧ k' = { k with vqi := rest, popped := k.popped + 1 })

/-- A vector register as a destination: a long one, a private one, or vqo as v15. -/
def VDest (k : Core) (long : Bool) (r : Reg) (v : Nat) (k' : Core) : Prop :=
  (long = true ∧ k' = { k with lv := k.lv.setIfInBounds r.toNat (BitVec.ofNat 2048 v) })
  ∨ (long = false ∧ r.toNat < 14 ∧ k' = { k with v := k.v.setIfInBounds r.toNat (BitVec.ofNat 256 v) })
  ∨ (long = false ∧ r = 15 ∧ bitAt k.u.stagedn 63 = true ∧ k.u.window ≠ 0
      ∧ k' = { k with u := { k.u with window := k.u.window - 1 }, pushed := k.pushed ++ [BitVec.ofNat 256 v] })

/-- The immediate: sign-extended, or with the payload of a HIMM above it (R67). -/
def Imm (k : Core) (i : BitVec 16) (v : Word) : Prop :=
  (∃ a p j, k.hart.hint = some ⟨a, .himm p, j⟩ ∧ v = ((p ++ i : BitVec 39)).signExtend 64)
  ∨ ((∀ a p j, k.hart.hint ≠ some ⟨a, .himm p, j⟩) ∧ v = i.signExtend 64)

/-! ## The functions of R88, from its table -/

/-- The shift count x[b][5:0]. -/
def sh (b : Word) : Nat := b.toNat % 64

/-- w32(v). -/
def low32 (v : Word) : Word := (v.setWidth 32).signExtend 64

/-- 1 for a condition that holds, else 0. -/
def truth (c : Bool) : Word := if c then 1 else 0

/-- The operations of two x sources with their results. -/
def twoSourceTable : List ((Reg → Reg → Reg → Instr) × (Word → Word → Word)) :=
  [(.add, fun a b => a + b), (.sub, fun a b => a - b), (.and, fun a b => a &&& b), (.or, fun a b => a ||| b),
   (.xor, fun a b => a ^^^ b), (.andn, fun a b => a &&& ~~~b),
   (.sll, fun a b => BitVec.ofNat 64 (a.toNat * 2 ^ sh b)), (.srl, fun a b => BitVec.ofNat 64 (a.toNat / 2 ^ sh b)),
   (.sra, fun a b => BitVec.ofInt 64 (a.toInt / 2 ^ sh b)),
   (.rol, fun a b => (a <<< sh b) ||| (a >>> (64 - sh b))), (.ror, fun a b => (a >>> sh b) ||| (a <<< (64 - sh b))),
   (.slt, fun a b => truth (decide (a.toInt < b.toInt))), (.sltu, fun a b => truth (decide (a.toNat < b.toNat))),
   (.min, fun a b => BitVec.ofInt 64 (min a.toInt b.toInt)), (.max, fun a b => BitVec.ofInt 64 (max a.toInt b.toInt)),
   (.minu, fun a b => BitVec.ofNat 64 (min a.toNat b.toNat)), (.maxu, fun a b => BitVec.ofNat 64 (max a.toNat b.toNat)),
   (.mul, fun a b => BitVec.ofNat 64 (a.toNat * b.toNat)), (.mulh, fun a b => BitVec.ofInt 64 (a.toInt * b.toInt / 2 ^ 64)),
   (.mulhu, fun a b => BitVec.ofNat 64 (a.toNat * b.toNat / 2 ^ 64)),
   (.div, fun a b => if b = 0 then BitVec.allOnes 64 else BitVec.ofInt 64 (a.toInt.tdiv b.toInt)),
   (.divu, fun a b => if b = 0 then BitVec.allOnes 64 else BitVec.ofNat 64 (a.toNat / b.toNat)),
   (.rem, fun a b => if b = 0 then a else BitVec.ofInt 64 (a.toInt - b.toInt * a.toInt.tdiv b.toInt)),
   (.remu, fun a b => if b = 0 then a else BitVec.ofNat 64 (a.toNat - b.toNat * (a.toNat / b.toNat))),
   (.addw, fun a b => low32 (a + b)), (.subw, fun a b => low32 (a - b)), (.mulw, fun a b => low32 (a * b))]

/-- The operations of one x source, each with what its result is. -/
def oneSourceTable : List ((Reg → Reg → Instr) × (Word → Word → Prop)) :=
  [(.cnt, fun a v => v.toNat = ((List.range 64).filter fun n => a.getLsbD n).length),
   (.clz, fun a v => v.toNat = if a = 0 then 64 else 63 - Nat.log2 a.toNat),
   (.ctz, fun a v => if a = 0 then v = 64 else a.getLsbD v.toNat = true ∧ ∀ n < v.toNat, a.getLsbD n = false),
   (.bswap, fun a v => ∀ n < 64, v.getLsbD n = a.getLsbD (8 * (7 - n / 8) + n % 8))]

/-- The immediate operations with their results. -/
def immediateTable : List ((Reg → Reg → BitVec 16 → Instr) × (Word → Word → Word)) :=
  [(.addi, fun a i => a + i), (.andi, fun a i => a &&& i), (.ori, fun a i => a ||| i), (.xori, fun a i => a ^^^ i),
   (.slti, fun a i => truth (decide (a.toInt < i.toInt))), (.sltiu, fun a i => truth (decide (a.toNat < i.toNat)))]

/-- The shifts by a constant with their results. -/
def shiftTable : List ((Reg → Reg → BitVec 6 → Instr) × (Word → Nat → Word)) :=
  [(.slli, fun a n => BitVec.ofNat 64 (a.toNat * 2 ^ n)), (.srli, fun a n => BitVec.ofNat 64 (a.toNat / 2 ^ n)),
   (.srai, fun a n => BitVec.ofInt 64 (a.toInt / 2 ^ n))]

/-- The conditional branches with their conditions. -/
def branchTable : List ((Reg → Reg → BitVec 16 → Instr) × (Word → Word → Bool)) :=
  [(.beq, fun a b => decide (a = b)), (.bne, fun a b => decide (a ≠ b)),
   (.blt, fun a b => decide (a.toInt < b.toInt)), (.bge, fun a b => decide (b.toInt ≤ a.toInt)),
   (.bltu, fun a b => decide (a.toNat < b.toNat)), (.bgeu, fun a b => decide (b.toNat ≤ a.toNat))]

/-! ## The system registers of R35 -/

/-- A line of R35: the identifier, the privilege, whether it is read-only, the bits that a write must leave zero, and what it
reads on the issuing core. -/
structure SysRow where
  id   : Nat
  priv : Nat
  ro   : Bool
  zero : Nat
  read : State → Core → Word

/-- The lines of R35 but for HMAP0 to HMAP17. -/
def sysTable : List SysRow :=
  [{ id := 0x001, priv := 0, ro := false, zero := 2 ^ 64 - 2 ^ 5, read := fun _ k => k.u.fctl },
   { id := 0x002, priv := 0, ro := false, zero := 2 ^ 64 - 2 ^ 5, read := fun _ k => k.u.fflags },
   { id := 0x003, priv := 0, ro := false, zero := 2 ^ 64 - 2, read := fun _ k => k.u.accflags },
   { id := 0x004, priv := 0, ro := false, zero := 0, read := fun _ k => k.u.rngclo },
   { id := 0x005, priv := 0, ro := false, zero := 0, read := fun _ k => k.u.rngchi },
   { id := 0x006, priv := 0, ro := false, zero := 0, read := fun _ k => k.u.rngkey },
   { id := 0x010, priv := 0, ro := true, zero := 0, read := fun s _ => BitVec.ofNat 64 (s.logical s.cur % 4096) },
   { id := 0x011, priv := 0, ro := true, zero := 0, read := fun s _ => s.clusterWord s.cur },
   { id := 0x012, priv := 0, ro := true, zero := 0, read := fun _ k => k.u.groupid },
   { id := 0x013, priv := 0, ro := true, zero := 0, read := fun _ k => k.u.groupn },
   { id := 0x014, priv := 0, ro := true, zero := 0, read := fun _ k => k.u.levelix },
   { id := 0x015, priv := 0, ro := true, zero := 0, read := fun _ k => BitVec.ofNat 64 (k.u.hgen % 4096) },
   { id := 0x020, priv := 0, ro := true, zero := 0, read := fun s _ => BitVec.ofNat 64 s.time },
   { id := 0x021, priv := 0, ro := true, zero := 0, read := fun s _ => BitVec.ofNat 64 s.cycle },
   { id := 0x022, priv := 0, ro := true, zero := 0, read := fun _ k => BitVec.ofNat 64 (min k.pts (2 ^ 48 - 1)) },
   { id := 0x030, priv := 0, ro := false, zero := 0, read := fun _ k => k.u.stageup },
   { id := 0x031, priv := 0, ro := false, zero := 0, read := fun _ k => k.u.stagedn },
   { id := 0x032, priv := 0, ro := true, zero := 0, read := fun _ k => BitVec.ofNat 64 (k.u.window % 8) },
   { id := 0x033, priv := 0, ro := true, zero := 0, read := fun _ k => truth k.u.long },
   { id := 0x040, priv := 0, ro := false, zero := (2 ^ 63 - 2 ^ 50) + (2 ^ 32 - 2 ^ 22) + (2 ^ 16 - 2 ^ 12), read := fun _ k => k.u.treeup },
   { id := 0x041, priv := 0, ro := false, zero := 2 ^ 64 - 2 ^ 6, read := fun _ k => k.u.treen },
   { id := 0x042, priv := 0, ro := false, zero := 2 ^ 64 - 2 ^ 3, read := fun _ k => k.u.treeop },
   { id := 0x043, priv := 0, ro := false, zero := 7, read := fun _ k => k.u.treedst },
   { id := 0x100, priv := 1, ro := false, zero := 2 ^ 64 - 2 ^ 6, read := fun _ k => k.sv.status },
   { id := 0x101, priv := 1, ro := false, zero := 0, read := fun _ k => k.sv.epc },
   { id := 0x102, priv := 1, ro := false, zero := 2 ^ 64 - 2 ^ 5, read := fun _ k => k.sv.cause },
   { id := 0x103, priv := 1, ro := false, zero := 0, read := fun _ k => k.sv.tval },
   { id := 0x104, priv := 1, ro := false, zero := (2 ^ 64 - 2 ^ 48) + 3, read := fun _ k => k.sv.tvec },
   { id := 0x105, priv := 1, ro := true, zero := 0, read := fun _ k => k.sv.ctxid },
   { id := 0x106, priv := 1, ro := false, zero := (2 ^ 64 - 2 ^ 52) + (2 ^ 12 - 1), read := fun _ k => k.sv.ptbase },
   { id := 0x107, priv := 1, ro := false, zero := 0, read := fun _ k => k.sv.htab },
   { id := 0x108, priv := 1, ro := false, zero := 0, read := fun _ k => k.sv.spillq },
   { id := 0x109, priv := 1, ro := false, zero := 0, read := fun _ k => k.sv.orphq },
   { id := 0x10A, priv := 1, ro := false, zero := 0, read := fun _ k => k.sv.slice },
   { id := 0x10B, priv := 1, ro := false, zero := (2 ^ 64 - 2 ^ 52) + (2 ^ 11 - 1), read := fun _ k => k.sv.hometab },
   { id := 0x10C, priv := 1, ro := false, zero := 0, read := fun _ k => k.sv.lintab },
   { id := 0x10D, priv := 1, ro := false, zero := 2 ^ 64 - 2 ^ 8, read := fun _ k => k.sv.protomask },
   { id := 0x200, priv := 3, ro := true, zero := 0, read := fun s _ => BitVec.ofNat 64 (physId s.cur + s.plat.stepLetter * 2 ^ 16 + s.plat.stepNumber * 2 ^ 24) },
   { id := 0x201, priv := 3, ro := false, zero := 0, read := fun s _ => s.plat.l2pbase },
   { id := 0x202, priv := 3, ro := false, zero := 0, read := fun s _ => s.plat.l2pn },
   { id := 0x230, priv := 3, ro := false, zero := 2 ^ 64 - 2 ^ 3, read := fun s _ => s.plat.livemode },
   { id := 0x231, priv := 3, ro := false, zero := 0, read := fun s _ => s.plat.celbase },
   { id := 0x232, priv := 3, ro := false, zero := 2 ^ 64 - 2, read := fun s _ => truth s.plat.fwlock }]

/-- The lines HMAP0 to HMAP17. -/
def hmapTable : List SysRow :=
  (List.range 18).map fun n => { id := 0x210 + n, priv := 3, ro := true, zero := 0, read := fun s _ => s.plat.hmap[n]?.getD 0 }

/-- What a register holds after a write of `v` that is allowed: read-only fields and set-only bits keep theirs (R35, R40). -/
def SysRow.after (r : SysRow) (s : State) (k : Core) (v : Word) : Word :=
  if r.id = 0x100 then (r.read s k &&& 0xC) ||| (v &&& 0x33)
  else if r.id = 0x10D then v ||| 1
  else if r.id = 0x231 then (if s.plat.fwlock then s.plat.celbase else v)
  else if r.id = 0x232 then r.read s k ||| v
  else v

/-- A value that check 4 of R34 allows. -/
def SysRow.allows (r : SysRow) (v : Word) : Prop :=
  v &&& BitVec.ofNat 64 r.zero = 0 ∧ (r.id = 0x042 → v ≠ 7) ∧ (r.id = 0x100 → v.toNat % 4 ≠ 2)

/-! ## Accesses that the core serves itself (R283, R286, R293) -/

/-- The core finds the translation `t` of an address, in its TLB or its cluster's (which leaves `u`), and R283 allows the access
through it: the frame of the byte is the context's, and so is the leaf's permission; no walk for it has failed. -/
def Translates (s : State) (acc : Acc) (va : Word) (t : TlbEntry) (u : State) : Prop :=
  (∀ a v c, (s.core s.cur).pending ≠ .walked a v c) ∧ va.toNat < 2 ^ 48
  ∧ s.tlbHit s.cur va.toNat = some (t, u)
  ∧ s.hitOk (s.core s.cur) acc t va.toNat = true
  ∧ (acc = .write ∨ acc = .amo → leafD t.leaf = true)

/-- Every earlier store of the core is acknowledged (R107). -/
def Acked (k : Core) : Prop := k.unacked = 0 ∧ k.stq = []

/-- A physical address is one whose lines the core's L1 may hold, from the home `h`. -/
def Cached (s : State) (t : TlbEntry) (pa h : Nat) : Prop :=
  s.target t pa = .near h ∨ (leafNc t.leaf = false ∧ (s.target t pa = .host h ∨ ∃ c, s.target t pa = .far h c))

/-- A load of n bytes at `va` hits the L1: its value is the line's bytes, little-endian; PTS rises to the line's wts, and an
exclusive line's rts with it (R293). -/
def Loads (s : State) (va : Word) (n v : Nat) (s' : State) : Prop :=
  ∃ t u l tau, Translates s .read va t u ∧ Acked (u.core s.cur) ∧ Cached u t (t.pa va.toNat) l.home
    ∧ lookupK (u.core s.cur).l1 (t.pa va.toNat / 64) = some l ∧ u.copyUsable s.cur l = true
    ∧ (l.excl = true ∨ (u.core s.cur).pts ≤ l.rts) ∧ tau = max (u.core s.cur).pts l.wts
    ∧ v = bitsOf l.data.toNat (8 * (t.pa va.toNat % 64)) (8 * n)
    ∧ s' = u.setCore s.cur { u.core s.cur with
        l1 := insertK (u.core s.cur).l1 (t.pa va.toNat / 64) (if l.excl then { l with rts := max l.rts tau } else l)
        pts := max (u.core s.cur).pts tau }

/-- The slot awaits no answer of an atomic that it has sent. -/
def AsksNothing (k : Core) : Prop := k.pending ≠ .sent ∧ ∀ w, k.pending ≠ .got w

/-- The core holds the line of a write of n bytes to `va` exclusively, in its L1, and may write it now. -/
def Owns (s : State) (acc : Acc) (va : Word) (n : Nat) (t : TlbEntry) (u : State) (l : L1Line) : Prop :=
  Translates s acc va t u ∧ u.guarded (t.pa va.toNat) n = false ∧ u.target t (t.pa va.toNat) = .near l.home
  ∧ u.owns (u.core s.cur).sv.ctxid.toNat (leafProto t.leaf) = true ∧ Acked (u.core s.cur)
  ∧ AsksNothing (u.core s.cur)
  ∧ u.watched (t.pa va.toNat / 64) = false
  ∧ lookupK (u.core s.cur).l1 (t.pa va.toNat / 64) = some l ∧ l.excl = true ∧ u.copyUsable s.cur l = true

/-- The timestamp of a write of n bytes to an owned line: above the line's rts, or at the stamp of the grant that answered it;
one more for every further 8 bytes (R269, R293). -/
def WriteTime (k : Core) (line : Nat) (l : L1Line) (n tau : Nat) : Prop :=
  tau = (if k.grantedLine line then l.wts else max k.pts (l.rts + 1)) + (max 1 (n / 8) - 1)

/-- The core `k` after a write of n bytes `v` to the owned line of a physical address. -/
def written (k : Core) (pa n v tau : Nat) (l : L1Line) : Core :=
  { k with l1 := insertK k.l1 (pa / 64) { l with data := lineSets l.data (pa % 64) n v, wts := tau, rts := tau }, pts := max k.pts tau }

/-- The state after that write: a supervisor's write of a context's LOST word is seen by the hardware (R181). -/
def wroteLine (u : State) (c pa n v tau : Nat) (l : L1Line) : State :=
  (u.setCore c (written (u.core c) pa n v tau l)).noteWrite pa n

/-- A store of n bytes `v` at `va` to a line that the core owns (R293). -/
def Stores (s : State) (va : Word) (n v : Nat) (s' : State) : Prop :=
  ∃ t u l tau, Owns s .write va n t u l ∧ WriteTime (u.core s.cur) (t.pa va.toNat / 64) l n tau
    ∧ s' = wroteLine u s.cur (t.pa va.toNat) n v tau l

/-- The address of a format I or B access: x[a] + i. -/
def AddrI (k : Core) (a : Reg) (i : BitVec 16) (va : Word) (k' : Core) : Prop :=
  ∃ x y, Source k a x k' ∧ Imm k' i y ∧ va = x + y

/-- The address of a VMEM access: x[a] + x[b]. -/
def AddrX (k : Core) (a b : Reg) (va : Word) (k' : Core) : Prop :=
  ∃ x y k1, Source k a x k1 ∧ Source k1 b y k' ∧ va = x + y

/-- The loads into x registers: bytes, and the register value of the bytes read (R105). -/
def loadTable : List ((Reg → Reg → BitVec 16 → Instr) × Nat × (Nat → Word)) :=
  [(.ld, 8, BitVec.ofNat 64), (.lw, 4, fun v => (BitVec.ofNat 32 v).signExtend 64), (.lwu, 4, BitVec.ofNat 64),
   (.lh, 2, fun v => (BitVec.ofNat 16 v).signExtend 64), (.lhu, 2, BitVec.ofNat 64),
   (.lb, 1, fun v => (BitVec.ofNat 8 v).signExtend 64), (.lbu, 1, BitVec.ofNat 64)]

/-- The stores from x registers with their bytes (R105). -/
def storeTable : List ((Reg → Reg → BitVec 16 → Instr) × Nat) := [(.sd, 8), (.sw, 4), (.sh, 2), (.sb, 1)]

/-- The integer atomics with the new value from the old one and the operand, for values of w bits (R116). -/
def amoTable : List ((Reg → Reg → Reg → Width → Instr) × (Nat → Nat → Nat → Nat)) :=
  [(.amoadd, fun w o v => (o + v) % 2 ^ w), (.amoand, fun _ o v => Nat.land o v), (.amoor, fun _ o v => Nat.lor o v),
   (.amoxor, fun _ o v => Nat.xor o v), (.amomin, fun w o v => if sextNat v w ≤ sextNat o w then v else o),
   (.amomax, fun w o v => if sextNat o w ≤ sextNat v w then v else o), (.amominu, fun _ o v => min o v),
   (.amomaxu, fun _ o v => max o v), (.amoswap, fun _ _ v => v)]

/-- Bits of an atomic's width. -/
def amoBits (w : Width) : Nat := match w with
  | .w64 => 64
  | .w32 => 32

/-- An atomic on an owned line: the old bytes, and the state with the new ones. -/
def Atomic (s : State) (va : Word) (n old new : Nat) (s' : State) : Prop :=
  ∃ t u l tau, Owns s .amo va n t u l ∧ WriteTime (u.core s.cur) (t.pa va.toNat / 64) l n tau
    ∧ old = bitsOf l.data.toNat (8 * (t.pa va.toNat % 64)) (8 * n)
    ∧ s' = wroteLine u s.cur (t.pa va.toNat) n new tau l

/-- A long load: four lines upward from `va`, each a hit (R111). -/
def LoadsLong (s : State) (va : Word) (v : Nat) (s' : State) : Prop :=
  ∃ v0 v1 v2 v3 s1 s2 s3, Loads s va 64 v0 s1 ∧ Loads s1 (va + 64) 64 v1 s2 ∧ Loads s2 (va + 128) 64 v2 s3
    ∧ Loads s3 (va + 192) 64 v3 s' ∧ v = v0 + v1 * 2 ^ 512 + v2 * 2 ^ 1024 + v3 * 2 ^ 1536

/-- A long store: four lines upward from `va`, each owned. -/
def StoresLong (s : State) (va : Word) (v : Nat) (s' : State) : Prop :=
  ∃ s1 s2 s3, Stores s va 64 (bitsOf v 0 512) s1 ∧ Stores s1 (va + 64) 64 (bitsOf v 512 512) s2
    ∧ Stores s2 (va + 128) 64 (bitsOf v 1024 512) s3 ∧ Stores s3 (va + 192) 64 (bitsOf v 1536 512) s'

/-- Bytes of a vector register in the mode. -/
def vecBytes (long : Bool) : Nat := if long then 256 else 32

/-- A number is made of n lanes of w bits, lane i being `g i` (R123). -/
def Lanes (w n r : Nat) (g : Nat → Nat) : Prop := r < 2 ^ (w * n) ∧ ∀ i < n, bitsOf r (w * i) w = g i

/-- The element sizes of VLDBC in bytes. -/
def bytesOf (z : Size) : Nat := match z with
  | .s64 => 8
  | .s32 => 4
  | .s16 => 2
  | .s8 => 1

/-! ## The scratchpad (R21, R108, R157) -/

/-- An access of n bytes at an offset passes its checks and does not meet the matrix unit. -/
def InScratch (k : Core) (off : Word) (n : Nat) (write : Bool) : Prop :=
  off.toNat + n ≤ 262144 ∧ off.toNat % n = 0 ∧ k.matBusy off.toNat n write = false

/-- Every granule that n bytes from an offset cover has the full/empty bit `f`. -/
def AllGranules (k : Core) (off n : Nat) (f : Bool) : Prop := ∀ g, off / 16 ≤ g → g < off / 16 + (n + 15) / 16 → k.full g = f

/-- A scratchpad load with its qualifier: plain, waiting for full, or waiting for full and emptying (R108). -/
def ScratchLoads (k : Core) (off : Word) (n : Nat) (q : LoadQ) (v : Nat) (k' : Core) : Prop :=
  InScratch k off n false ∧ v = k.spRead off.toNat n
  ∧ (q ≠ .plain → AllGranules k off.toNat n true)
  ∧ k' = if q = .fe then k.marks (off.toNat / 16) false ((n + 15) / 16) else k

/-- A scratchpad store with its qualifier: plain, waiting for empty and filling, or filling (R108). -/
def ScratchStores (k : Core) (off : Word) (n v : Nat) (q : StoreQ) (k' : Core) : Prop :=
  InScratch k off n true ∧ (q = .ef → AllGranules k off.toNat n false)
  ∧ k' = if q = .plain then k.spWrite off.toNat n v
      else (k.spWrite off.toNat n v).marks (off.toNat / 16) true ((n + 15) / 16)

/-- A scratchpad access of n bytes at an offset fails a check, SPRANGE before MISALIGN, or waits for the matrix unit. -/
def ScratchStops (i : Instr) (s : State) (k : Core) (off : Word) (n : Nat) (write : Bool) : Prop :=
  (262144 < off.toNat + n → Traps i s causeSpRange off)
  ∧ (off.toNat + n ≤ 262144 → off.toNat % n ≠ 0 → Traps i s causeMisalign off)
  ∧ (off.toNat + n ≤ 262144 → off.toNat % n = 0 → k.matBusy off.toNat n write = true → Waits i s)

/-- The three operands of QLD and QST: base, stride and count (R112). -/
def StreamArgs (k : Core) (a b e : Reg) (base stride cnt : Word) (k' : Core) : Prop :=
  ∃ k1 k2, Source k a base k1 ∧ Source k1 b stride k2 ∧ Source k2 e cnt k'

/-! ## Messages (R175 to R201) -/

/-- The payload registers x[d] to x[d + n - 1], read in order (R191). -/
def Payload (k : Core) (d : Reg) : Nat → List Word → Core → Prop
  | 0, l, k' => l = [] ∧ k' = k
  | n + 1, l, k' => ∃ l0 v k1, Payload k d n l0 k1 ∧ Source k1 (d + BitVec.ofNat 5 n) v k' ∧ l = l0 ++ [v]

/-- A destination word that R192 accepts names this core and generation. -/
def Destination (s : State) (v : Word) (dst gen : Nat) : Prop :=
  v.toNat / 2 ^ 32 = 0 ∧ v.toNat / 2 ^ 28 % 8 = 0 ∧ v.toNat / 2 ^ 12 % 16 = 0
  ∧ dst = v.toNat % 4096 ∧ dst < s.logicalCount
  ∧ gen = if v.getLsbD 31 then v.toNat / 2 ^ 16 % 4096 else (s.core s.cur).u.hgen

/-- A channel that the issuing core may name (R192). -/
def MayName (k : Core) (ch : BitVec 6) : Prop :=
  ch.toNat ≠ 61 ∧ (k.priv = 0 → ch.toNat ≠ 0 ∧ ¬ (48 ≤ ch.toNat ∧ ch.toNat ≤ 60))

/-- The core's outbound interface has room, and its earlier stores to its own die are performed (R191, R271). -/
def NetReady (s : State) : Prop := s.niRoom s.cur ≠ 0 ∧ s.nearStores s.cur = false

/-- The message that the issuing core sends (R177, R275). -/
def messageOf (s : State) (dst gen : Nat) (ch : BitVec 6) (kind : Nat) (l : List Word) : Msg :=
  { dst := dst, ch := ch.toNat, gen := gen, src := s.logical s.cur % 4096, len := l.length, kind := kind, info := 0,
    pay := #v[l.getD 0 0, l.getD 1 0, l.getD 2 0, l.getD 3 0], pts := (s.core s.cur).pts,
    ctx := (s.core s.cur).sv.ctxid.toNat, time := 0 }

/-- The state with messages of the issuing core in the network, and the core as `k`. -/
def sent (s : State) (k : Core) (ms : List Msg) : State :=
  { s.setCore s.cur k with net := s.net ++ ms.map fun m => ⟨s.cur, m, none⟩ }

/-- The timestamps of a home line and `p` are below the limit of R292. -/
def BelowLimit (s : State) (home line p : Nat) : Prop :=
  (s.lineTs home line).1 < 2 ^ 63 ∧ (s.lineTs home line).2 < 2 ^ 63 ∧ p < 2 ^ 63

/-- The head message of an activation is gone, where it had one (R194). -/
def headGone (a : Activation) (e : HEntry) : HEntry := if a.hasMsg then { e with fifo := e.fifo.drop 1 } else e

/-- An entry in REBINDING takes its new code address and priority; another is as it was (R175). -/
def rebound (e : HEntry) : HEntry :=
  if e.st = .rebinding then { e with st := .bound, code := e.ncode, prio := e.nprio } else e

/-- The core after slot 0 has ended its activation, with `e` as the entry of its channel: private mode, no activation, no
relation with a leader (R46, R96, R194). -/
def ended (k : Core) (ch : Nat) (e : HEntry) : Core :=
  { k with
    htab := k.htab.setIfInBounds ch e, act := none, u := { k.u with long := false }, ended := true, follow := .none,
    pend := .none, hostWait := none, issued := k.issued + 1, s0 := { k.s0 with hint := none } }

/-- The entry of a channel. -/
def HasEntry (k : Core) (ch : Nat) (e : HEntry) : Prop := k.htab[ch]? = some e

/-- The core with the entry of a channel replaced. -/
def withEntry (k : Core) (ch : Nat) (e : HEntry) : Core := { k with htab := k.htab.setIfInBounds ch e }

/-- What HBIND makes of an entry (R175) with x[a] and its code address: `own` when the issuing activation belongs to the channel,
`waits` when messages of the channel wait. -/
def Binds (e : HEntry) (xa code : Word) (prio rgn : Nat) (own waits : Bool) (e' : HEntry) : Prop :=
  (e.st = .empty → xa = 0 → e' = { e with st := .reserved, prio := prio, en := true, rgn := rgn })
  ∧ (e.st = .empty → xa ≠ 0 → code = 0 → e' = e)
  ∧ (e.st = .empty → code ≠ 0 → e' = { e with st := .bound, code := code, prio := prio, en := true, pend := false, rgn := rgn })
  ∧ (e.st = .reserved → code = 0 → e' = e)
  ∧ (e.st = .reserved → code ≠ 0 →
      e' = { e with st := .bound, code := code, prio := prio, pend := e.pend || waits, rgn := rgn })
  ∧ (e.st = .bound → own = false → e' = { e with code := code, prio := prio, rgn := rgn })
  ∧ (e.st = .bound → own = true → e' = { e with st := .rebinding, ncode := code, nprio := prio, rgn := rgn })
  ∧ (e.st = .rebinding → e' = { e with ncode := code, nprio := prio, rgn := rgn })

/-! ## Floating point and lanes (R70 to R79, R123 to R147) -/

/-- The binary floating instructions with their operations. -/
def fpBinTable : List ((Reg → Reg → Reg → Ty → Instr) × FOp) :=
  [(.fadd, .add), (.fsub, .sub), (.fmul, .mul), (.fdiv, .div), (.fmin, .min), (.fmax, .max)]

/-- The floating comparisons. -/
def fpCmpTable : List ((Reg → Reg → Reg → Ty → Instr) × FCmp) := [(.feq, .eq), (.flt, .lt), (.fle, .le)]

/-- The sign injections with the sign they give from the signs of x and y. -/
def signTable : List ((Reg → Reg → Reg → Ty → Instr) × (Bool → Bool → Bool)) :=
  [(.fsgnj, fun _ y => y), (.fsgnjn, fun _ y => !y), (.fsgnjx, fun x y => x != y)]

/-- The fused instructions: format, whether the product and whether the third source is negated. -/
def fusedTable : List ((Reg → Reg → Reg → Reg → Instr) × Ty × Bool × Bool) :=
  [(.fmaddD, .f64, false, false), (.fmaddS, .f32, false, false), (.fmsubD, .f64, false, true), (.fmsubS, .f32, false, true),
   (.fnmaddD, .f64, true, true), (.fnmaddS, .f32, true, true), (.fnmsubD, .f64, true, false), (.fnmsubS, .f32, true, false)]

/-- Lane i of w bits. -/
def at' (w v i : Nat) : Nat := bitsOf v (w * i) w

/-- The flags of n lanes, each bit being raised when a lane raises it (R78). -/
def AllFlags (n : Nat) (g : Nat → FFlags) (fl : FFlags) : Prop := ∀ j, fl.getLsbD j = true ↔ ∃ i, i < n ∧ (g i).getLsbD j = true

/-- An integer result in w bits, wrapping. -/
def wrap (w : Nat) (v : Int) : Nat := (v % 2 ^ w).toNat

/-- An operation of a lane on a type: the floating one where the type is floating, else the integer one. -/
def laneOf (f : FOp) (g : Int → Int → Int) (t : Ty) (md : Modes) (x y : Nat) : Nat × FFlags :=
  if t.isFloat then fpBin f t md x y else (wrap (tyBits t) (g (intVal t x) (intVal t y)), 0)

/-- A comparison of a lane on a type: all ones for true. -/
def laneTruth (f : FCmp) (g : Int → Int → Bool) (t : Ty) (md : Modes) (x y : Nat) : Nat × FFlags :=
  if t.isFloat then (if (fpCmp f t md x y).1 then 2 ^ tyBits t - 1 else 0, (fpCmp f t md x y).2)
  else (if g (intVal t x) (intVal t y) then 2 ^ tyBits t - 1 else 0, 0)

/-- The vector operations of two sources, on lanes (R135). -/
def laneBinTable : List ((Reg → Reg → Reg → Ty → Instr) × (Ty → Modes → Nat → Nat → Nat × FFlags)) :=
  [(.vadd, laneOf .add fun x y => x + y), (.vsub, laneOf .sub fun x y => x - y), (.vmul, laneOf .mul fun x y => x * y),
   (.vmin, laneOf .min fun x y => min x y), (.vmax, laneOf .max fun x y => max x y),
   (.vand, fun _ _ x y => (Nat.land x y, 0)), (.vor, fun _ _ x y => (Nat.lor x y, 0)), (.vxor, fun _ _ x y => (Nat.xor x y, 0)),
   (.vsll, fun t _ x y => (x * 2 ^ (y % tyBits t) % 2 ^ tyBits t, 0)), (.vsrl, fun t _ x y => (x / 2 ^ (y % tyBits t), 0)),
   (.vsra, fun t _ x y => (wrap (tyBits t) (sextNat x (tyBits t) / 2 ^ (y % tyBits t)), 0)),
   (.vcmpeq, laneTruth .eq fun x y => decide (x = y)), (.vcmplt, laneTruth .lt fun x y => decide (x < y)),
   (.vcmple, laneTruth .le fun x y => decide (x ≤ y))]

/-- Sign operations of a lane: floating lanes as R137, integer lanes wrapping. -/
def laneMinus (neg : Bool) (t : Ty) (md : Modes) (x : Nat) : Nat × FFlags :=
  if t.isFloat then fpSignLane neg t md x
  else (wrap (tyBits t) (if neg ∨ intVal t x < 0 then - intVal t x else intVal t x), 0)

/-- The vector operations of one source, on lanes (R137, R142, R145). -/
def laneUnTable : List ((Reg → Reg → Ty → Instr) × (Ty → Modes → Nat → Nat × FFlags)) :=
  [(.vabs, laneMinus false), (.vneg, laneMinus true),
   (.vcnt, fun t _ x => (((List.range (tyBits t)).filter fun n => x.testBit n).length, 0)),
   (.vexp, fun t _ x => fpSpecial .exp t x), (.vexp2, fun t _ x => fpSpecial .exp2 t x), (.vlog2, fun t _ x => fpSpecial .log2 t x),
   (.vrcp, fun t _ x => fpSpecial .rcp t x), (.vrsqrt, fun t _ x => fpSpecial .rsqrt t x), (.vtanh, fun t _ x => fpSpecial .tanh t x),
   (.vsigm, fun t _ x => fpSpecial .sigm t x)]

/-- The fused and dot operations, on lanes of a type (R143, R144). -/
def laneTriTable : List ((Reg → Reg → Reg → Reg → Instr) × Ty × (Modes → Nat → Nat → Nat → Nat × FFlags)) :=
  [(.vfmaF64, .f64, fun md x y z => fpFma .f64 md false false x y z), (.vfmaF32, .f32, fun md x y z => fpFma .f32 md false false x y z),
   (.vfmaF16, .f16, fun md x y z => fpFma .f16 md false false x y z),
   (.vfmaBf16, .bf16, fun md x y z => fpFma .bf16 md false false x y z),
   (.vfmsF64, .f64, fun md x y z => fpFma .f64 md false true x y z), (.vfmsF32, .f32, fun md x y z => fpFma .f32 md false true x y z),
   (.vdot4I8, .i32, fun _ x y z =>
      (wrap 32 (sextNat z 32 + ((List.range 4).map fun j => sextNat (at' 8 x j) 8 * sextNat (at' 8 y j) 8).sum), 0)),
   (.vdot2Bf16, .f32, fun md x y z => fpDot2 md (at' 16 x 0) (at' 16 y 0) (at' 16 x 1) (at' 16 y 1) z)]

/-- The reductions with the operation of a node (R139). -/
def reduceTable : List ((Reg → Reg → Ty → Instr) × (Ty → Modes → Nat → Nat → Nat × FFlags)) :=
  [(.vredsum, laneOf .add fun x y => x + y), (.vredmax, laneOf .max fun x y => max x y), (.vredmin, laneOf .min fun x y => min x y)]

/-- The fixed tree of R85 over the 2^n lanes from lane i: the node of the two halves. -/
def fixedTree (f : Nat → Nat → Nat × FFlags) (w v : Nat) : Nat → Nat → Nat × FFlags
  | 0, i => (at' w v i, 0)
  | n + 1, i =>
    let l := fixedTree f w v n i
    let r := fixedTree f w v n (i + 2 ^ n)
    ((f l.1 r.1).1, l.2 ||| r.2 ||| (f l.1 r.1).2)

/-! ## The matrix unit (R153 to R168) -/

/-- An operand of the matrix unit or of a bit-plane instruction in the scratchpad passes its checks. -/
def OperandAt (off : Word) (n align : Nat) : Prop := off.toNat % align = 0 ∧ off.toNat + n ≤ 262144

/-- E4M3 pairs with E4M3 only (R156). -/
def Pairs (fa fb : MatFmt) : Prop := fa = .e4m3 ↔ fb = .e4m3

/-- Element q of row i of A, or of column i of B, as the unit reads it (R80, R82, R159). -/
def operandElem (k : Core) (off : Nat) (f : MatFmt) (i q : Nat) : Int :=
  if f = .e4m3 then (e4m3Units (k.spRead (off + 64 * i + q) 1)).1 else planeElem k (off + 8 * matWidth f * i) (matWidth f) q

/-- The number nearest to v in 64 signed bits (R83). -/
def clamp64 (v : Int) : Int := max (-(2 ^ 63)) (min (2 ^ 63 - 1) v)

/-! ## Exceptions (R316 to R322) -/

/-- The save area of the core: 0x1000 below HTAB (R252). -/
def saveAt (k : Core) (off : Nat) : Nat := (k.sv.htab - 0x1000).toNat + off

/-- The core as R317 leaves it when slot 0 enters slot 3: the matrix unit has retired, EPC, CAUSE, TVAL and STATUS are set, slot 3
begins at TVEC at S in private mode, and slot 0 waits for nothing. -/
def entered (k : Core) (how : Slot3) (epc : Word) (cause : Nat) (tval : Word) : Core :=
  { k.retireMatrix with
    sv := { k.sv with epc := epc, cause := BitVec.ofNat 64 cause, tval := tval,
                      status := BitVec.ofNat 64 (4 + (if k.u.long then 16 else 0) + (if k.follow.following then 32 else 0)) }
    u := { k.retireMatrix.u with long := false }, slot3 := how, s3 := { k.s3 with pc := k.sv.tvec, hint := none },
    s0 := { k.s0 with hint := none }, pend := .none, pend3 := .none, hostWait := none, issued := k.retireMatrix.issued + 1, revoked := false,
    follow := .none }

/-- The trap frame of `k` written from `u` to `t`, at the timestamps up to `q`: x1 to x29 at 0x108 and f0 to f31 at 0x200 of the save
area, at S. -/
def FrameWritten (c : Nat) (k : Core) (u : State) (q : Nat) (t : State) : Prop :=
  ∃ p v, u.vwrites (k.tenv (dieOf c)) false (saveAt k 0x108) k.pts ((k.s0.x.toList.drop 1).take 29) = .ok (p, v)
    ∧ v.vwrites (k.tenv (dieOf c)) false (saveAt k 0x200) p k.s0.f.toList = .ok (q, t)

/-- The trap frame of `k` read back from `u`, at the timestamps up to `q`, which leaves `t`. -/
def FrameRead (c : Nat) (k : Core) (u : State) (x f : List Word) (q : Nat) (t : State) : Prop :=
  ∃ p v, u.vreads (k.tenv (dieOf c)) false (saveAt k 0x108) k.pts 29 = .ok (x, p, v)
    ∧ v.vreads (k.tenv (dieOf c)) false (saveAt k 0x200) p 32 = .ok (f, q, t)

/-- The line of FCAUSE of a context is at home: no core holds it exclusively, and its data are not on their way. -/
def CauseAtHome (s : State) (x : Context) : Prop := s.away ((x.desc * 4096 + 0x58) / 64) = none

/-- A core whose PTS is at least a timestamp. -/
def ptsFrom (p : Nat) (k : Core) : Core := { k with pts := max k.pts p }

/-- Instructions whose work at S needs the privilege `p`. -/
def privTable : List (Instr × Nat) := [(.eret, 1), (.wfi, 1), (.halt, 3)]

/-! ## Lineage, stash and barriers -/

/-- The Orrery's view for the issuing core: its translation and LINTAB. -/
def orreryOf (s : State) : LinEnv := ⟨(s.core s.cur).tenv (dieOf s.cur), (s.core s.cur).sv.lintab.toNat⟩

/-- An Orrery operation begins from the issuing core as `k`, with its PTS. -/
def orreryAt (s : State) (k : Core) : Orrery := ⟨s.setCore s.cur k, k.pts⟩

/-- The state after an Orrery operation, with the issuing core as `k`. -/
def orreryDone (s : State) (o : Orrery) (k : Core) : State := o.s.setCore s.cur k

/-- TVAL of the cause LINEAGE: the code, and the handle in the upper half. -/
def linTval (code x : Nat) : Word := BitVec.ofNat 64 (code + x % 2 ^ 32 * 2 ^ 32)

/-- A record of a delta map holds one value for each bit of its mask. -/
def DeltaOk (d : Delta) : Prop := d.mask < 2 ^ 64 ∧ d.vals.length = ((List.range 64).filter fun j => d.mask.testBit j).length

/-- The records of a delta map stand in ascending order of block. -/
def DeltaMapOk (l : List Delta) : Prop := (∀ d ∈ l, DeltaOk d) ∧ l.Pairwise fun a b => a.blk < b.blk

/-- A barrier operand passes the checks of R256: the object's home and physical address, and the state after its translation. -/
def BarrierAt (s : State) (va : Word) (home pa : Nat) (u : State) : Prop :=
  ∃ t, va.toNat % 64 = 0 ∧ Translates s .amo va t u ∧ pa = t.pa va.toNat ∧ inDram pa = true ∧ home = t.home (dieOf s.cur) pa

/-! ## Events -/

/-- The k-th item of a list in flight is `x`, and `r` is the list without it. -/
def InFlight {α : Type} (l : List α) (k : Nat) (x : α) (r : List α) : Prop := takeAt l k = some (x, r)

/-- The event happens: the next state is `t`. -/
def Happens (i : Instr) (s t : State) : Prop := exec i s = .next t

/-- A stream after one element: it ends after its last. -/
def streamAfter (t : Stream) : Option Stream := if t.left ≤ 1 then none else some ⟨t.base + t.stride, t.stride, t.left - 1⟩

/-- The core holds before a REALIGN target since a cycle, for at most 2^n cycles. -/
def Holds (k : Core) (a : Word) (n j t : Nat) : Prop := k.s0.hint = some ⟨a, .realign n, j⟩ ∧ ∃ b, k.pend = .realign t b

/-- A link without bad lanes becomes ACTIVE with g good lanes: at full width, or at half width (R372). -/
def activeLink (l : Link) (p g : Nat) : Link := { l with st := .active, bad := [], width := if lanesOf p ≤ g then 2 else 1 }

/-! ## Jobs -/

/-- A card of a die is RUNNING with a job opcode, uses no FIFO, and the bridge and a UCIe module of its die are ACTIVE. -/
def JobRuns (s : State) (die k op : Nat) (c : Card) : Prop :=
  die < 2 ∧ s.card die k = some c ∧ c.st = .running ∧ c.op = op ∧ c.fin = 0 ∧ c.fout = 0 ∧ s.bridgeUp = true ∧ s.ucieUp die = true

/-- The state after a job that ended with STATUS and DETAIL at timestamp `ts` in `u`. -/
def jobClosed (die k status detail ts : Nat) (u : State) : State := JobEnd.close ⟨status, detail, ts, u⟩ die k

/-- The job's bytes at `va` are `b`, read at timestamp `ts`. -/
def JobReads (s : State) (die : Nat) (c : Card) (va n : Nat) (b : List Byte) (ts : Nat) (u : State) : Prop :=
  s.readBlock (s.ctxEnv die c.ctx) c.user .none va c.ts n (n + 1) = .ok (b, ts, u)

/-- The job writes `b` at `va` without a fault. -/
def JobWrites (s : State) (die : Nat) (c : Card) (va ts : Nat) (b : List Byte) (t : Nat) (u : State) : Prop :=
  s.writeBlock (s.ctxEnv die c.ctx) c.user .none va ts b (b.length + 1) = (none, t, u)

/-- A lineage job: its event, its opcode, its work. -/
def LineageJob (ev : Nat → Nat → Instr) (op : Nat) (f : Nat → LinEnv → Card → Node → LinM (Nat × Nat)) : Prop :=
  (ev = .lflatten ∧ op = 0x10 ∧ f = jobFlatten) ∨ (ev = .lrebase ∧ op = 0x11 ∧ f = fun _ => jobRebase)
    ∨ (ev = .ldiff ∧ op = 0x12 ∧ f = jobDiff) ∨ (ev = .lresolve ∧ op = 0x13 ∧ f = jobResolve)

/-! ## Groups -/

/-- A core as the placement of a single group leaves it: registers, tag, region 0, and the start message last on channel 0. -/
def GroupPlaced (e : Dealt) (q : Card) (l : Launch) (tag : Nat) (k : Core) : Prop :=
  k.u = placedRegs e l tag ∧ k.gen = tag
    ∧ k.group = some { die := e.die, card := e.card, ix := e.ix, rank := 0, gang := l.gang, ctx := e.ctx }
    ∧ k.rgns[0] = { size := l.spb, base := 0 } ∧ k.qi = [] ∧ k.preempt = .none ∧ k.latch = true
    ∧ k.acc = Vector.replicate 4 Tile.reset ∧ k.qs = [] ∧ k.vqi = []
    ∧ (k.entry 0).fifo.getLast?.map Msg.pay = some (pay4 l.arg e.bar (w64 q.addr) 0)

/-- The save of core c's group writes its area and leaves `t`, at the timestamps up to `q` (R252). -/
def SaveWritten (s : State) (c : Nat) (g : GroupRef) (barw : Option Bool) (q : Nat) (t : State) : Prop :=
  let k := s.core c
  s.storeWords (k.tenv (dieOf c)) false k.saveArea.toNat k.pts
    (k.saveWords (k.resumePc barw) (if k.passing || k.sliceEnd = 0 || k.sv.slice = 0 then 0 else k.sliceEnd - s.cycle)
      ((s.spilledFor c g.ctx (s.logical c)).map fun r => r.msg.ch)) = (none, q, t)

/-! ## Hints -/

/-- A hint instruction with the hint that it leaves for its target (R66 to R69, R100). -/
def HintOf (i : Instr) (h : Hint) : Prop :=
  (∃ p, i = .himm p ∧ h = .himm p) ∨ (∃ m, i = .hmod m ∧ h = .hmod m) ∨ (∃ b, i = .hsched b ∧ h = .hsched)
    ∨ (∃ n, i = .realign n ∧ h = .realign n.toNat)

/-- The core with its issuing slot at the hint's target: the next word, with the hint's address kept for EPC. -/
def hintedCore (k : Core) (h : Hint) (j : Nat) : Core :=
  (k.setHart { k.hart with pc := k.hart.pc + 4, hint := some ⟨k.hart.pc, h, j⟩ }).setPending .none

/-! ## The invariant and frames -/

/-- The cores of a state stand in rising order, each once. -/
def CoresSorted (s : State) : Prop := s.cores.Pairwise fun a b => a.1 < b.1

/-- What every step keeps: memory in its canonical form, and the cores in order. -/
def Inv (s : State) : Prop := Canonical s ∧ CoresSorted s

/-- The instruction has not completed: it waits with nothing changed but that it waits, or its trap is taken, after at most the mark of
a queue's fault (R113). -/
def Stopped (s t : State) : Prop :=
  t = s ∨ t = pendingAs s .stalled ∨ (∃ c v, t = s.takeTrap c v)
  ∨ ∃ k c v, k = { s.core s.cur with qi := k.qi, sfault := k.sfault, staken := k.staken } ∧ t = (s.setCore s.cur k).takeTrap c v

/-- Every byte of memory reads as before. -/
def SameBytes (s t : State) : Prop := ∀ a, t.byte a = s.byte a

/-- The frame of a completed instruction on x and f registers: but for the destinations `xd` and `fd`, the queues that it names, FFLAGS
where `flags` says so, and how the slot goes on (its PC and hint, what it waits for, its place in a convoy), nothing of the package has
changed. -/
def RegFrame (xd fd srcs : List Reg) (flags : Bool) (s t : State) : Prop :=
  let k := s.core s.cur
  let q := t.core s.cur
  t = s.setCore s.cur q
  ∧ q = { k with
      s0 := q.s0, s3 := q.s3, pend := q.pend, pend3 := q.pend3, hostWait := q.hostWait, issued := q.issued, follow := q.follow,
      qi := q.qi, qs := q.qs, u := { k.u with fflags := q.u.fflags } }
  ∧ (flags = false → q.u.fflags = k.u.fflags)
  ∧ (if k.onSys then q.s0 = k.s0 else q.s3 = k.s3)
  ∧ (∀ r : Reg, r ∉ xd → q.hart.x[r.toNat]? = k.hart.x[r.toNat]?) ∧ (∀ r : Reg, r ∉ fd → q.hart.f[r.toNat]? = k.hart.f[r.toNat]?)
  ∧ (30 ∉ srcs → q.qi = k.qi) ∧ (31 ∉ xd → q.qs = k.qs) ∧ SameBytes s t

/-- The frame of a completed vector instruction on registers: the same with v registers, private and long; its pops of vqi and pushes of
vqo reach the chain as credits and pushes. -/
def VecFrame (vd srcs : List Reg) (s t : State) : Prop :=
  let k := s.core s.cur
  let q := t.core s.cur
  t = { s with cores := t.cores, credits := t.credits, pushes := t.pushes } ∧ OtherCoresSame s.cur s t
  ∧ q = { k with
      s0 := q.s0, s3 := q.s3, pend := q.pend, pend3 := q.pend3, hostWait := q.hostWait, issued := q.issued, follow := q.follow,
      v := q.v, lv := q.lv, vqi := q.vqi, popped := q.popped, pushed := q.pushed,
      u := { k.u with fflags := q.u.fflags, window := q.u.window } }
  ∧ (if k.onSys then q.s0 = k.s0 else q.s3 = k.s3) ∧ q.hart.x = k.hart.x ∧ q.hart.f = k.hart.f
  ∧ (∀ r : Reg, r ∉ vd → q.v[r.toNat]? = k.v[r.toNat]? ∧ q.lv[r.toNat]? = k.lv[r.toNat]?)
  ∧ (14 ∉ srcs → q.vqi = k.vqi) ∧ (15 ∉ vd → q.u.window = k.u.window) ∧ SameBytes s t

/-- The frame of a completed instruction on lanes, which may read or write x registers too: but for the destinations `vd` and `xd`, the
queues that it names, the counter of the random numbers where `rng` says so, and how the slot goes on, nothing has changed. -/
def LaneFrame (vd vsrcs xd xsrcs : List Reg) (rng : Bool) (s t : State) : Prop :=
  let k := s.core s.cur
  let q := t.core s.cur
  t = { s with cores := t.cores, credits := t.credits, pushes := t.pushes } ∧ OtherCoresSame s.cur s t
  ∧ q = { k with
      s0 := q.s0, s3 := q.s3, pend := q.pend, pend3 := q.pend3, hostWait := q.hostWait, issued := q.issued, follow := q.follow,
      v := q.v, lv := q.lv, vqi := q.vqi, popped := q.popped, pushed := q.pushed, qi := q.qi, qs := q.qs,
      u := { k.u with window := q.u.window, rngclo := q.u.rngclo, rngchi := q.u.rngchi } }
  ∧ (rng = false → q.u.rngclo = k.u.rngclo ∧ q.u.rngchi = k.u.rngchi)
  ∧ (if k.onSys then q.s0 = k.s0 else q.s3 = k.s3) ∧ q.hart.f = k.hart.f
  ∧ (∀ r : Reg, r ∉ xd → q.hart.x[r.toNat]? = k.hart.x[r.toNat]?)
  ∧ (∀ r : Reg, r ∉ vd → q.v[r.toNat]? = k.v[r.toNat]? ∧ q.lv[r.toNat]? = k.lv[r.toNat]?)
  ∧ (14 ∉ vsrcs → q.vqi = k.vqi) ∧ (15 ∉ vd → q.u.window = k.u.window)
  ∧ (30 ∉ xsrcs → q.qi = k.qi) ∧ (31 ∉ xd → q.qs = k.qs) ∧ SameBytes s t

/-- A translated access of n bytes, as the physical range it covers. -/
def Outside (pa n q : Nat) : Prop := q < pa ∨ pa + n ≤ q

/-- The core stores n bytes `v` at `pa`, and nothing else of memory changes. -/
def StoredBytes (s t : State) (pa n v : Nat) : Prop := t.bytes pa n = v ∧ ∀ q, Outside pa n q → t.byte q = s.byte q

/-- The issuing core owns the line of a write to `va`, as the package's one exclusive copy, and `pa` is where the write goes: the page that
`va` is translated to, at its offset. -/
def OwnsAt (s : State) (acc : Acc) (va : Word) (n pa : Nat) (l : L1Line) : Prop :=
  ∃ t u, Owns s acc va n t u l ∧ pa = t.pa va.toNat ∧ pa % 4096 = va.toNat % 4096 ∧ s.xHolder (pa / 64) = some (s.cur, l)

/-- The word at the PC of the issuing slot: its page is translated by the core, and may be fetched; `u` is the state after that. -/
def FetchesWord (s : State) (w : Nat) (u : State) : Prop :=
  ∃ t, Translates s .fetch (s.core s.cur).hart.pc t u ∧ w = s.bytes (t.pa (s.core s.cur).hart.pc.toNat) 4

end Sys2Proof.Safety
end

