-- ==== Sys2Proof/Certificates/Slice0/Obligations.lean ====
section
/-! DEFINITION. Certificates/Slice0/Obligations.lean: the statements for the provers. -/

open Sys2Proof Sys2Proof.Machine Sys2Proof.Safety

/-! ## Integer instructions, branches and jumps -/

/-- R88: every INTA operation of two sources writes the value of its row of the table, reading x[a] first and x[b] second. -/
def Obligations.TwoSourceResults : Prop :=
  ∀ p ∈ twoSourceTable, ∀ (s : State) (d a b : Reg) (x y : Word) (k1 k2 k3 : Core),
    Source (s.core s.cur) a x k1 → Source k1 b y k2 → Dest k2 d (p.2 x y) k3 → Completes (p.1 d a b) s k3

/-- R88: CNT, CLZ, CTZ, BSWAP and SEL. -/
def Obligations.OneSourceResults : Prop :=
  (∀ p ∈ oneSourceTable, ∀ (s : State) (d a : Reg) (x v : Word) (k1 k2 : Core),
    Source (s.core s.cur) a x k1 → p.2 x v → Dest k1 d v k2 → Completes (p.1 d a) s k2)
  ∧ ∀ (s : State) (d a b e : Reg) (x y z : Word) (k1 k2 k3 k4 : Core),
    Source (s.core s.cur) a x k1 → Source k1 b y k2 → Source k2 e z k3 → Dest k3 d (if z ≠ 0 then x else y) k4 →
      Completes (.sel d a b e) s k4

/-- R90, R91: the immediate operations, the shifts by a constant, LUI and AUIPC, with the words that the two rules give; LUI and AUIPC with
a nonzero field a are no instructions. -/
def Obligations.ImmediateResults : Prop :=
  (∀ p ∈ immediateTable, ∀ (s : State) (d a : Reg) (i : BitVec 16) (x v : Word) (k1 k2 : Core),
    Source (s.core s.cur) a x k1 → Imm k1 i v → Dest k1 d (p.2 x v) k2 → Completes (p.1 d a i) s k2)
  ∧ (∀ p ∈ shiftTable, ∀ (s : State) (d a : Reg) (n : BitVec 6) (x : Word) (k1 k2 : Core),
    Source (s.core s.cur) a x k1 → Dest k1 d (p.2 x n.toNat) k2 → Completes (p.1 d a n) s k2)
  ∧ (∀ (s : State) (d : Reg) (i : BitVec 16) (v : Word) (k : Core),
    Imm (s.core s.cur) i v → Dest (s.core s.cur) d (BitVec.ofNat 64 (v.toNat * 65536)) k → Completes (.lui d i) s k)
  ∧ (∀ (s : State) (d : Reg) (i : BitVec 16) (v : Word) (k : Core),
    Imm (s.core s.cur) i v → Dest (s.core s.cur) d ((s.core s.cur).hart.pc + BitVec.ofNat 64 (v.toNat * 65536)) k →
      Completes (.auipc d i) s k)
  ∧ (∀ w, (bitsOf w 26 6 = 0x09 ∨ bitsOf w 26 6 = 0x0A) → bitsOf w 16 5 ≠ 0 → decodeNat w = none)
  ∧ decodeNat 0x20A60003 = some (.slli 5 6 3) ∧ decodeNat 0x20A68003 = some (.srai 5 6 3) ∧ decodeNat 0x24A01234 = some (.lui 5 0x1234)
  ∧ ∀ (s : State) (k : Core), Imm (s.core s.cur) 0x1234 0x1234 → Dest (s.core s.cur) 5 0x12340000 k → Completes (.lui 5 0x1234) s k

/-- R93: a conditional branch goes to PC + 4 * i when its condition holds, and to PC + 4 otherwise. -/
def Obligations.Branches : Prop :=
  ∀ p ∈ branchTable, ∀ (s : State) (a b : Reg) (i : BitVec 16) (x y v : Word) (k1 k2 : Core),
    Source (s.core s.cur) a x k1 → Source k1 b y k2 → Imm k2 i v →
      JumpsTo (p.1 a b i) s k2 (if p.2 x y then (s.core s.cur).hart.pc + 4 * v else (s.core s.cur).hart.pc + 4)

/-- R94, R95: JAL writes PC + 4 to x1 and jumps to PC + 4 * sext(off26, 26), and no HIMM may stand before it; JALR jumps to x[a] + i and
links, and a target that is no multiple of 4 traps MISALIGN with the target, nothing written. -/
def Obligations.JumpsAndLinks : Prop :=
  (∀ (s : State) (off : BitVec 26) (k : Core),
    Dest (s.core s.cur) 1 ((s.core s.cur).hart.pc + 4) k →
      JumpsTo (.jal off) s k ((s.core s.cur).hart.pc + off.signExtend 64 * 4))
  ∧ (∀ (h : Hart) (a : Word) (p : BitVec 23) (j w : Nat), h.hint = some ⟨a, .himm p, j⟩ → bitsOf w 26 6 = 0x16 → h.instr w = .error w)
  ∧ decodeNat 0x5C010000 = some (.jalr 0 1 0)
  ∧ ∀ (s : State) (d a : Reg) (i : BitVec 16) (x v : Word) (k1 : Core),
    Source (s.core s.cur) a x k1 → Imm k1 i v →
      ((x + v).toNat % 4 = 0 → ∀ k2, Dest k1 d ((s.core s.cur).hart.pc + 4) k2 → JumpsTo (.jalr d a i) s k2 (x + v))
      ∧ ((x + v).toNat % 4 ≠ 0 → Traps (.jalr d a i) s causeMisalign (x + v))

/-- R96, R99: FOLLOW traps FOLLOW with the TVAL of the first condition that holds in the order 3, 0, 1, 2, and otherwise makes the core
wait to join the leader it names, still that of an earlier leader until then; DETACH detaches a following core, and in a core that is not following it has no effect. -/
def Obligations.FollowAndDetach : Prop :=
  (∀ (s : State) (l : BitVec 2) (c ld : Nat) (k : Core), c = s.cur → ld = c / 4 * 4 + l.toNat → k = s.core c →
    (k.slot3 ≠ .idle → Traps (.follow l) s causeFollow 3)
    ∧ (k.slot3 = .idle → (ld = c ∨ s.enabled ld = false) → Traps (.follow l) s causeFollow 0)
    ∧ (k.slot3 = .idle → ld ≠ c → s.enabled ld = true →
        (k.follow.following = true ∨ s.hasFollowers c = true) → Traps (.follow l) s causeFollow 1)
    ∧ (k.slot3 = .idle → ld ≠ c → s.enabled ld = true → k.follow.following = false → s.hasFollowers c = false →
        ((s.core ld).act = none ∨ (s.core ld).sv.ctxid ≠ k.sv.ctxid) → Traps (.follow l) s causeFollow 2)
    ∧ (k.slot3 = .idle → ld ≠ c → s.enabled ld = true → k.follow.following = false → s.hasFollowers c = false →
        (s.core ld).act ≠ none → (s.core ld).sv.ctxid = k.sv.ctxid →
          Completes (.follow l) s { k with follow := .waiting ld s.cycle k.follow.left }))
  ∧ ∀ (s : State) (k : Core), k = s.core s.cur →
    (k.follow.following = true → Completes .detach s { k with follow := .none })
    ∧ (k.follow.following = false → Completes .detach s k)

/-! ## System registers -/

/-- R34, R35, R92: SYSRD reads every register of R35 at its privilege, PTS once the core's earlier stores have their timestamps (R272), traps
PRIV below it, and traps ILLEGAL on an identifier that R35 does not have, with the word as TVAL. -/
def Obligations.SystemRegisterReads : Prop :=
  (∀ r ∈ sysTable ++ hmapTable, ∀ (s : State) (d : Reg) (k : Core),
    (r.priv ≤ (s.core s.cur).priv → ((r.id = 2 ∨ r.id = 3) → (s.core s.cur).mat = none) →
      (r.id = 0x022 → Acked (s.core s.cur)) → Dest (s.core s.cur) d (r.read s (s.core s.cur)) k → Completes (.sysrd d (BitVec.ofNat 12 r.id)) s k)
    ∧ ((s.core s.cur).priv < r.priv →
      Traps (.sysrd d (BitVec.ofNat 12 r.id)) s causePriv (BitVec.ofNat 64 ((encode (.sysrd d (BitVec.ofNat 12 r.id))).getD 0))))
  ∧ (∀ (s : State) (d : Reg), ¬ Acked (s.core s.cur) → Waits (.sysrd d 0x022) s)
  ∧ ∀ (s : State) (d : Reg) (id : BitVec 12), (∀ r ∈ sysTable ++ hmapTable, r.id ≠ id.toNat) →
      Traps (.sysrd d id) s causeIllegal (BitVec.ofNat 64 ((encode (.sysrd d id)).getD 0))

/-- R34, R35, R92: a SYSWR of a writable register with an allowed value completes, the register then reads what was written but
for its read-only and set-only bits, and every other register of R35 reads as before (a write of L2PBASE moves CID and CLUSTER
with it). The stage registers have a statement of their own. -/
def Obligations.SystemRegisterWrites : Prop :=
  ∀ r ∈ sysTable, r.ro = false → r.id ≠ 0x030 → r.id ≠ 0x031 → ∀ (s : State) (a : Reg) (v : Word) (k : Core),
    r.priv ≤ (s.core s.cur).priv → Source (s.core s.cur) a v k → r.allows v →
    ((r.id = 2 ∨ r.id = 3) → k.mat = none) → ((0x040 ≤ r.id ∧ r.id ≤ 0x043) → k.red.slots = []) →
    ∃ t, CompletesAt (.syswr a (BitVec.ofNat 12 r.id)) s t
      ∧ r.read t (t.core t.cur) = r.after s k v
      ∧ (∀ q ∈ sysTable ++ hmapTable, q.id ≠ r.id → (r.id = 0x201 → q.id ≠ 0x010 ∧ q.id ≠ 0x011) →
          q.read t (t.core t.cur) = q.read s (s.core s.cur))
      ∧ (t.core t.cur).hart = k.hart ∧ t.mem = s.mem ∧ OtherCoresSame s.cur s t

/-- R34: a SYSWR below the register's privilege traps PRIV, of a read-only register ILLEGAL, and of a value that is not allowed
BADOP with the value; nothing is written. -/
def Obligations.SystemRegisterChecks : Prop :=
  ∀ r ∈ sysTable ++ hmapTable, ∀ (s : State) (a : Reg),
    ((s.core s.cur).priv < r.priv →
      Traps (.syswr a (BitVec.ofNat 12 r.id)) s causePriv (BitVec.ofNat 64 ((encode (.syswr a (BitVec.ofNat 12 r.id))).getD 0)))
    ∧ (r.priv ≤ (s.core s.cur).priv → r.ro = true →
      Traps (.syswr a (BitVec.ofNat 12 r.id)) s causeIllegal (BitVec.ofNat 64 ((encode (.syswr a (BitVec.ofNat 12 r.id))).getD 0)))
    ∧ ∀ (v : Word) (k : Core), Source (s.core s.cur) a v k → r.priv ≤ (s.core s.cur).priv → r.ro = false → ¬ r.allows v →
        Traps (.syswr a (BitVec.ofNat 12 r.id)) s causeBadOp v

/-! ## Memory and the scratchpad -/

/-- R105, R293: an aligned scalar load that hits the core's L1 delivers the bytes of the line, extended as its mnemonic says. -/
def Obligations.LoadHits : Prop :=
  (∀ p ∈ loadTable, ∀ (s : State) (d a : Reg) (i : BitVec 16) (va : Word) (k1 k2 : Core) (v : Nat) (t : State),
    AddrI (s.core s.cur) a i va k1 → va.toNat % p.2.1 = 0 → Loads (s.setCore s.cur k1) va p.2.1 v t →
      Dest (t.core s.cur) d (p.2.2 v) k2 → Completes (p.1 d a i) s k2)
  ∧ (∀ (s : State) (d a : Reg) (i : BitVec 16) (va : Word) (k1 : Core) (v : Nat) (t : State),
    AddrI (s.core s.cur) a i va k1 → va.toNat % 8 = 0 → Loads (s.setCore s.cur k1) va 8 v t →
      Completes (.fld d a i) s (fWritten (t.core s.cur) d (BitVec.ofNat 64 v)))
  ∧ ∀ (s : State) (d a b : Reg) (va : Word) (k1 : Core) (v : Nat) (t : State),
    AddrX (s.core s.cur) a b va k1 → va.toNat % 4 = 0 → Loads (s.setCore s.cur k1) va 4 v t →
      Completes (.flw d a b) s (fWritten (t.core s.cur) d (BitVec.ofNat 64 v))

/-- R105, R293: an aligned scalar store to a line that the core owns puts its bytes into the line. -/
def Obligations.StoreHits : Prop :=
  (∀ p ∈ storeTable, ∀ (s : State) (a b : Reg) (i : BitVec 16) (va v : Word) (k1 k2 : Core) (t : State),
    AddrI (s.core s.cur) a i va k1 → Source k1 b v k2 → va.toNat % p.2 = 0 →
      Stores (s.setCore s.cur k2) va p.2 (v.toNat % 2 ^ (8 * p.2)) t → CompletesAt (p.1 a b i) s t)
  ∧ (∀ (s : State) (a b : Reg) (i : BitVec 16) (va v : Word) (k1 : Core) (t : State),
    AddrI (s.core s.cur) a i va k1 → FSource k1 b v → va.toNat % 8 = 0 →
      Stores (s.setCore s.cur k1) va 8 v.toNat t → CompletesAt (.fsd a b i) s t)
  ∧ ∀ (s : State) (d a b : Reg) (va v : Word) (k1 : Core) (t : State),
    AddrX (s.core s.cur) a b va k1 → FSource k1 d v → va.toNat % 4 = 0 →
      Stores (s.setCore s.cur k1) va 4 (v.toNat % 2 ^ 32) t → CompletesAt (.fsw d a b) s t

/-- R116, R117: an atomic on a line that the core owns writes its new value and delivers the old one, sign-extended; AMOCAS writes
only where the old value equals x[b], and AMOFADD adds with the rounding of R119 into f[d]. R118: an AMOCAS of x30 or x31 is no
instruction. -/
def Obligations.AtomicHits : Prop :=
  (∀ p ∈ amoTable, ∀ (s : State) (d a b : Reg) (w : Width) (va v : Word) (k1 k2 k3 : Core) (old : Nat) (t : State),
    Source (s.core s.cur) a va k1 → Source k1 b v k2 → va.toNat % (amoBits w / 8) = 0 →
      Atomic (s.setCore s.cur k2) va (amoBits w / 8) old (p.2 (amoBits w) old (v.toNat % 2 ^ amoBits w)) t →
      Dest (t.core s.cur) d (BitVec.ofInt 64 (sextNat old (amoBits w))) k3 →
      CompletesAt (p.1 d a b w) s (t.setCore s.cur k3))
  ∧ (∀ (s : State) (d a b : Reg) (w : Width) (va c v : Word) (k1 k2 k3 k4 : Core) (old : Nat) (t : State),
    Source (s.core s.cur) a va k1 → Source k1 b c k2 → Source k2 d v k3 → va.toNat % (amoBits w / 8) = 0 →
      Atomic (s.setCore s.cur k3) va (amoBits w / 8) old
        (if old = c.toNat % 2 ^ amoBits w then v.toNat % 2 ^ amoBits w else old) t →
      Dest (t.core s.cur) d (BitVec.ofInt 64 (sextNat old (amoBits w))) k4 →
      CompletesAt (.amocas d a b w) s (t.setCore s.cur k4))
  ∧ (∀ (s : State) (d a b : Reg) (w : Width) (va v : Word) (k1 : Core) (old : Nat) (r : Nat × FFlags) (t : State),
    Source (s.core s.cur) a va k1 → FSource k1 b v → va.toNat % (amoBits w / 8) = 0 →
      r = fpBin .add (if amoBits w = 64 then .f64 else .f32) ⟨(modesOf k1).rm, false, false, true⟩ old (v.toNat % 2 ^ amoBits w) →
      Atomic (s.setCore s.cur (k1.orFlags r.2)) va (amoBits w / 8) old r.1 t →
      CompletesAt (.amofadd d a b w) s (t.setCore s.cur (fWritten (t.core s.cur) d (BitVec.ofNat 64 old))))
  ∧ ∀ w d, bitsOf w 26 6 = 0x28 → bitsOf w 0 6 = 9 → d = bitsOf w 21 5 → (d = 30 ∨ d = 31) → decodeNat w = none

/-- R105, R110, R111, R116, R118, R119: a load, store or atomic of any form whose address is no multiple of its size traps MISALIGN with
the address, and accesses nothing. -/
def Obligations.MisalignedTraps : Prop :=
  (∀ p ∈ loadTable, ∀ (s : State) (d a : Reg) (i : BitVec 16) (va : Word) (k1 : Core),
    AddrI (s.core s.cur) a i va k1 → va.toNat % p.2.1 ≠ 0 → Traps (p.1 d a i) s causeMisalign va)
  ∧ (∀ p ∈ storeTable, ∀ (s : State) (a b : Reg) (i : BitVec 16) (va v : Word) (k1 k2 : Core),
    AddrI (s.core s.cur) a i va k1 → Source k1 b v k2 → va.toNat % p.2 ≠ 0 → Traps (p.1 a b i) s causeMisalign va)
  ∧ (∀ p ∈ amoTable, ∀ (s : State) (d a b : Reg) (w : Width) (va v : Word) (k1 k2 : Core),
    Source (s.core s.cur) a va k1 → Source k1 b v k2 → AsksNothing k2 → va.toNat % (amoBits w / 8) ≠ 0 → Traps (p.1 d a b w) s causeMisalign va)
  ∧ (∀ (s : State) (a b : Reg) (i : BitVec 16) (va : Word) (k1 : Core), AddrI (s.core s.cur) a i va k1 → va.toNat % 8 ≠ 0 →
    (∀ d, Traps (.fld d a i) s causeMisalign va) ∧ Traps (.fsd a b i) s causeMisalign va)
  ∧ (∀ (s : State) (d a b : Reg) (va : Word) (k1 : Core), AddrX (s.core s.cur) a b va k1 → va.toNat % 4 ≠ 0 →
    Traps (.flw d a b) s causeMisalign va ∧ Traps (.fsw d a b) s causeMisalign va)
  ∧ (∀ (s : State) (d a b : Reg) (w : Width) (va c v : Word) (k1 k2 k3 : Core),
    Source (s.core s.cur) a va k1 → va.toNat % (amoBits w / 8) ≠ 0 →
      (Source k1 b c k2 → Source k2 d v k3 → AsksNothing k3 → Traps (.amocas d a b w) s causeMisalign va)
      ∧ (AsksNothing k1 → Traps (.amofadd d a b w) s causeMisalign va))
  ∧ (∀ (s : State) (d a b : Reg) (va : Word) (k1 : Core) (long : Bool),
    OneMode (s.core s.cur) long [d] → AddrX (s.core s.cur) a b va k1 →
      (va.toNat % vecBytes long ≠ 0 → Traps (.vld d a b) s causeMisalign va
        ∧ ∀ v k2, VSource k1 long d v k2 → Traps (.vst d a b) s causeMisalign va)
      ∧ ∀ z, va.toNat % bytesOf z ≠ 0 → Traps (.vldbc d a b z) s causeMisalign va)

/-- R283, R105: a scalar load or store at an address of 2^48 or above traps NOTPRESENT with the address; one that the translation the core
finds does not allow (its frame, its permission, its protocol) traps PROT with the address, or NOTPRESENT where its byte lies beyond the
host windows, and by R291 (log 8, the model's choice) that translation leaves the TLBs; nothing is accessed. -/
def Obligations.TranslationTraps : Prop :=
  ∀ (s : State) (a : Reg) (i : BitVec 16) (va : Word) (k1 : Core), AddrI (s.core s.cur) a i va k1 →
    (∀ q v c, k1.pending ≠ .walked q v c) →
    (2 ^ 48 ≤ va.toNat →
      (∀ p ∈ loadTable, ∀ d, va.toNat % p.2.1 = 0 → Traps (p.1 d a i) s causeNotPresent va)
      ∧ ∀ p ∈ storeTable, ∀ b v k2, Source k1 b v k2 → va.toNat % p.2 = 0 → Traps (p.1 a b i) s causeNotPresent va)
    ∧ (va.toNat < 2 ^ 48 → ∀ t u x, s.tlbHit s.cur va.toNat = some (t, u) →
      x = (if s.beyondWindows (dieOf s.cur) (t.pa va.toNat) then causeNotPresent else causeProt) →
      (s.hitOk (s.core s.cur) .read t va.toNat = false →
        ∀ p ∈ loadTable, ∀ d, va.toNat % p.2.1 = 0 → TrapsStale (p.1 d a i) s x va)
      ∧ (s.hitOk (s.core s.cur) .write t va.toNat = false →
        ∀ p ∈ storeTable, ∀ b v k2, Source k1 b v k2 → va.toNat % p.2 = 0 → TrapsStale (p.1 a b i) s x va))

/-- R110, R111: VLD, VST and VLDBC, in private mode with one access and in long mode with four lines. -/
def Obligations.VectorAccess : Prop :=
  ∀ (s : State) (d a b : Reg) (va : Word) (long : Bool) (k1 : Core),
    OneMode (s.core s.cur) long [d] → AddrX (s.core s.cur) a b va k1 →
    (∀ v t k2, va.toNat % vecBytes long = 0 →
      (if long then LoadsLong (s.setCore s.cur k1) va v t else Loads (s.setCore s.cur k1) va 32 v t) →
      VDest (t.core s.cur) long d v k2 → CompletesVec (.vld d a b) s k2)
    ∧ (∀ v k2 t, VSource k1 long d v k2 → va.toNat % vecBytes long = 0 →
      (if long then StoresLong (s.setCore s.cur k2) va v t else Stores (s.setCore s.cur k2) va 32 v t) →
      CompletesVecAt (.vst d a b) s t)
    ∧ (∀ z v r t k2, va.toNat % bytesOf z = 0 → Loads (s.setCore s.cur k1) va (bytesOf z) v t →
      Lanes (8 * bytesOf z) (vecBytes long / bytesOf z) r (fun _ => v) → VDest (t.core s.cur) long d r k2 →
      CompletesVec (.vldbc d a b z) s k2)

/-- R108, R109, R110: SLD, SST, VSLD and VSST with their qualifiers; one whose granules are not as its qualifier asks waits, and
may be stopped for a pre-emption; an offset outside the scratchpad traps SPRANGE, one that is no multiple of the size MISALIGN, and an
access waits for the matrix unit where the two meet (R157). -/
def Obligations.ScratchpadAccess : Prop :=
  (∀ (s : State) (d a : Reg) (q : LoadQ) (i : BitVec 14) (x : Word) (k1 k2 k3 : Core) (v : Nat),
    Source (s.core s.cur) a x k1 → ScratchLoads k1 (x + i.signExtend 64) 8 q v k2 → Dest k2 d (BitVec.ofNat 64 v) k3 →
      Completes (.sld d a q i) s k3)
  ∧ (∀ (s : State) (a b : Reg) (q : StoreQ) (i : BitVec 14) (x v : Word) (k1 k2 k3 : Core),
    Source (s.core s.cur) a x k1 → Source k1 b v k2 → ScratchStores k2 (x + i.signExtend 64) 8 v.toNat q k3 →
      Completes (.sst a b q i) s k3)
  ∧ (∀ (s : State) (d a b : Reg) (q : LoadQ) (long : Bool) (off : Word) (k1 k2 k3 : Core) (v : Nat),
    OneMode (s.core s.cur) long [d] → AddrX (s.core s.cur) a b off k1 → ScratchLoads k1 off (vecBytes long) q v k2 →
      VDest k2 long d v k3 → CompletesVec (.vsld d a b q) s k3)
  ∧ (∀ (s : State) (d a b : Reg) (q : StoreQ) (long : Bool) (off : Word) (k1 k2 k3 : Core) (v : Nat),
    OneMode (s.core s.cur) long [d] → AddrX (s.core s.cur) a b off k1 → VSource k1 long d v k2 →
      ScratchStores k2 off (vecBytes long) v q k3 → CompletesVec (.vsst d a b q) s k3)
  ∧ (∀ (s : State) (d a : Reg) (q : LoadQ) (i : BitVec 14) (x off : Word) (k1 : Core),
    Source (s.core s.cur) a x k1 → off = x + i.signExtend 64 → ScratchStops (.sld d a q i) s k1 off 8 false
      ∧ (InScratch k1 off 8 false → q ≠ .plain → ¬ AllGranules k1 off.toNat 8 true → Stalls (.sld d a q i) s))
  ∧ (∀ (s : State) (a b : Reg) (q : StoreQ) (i : BitVec 14) (x v off : Word) (k1 k2 : Core),
    Source (s.core s.cur) a x k1 → Source k1 b v k2 → off = x + i.signExtend 64 → ScratchStops (.sst a b q i) s k2 off 8 true
      ∧ (InScratch k2 off 8 true → q = .ef → ¬ AllGranules k2 off.toNat 8 false → Stalls (.sst a b q i) s))
  ∧ (∀ (s : State) (d a b : Reg) (q : LoadQ) (long : Bool) (off : Word) (k1 : Core),
    OneMode (s.core s.cur) long [d] → AddrX (s.core s.cur) a b off k1 → ScratchStops (.vsld d a b q) s k1 off (vecBytes long) false
      ∧ (InScratch k1 off (vecBytes long) false → q ≠ .plain → ¬ AllGranules k1 off.toNat (vecBytes long) true →
          Stalls (.vsld d a b q) s))
  ∧ (∀ (s : State) (d a b : Reg) (q : StoreQ) (long : Bool) (off : Word) (v : Nat) (k1 k2 : Core),
    OneMode (s.core s.cur) long [d] → AddrX (s.core s.cur) a b off k1 → VSource k1 long d v k2 →
      ScratchStops (.vsst d a b q) s k2 off (vecBytes long) true
      ∧ (InScratch k2 off (vecBytes long) true → q = .ef → ¬ AllGranules k2 off.toNat (vecBytes long) false →
          Stalls (.vsst d a b q) s))

/-- R112: QLD and QST start their stream with base, stride and count when they pass the checks and the stream is idle, and wait behind one
that is not, where a pre-emption may stop them (R251); a count of 0 starts none; a misaligned base traps MISALIGN and a bad stride or count BADOP. -/
def Obligations.StreamsStart : Prop :=
  ∀ (s : State) (a b e : Reg) (base stride cnt : Word) (k : Core), StreamArgs (s.core s.cur) a b e base stride cnt k →
    (base.toNat % 8 ≠ 0 → Traps (.qld a b e) s causeMisalign base ∧ Traps (.qst a b e) s causeMisalign base)
    ∧ (base.toNat % 8 = 0 → stride.toNat % 8 ≠ 0 → Traps (.qld a b e) s causeBadOp stride ∧ Traps (.qst a b e) s causeBadOp stride)
    ∧ (base.toNat % 8 = 0 → stride.toNat % 8 = 0 → 2 ^ 32 ≤ cnt.toNat →
        Traps (.qld a b e) s causeBadOp cnt ∧ Traps (.qst a b e) s causeBadOp cnt)
    ∧ (base.toNat % 8 = 0 → stride.toNat % 8 = 0 → cnt = 0 → Completes (.qld a b e) s k ∧ Completes (.qst a b e) s k)
    ∧ (base.toNat % 8 = 0 → stride.toNat % 8 = 0 → cnt ≠ 0 → cnt.toNat < 2 ^ 32 →
        (k.lstream = none → Completes (.qld a b e) s { k with lstream := some ⟨base, stride, cnt.toNat⟩ })
        ∧ (k.sstream = none → Completes (.qst a b e) s { k with sstream := some ⟨base, stride, cnt.toNat⟩ })
        ∧ (k.lstream ≠ none → Stalls (.qld a b e) s) ∧ (k.sstream ≠ none → Stalls (.qst a b e) s))

/-- R115, R298: CFLUSH of a line that the core owns is WB of its region: the exclusive copies of the region go home with the event, which
under table 0 writes the line into home storage; of a leased copy it is DROP; where the home takes nothing from the core any more the copy
goes alone (R307, R309), and while the home cannot be reached for another reason CFLUSH waits. PREF changes no x, f or v register, no memory
and no copy. -/
def Obligations.CacheHints : Prop :=
  (∀ (s : State) (a b : Reg) (va : Word) (k1 : Core) (t : TlbEntry) (v : State) (c line : Nat),
    AddrX (s.core s.cur) a b va k1 → Translates (s.setCore s.cur k1) .read va t v → Acked (v.core s.cur) → c = s.cur →
    line = t.pa va.toNat / 64 →
    ((t.pa va.toNat < dramBase ∨ lookupK (v.core c).l1 line = none) → CompletesAt (.cflush a b) s v)
    ∧ ∀ l, dramBase ≤ t.pa va.toNat → lookupK (v.core c).l1 line = some l →
      (v.reaches l.home c = true → l.excl = true → ∀ r who, v.owned c line = some r → r.home = l.home → who = (agentOf v r.home c, c) →
        (∀ q ∈ v.reqs, q.isRack = false) → (∀ m ∈ v.reps, m.code ≠ 2) →
        (v.takes r (line * 64) 2 who = true →
          CompletesAt (.cflush a b) s
            ((v.setCore c ((v.core c).dropIn r)).protoEvent r (line * 64) 2 (some who) none (some ⟨(v.core c).copiesOf r, false⟩)))
        ∧ (v.takes r (line * 64) 2 who = false → Waits (.cflush a b) s)
        ∧ (r.sel = 0 → r.st = 2 → r.home < 4096 → (v.core c).copiesOf r = [(line, l.data, l.wts, l.rts)] →
          BelowLimit v l.home line l.wts → l.rts < 2 ^ 63 →
            ∃ u, CompletesAt (.cflush a b) s u ∧ u.mem = putBytes s.mem (line * 64) 64 l.data.toNat
              ∧ u.core c = (v.core c).dropIn r ∧ OtherCoresSame c s u))
      ∧ (v.reaches l.home c = true → l.excl = false → l.home < 4096 → BelowLimit v l.home line 0 →
        (∀ r, v.region? l.home (line * 64) = some r → r.sel = 0 ∧ r.st < 3) →
          ∃ u, CompletesAt (.cflush a b) s u ∧ u.mem = s.mem ∧ OtherCoresSame c s u
            ∧ u.core c = { v.core c with l1 := removeK (v.core c).l1 line })
      ∧ (v.reaches l.home c = false → v.silenced l.home c = true →
          CompletesAt (.cflush a b) s (v.setCore c { v.core c with l1 := removeK (v.core c).l1 line }))
      ∧ (v.reaches l.home c = false → v.silenced l.home c = false → Waits (.cflush a b) s))
  ∧ ∀ (s : State) (a b : Reg) (va : Word) (k1 : Core), AddrX (s.core s.cur) a b va k1 →
      ∃ u, CompletesAt (.pref a b) s u ∧ u.core s.cur = { k1 with tlb := (u.core s.cur).tlb } ∧ OtherCoresSame s.cur s u
        ∧ u.mem = s.mem ∧ u.regions = s.regions
        ∧ (u.reqs = s.reqs ∨ ∃ q p, u.reqs = s.reqs ++ [q] ∧ q.kind = .rd p ∧ q.core = s.cur)

/-- R120, R121, R122: FENCE completes when nothing of its scope is outstanding (what a fence of a scope waits for: log 48, DEDUCED), with
later accesses after the elements of the store stream (R114), and waits while something is; a pending fault of the store stream is its trap
(R113). FENCEJ completes when no card appended by slot 0 is outstanding, with later accesses after the cards' sequence writes, and WFE when the
wake latch is set, clearing it, or after 4,096 cycles. -/
def Obligations.FencesAndWfe : Prop :=
  ∀ (s : State) (sc : Scope) (k : Core), k = s.core s.cur →
    ((k.sfault = none ∨ k.slot3 ≠ .idle) →
      (s.fenceBusy s.cur sc = false → Completes (.fence sc) s { k with pts := max k.pts k.sts, sts := max k.pts k.sts })
      ∧ (s.fenceBusy s.cur sc = true → ∃ u, exec (.fence sc) s = .next u ∧ (u.core s.cur).hart = k.hart ∧ u.mem = s.mem
          ∧ OtherCoresSame s.cur s u))
    ∧ (∀ x va, k.slot3 = .idle → k.sfault = some (x, va) →
        exec (.fence sc) s = .next ((s.setCore s.cur { k with sfault := none, staken := true }).takeTrap x va))
    ∧ ((∀ j ∈ k.jobs, jobInScope s.cur j.1 sc = false) → Completes (.fencej sc) s (ptsFrom k.jts k))
    ∧ ((∃ j ∈ k.jobs, jobInScope s.cur j.1 sc = true) → Waits (.fencej sc) s)
    ∧ (k.latch = true → Completes .wfe s { k with latch := false })
    ∧ (∀ c, k.latch = false → k.pending = .idle c → c + 4096 ≤ s.cycle → Completes .wfe s { k with latch := false })
    ∧ (∀ c, k.latch = false → k.pending = .idle c → s.cycle < c + 4096 → Waits .wfe s)
    ∧ (k.latch = false → (∀ c, k.pending ≠ .idle c) → exec .wfe s = .next (pendingAs s (.idle s.cycle)))

/-! ## Messages, the handler table and activations -/

/-- R191, R192: SEND, RSEND and SENDV hand one message to the core's interface, with the destination, channel, length, kind and payload that
the instruction names; a SEND to a core that does not exist traps MSG 2, one to a channel that the core may not name BADOP with the
channel, and an RSEND of an activation without a message that can be answered MSG 4. -/
def Obligations.SendsMessageOrTraps : Prop :=
  ((∀ (s : State) (d a : Reg) (ch : BitVec 6) (len : BitVec 4) (v : Word) (dst gen : Nat) (l : List Word) (k1 k2 : Core),
    Source (s.core s.cur) a v k1 → Destination (s.setCore s.cur k1) v dst gen → Payload k1 d len.toNat l k2 → MayName k2 ch →
    NetReady s → CompletesAt (.send d a ch len) s (sent s k2 [messageOf (s.setCore s.cur k2) dst gen ch 0 l]))
  ∧ (∀ (s : State) (d : Reg) (ch : BitVec 6) (len : BitVec 4) (a : Activation) (l : List Word) (k2 : Core),
    (s.core s.cur).slot3 = .idle → (s.core s.cur).act = some a → a.ahdr ≠ 0 → a.ahdr.toNat / 2 ^ 16 % 8 ≠ 4 →
    Payload (s.core s.cur) d len.toNat l k2 → MayName k2 ch → NetReady s →
    CompletesAt (.rsend d ch len) s
      (sent s k2 [messageOf (s.setCore s.cur k2) (a.ahdr.toNat / 2 ^ 22 % 4096) (s.core s.cur).u.hgen ch 3 l]))
  ∧ (∀ (s : State) (d a : Reg) (ch : BitVec 6) (v : Word) (dst gen w : Nat) (k1 k2 : Core),
    Source (s.core s.cur) a v k1 → Destination (s.setCore s.cur k1) v dst gen → OneMode k1 false [d] → VSource k1 false d w k2 →
    MayName k2 ch → NetReady s →
    CompletesAt (.sendv d a ch) s (sent s k2 [messageOf (s.setCore s.cur k2) dst gen ch 1
      [BitVec.ofNat 64 (bitsOf w 0 64), BitVec.ofNat 64 (bitsOf w 64 64), BitVec.ofNat 64 (bitsOf w 128 64),
       BitVec.ofNat 64 (bitsOf w 192 64)]]).flushChain))
  ∧ (∀ (s : State) (d a : Reg) (ch : BitVec 6) (len : BitVec 4) (v : Word) (k1 : Core), Source (s.core s.cur) a v k1 →
    (v.toNat / 2 ^ 32 ≠ 0 → Traps (.send d a ch len) s causeBadOp v)
    ∧ (v.toNat < 4096 → s.logicalCount ≤ v.toNat → Traps (.send d a ch len) s causeMsg 2)
    ∧ (∀ dst gen l k2, Destination (s.setCore s.cur k1) v dst gen → Payload k1 d len.toNat l k2 → ¬ MayName k2 ch →
        Traps (.send d a ch len) s causeBadOp (ch.setWidth 64)))
  ∧ (∀ (s : State) (d : Reg) (ch : BitVec 6) (len : BitVec 4),
    (s.core s.cur).slot3 ≠ .idle ∨ (∃ a, (s.core s.cur).act = some a ∧ a.ahdr = 0) → Traps (.rsend d ch len) s causeMsg 4)

/-- R193, R191: SENDNZ sends one message for each nonzero lane from where its scan stands, in lane order, with the lane's number and value;
with none it sends none; where the interface has fewer places it takes that many, and the scan goes on at the next lane. -/
def Obligations.SendsNonzeroLanes : Prop :=
  ∀ (s : State) (d a : Reg) (ch : BitVec 6) (t : Ty) (long : Bool) (v : Word) (dst gen w : Nat) (k1 k2 : Core) (l : List (Nat × Msg)),
    Source (s.core s.cur) a v k1 → Destination (s.setCore s.cur k1) v dst gen → MayName k1 ch → OneMode k1 long [d] →
    VSource k1 long d w k2 → NetReady s → t.isLane = true →
    l = ((List.range (8 * vecBytes long / tyBits t)).filter fun n =>
          decide ((s.core s.cur).scanFrom ≤ n)
            && if t.isFloat then decide (bitsOf w (tyBits t * n) (tyBits t - 1) ≠ 0) else decide (bitsOf w (tyBits t * n) (tyBits t) ≠ 0)).map
        (fun n => (n, messageOf (s.setCore s.cur k2) dst gen ch 2
          [BitVec.ofNat 64 n, if t.isSigned then BitVec.ofInt 64 (sextNat (bitsOf w (tyBits t * n) (tyBits t)) (tyBits t))
            else BitVec.ofNat 64 (bitsOf w (tyBits t * n) (tyBits t))])) →
    (l.length ≤ s.niRoom s.cur → CompletesAt (.sendnz d a ch t) s (sent s k2 (l.map Prod.snd)).flushChain)
    ∧ ∀ n, l[s.niRoom s.cur]?.map Prod.fst = some n →
        exec (.sendnz d a ch t) s = .next (sent s ((s.core s.cur).setPending (.scan n)) ((l.take (s.niRoom s.cur)).map Prod.snd))

/-- R194: HRET ends the activation of slot 0 and removes its head message, HYIELD ends it and keeps the message; an entry in
REBINDING takes its new binding; from slot 3 both trap MSG 5. -/
def Obligations.ActivationEnds : Prop :=
  ∀ (s : State) (k : Core), k = s.core s.cur →
    (k.slot3 ≠ .idle → Traps .hret s causeMsg 5 ∧ Traps .hyield s causeMsg 5)
    ∧ (∀ a e, k.slot3 = .idle → k.sfault = none → k.act = some a → HasEntry k a.ch e → e.st ≠ .empty →
        (∀ t, t = (s.setCore s.cur (ended k a.ch (rebound (headGone a e)))).endLeading s.cur →
          t.spilledFor s.cur k.sv.ctxid.toNat (t.logical s.cur) = [] →
          exec .hret s = .next ((t.modCore s.cur fun q => withEntry q a.ch
            { rebound (headGone a e) with pend := !(headGone a e).fifo.isEmpty }).tryRetire s.cur))
        ∧ exec .hyield s = .next (((s.setCore s.cur (ended k a.ch (rebound e))).endLeading s.cur).tryRetire s.cur))

/-- R175, R195, R196: HBIND binds a channel as the state of its entry says, the region index being that of x[a] at S and that of the issuing
channel's entry at U; slot 3 has no issuing channel, whatever activation it has interrupted (log 71, DESIGN CHOICE). HUNBIND empties an
entry: its messages in the FIFO, but for that of the running activation, and in the spill queue go to the orphan queue with reason 3 (R182).
HMASK, HUNMASK and HPEND write EN and PEND, and HQUERY reads word 0 of the entry. -/
def Obligations.ChannelBindingAndControl : Prop :=
  (∀ (s : State) (a : Reg) (ch : BitVec 6) (prio : BitVec 4) (c : Word) (k : Core) (e e' : HEntry) (rgn : Nat) (own : Bool),
    Source (s.core s.cur) a c k → prio.toNat < 8 → ch.toNat < 61 → ((48 ≤ ch.toNat ∨ prio = 7) → k.priv ≠ 0) →
    c.toNat % 4 = 0 → (k.priv = 0 → c.toNat < 2 ^ 48) → (k.priv ≠ 0 → c.toNat / 2 ^ 48 % 2 ^ 12 = 0) →
    HasEntry k ch.toNat e → (own = true ↔ k.slot3 = .idle ∧ ∃ q, k.act = some q ∧ q.ch = ch.toNat) →
    (k.priv ≠ 0 → rgn = c.toNat / 2 ^ 60) →
    (k.priv = 0 → k.slot3 = .idle → ∀ q f, k.act = some q → HasEntry k q.ch f → rgn = f.rgn) →
    (k.priv = 0 → k.slot3 = .idle ∧ ∃ q f, k.act = some q ∧ HasEntry k q.ch f) →
    Binds e c (BitVec.ofNat 64 (c.toNat % 2 ^ 48)) prio.toNat rgn own ((s.setCore s.cur k).waits s.cur ch.toNat) e' →
      Completes (.hbind a ch prio) s (withEntry k ch.toNat e'))
  ∧ ∀ (s : State) (ch : BitVec 6) (k : Core) (e : HEntry), k = s.core s.cur → ch.toNat < 61 → (48 ≤ ch.toNat → k.priv ≠ 0) →
    HasEntry k ch.toNat e →
    (e.st ≠ .empty →
      Completes (.hmask ch) s (withEntry k ch.toNat { e with en := false })
      ∧ Completes (.hunmask ch) s (withEntry k ch.toNat { e with en := true })
      ∧ Completes (.hpend ch) s (withEntry k ch.toNat { e with pend := true })
      ∧ ∀ n t z x, n = (if ∃ a, k.act = some a ∧ a.ch = ch.toNat ∧ a.hasMsg = true then 1 else 0) → x = k.sv.ctxid.toNat →
        t = s.setCore s.cur (withEntry k ch.toNat { e with st := .empty, pend := false, fifo := e.fifo.take n }) →
        z = t.orphans s.cur 3 (e.fifo.drop n) →
        (e.fifo.drop n = [] → z = t)
        ∧ (∀ m y q, e.fifo.drop n = [m] → t.ctx? m.ctx = some y → t.qdesc (dieOf s.cur) m.ctx (t.orphQ m.ctx m.dst y).toNat = some q →
            q.full = false → z = t.qput (dieOf s.cur) m.ctx q (recordOf m m.time m.dst 3))
        ∧ (z.spilledFor s.cur x (z.logical s.cur) = [] → CompletesAt (.hunbind ch) s (z.tryRetire s.cur))
        ∧ ∀ r q, z.spilledFor s.cur x (z.logical s.cur) = [r] → (z.core s.cur).sv.ctxid.toNat = x → z.spillQ s.cur x = some q →
          (r.msg.ch = ch.toNat → CompletesAt (.hunbind ch) s
            (((z.consume (dieOf s.cur) x q r.ix).orphan (dieOf s.cur) r.msg r.dst 3).tryRetire s.cur))
          ∧ (r.msg.ch ≠ ch.toNat → CompletesAt (.hunbind ch) s (z.tryRetire s.cur)))
    ∧ (e.st = .empty → Traps (.hmask ch) s causeMsg 1 ∧ Traps (.hunmask ch) s causeMsg 1 ∧ Traps (.hpend ch) s causeMsg 1
        ∧ Traps (.hunbind ch) s causeMsg 1)
    ∧ ∀ d k', Dest k d (s.entryWord s.cur ch.toNat) k' → Completes (.hquery d ch) s k'

/-- R198, R199: WATCH reads its operands, arms an entry at the home of a word with the target cut to the width, and a word that already
holds the target fires at once; an exclusive copy of the line comes home first, no copy of its region is left, and its data are in home
storage (carried out in this step: log 7, DEDUCED); a 65th entry of a home traps MSG 3. The address is read before the target (log 85, DESIGN
CHOICE). -/
def Obligations.WatchArms : Prop :=
  ∀ (s : State) (d a : Reg) (ch : BitVec 6) (w : Width) (va target : Word) (k1 k2 : Core) (t : TlbEntry) (v z : State) (home pa : Nat) (x : Watch),
    Source (s.core s.cur) a va k1 → Source k1 d target k2 → (1 ≤ ch.toNat ∧ ch.toNat ≤ 47 ∨ ch.toNat = 57) →
    va.toNat % (amoBits w / 8) = 0 → Translates (s.setCore s.cur k2) .read va t v → pa = t.pa va.toNat → inDram pa = true →
    home = t.home (dieOf s.cur) pa → home < 4096 → z = v.settle pa → BelowLimit z home (pa / 64) (v.core s.cur).pts →
    x = { home := home, pa := pa, va := va, n := amoBits w / 8, core := s.cur, ch := ch.toNat, gen := k2.u.hgen,
          target := BitVec.ofNat 64 (target.toNat % 2 ^ amoBits w), ctx := k2.sv.ctxid.toNat } →
    ((s.watches.filter fun y => y.home == home).length < 64 →
      z.bytes pa x.n ≠ target.toNat % 2 ^ amoBits w →
        ∃ u, CompletesAt (.watch d a ch w) s u ∧ u.watches = z.watches ++ [x] ∧ u.net = z.net ∧ u.mem = z.mem ∧ u.cores = z.cores)
    ∧ ((s.watches.filter fun y => y.home == home).length < 64 → x ∉ z.watches →
      z.bytes pa x.n = target.toNat % 2 ^ amoBits w →
        ∃ u m, CompletesAt (.watch d a ch w) s u ∧ u.watches = z.watches ∧ u.net = z.net ++ [m] ∧ m.msg.ch = ch.toNat
          ∧ m.msg.kind = 4 ∧ m.msg.info = 1 ∧ m.msg.pay[0] = va ∧ u.mem = z.mem ∧ u.cores = z.cores)
    ∧ (64 ≤ (s.watches.filter fun y => y.home == home).length → Traps (.watch d a ch w) s causeMsg 3)
    ∧ (s.away (pa / 64) = none → z = v)
    ∧ ∀ c l r, v.xHolder (pa / 64) = some (c, l) → v.region? l.home pa = some r → r.owner.filter (v.ownerLost r.home) = none →
      (∀ e y, lookupK (z.core e).l1 (pa / 64) = some y → r.covers y.home (pa / 64 * 64) = false)
      ∧ ((v.cores.flatMap fun p => heldIn p.2 r.home r.base r.size) = [(pa / 64, l)] → v.reqs = [] → l.excl = true →
          (v.lineTs l.home (pa / 64)).1 ≤ l.wts → max l.wts l.rts < 2 ^ 63 → z.mem = putBytes s.mem (pa / 64 * 64) 64 l.data.toNat)

/-! ## Floating point, vectors and long mode -/

/-- R127 to R134: the scalar floating instructions write the rounded result or the comparison's truth and OR their flags into
FFLAGS, with the modes of FCTL as an HMOD replaces them; FSGNJ, FMVXF, FMVFX and FCLASS raise no flag. R133: FMVXF and FMVFX with a
format code above 3 are no instructions. -/
def Obligations.ScalarFloats : Prop :=
  ∀ (s : State) (k : Core) (md : Modes), k = s.core s.cur → md = modesOf k →
    (∀ p ∈ fpBinTable, ∀ d a b t x y, FSource k a x → FSource k b y →
      Completes (p.1 d a b t) s (fWritten (k.orFlags (fpBin p.2 t md x.toNat y.toNat).2) d
        (BitVec.ofNat 64 (fpBin p.2 t md x.toNat y.toNat).1)))
    ∧ (∀ d a t x, FSource k a x →
      Completes (.fsqrt d a t) s (fWritten (k.orFlags (fpSqrt t md x.toNat).2) d (BitVec.ofNat 64 (fpSqrt t md x.toNat).1)))
    ∧ (∀ p ∈ fusedTable, ∀ d a b e x y z, FSource k a x → FSource k b y → FSource k e z →
      Completes (p.1 d a b e) s
        (fWritten (k.orFlags (fpFma p.2.1 md p.2.2.1 p.2.2.2 x.toNat y.toNat z.toNat).2) d
          (BitVec.ofNat 64 (fpFma p.2.1 md p.2.2.1 p.2.2.2 x.toNat y.toNat z.toNat).1)))
    ∧ (∀ p ∈ fpCmpTable, ∀ d a b t x y k', FSource k a x → FSource k b y →
      Dest (k.orFlags (fpCmp p.2 t md x.toNat y.toNat).2) d (truth (fpCmp p.2 t md x.toNat y.toNat).1) k' →
        Completes (p.1 d a b t) s k')
    ∧ (∀ p ∈ signTable, ∀ d a b t x y v, FSource k a x → FSource k b y → v < 2 ^ tyBits t →
      v % 2 ^ (tyBits t - 1) = x.toNat % 2 ^ (tyBits t - 1) →
      v.testBit (tyBits t - 1) = p.2 (x.toNat.testBit (tyBits t - 1)) (y.toNat.testBit (tyBits t - 1)) →
        Completes (p.1 d a b t) s (fWritten k d (BitVec.ofNat 64 v)))
    ∧ (∀ d a t x k', FSource k a x → Dest k d (BitVec.ofNat 64 (fpClass t x.toNat)) k' → Completes (.fclass d a t) s k')
    ∧ (∀ d a src dst x, FSource k a x →
      Completes (.fcvtf d a src dst) s (fWritten (k.orFlags (floatToFloat src dst md x.toNat).2) d
        (BitVec.ofNat 64 (floatToFloat src dst md x.toNat).1)))
    ∧ (∀ d a n t x r k', FSource k a x → r = floatToInt (kindTy n) md.rm ((fmtOf t).operand md x.toNat) →
      Dest (k.orFlags r.2) d (BitVec.ofInt 64 (intVal (kindTy n) r.1)) k' → Completes (.fcvtfi d a n t) s k')
    ∧ (∀ d a n t x r k1, Source k a x k1 → r = intToFloat t md (intVal (kindTy n) x.toNat) →
      Completes (.fcvtif d a n t) s (fWritten (k1.orFlags r.2) d (BitVec.ofNat 64 r.1)))
    ∧ (∀ d a t x k', FSource k a x → Dest k d (BitVec.ofNat 64 (x.toNat % 2 ^ tyBits t)) k' → Completes (.fmvxf d a t) s k')
    ∧ (∀ d a t x k1, Source k a x k1 → Completes (.fmvfx d a t) s (fWritten k1 d x))
    ∧ ∀ w, bitsOf w 26 6 = 0x30 → (bitsOf w 0 6 = 17 ∨ bitsOf w 0 6 = 18) → 3 < bitsOf w 6 5 → decodeNat w = none

/-- R75: rounding a quotient gives the nearest integer with ties to even, the one toward zero, toward plus infinity or toward minus
infinity, and is inexact exactly when the quotient is no integer. R72: a NaN operand of an addition, subtraction, multiplication,
division, square root or fused operation gives the canonical NaN, and a signalling one raises NV. -/
def Obligations.RoundingAndNaN : Prop :=
  (∀ (rm : Nat) (neg : Bool) (num den q : Nat) (inex : Bool), 0 < den → rm < 4 → roundDiv rm neg num den = (q, inex) →
    (inex = true ↔ num % den ≠ 0) ∧ (inex = false → q * den = num)
    ∧ (rm = 0 → 2 * (q * den) ≤ 2 * num + den ∧ 2 * num ≤ 2 * (q * den) + den
        ∧ ((2 * (q * den) = 2 * num + den ∨ 2 * num = 2 * (q * den) + den) → q % 2 = 0))
    ∧ ((rm = 1 ∨ (rm = 2 ∧ neg = true) ∨ (rm = 3 ∧ neg = false)) → q * den ≤ num ∧ num < (q + 1) * den)
    ∧ (((rm = 2 ∧ neg = false) ∨ (rm = 3 ∧ neg = true)) → num ≤ q * den ∧ q * den < num + den))
  ∧ ∀ (t : Ty) (md : Modes) (x y z : Nat),
    (((fmtOf t).operand md x).isNan = true ∨ ((fmtOf t).operand md y).isNan = true →
      ∀ o ∈ [FOp.add, .sub, .mul, .div], (fpBin o t md x y).1 = (fmtOf t).nan)
    ∧ (((fmtOf t).operand md x).isSig = true ∨ ((fmtOf t).operand md y).isSig = true →
      ∀ o ∈ [FOp.add, .sub, .mul, .div, .min, .max], (fpBin o t md x y).2.getLsbD 4 = true)
    ∧ (((fmtOf t).operand md x).isNan = true → (fpSqrt t md x).1 = (fmtOf t).nan)
    ∧ ∀ np ns, ((fmtOf t).operand md x).isNan = true ∨ ((fmtOf t).operand md y).isNan = true
        ∨ ((fmtOf t).operand md z).isNan = true → (fpFma t md np ns x y z).1 = (fmtOf t).nan

/-- R123 to R125, R135, R137, R143 to R145: the lanewise vector instructions compute each lane on its own, in private and in long
mode, and OR the flags of all lanes into FFLAGS. -/
def Obligations.LanewiseResults : Prop :=
  ∀ (s : State) (k : Core) (md : Modes) (long : Bool), k = s.core s.cur → md = modesOf k →
    (∀ p ∈ laneBinTable, ∀ d a b t x y r fl n k1 k2 k3, OneMode k long [d, a, b] → VSource k long a x k1 → VSource k1 long b y k2 →
      n = 8 * vecBytes long / tyBits t → (Lanes (tyBits t) n r fun i => (p.2 t md (at' (tyBits t) x i) (at' (tyBits t) y i)).1) →
      (AllFlags n (fun i => (p.2 t md (at' (tyBits t) x i) (at' (tyBits t) y i)).2) fl) →
      VDest (k2.orFlags fl) long d r k3 → CompletesVec (p.1 d a b t) s k3)
    ∧ (∀ p ∈ laneUnTable, ∀ d a t x r fl n k1 k2, OneMode k long [d, a] → VSource k long a x k1 →
      n = 8 * vecBytes long / tyBits t → (Lanes (tyBits t) n r fun i => (p.2 t md (at' (tyBits t) x i)).1) →
      (AllFlags n (fun i => (p.2 t md (at' (tyBits t) x i)).2) fl) →
      VDest (k1.orFlags fl) long d r k2 → CompletesVec (p.1 d a t) s k2)
    ∧ (∀ p ∈ laneTriTable, ∀ d a b e x y z r fl w n k1 k2 k3 k4, OneMode k long [d, a, b, e] → VSource k long a x k1 →
      VSource k1 long b y k2 → VSource k2 long e z k3 → w = tyBits p.2.1 → n = 8 * vecBytes long / w →
      (Lanes w n r fun i => (p.2.2 md (at' w x i) (at' w y i) (at' w z i)).1) →
      (AllFlags n (fun i => (p.2.2 md (at' w x i) (at' w y i) (at' w z i)).2) fl) →
      VDest (k3.orFlags fl) long d r k4 → CompletesVec (p.1 d a b e) s k4)

/-- R136, R138, R140 to R142, R146: selection, conversion, permutation, broadcast, lane extraction and insertion, moves and random
lanes. -/
def Obligations.LaneMoves : Prop :=
  ∀ (s : State) (k : Core) (long : Bool), k = s.core s.cur →
    (∀ d a b t m x y r w n k1 k2 k3 k4, OneMode k long [d, a, b] → VSource k long d m k1 → VSource k1 long a x k2 →
      VSource k2 long b y k3 → w = tyBits t → n = 8 * vecBytes long / w →
      (Lanes w n r fun i => if at' w m i ≠ 0 then at' w x i else at' w y i) →
      VDest k3 long d r k4 → CompletesVec (.vsel d a b t) s k4)
    ∧ (∀ d a src dst x r fl n k1 k2, OneMode k long [d, a] → VSource k long a x k1 →
      n = 8 * vecBytes long / max (tyBits src) (tyBits dst) →
      (Lanes (tyBits dst) n r fun i => (laneConv src dst (modesOf k) (at' (tyBits src) x i)).1) →
      (AllFlags n (fun i => (laneConv src dst (modesOf k) (at' (tyBits src) x i)).2) fl) →
      VDest (k1.orFlags fl) long d r k2 → CompletesVec (.vcvt d a src dst) s k2)
    ∧ (∀ d a b t x y r w n k1 k2 k3, OneMode k long [d, a, b] → VSource k long a x k1 → VSource k1 long b y k2 →
      w = tyBits t → n = 8 * vecBytes long / w →
      (Lanes w n r fun i => if at' w y i < n then at' w x (at' w y i) else 0) →
      VDest k2 long d r k3 → CompletesVec (.vperm d a b t) s k3)
    ∧ (∀ d a b t x j r w n k1 k2 k3, OneMode k long [d, a] → VSource k long a x k1 → Source k1 b j k2 →
      w = tyBits t → n = 8 * vecBytes long / w →
      (j.toNat < n → (Lanes w n r fun _ => at' w x j.toNat) → VDest k2 long d r k3 → CompletesVec (.vbcl d a b t) s k3)
      ∧ (n ≤ j.toNat → Traps (.vbcl d a b t) s causeBadOp j))
    ∧ (∀ d a b t x j w k1 k2, OneMode k long [a] → VSource k long a x k1 → Source k1 b j k2 → w = tyBits t →
      8 * vecBytes long / w ≤ j.toNat → Traps (.vextx d a b t) s causeBadOp j)
    ∧ (∀ d a b t v j w k1 k2, OneMode k long [d] → Source k a v k1 → Source k1 b j k2 → w = tyBits t →
      8 * vecBytes long / w ≤ j.toNat → Traps (.vinsx d a b t) s causeBadOp j)
    ∧ (∀ d a b t x j w k1 k2 k3, OneMode k long [a] → VSource k long a x k1 → Source k1 b j k2 → w = tyBits t →
      j.toNat < 8 * vecBytes long / w →
      Dest k2 d (if t.isSigned then BitVec.ofInt 64 (sextNat (at' w x j.toNat) w) else BitVec.ofNat 64 (at' w x j.toNat)) k3 →
        CompletesVec (.vextx d a b t) s k3)
    ∧ (∀ d a b t v j x r w n k1 k2 k3 k4, OneMode k long [d] → Source k a v k1 → Source k1 b j k2 → VSource k2 long d x k3 →
      w = tyBits t → n = 8 * vecBytes long / w → j.toNat < n →
      (Lanes w n r fun i => if i = j.toNat then v.toNat % 2 ^ w else at' w x i) →
      VDest k3 long d r k4 → CompletesVec (.vinsx d a b t) s k4)
    ∧ (∀ d a x k1 k2, OneMode k long [d, a] → VSource k long a x k1 → VDest k1 long d x k2 → CompletesVec (.vmov d a) s k2)
    ∧ (∀ d k1, OneMode k long [d] → VDest k long d 0 k1 → CompletesVec (.vzero d) s k1)
    ∧ (∀ d a t x r w k1 k2, OneMode k long [d, a] → VSource k long a x k1 → w = tyBits t →
      (Lanes w (8 * vecBytes long / w) r fun i => ((List.range w).filter fun n => (at' w x i).testBit n).length) →
      VDest k1 long d r k2 → CompletesVec (.vcnt d a t) s k2)
    ∧ (∀ w op d, bitsOf w 26 6 = 0x32 → op = bitsOf w 0 6 → (op = 14 ∨ op = 24) → d = bitsOf w 21 5 → (d = 14 ∨ d = 15) → decodeNat w = none)
    ∧ ∀ d t r c nb w k1, OneMode k long [d] → nb = vecBytes long / 16 → w = tyBits t →
      c = k.u.rngchi.toNat * 2 ^ 64 + k.u.rngclo.toNat →
      (Lanes w (8 * vecBytes long / w) r fun i =>
        if t = .f32 then uniform .f32 (at' w (philoxWords c k.u.rngkey.toNat nb) i / 2 ^ 8) 24
        else uniform .f64 (at' w (philoxWords c k.u.rngkey.toNat nb) i / 2 ^ 11) 53) →
      VDest { k with u := { k.u with rngclo := BitVec.ofNat 64 (c + nb), rngchi := BitVec.ofNat 64 ((c + nb) / 2 ^ 64) } } long d r k1 →
        CompletesVec (.vrand d t) s k1

/-- R85, R139: a reduction combines all lanes by the fixed tree, whose node combines the trees of the two halves; its result goes to
lane 0 and every other lane is zero. -/
def Obligations.ReductionTree : Prop :=
  (∀ p ∈ reduceTable, ∀ (s : State) (k : Core) (long : Bool) d a t x n r k1 k2, k = s.core s.cur → OneMode k long [d, a] →
    VSource k long a x k1 → 2 ^ n = 8 * vecBytes long / tyBits t → r = fixedTree (p.2 t (modesOf k)) (tyBits t) x n 0 →
    VDest (k1.orFlags r.2) long d r.1 k2 → CompletesVec (p.1 d a t) s k2)
  ∧ decodeNat 0xC8220052 = some (.vredsum 1 2 .f32) ∧ ∀ m, hmodTakes (.rm m) 0xC8220052 = true

/-- R46: LVON in private mode clears the eight long registers and enters long mode; in long mode it keeps everything. LVOFF leaves
long mode and clears no register; in private mode the vector instructions read the private registers. HRET and HYIELD leave long mode.
R147: LVQRY reads LVMODE. -/
def Obligations.LongMode : Prop :=
  ∀ (s : State) (k : Core), k = s.core s.cur →
    (k.u.long = false → Completes .lvon s { k with u := { k.u with long := true }, lv := Vector.replicate 8 0 })
    ∧ (k.u.long = true → Completes .lvon s k)
    ∧ Completes .lvoff s { k with u := { k.u with long := false } }
    ∧ (∀ d k', Dest k d (truth k.u.long) k' → Completes (.lvqry d) s k')
    ∧ (k.u.long = false → ∀ d a x, d.toNat < 14 → k.v[a.toNat]? = some x →
        CompletesVec (.vmov d a) s { k with v := k.v.setIfInBounds d.toNat x })
    ∧ ∀ a e, k.slot3 = .idle → k.sfault = none → k.act = some a → HasEntry k a.ch e → e.st ≠ .empty →
      (∃ t, exec .hyield s = .next t ∧ (t.core s.cur).u.long = false)
      ∧ ((∀ t, t = (s.setCore s.cur (ended k a.ch (rebound (headGone a e)))).endLeading s.cur →
          t.spilledFor s.cur k.sv.ctxid.toNat (t.logical s.cur) = []) →
        ∃ t, exec .hret s = .next t ∧ (t.core s.cur).u.long = false)

/-! ## The matrix unit and the bit planes -/

/-- R155, R156, R159 to R167: a matrix instruction whose checks pass enters the free unit with the offsets, shifts and modes it
sampled; while the unit is occupied it waits; the code of the first failed check is the TVAL of BADOP. R161, R166: MZERO and MCOPY, once the
unit has retired them, have changed their tile alone and no flag. -/
def Obligations.MatrixIssues : Prop :=
  ∀ (s : State) (k : Core), k = s.core s.cur →
    (k.mat = none →
      (∀ t fa a b fb x y k1 k2, Source k a x k1 → Source k1 b y k2 → Pairs fa fb → OperandAt x (matBytes fa) 64 →
        OperandAt y (matBytes fb) 64 →
        Completes (.mmulzSp t fa a b fb) s { k2 with mat := some (.mmul true t.toNat fa x.toNat y.toNat fb) }
        ∧ ((k.tile t.toNat).cls = (if fa = .e4m3 then .f8 else .int) →
          Completes (.mmulSp t fa a b fb) s { k2 with mat := some (.mmul false t.toNat fa x.toNat y.toNat fb) })
        ∧ ((k.tile t.toNat).cls ≠ (if fa = .e4m3 then .f8 else .int) → Traps (.mmulSp t fa a b fb) s causeBadOp 2))
      ∧ (∀ t fa a b fb x y k1 k2, Source k a x k1 → Source k1 b y k2 → ¬ Pairs fa fb →
        Traps (.mmulSp t fa a b fb) s causeBadOp 1 ∧ Traps (.mmulzSp t fa a b fb) s causeBadOp 1)
      ∧ (∀ t fa a b fb ta x y k1 k2, Source k a x k1 → Source k1 b y k2 → Pairs fa fb → (k.tile ta.toNat).cls ≠ .f32 →
        y.toNat ≤ 63 → OperandAt x (matBytes fb) 64 →
        Completes (.mmulzAcc t fa a b fb ta) s { k2 with mat := some (.mmulAcc true t.toNat fa ta.toNat y.toNat x.toNat fb) }
        ∧ ((k.tile t.toNat).cls = (if fa = .e4m3 then .f8 else .int) →
          Completes (.mmulAcc t fa a b fb ta) s { k2 with mat := some (.mmulAcc false t.toNat fa ta.toNat y.toNat x.toNat fb) }))
      ∧ (∀ d c, Completes (.mzero d c) s { k with mat := some (.mzero d.toNat c) })
      ∧ (∀ d c, Completes (.mcvt d c) s { k with mat := some (.mcvt d.toNat c) })
      ∧ (∀ d a, Completes (.mcopy d a) s { k with mat := some (.mcopy d.toNat a.toNat) })
      ∧ (∀ d c, s.cur < 1152 → d.toNat < 4 → ∃ t u, exec (.mzero d c) s = .next t ∧ exec (.matrixRetire s.cur) t = .next u
          ∧ ((u.core s.cur).tile d.toNat).cls = c ∧ (∀ j, j < 4096 → ((u.core s.cur).tile d.toNat).at j = 0)
          ∧ (∀ q, q ≠ d.toNat → (u.core s.cur).tile q = k.tile q) ∧ (u.core s.cur).u = k.u)
      ∧ (∀ d a, s.cur < 1152 → d.toNat < 4 → a.toNat < 4 → ∃ t u, exec (.mcopy d a) s = .next t ∧ exec (.matrixRetire s.cur) t = .next u
          ∧ (u.core s.cur).tile d.toNat = k.tile a.toNat ∧ (∀ q, q ≠ d.toNat → (u.core s.cur).tile q = k.tile q) ∧ (u.core s.cur).u = k.u)
      ∧ (∀ d a b t x y k1 k2, Source k a x k1 → Source k1 b y k2 →
        (-64 ≤ y.toInt → y.toInt ≤ 63 → OperandAt x (4096 * (tyBits t / 8)) 64 →
          Completes (.mload d a b t) s { k2 with mat := some (.mload d.toNat x.toNat y.toInt t) }
          ∧ Completes (.mstore d a b t) s { k2 with mat := some (.mstore d.toNat x.toNat y.toInt t (modesOf k).sat) })
        ∧ (y.toInt < -64 ∨ 63 < y.toInt → Traps (.mload d a b t) s causeBadOp 4 ∧ Traps (.mstore d a b t) s causeBadOp 4))
      ∧ (∀ d a b e x y k1 k2, Source k b x k1 → Source k1 e y k2 →
        ((k.tile d.toNat).cls = .f32 → (k.tile a.toNat).cls ≠ .f32 → OperandAt x 64 64 → OperandAt y 64 64 →
          Completes (.mscacc d a b e) s { k2 with
            mat := some (.mscacc d.toNat a.toNat x.toNat y.toNat (modesOf k).rm (modesOf k).ftz (modesOf k).daz) })
        ∧ ((k.tile d.toNat).cls ≠ .f32 ∨ (k.tile a.toNat).cls = .f32 → Traps (.mscacc d a b e) s causeBadOp 5))
      ∧ ∀ d k', Dest k d (mflagsWord k) k' → Completes (.mflags d) s k')
    ∧ (k.mat ≠ none →
      (∀ d c, Waits (.mzero d c) s ∧ Waits (.mcvt d c) s) ∧ (∀ d a, Waits (.mcopy d a) s) ∧ (∀ d, Waits (.mflags d) s)
      ∧ (∀ d a b t, Waits (.mload d a b t) s ∧ Waits (.mstore d a b t) s) ∧ (∀ d a b e, Waits (.mscacc d a b e) s)
      ∧ ∀ t fa a b fb, Waits (.mmulSp t fa a b fb) s ∧ Waits (.mmulzSp t fa a b fb) s
        ∧ ∀ ta, Waits (.mmulAcc t fa a b fb ta) s ∧ Waits (.mmulzAcc t fa a b fb ta) s)

/-- R83, R159: when an MMUL or MMULZ retires, element (i, j) of its tile is the old element, or zero, plus the exact sum of products
of row i of A and column j of B, clamped to 64 signed bits; ACCFLAGS.OVF is set exactly when it was set, an element was clamped or an
E4M3 operand was NaN; nothing else of the core changes. -/
def Obligations.MatrixProduct : Prop :=
  ∀ (k k' : Core) (zero : Bool) (t : Nat) (fa fb : MatFmt) (aOff bOff : Nat) (sum : Nat → Nat → Int), t < 4 →
    k' = matEffect k (.mmul zero t fa aOff bOff fb) →
    (∀ i j, sum i j = (if zero then 0 else ((k.tile t).list.getD (64 * i + j) 0).toInt)
      + ((List.range 64).map fun q => operandElem k aOff fa i q * operandElem k bOff fb j q).sum) →
    (∀ i j, i < 64 → j < 64 → ((k'.tile t).at (64 * i + j)).toInt = clamp64 (sum i j))
    ∧ (k'.tile t).cls = (if zero then (if fa = .e4m3 then .f8 else .int) else (k.tile t).cls)
    ∧ (k'.u.accflags.getLsbD 0 = true ↔ k.u.accflags.getLsbD 0 = true ∨ (∃ i j, i < 64 ∧ j < 64 ∧ clamp64 (sum i j) ≠ sum i j)
        ∨ (matOperand k aOff fa).2 = true ∨ (matOperand k bOff fb).2 = true)
    ∧ (∀ u, u ≠ t → k'.tile u = k.tile u) ∧ k'.sp = k.sp ∧ k'.u.fflags = k.u.fflags ∧ k'.s0 = k.s0 ∧ k'.s3 = k.s3 ∧ k'.v = k.v

/-- R80, R169 to R172: the bit-plane instructions read their whole source before they write; a block of m planes then holds the 64
clamped elements, and the bytes outside the destination are as before. The destination's offset x[d] is read after the sources a and b (log
25, DESIGN CHOICE). -/
def Obligations.BitPlanes : Prop :=
  ∀ (s : State) (k : Core) (m : BitVec 5), k = s.core s.cur → 2 ≤ m.toNat → m.toNat ≤ 8 →
    (∀ d a b x ex y k1 k2 k3 fl, Source k a x k1 → Source k1 b ex k2 → Source k2 d y k3 →
      (255 < ex.toNat → Traps (.bpq d a b m) s causeBadOp 6 ∧ Traps (.bpdq d a b m) s causeBadOp 6)
      ∧ (ex.toNat ≤ 255 → OperandAt x 256 8 → OperandAt y (8 * m.toNat) 8 → k.matBusy x.toNat 256 false = false →
          k.matBusy y.toNat (8 * m.toNat) true = false →
          AllFlags 64 (fun i => (bpqElem m.toNat (modesOf k).rm ex.toNat (spF32 k x.toNat i)).2.2) fl →
          ∃ sp ovf, Completes (.bpq d a b m) s (({ k3 with sp := sp }.orOvf ovf).orFlags fl)
            ∧ (ovf = true ↔ ∃ i, i < 64 ∧ (bpqElem m.toNat (modesOf k).rm ex.toNat (spF32 k x.toNat i)).2.1 = true)
            ∧ (∀ i, i < 64 → planeElem { k3 with sp := sp } y.toNat m.toNat i
                = (bpqElem m.toNat (modesOf k).rm ex.toNat (spF32 k x.toNat i)).1)
            ∧ ∀ q, (q < y.toNat ∨ y.toNat + 8 * m.toNat ≤ q) → cellGet sp q = cellGet k.sp q)
      ∧ (ex.toNat ≤ 255 → OperandAt x (8 * m.toNat) 8 → OperandAt y 256 8 → k.matBusy x.toNat (8 * m.toNat) false = false →
          k.matBusy y.toNat 256 true = false →
          AllFlags 64 (fun i => ((fmtOf .f32).round modesRNE
            (exactInt (planeElem k x.toNat m.toNat i) ((ex.toNat : Int) - 127) false)).2) fl →
          ∃ sp, Completes (.bpdq d a b m) s ({ k3 with sp := sp }.orFlags fl)
            ∧ (∀ i, i < 64 → spF32 { k3 with sp := sp } y.toNat i
                = ((fmtOf .f32).round modesRNE (exactInt (planeElem k x.toNat m.toNat i) ((ex.toNat : Int) - 127) false)).1 % 2 ^ 32)
            ∧ ∀ q, (q < y.toNat ∨ y.toNat + 256 ≤ q) → cellGet sp q = cellGet k.sp q))
    ∧ (∀ d a x y k1 k2, Source k a x k1 → Source k1 d y k2 →
      (OperandAt x 64 8 → OperandAt y (8 * m.toNat) 8 → k.matBusy x.toNat 64 false = false →
          k.matBusy y.toNat (8 * m.toNat) true = false →
          ∃ sp ovf, Completes (.bpack d a m) s ({ k2 with sp := sp }.orOvf ovf)
            ∧ (∀ i, i < 64 → planeElem { k2 with sp := sp } y.toNat m.toNat i
                = max (-(2 ^ (m.toNat - 1))) (min (2 ^ (m.toNat - 1) - 1) (sextNat (k.spRead (x.toNat + i) 1) 8)))
            ∧ (ovf = true ↔ ∃ i, i < 64 ∧
                planeElem { k2 with sp := sp } y.toNat m.toNat i ≠ sextNat (k.spRead (x.toNat + i) 1) 8)
            ∧ ∀ q, (q < y.toNat ∨ y.toNat + 8 * m.toNat ≤ q) → cellGet sp q = cellGet k.sp q)
      ∧ (OperandAt x (8 * m.toNat) 8 → OperandAt y 64 8 → k.matBusy x.toNat (8 * m.toNat) false = false →
          k.matBusy y.toNat 64 true = false →
          ∃ sp, Completes (.bunpack d a m) s { k2 with sp := sp }
            ∧ (∀ i, i < 64 → { k2 with sp := sp }.spRead (y.toNat + i) 1 = wrap 8 (planeElem k x.toNat m.toNat i))
            ∧ ∀ q, (q < y.toNat ∨ y.toNat + 64 ≤ q) → cellGet sp q = cellGet k.sp q))
    ∧ ∀ d a x k1 k2 v, Source k a x k1 → OperandAt x 256 8 → k.matBusy x.toNat 256 false = false →
      (∀ i, i < 64 → bitsOf (spF32 k x.toNat i) 23 8 ≠ 255 → bitsOf (spF32 k x.toNat i) 23 8 ≤ v) →
      (v = 0 ∨ ∃ i, i < 64 ∧ bitsOf (spF32 k x.toNat i) 23 8 = v ∧ v ≠ 255) →
      Dest k1 d (BitVec.ofNat 64 v) k2 → Completes (.bpmaxe d a) s k2

/-! ## Exceptions and the system instructions -/

/-- R317, R318: a trap of slot 0 sets EPC, CAUSE, TVAL and STATUS, writes slot 0's x1 to x29 and f0 to f31 as the trap frame, detaches
the followers and starts slot 3 at TVEC at S; where a frame write faults, the context becomes FAULTED with code 2. A trap of slot 3
at S stops slot 3, and the context becomes FAULTED with code 1 and the cause in bits 15:8. -/
def Obligations.TrapEntry : Prop :=
  ∀ (s : State) (c : Nat) (k : Core) (cause : Nat) (tval : Word), c = s.cur → k = s.core c →
    (k.slot3 = .idle → ∀ u, u = (s.setCore c (entered k .trap k.s0.epc cause tval)).detachJoined c →
      (∀ q t, FrameWritten c k u q t →
        s.takeTrap cause tval = t.setCore c (ptsFrom q (t.core c)) ∧ (t.core c).sv.epc = k.s0.epc ∧ (t.core c).sv.cause = BitVec.ofNat 64 cause
        ∧ (t.core c).sv.tval = tval ∧ (t.core c).priv = 1 ∧ (t.core c).hart.pc = k.sv.tvec ∧ (t.core c).u.long = false
        ∧ (t.core c).mat = none ∧ (t.core c).s0 = { k.s0 with hint := none } ∧ (t.core c).follow = .none)
      ∧ ∀ e, u.vwrites (k.tenv (dieOf c)) false (saveAt k 0x108) k.pts ((k.s0.x.toList.drop 1).take 29) = .error e →
        s.takeTrap cause tval = u.faultCtx k.sv.ctxid.toNat 2 e.1 (u.logical c))
    ∧ (k.slot3 ≠ .idle → k.priv = 1 → ∀ x, s.ctx? k.sv.ctxid.toNat = some x → x.st = .running → CauseAtHome s x →
        ∃ w y, (s.takeTrap cause tval).ctx? k.sv.ctxid.toNat
            = some { x with st := .faulted, fcause := BitVec.ofNat 64 w, lostHw := y }
          ∧ w % 2 ^ 8 = 1 ∧ (cause < 2 ^ 8 → w / 2 ^ 8 % 2 ^ 8 = cause) ∧ ((s.takeTrap cause tval).core c).slot3 = .idle)

/-- R321, R322, R318, R65: ECALL traps from U, is a firmware service from S and answers all ones from M; BRK traps from U and faults
the context from S; ERET goes back to slot 0 at EPC with the registers of the trap frame; WFI waits for its wake; HALT stops the
core; each below its privilege traps PRIV with its word. -/
def Obligations.SystemInstructions : Prop :=
  ∀ (s : State) (c : Nat) (k : Core), c = s.cur → k = s.core c →
    (k.priv = 0 → Traps .ecall s causeEcall 0 ∧ Traps .brk s causeBrk 0)
    ∧ (k.priv = 3 → Completes .ecall s { k with s3 := { k.s3 with x := k.s3.x.set 10 (BitVec.allOnes 64) } } ∧ Completes .brk s k)
    ∧ (k.priv = 1 → Acked k → k.s3.x[10] ≠ 1 →
        Completes .ecall s { k with fwRet := k.s3.pc + 4, s3 := { k.s3 with x := k.s3.x.set 10 (BitVec.allOnes 64) } })
    ∧ (k.priv = 1 → ∀ x, s.ctx? k.sv.ctxid.toNat = some x → x.st = .running → CauseAtHome s x →
        ∃ u w y, exec .brk s = .next u
          ∧ u.ctx? k.sv.ctxid.toNat = some { x with st := .faulted, fcause := BitVec.ofNat 64 w, lostHw := y }
          ∧ w % 2 ^ 8 = 5)
    ∧ (∀ p ∈ privTable, k.priv < p.2 → Traps p.1 s causePriv (BitVec.ofNat 64 ((encode p.1).getD 0)))
    ∧ (k.priv = 1 → (k.sv.status.toNat % 4 ≠ 0 ∨ k.sv.epc.toNat % 4 ≠ 0 ∨ 2 ^ 54 ≤ k.sv.epc.toNat) →
        Traps .eret s causeBadOp k.sv.epc)
    ∧ (k.priv = 1 → k.slot3 = .trap → k.sv.status.toNat % 4 = 0 → k.sv.epc.toNat % 4 = 0 → k.sv.epc.toNat < 2 ^ 54 →
        k.sv.epc ≠ 0 → Acked k → k.act ≠ none → ∀ x f q t, FrameRead c k (s.setCore c k) x f q t →
        ∃ u, exec .eret s = .next u ∧ (u.core c).slot3 = .idle ∧ (u.core c).s0.pc = BitVec.ofNat 64 (k.sv.epc.toNat % 2 ^ 48)
          ∧ (∀ i, i < 29 → (u.core c).s0.x[i + 1]? = x[i]?) ∧ (∀ i, i < 32 → (u.core c).s0.f[i]? = f[i]?)
          ∧ (u.core c).u.long = k.sv.status.getLsbD 4 ∧ (u.core c).sv = k.sv ∧ (u.core c).v = k.v ∧ (u.core c).act = k.act)
    ∧ (k.priv = 3 → exec .eret s = .next (s.setCore c { k with
        sv := { k.sv with status := (k.sv.status &&& ~~~(12 : Word)) ||| 4 }, s3 := { k.s3 with pc := k.fwRet, hint := none },
        pend3 := .none }))
    ∧ (1 ≤ k.priv → k.wake = true → Completes .wfi s { k with wake := false })
    ∧ (1 ≤ k.priv → k.wake = false → Waits .wfi s)
    ∧ (k.priv = 3 → s.quiet c = true → (∀ p ∈ k.l1, p.2.home < 4096) → Completes .halt s { k with halted := true })

/-- R290, R304: TLBINV, its operands checked, drops the translations that it names in every TLB and waits for the accesses that used their
pages and, but for kind ALL, for the owners of their lines; it completes when all are done, with no copy of such a page left. PTLOAD
writes RESULT and installs a table that the checker accepts, once RECALL has brought every region that it governs to state 0; of one that it
refuses RESULT tells the rule. Both trap PRIV at U. -/
def Obligations.TranslationControl : Prop :=
  (∀ (s : State) (a b : Reg) (kind : TlbKind) (va x : Word) (k k1 k2 : Core), k = s.core s.cur →
    (k.priv = 0 → Traps (.tlbinv a b kind) s causePriv (BitVec.ofNat 64 ((encode (.tlbinv a b kind)).getD 0)))
    ∧ (1 ≤ k.priv → Source k a va k1 → Source k1 b x k2 →
      (kind ≠ .all → k.priv = 1 → x.toNat % 2 ^ 16 ≠ k.sv.ctxid.toNat % 2 ^ 16 → Traps (.tlbinv a b kind) s causeBadOp x)
      ∧ ((kind = .all ∨ (x.toNat < 2 ^ 16 ∧ (k.priv = 1 → x.toNat = k.sv.ctxid.toNat % 2 ^ 16))) →
          (kind = .page → va.toNat < 2 ^ 48) → Acked k →
          ((∀ l i, k.pending ≠ .recalling l i) → ∃ u, exec (.tlbinv a b kind) s = .next u
            ∧ (∀ d, (u.core d).tlb = (s.core d).tlb.filter fun t => !tlbinvDrops kind va x t)
            ∧ (∀ d, (lookupK u.ctlb d).getD [] = ((lookupK s.ctlb d).getD []).filter fun t => !tlbinvDrops kind va x t)
            ∧ (u.core s.cur).pending = .recalling (s.pagesWhere (tlbinvDrops kind va x)) [] ∧ (u.core s.cur).hart = k.hart)
          ∧ (∀ l i, k.pending = .recalling l i → (∀ r ∈ l, s.pageDone (decide (kind ≠ .all)) r = true) →
            ∃ u, CompletesAt (.tlbinv a b kind) s u ∧ (∀ d, (u.core d).tlb = ((s.setCore s.cur k2).core d).tlb)
              ∧ (kind ≠ .all → ∀ d, ∀ p ∈ (u.core d).l1, lineIn l p.1 = false))
          ∧ (∀ l i r, k.pending = .recalling l i → r ∈ l → s.rangeBusy r.1 r.2 = true → ∃ u, exec (.tlbinv a b kind) s = .next u
            ∧ (u.core s.cur).hart = k.hart))))
  ∧ ∀ (s : State) (a : Reg) (sel : BitVec 5) (t : Word) (k k1 : Core) (x : Nat), k = s.core s.cur → x = k.sv.ctxid.toNat →
    (k.priv = 0 → Traps (.ptload a sel) s causePriv (BitVec.ofNat 64 ((encode (.ptload a sel)).getD 0)))
    ∧ (1 ≤ k.priv → Source k a t k1 →
      (t.toNat % 64 ≠ 0 → Traps (.ptload a sel) s causeMisalign t)
      ∧ (∀ img s1 s2, t.toNat % 64 = 0 → Acked k → (∀ l i, k.pending ≠ .recalling l i) →
        readAs t.toNat 1088 (s.setCore s.cur k1) = .ok (img, s1) →
        permit k.user .write (t.toNat + 0x408) s1 = .ok ((), s2) →
        (∀ f s3, (tableOf img).flaw (s2.tableFits x sel.toNat) = some f →
          writeAs (t.toNat + 0x408) (BitVec.ofNat 64 (resultWord (some f))) s2 = .ok ((), s3) → CompletesAt (.ptload a sel) s s3)
        ∧ (∀ s3, (tableOf img).flaw (s2.tableFits x sel.toNat) = none → (∀ r ∈ s2.regions, r.governed x sel.toNat = false) →
          writeAs (t.toNat + 0x408) (BitVec.ofNat 64 (resultWord none)) s2 = .ok ((), s3) →
          CompletesAt (.ptload a sel) s
            { s3 with tables := (s3.tables.filter fun q => !(q.1 == x && q.2.1 == sel.toNat)) ++ [(x, sel.toNat, img)] })
        ∧ ((tableOf img).flaw (s2.tableFits x sel.toNat) = none → (∃ r ∈ s2.regions, r.governed x sel.toNat = true) →
          exec (.ptload a sel) s = .next (s.recallGoverned x sel.toNat img)))
      ∧ (∀ l img s3, t.toNat % 64 = 0 → Acked k → k.pending = .recalling l img → (∀ r ∈ s.regions, r.governed x sel.toNat = false) →
        writeAs (t.toNat + 0x408) (BitVec.ofNat 64 (resultWord none)) (s.setCore s.cur k1) = .ok ((), s3) →
        CompletesAt (.ptload a sel) s
          { s3 with tables := (s3.tables.filter fun q => !(q.1 == x && q.2.1 == sel.toNat)) ++ [(x, sel.toNat, img)] }))

/-! ## Jobs, lineage, stash and barriers -/

/-- R218, R215, R216, R236, R237: JAPP and KAPP check the card and the descriptor and hand the card to its die's scheduler; KWAIT and
JWAIT end when the word holds at least x[b] and probe again otherwise; JPOLL reads the word once; JABORT aborts the card; a card
address that is no multiple of 128 traps MISALIGN. -/
def Obligations.JobInstructions : Prop :=
  ∀ (s : State) (a b : Reg) (x y : Word) (k1 : Core), Source (s.core s.cur) a x k1 →
    (x.toNat % 128 ≠ 0 → Traps (.jabort a) s causeMisalign x
      ∧ ∀ k2, Source k1 b y k2 → Traps (.japp a b) s causeMisalign x ∧ Traps (.kapp a b) s causeMisalign x)
    ∧ (∀ k2 bytes w h ctl s1 s2 s3 s4, Source k1 b y k2 → x.toNat % 128 = 0 → y.toNat % 64 = 0 → Acked k2 → k2.drained = true →
      readAs x.toNat 128 (s.setCore s.cur k2) = .ok (bytes, s1) →
      permit (s1.core s1.cur).user .write x.toNat s1 = .ok ((), s2) → w = wordsOf bytes 16 → h = (wordAt w 1).toNat →
      (jobHeaderOk h (wordAt w 2).toNat = false → Traps (.japp a b) s causeJob x)
      ∧ (jobHeaderOk h (wordAt w 2).toNat = true → (checkpointOp h = true → (s1.core s1.cur).slot3 ≠ .idle) →
        openQueue y 1 (bitsOf h 8 4) s2 = .ok (ctl, s3) → permitLink y.toNat s3 = .ok ((), s4) →
        (ctlDie ctl = dieOf s4.cur ∨ s4.bridgeUp = true) →
          CompletesAt (.japp a b) s (s4.appendCard (ctlDie ctl) x.toNat y.toNat ctl false w)))
    ∧ (∀ k2 h r ctl package bytes s1 s2 s3 s4 s5 s6 s7, Source k1 b y k2 → x.toNat % 128 = 0 → y.toNat % 64 = 0 → Acked k2 → k2.drained = true →
      readWordAs (x.toNat + 8) (s.setCore s.cur k2) = .ok (h, s1) →
      permit (s1.core s1.cur).user .write x.toNat s1 = .ok ((), s2) → h % 2 ^ 8 = 0x80 → h / 2 ^ 8 % 2 ^ 48 = 0 →
      openQueue y 0 0 s2 = .ok (ctl, s3) → readWordAs (x.toNat + 0x60) s3 = .ok (r, s4) → readLaunch r s4 = .ok (package, s5) →
      permitLink y.toNat s5 = .ok ((), s6) → ((ctlDie ctl = dieOf s6.cur ∧ package = false) ∨ s6.bridgeUp = true) →
      readAs x.toNat 128 s6 = .ok (bytes, s7) →
        CompletesAt (.kapp a b) s (s7.appendCard (ctlDie ctl) x.toNat y.toNat ctl package (wordsOf bytes 16)))
    ∧ (∀ k2 v t, Source k1 b y k2 → x.toNat % 8 = 0 → Loads (s.setCore s.cur k2) x 8 v t →
      (y.toNat ≤ v → Completes (.jwait a b) s (t.core s.cur) ∧ Completes (.kwait a b) s (t.core s.cur))
      ∧ (v < y.toNat → ∃ u, exec (.jwait a b) s = .next u ∧ exec (.kwait a b) s = .next u
          ∧ (u.core s.cur).hart = (s.core s.cur).hart ∧ u.mem = s.mem))
    ∧ (∀ d v t k2, x.toNat % 8 = 0 → Loads (s.setCore s.cur k1) x 8 v t → Dest (t.core s.cur) d (BitVec.ofNat 64 v) k2 →
      Completes (.jpoll d a) s k2)
    ∧ ∀ pa s1, x.toNat % 128 = 0 → placeAs k1.user .read x.toNat (s.setCore s.cur k1) = .ok (pa, s1) →
      Acked (s1.core s1.cur) → CompletesAt (.jabort a) s (s1.abortCard k1.sv.ctxid.toNat x.toNat)

/-- R337, R339, R341 to R345: LFORK makes a child of a node and freezes the node, LWR sets an element of a node that has no children,
LRD resolves one, LDROP frees or retires, LSTAT reads the descriptor's first word; LINEAGE with the codes of the failed checks. -/
def Obligations.LineageInstructions : Prop :=
  ∀ (s : State) (a : Reg) (x : Word) (k1 : Core), Source (s.core s.cur) a x k1 → Acked k1 →
    (∀ d h p o o1, o = orreryAt s k1 → linOpen (orreryOf s) x.toNat o = .ok ((h, p), o1) →
      o1.s.rewritten k1.sv.ctxid.toNat p.ix = false →
      (p.depth = 7 → Traps (.lfork d a) s causeLineage (linTval 3 x.toNat))
      ∧ (p.depth ≠ 7 → ∀ o2, linAlloc (orreryOf s) h o1 = .ok (none, o2) → Traps (.lfork d a) s causeLineage (linTval 4 x.toNat))
      ∧ (p.depth ≠ 7 → ∀ ix r o2 o3 o4 k2, linAlloc (orreryOf s) h o1 = .ok (some (ix, r), o2) →
        linSet (orreryOf s) { p with ix := ix, st := 1, kids := 0, reuse := r, depth := p.depth + 1, parent := x.toNat, dmap := 0,
                                     nblk := 0, dlen := 0 } o2 = .ok ((), o3) →
        linSet (orreryOf s) { p with kids := p.kids + 1, st := 2 } o3 = .ok ((), o4) → o4.s.cur = s.cur →
        Dest ((o4.s.core s.cur).raisePts o4.p) d (BitVec.ofNat 64 (r * 2 ^ 20 + ix)) k2 →
          CompletesAt (.lfork d a) s (orreryDone s o4 k2)))
    ∧ (∀ h n o o1, o = orreryAt s k1 → linOpen (orreryOf s) x.toNat o = .ok ((h, n), o1) →
      o1.s.rewritten k1.sv.ctxid.toNat n.ix = false → o1.s.cur = s.cur →
      (¬ (n.st = 1 ∧ o1.s.pinned k1.sv.ctxid.toNat n.ix = false) → ∀ o2, linSet (orreryOf s) { n with st := 3 } o1 = .ok ((), o2) →
        o2.s.cur = s.cur → CompletesAt (.ldrop a) s (orreryDone s o2 ((o2.s.core s.cur).raisePts o2.p)))
      ∧ (n.st = 1 ∧ o1.s.pinned k1.sv.ctxid.toNat n.ix = false → ∀ o2 o3, linFree (orreryOf s) n o1 = .ok ((), o2) →
        linRelease (orreryOf s) 8 n.parent o2 = .ok ((), o3) → o3.s.cur = s.cur →
          CompletesAt (.ldrop a) s (orreryDone s o3 ((o3.s.core s.cur).raisePts o3.p))))
    ∧ (∀ b e i v k2 k3 h n o o1, Source k1 b i k2 → Source k2 e v k3 → o = orreryAt s k3 →
      linOpen (orreryOf s) x.toNat o = .ok ((h, n), o1) →
      (n.count ≤ i.toNat → Traps (.lwr a b e) s causeBadOp i)
      ∧ (i.toNat < n.count → valueOk (valBits n.fmt) v = false → Traps (.lwr a b e) s causeBadOp v)
      ∧ (i.toNat < n.count → valueOk (valBits n.fmt) v = true → o1.s.rewritten k1.sv.ctxid.toNat n.ix = false →
        (n.st = 2 → Traps (.lwr a b e) s causeLineage (linTval 2 x.toNat))
        ∧ (n.st ≠ 2 → n.isRoot = false → ∀ l m o2 o3 o4, linMap (orreryOf s) n o1 = .ok (l, o2) →
          linStore (orreryOf s) h n (deltaPut i.toNat (v.toNat % 2 ^ valBits n.fmt) l) o2 = .ok (some m, o3) →
          linSet (orreryOf s) m o3 = .ok ((), o4) → o4.s.cur = s.cur →
            CompletesAt (.lwr a b e) s (orreryDone s o4 ((o4.s.core s.cur).raisePts o4.p)))
        ∧ (n.st ≠ 2 → n.isRoot = true → ∀ o2,
          o1.s.linPage (orreryOf s).e (if isPlanes n.fmt then n.root + i.toNat / 64 * blockBytes n.fmt
            else n.root + i.toNat * (valBits n.fmt / 8)) = true →
          linDensePut (orreryOf s) n i.toNat (v.toNat % 2 ^ valBits n.fmt) o1 = .ok ((), o2) → o2.s.cur = s.cur →
            CompletesAt (.lwr a b e) s (orreryDone s o2 ((o2.s.core s.cur).raisePts o2.p)))))
    ∧ (∀ d b i k2 h n o o1, Source k1 b i k2 → o = orreryAt s k2 → linOpen (orreryOf s) x.toNat o = .ok ((h, n), o1) →
      (n.count ≤ i.toNat → Traps (.lrd d a b) s causeBadOp i)
      ∧ (i.toNat < n.count → ∀ v o2 k3, resolve (orreryOf s) i.toNat 8 n o1 = .ok (v, o2) → o2.s.cur = s.cur →
        Dest ((o2.s.core s.cur).raisePts o2.p) d (valueWord n.fmt v) k3 → CompletesAt (.lrd d a b) s (orreryDone s o2 k3)))
    ∧ (∀ d h o o1, o = orreryAt s k1 → linHeader (orreryOf s) o = .ok (h, o1) → h.ok (orreryOf s).tab = true →
      ∀ r o2 k2, linHandle (orreryOf s) h x.toNat o1 = .ok (r, o2) → o2.s.cur = s.cur →
      Dest ((o2.s.core s.cur).raisePts o2.p) d (match r with
        | some n => BitVec.ofNat 64 n.word0
        | none => 0) k2 → CompletesAt (.lstat d a) s (orreryDone s o2 k2))

/-- R336, R337: setting an element of a delta map changes what the map holds for that element alone, and keeps its form; a node
takes an element from its own map where the map holds it, and from its parent otherwise. -/
def Obligations.DeltaMaps : Prop :=
  (∀ (l : List Delta) (i v : Nat), DeltaMapOk l →
    DeltaMapOk (deltaPut i v l) ∧ ∀ j, deltaFind (deltaPut i v l) j = if j = i then some v else deltaFind l j)
  ∧ ∀ (v : LinEnv) (i f : Nat) (n p : Node) (l : List Delta) (o o1 o2 : Orrery), n.isRoot = false → linMap v n o = .ok (l, o1) →
    (∀ y, deltaFind l i = some y → resolve v i (f + 1) n o = .ok (y, o1))
    ∧ (deltaFind l i = none → linNode v (handleIx n.parent) o1 = .ok (p, o2) → resolve v i (f + 1) n o = resolve v i f p o2)

/-- R357 to R360: STASH and RESTORE hand the operation to the codec of the region's die when the region is usable, and SSTAT reads
the region's status word. -/
def Obligations.StashInstructions : Prop :=
  ∀ (s : State) (a : Reg) (x : Word) (k1 : Core), Source (s.core s.cur) a x k1 →
    (x.toNat % 4096 ≠ 0 → (∀ d, Traps (.sstat d a) s causeMisalign x)
      ∧ ∀ b e y z k2 k3, Source k1 b y k2 → Source k2 e z k3 →
        Traps (.stash a b e) s causeMisalign x ∧ Traps (.restore a b e) s causeMisalign x)
    ∧ (∀ b e y z k2 k3 h die s1 t p s2, Source k1 b y k2 → Source k2 e z k3 → openRegion x (s.setCore s.cur k3) = .ok ((h, die), s1) →
      s1.regionFlaw ((s1.core s1.cur).tenv (dieOf s1.cur)) (s1.core s1.cur).user die x.toNat h.len (h.len / 4096 + 2) = none →
      (y.toNat % 64 ≠ 0 → Traps (.stash a b e) s causeMisalign y ∧ Traps (.restore a b e) s causeMisalign y)
      ∧ (y.toNat % 64 = 0 → z.toNat % 16 ≠ 0 → Traps (.stash a b e) s causeMisalign z ∧ Traps (.restore a b e) s causeMisalign z)
      ∧ (y.toNat % 64 = 0 → z.toNat % 16 = 0 →
        s1.walkTouch ((s1.core s1.cur).tenv (dieOf s1.cur)) (s1.core s1.cur).user .write .none z.toNat = .ok (t, p, s2) →
        Acked (s1.core s1.cur) → (s1.core s1.cur).drained = true → s1.codecFull die = false →
          CompletesAt (.stash a b e) s (s2.appendOp die (opCard s2 die 0x100 x y z h) h)
          ∧ CompletesAt (.restore a b e) s (s2.appendOp die (opCard s2 die 0x101 x y z h) h)))
    ∧ ∀ d h die s1 k2, openRegion x (s.setCore s.cur k1) = .ok ((h, die), s1) → Dest (s1.core s1.cur) d (BitVec.ofNat 64 h.stat) k2 →
      CompletesAt (.sstat d a) s (s1.setCore s1.cur k2)

/-- R256, R263 to R267: BARR fences and sends its arrival, then delivers the pennant that the home answers; BWAIT and BARW complete
when their wait is released; BINIT writes a fresh object. BARR, BARW and BINIT of an object in the core map or the corrected-error log trap
PROT below M (R239, R382). -/
def Obligations.BarrierInstructions : Prop :=
  ∀ (s : State) (a : Reg) (va : Word) (k1 : Core), Source (s.core s.cur) a va k1 →
    (va.toNat % 64 ≠ 0 → k1.pending = .none → k1.hart.hint = none → Traps (.barw a) s causeMisalign va
      ∧ ∀ d, Traps (.barr d a) s causeMisalign va)
    ∧ (∀ d v k2, k1.pending = .got v → Dest k1 d v k2 → Completes (.barr d a) s k2)
    ∧ (∀ d c v, k1.pending = .bad c v → Traps (.barr d a) s c v)
    ∧ (∀ d, k1.pending = .sent → Waits (.barr d a) s)
    ∧ (∀ home pa w, BarrierAt (s.setCore s.cur k1) va home pa w → w.guarded pa 64 = true → k1.priv ≠ 3 →
      k1.pending = .none → k1.hart.hint = none → Traps (.barw a) s causeProt va ∧ ∀ d, Traps (.barr d a) s causeProt va)
    ∧ (∀ home pa w, k1.pending = .none → k1.hart.hint = none → BarrierAt (s.setCore s.cur k1) va home pa w → k1.sfault = none →
      w.guarded pa 64 = false →
      w.fenceBusy s.cur (scopeAt ((w.settle pa).barObj pa).scope) = false →
      ∀ u q, q = s.core s.cur →
        u = { (s.setCore s.cur ({ q with pts := max q.pts q.sts, sts := max q.pts q.sts }.setPending .sent)) with
          bars := s.bars ++ [.arrival home pa va s.cur q.sv.ctxid.toNat (max q.pts q.sts)] } →
        exec (.barw a) s = .next u ∧ ∀ d, (d = 31 → k1.qs.length < 16) → exec (.barr d a) s = .next u)
    ∧ (∀ b v k2, Source k1 b v k2 →
      (k2.pending = .released → Completes (.bwait a b) s k2)
      ∧ (∀ home pa w, k2.pending = .none → BarrierAt (s.setCore s.cur k2) va home pa w →
        (1 < v.toNat → Traps (.bwait a b) s causeBadOp v)
        ∧ (v.toNat ≤ 1 → exec (.bwait a b) s = .next { (pendingAs s (.waitOnly (v == 1) false)) with
            bars := s.bars ++ [.wait home pa (v == 1) (.core s.cur) (s.core s.cur).sv.ctxid.toNat] })))
    ∧ (k1.pending = .released → Completes (.barw a) s k1)
    ∧ (∀ v home pa w, k1.pending = .got v → BarrierAt (s.setCore s.cur k1) va home pa w →
      exec (.barw a) s = .next { (pendingAs s (.waitOnly (v != 0) true)) with
        bars := s.bars ++ [.wait home pa (v != 0) (.core s.cur) (s.core s.cur).sv.ctxid.toNat] })
    ∧ ∀ b e c par k2 k3 home pa w r, Source k1 b c k2 → Source k2 e par k3 → BarrierAt (s.setCore s.cur k3) va home pa w →
      (w.guarded pa 64 = true → k1.priv ≠ 3 → Traps (.binit a b e) s causeProt va)
      ∧ (w.guarded pa 64 = false → countOk c = false → Traps (.binit a b e) s causeBadOp c)
      ∧ (w.guarded pa 64 = false → countOk c = true → (par.toNat % 64 ≠ 0 ∨ 2 ^ 48 ≤ par.toNat ∨ par = va) → Traps (.binit a b e) s causeBadOp par)
      ∧ (w.guarded pa 64 = false → countOk c = true → par.toNat % 64 = 0 → par.toNat < 2 ^ 48 → par ≠ va → Acked k3 →
        (homeDie w home = dieOf s.cur ∨ s.bridgeUp = true) →
        r = w.binitAt home pa k3.pts k3.sv.ctxid.toNat (slice c 63 32) (slice c 31 8) (slice c 6 4) par.toNat →
        r.2.cur = s.cur → CompletesAt (.binit a b e) s (r.2.setCore s.cur (ptsFrom r.1 (r.2.core s.cur))))

/-- R149: SYSWR of STAGEDN, when every earlier push has arrived, sets the register, and WINDOW to 0 with V clear; with V set it asks the new
downstream core for its free entries (4 less its vqi where its STAGEUP names this core, else 0), and completes when the answer has come.
SYSWR of STAGEUP revokes the credit of an old upstream core first; then, with an empty vqi, it sets the register and gives the new upstream
core, if it names this one, a credit of 4; with entries in vqi it waits. A value that R148 refuses traps BADOP. -/
def Obligations.StageRegisters : Prop :=
  ∀ (s : State) (a : Reg) (v : Word) (k : Core), Source (s.core s.cur) a v k →
    (s.stageOk s.cur v = false → Traps (.syswr a 0x030) s causeBadOp v ∧ Traps (.syswr a 0x031) s causeBadOp v)
    ∧ (s.stageOk s.cur v = true → k.pending = .none → (∀ p ∈ s.pushes, p.src ≠ s.cur) →
      (v = 0 → Completes (.syswr a 0x031) s { k with u := { k.u with stagedn := v, window := 0 } })
      ∧ ∀ dn q, v.getLsbD 63 = true → s.physical (v.toNat % 4096) = some dn → q = s.core s.cur →
        exec (.syswr a 0x031) s = .next { (s.setCore s.cur ({ q with u := { q.u with stagedn := v, window := 0 } }.setPending .staging)) with
          credits := s.credits ++ [{ src := dn, dst := s.cur, amount := s.freeEntries s.cur dn, kind := .answer }] })
    ∧ (s.stageOk s.cur v = true → k.pending = .released → Completes (.syswr a 0x031) s k)
    ∧ (∀ c dn, (s.core dn).saved = [] → s.freeEntries c dn =
        if (s.core dn).u.stageup.getLsbD 63 = true ∧ s.physical ((s.core dn).u.stageup.toNat % 4096) = some c ∧ (s.core dn).revoked = false
        then 4 - (s.core dn).vqi.length else 0)
    ∧ (s.stageOk s.cur v = true → (k.u.stageup.getLsbD 63 = false ∨ k.revoked = true) → k.pending ≠ .staging →
      (k.vqi ≠ [] → Stalls (.syswr a 0x030) s)
      ∧ (k.vqi = [] →
        ∃ u, CompletesAt (.syswr a 0x030) s u ∧ u.core s.cur = { k with u := { k.u with stageup := v }, revoked := false }
          ∧ OtherCoresSame s.cur s u ∧ (v = 0 → u.credits = s.credits)
          ∧ ∀ up, v.getLsbD 63 = true → s.physical (v.toNat % 4096) = some up → (s.core up).saved = [] →
            u.credits = if (s.core up).u.stagedn.getLsbD 63 = true ∧ s.physical ((s.core up).u.stagedn.toNat % 4096) = some s.cur
              then s.credits ++ [{ src := s.cur, dst := up, amount := 4, kind := .grant }] else s.credits))
    ∧ ∀ up, s.stageOk s.cur v = true → k.u.stageup.getLsbD 63 = true → s.physical (k.u.stageup.toNat % 4096) = some up →
      k.revoked = false → k.pending = .none →
      exec (.syswr a 0x030) s = .next { (s.setCore s.cur { (s.core s.cur).setPending .staging with revoked := true }) with
        credits := s.credits ++ [{ src := s.cur, dst := up, amount := 0, kind := .revoke }] }

/-! ## Events of a core, its chain, its messages and servers -/

/-- R96, R100, R112, R113, R122, R155, R258, R262, R286: FOLLOW joins or times out, REALIGN joins or times out, WFE ends, a stream
fetches or writes one element, the matrix unit retires, a walk serves its request, and the barrier unit handles arrivals, releases
and waits. -/
def Obligations.CoreEvents : Prop :=
  ∀ (s : State) (c : Nat) (k : Core), k = s.core c → c < 1152 →
    (∀ l t old, k.follow = .waiting l t old → k.runsUser = true → (s.core l).runsUser = true → (s.core l).s0.inHint = false →
      (s.core l).s0.pc = k.s0.pc → s.cycle < t + 1024 →
        Happens (.followJoin c) s (s.setCore c { k with follow := .joined l (s.core l).issued }))
    ∧ (∀ l t, k.follow = .waiting l t none → t + 1024 ≤ s.cycle → Happens (.followTimeout c) s (s.setCore c { k with follow := .none }))
    ∧ (∀ l t o, k.follow = .waiting l t (some o) → t + 1024 ≤ s.cycle →
        Happens (.followTimeout c) s (s.setCore c { k with follow := .diverged o }))
    ∧ (∀ l a n j t a' n' j' t', k.follow.left = some l → Holds k a n j t → Holds (s.core l) a' n' j' t' →
      (s.core l).s0.pc = k.s0.pc → Happens (.realignJoin c) s (s.setCore c { k with
        pend := .none, s0 := { k.s0 with hint := some ⟨a, .met, j⟩ }, follow := .joined l (s.core l).issued }))
    ∧ (∀ a n j t, Holds k a n j t → t + 2 ^ n ≤ s.cycle → Happens (.realignTimeout c) s (s.setCore c { k with
        pend := .none, s0 := { k.s0 with hint := some ⟨a, .met, j⟩ } }))
    ∧ (∀ t, k.slot3 = .idle → k.pend = .idle t →
      (k.latch = true → ∃ u, Happens (.wfeWake c) s u ∧ (u.core c).latch = false ∧ (u.core c).s0 = k.s0.advance
        ∧ (u.core c).pend = .none ∧ u.mem = s.mem ∧ u.cur = s.cur ∧ OtherCoresSame c s u)
      ∧ (t + 4096 ≤ s.cycle → ∃ u, Happens (.wfeTimeout c) s u ∧ (u.core c).latch = false ∧ (u.core c).s0 = k.s0.advance
        ∧ (u.core c).pend = .none ∧ u.mem = s.mem ∧ u.cur = s.cur ∧ OtherCoresSame c s u))
    ∧ (∀ t, k.lstream = some t → k.inSave = false → k.qi.length < 16 → (∀ e ∈ k.qi, ∃ w, e = QEntry.data w) →
      (∀ v tau s1, s.vread (k.tenv (dieOf c)) true .none t.base.toNat 8 k.pts = .ok (v, tau, s1) →
        Happens (.loadStreamFetch c) s (s1.setCore c (({ s1.core c with
          qi := (s1.core c).qi ++ [QEntry.data (BitVec.ofNat 64 v)], lstream := streamAfter t }.raisePts tau).event)))
      ∧ ∀ x, s.vread (k.tenv (dieOf c)) true .none t.base.toNat 8 k.pts = .error x →
        Happens (.loadStreamFetch c) s (s.setCore c { k with qi := k.qi ++ [QEntry.fault x t.base false] }.event))
    ∧ (∀ t w rest, k.sstream = some t → k.qs = w :: rest → k.sfault = none → k.inSave = false → (k.staken = false ∨ k.slot3 = .idle) →
      s.streamHeld c t.base.toNat = false →
      (∀ tau s1, s.vwrite (k.tenv (dieOf c)) true .none t.base.toNat 8 w.toNat k.sts = .ok (tau, s1) →
        Happens (.storeStreamWrite c) s ((s1.setCore c { s1.core c with
          qs := rest, sstream := streamAfter t, staken := false, sts := tau, pts := max (s1.core c).pts tau }).raiseLaunches k.sv.ctxid.toNat tau))
      ∧ ∀ x, s.vwrite (k.tenv (dieOf c)) true .none t.base.toNat 8 w.toNat k.sts = .error x →
        Happens (.storeStreamWrite c) s (s.setCore c { k with sfault := some (x, t.base), staken := false }))
    ∧ (∀ op, k.mat = some op → Happens (.matrixRetire c) s (s.setCore c { matEffect k op with mat := none }))
    ∧ (∀ b r u e, s.walks.find? (fun q => q.bay == b) = some r → (s.walks.filter fun q => r.same q) = [r] → r.core = c →
      k.sv.ctxid.toNat = r.ctx → u = { s with walks := s.walks.filter fun q => !r.same q } → e = k.tenv (dieOf c) →
      (u.walkFrom b e r.va = none → ∀ q, q = u.readEntries e.die e.ctx 0 (u.readsFrom b e r.va) →
        Happens (.pageWalk b) s (q.2.setCore c ((q.2.core c).walkFailed r causeNotPresent)))
      ∧ ∀ f u1 h, u.walkFrom b e r.va = some f → u1 = u.keepPtrs b e.ctx r.va f.ptrs →
        h = (if u.readsHome f r then [homeEntryAt e.hometab f.word] else []) →
        (∀ x q, u.checkLeaf e r.user r.acc .none r.va f = .error x → q = u1.readEntries e.die e.ctx 0 (f.reads ++ h) →
          Happens (.pageWalk b) s (q.2.setCore c ((q.2.core c).walkFailed r x)))
        ∧ ∀ t w q z, u.checkLeaf e r.user r.acc .none r.va f = .ok t → w = leafTouched r.acc f.word →
          q = u1.readEntries e.die e.ctx 0 (f.reads ++ h) →
          z = q.2.touchLeaf e f w q.1 →
            Happens (.pageWalk b) s ((z.2.setCore c (ptsFrom z.1 ((z.2.core c).takeEntry { t with leaf := w }))).clusterTake c { t with leaf := w }))
    ∧ (∀ n home obj va x p r u, InFlight s.bars n (.arrival home obj va c x p) r → s.bridgeUp = true → u = { s with bars := r } →
      (∀ b ∈ s.bars.take n, sameWay (b.way s) (wayOf (dieOf c) (homeDie s home)) = false) →
      ∀ ts v o, u.homeRead home obj p none (some x) = (ts, v) → o = v.barObj obj →
        (o.live = false → Happens (.barrierArrival n) s (v.tellCore c ts (.bad causeBadOp va)))
        ∧ (o.live = true → o.pnd = false → o.arr + 1 < o.exp → ∀ q w, v.putBar home obj ts x { o with arr := o.arr + 1 } = (q, w) →
            Happens (.barrierArrival n) s (w.tellCore c q (.got (truth o.pen))))
        ∧ (o.live = true → o.pnd = false → o.exp ≤ o.arr + 1 → o.parent = 0 →
            Happens (.barrierArrival n) s ((v.release home obj ts x { o with arr := 0 }).tellCore c ts (.got (truth o.pen)))))
    ∧ (∀ n home obj va w cix x p r, InFlight s.bars n (.child home obj va w cix x p) r → s.bridgeUp = true →
      (∀ b ∈ s.bars.take n, sameWay (b.way s) (wayOf (w.die s) (homeDie s home)) = false) →
      ∀ e, { s with bars := r }.arriveAt home obj va.toNat x p = e →
        Happens (.childArrival n) s { e.state with bars := e.state.bars ++ [.wait home obj e.seen w x] })
    ∧ (∀ n m obj r, InFlight s.net n m r → m.child = some obj → s.physical m.msg.dst = some c → s.inOrder n m = true →
      s.canTravel m c = true →
      (({ s with net := r }.barObj obj).pending = false → Happens (.barrierRelease n) s { s with net := r })
      ∧ (∀ o, o = { s with net := r }.barObj obj → o.pending = true → o.arr < o.exp →
          Happens (.barrierRelease n) s ({ s with net := r }.release m.msg.dst obj m.msg.pts m.msg.ctx o)))
    ∧ (∀ n home obj seen x r, InFlight s.bars n (.wait home obj seen (.core c) x) r → s.bridgeUp = true →
      (∀ b ∈ s.bars.take n, sameWay (b.way s) (wayOf (dieOf c) (homeDie s home)) = false) →
      ∀ ts v, { s with bars := r }.homeRead home obj 0 none (some x) = (ts, v) →
        ((v.barObj obj).pen ≠ seen → (∃ a b, (v.core c).pending = .waitOnly a b) →
          Happens (.barrierWait n) s (v.tellCore c ts .released))
        ∧ ((v.barObj obj).pen = seen → (v.barWaits.filter fun e => e.home == home).length < 64 →
          Happens (.barrierWait n) s { v with
            barWaits := v.barWaits ++ [{ home := home, obj := obj, seen := seen, waiter := .core c, ctx := x }] }))
    ∧ ∀ n home obj seen w x t r, InFlight s.bars n (.retry home obj seen w x t) r → t + 64 ≤ s.cycle →
      Happens (.barrierWaitRetry n) s { s with bars := r ++ [.wait home obj seen w x] }

/-- R107, R117, R149, R150, R179, R180, R184 to R189, R319: acknowledgements, pushes and credits of a chain (a revocation clears WINDOW
and is acknowledged behind the earlier pushes, in one step: log 26, DEDUCED), delivery of a message, the start of an activation with the registers of R49, the system channel, the remote-operation server and the reduction server. -/
def Obligations.MessageEvents : Prop :=
  ∀ (s : State) (c : Nat) (k : Core), k = s.core c → c < 1152 →
    (∀ n a r, InFlight s.acks n a r → a.core = c → s.reaches a.home c = true →
      (∀ q ∈ s.acks.take n, sameWay (s.wayFrom q.home q.core) (s.wayFrom a.home c) = false) →
      (a.store = true → k.stq = [] → Happens (.remoteStoreAck n) s
        (({ s with acks := r }.setCore c { k with pts := max k.pts a.tau, unacked := k.unacked - 1 }).raiseLaunches a.ctx a.tau))
      ∧ (a.store = false → k.pend3 ≠ .sent → k.pend = .sent → Happens (.remoteStoreAck n) s ({ s with acks := r }.setCore c
          { ((ptsFrom a.tau k).orFlags (BitVec.ofNat 5 a.flags)) with pend := .got a.old })))
    ∧ (∀ n p r, InFlight s.pushes n p r → p.dst = c → (∀ q ∈ s.pushes.take n, ¬ (q.src = p.src ∧ q.dst = c)) →
      k.u.stageup.getLsbD 63 = true → s.physical (k.u.stageup.toNat % 4096) = some p.src →
        Happens (.vqoPushArrival n) s ({ s with pushes := r }.setCore c ({ k with vqi := k.vqi ++ [p.val] }.event)))
    ∧ (∀ n q r, InFlight s.credits n q r → q.dst = c → (∀ o ∈ s.credits.take n, ¬ (o.src = q.src ∧ o.dst = c)) →
      k.u.stagedn.getLsbD 63 = true → s.physical (k.u.stagedn.toNat % 4096) = some q.src →
      (q.kind = .add → Happens (.stageCreditArrival n) s ({ s with credits := r }.setCore c
        { k with u := { k.u with window := k.u.window + q.amount } }))
      ∧ (q.kind = .grant → Happens (.stageCreditArrival n) s ({ s with credits := r }.setCore c
        { k with u := { k.u with window := q.amount } }))
      ∧ (q.kind = .answer → k.pend3 ≠ .staging → Happens (.stageCreditArrival n) s
        ({ s with credits := r }.setCore c { k with u := { k.u with window := q.amount },
                                                    pend := if k.pend = Pend.staging then .released else k.pend }))
      ∧ (q.kind = .revoke → q.src ≠ c → (∀ o ∈ s.pushes, ¬ (o.src = c ∧ o.dst = q.src)) →
        (s.core q.src).pend3 ≠ .staging → (s.core q.src).pend = .staging →
        Happens (.stageCreditRevoke n) s (({ s with credits := r }.setCore c { k with u := { k.u with window := 0 } }).setCore q.src
          { s.core q.src with pend := .released })))
    ∧ (∀ n m r, InFlight s.net n m r → m.child = none → s.inOrder n m = true → s.canTravel m c = true → k.arrived ≠ some s.time →
      s.ckHolds m.msg.ctx = false → s.physical m.msg.dst = some c → s.heldFor m.msg.dst = false → k.owned = true →
      k.sv.ctxid.toNat = m.msg.ctx → k.preempted m.msg.ctx = false → k.tagOk m.msg.ctx m.msg.ch m.msg.gen = true →
      ((k.entry m.msg.ch).st ≠ .empty ∨ m.msg.ch = 62 ∨ m.msg.ch = 63) → (k.entry m.msg.ch).fifo.length < 4 →
      (∀ u q, q = ptsFrom m.msg.pts { k with arrived := some s.time } → u = { s with net := r }.setCore c q →
        ((u.spilledFor c m.msg.ctx m.msg.dst).any fun x => x.msg.ch == m.msg.ch) = false →
        Happens (.messageDelivery n) s (u.setCore c (q.enqueue { m.msg with time := s.time }))))
    ∧ (∀ n m r, InFlight s.held n m r → (∀ o ∈ s.held.take n, o.msg.dst ≠ m.msg.dst) → s.ckHolds m.msg.ctx = false →
      s.physical m.msg.dst = some c → k.owned = true → k.sv.ctxid.toNat = m.msg.ctx → k.preempted m.msg.ctx = false →
      k.tagOk m.msg.ctx m.msg.ch m.msg.gen = true →
      ((k.entry m.msg.ch).st ≠ .empty ∨ m.msg.ch = 62 ∨ m.msg.ch = 63) → (k.entry m.msg.ch).fifo.length < 4 →
      (∀ u, u = { s with held := r }.setCore c (ptsFrom m.msg.pts k) →
        ((u.spilledFor c m.msg.ctx m.msg.dst).any fun x => x.msg.ch == m.msg.ch) = false →
        Happens (.spillHoldRelease n) s (u.setCore c ((ptsFrom m.msg.pts k).enqueue m.msg))))
    ∧ (∀ ch p, k.canActivate = true → k.selected = some (ch, p) →
      (ch < 60 ∧ (k.entry ch).runnable = true ∧ (k.entry ch).prio = p
        ∧ ∀ o, o < 60 → (k.entry o).runnable = true → (k.entry o).prio ≤ p)
      ∧ ∃ q, Happens (.activationStart c) s (s.setCore c q) ∧ q.s0.pc = (k.entry ch).code ∧ q.s0.f = Vector.replicate 32 0
        ∧ q.v = Vector.replicate 14 0 ∧ q.u.long = false ∧ q.s0.x[2] = (k.rgns[(k.entry ch).rgn]?.getD ⟨0, 0⟩).base
        ∧ (∃ a, q.act = some a ∧ a.ch = ch)
        ∧ (∀ m l, (k.entry ch).fifo = m :: l → q.s0.x[9] = m.header ∧ q.s0.x[10] = m.pay[0] ∧ q.s0.x[11] = m.pay[1]
            ∧ q.s0.x[12] = m.pay[2] ∧ q.s0.x[13] = m.pay[3])
        ∧ (∀ i, i < 32 → i ≠ 2 → (i < 9 ∨ 13 < i) → q.s0.x[i]? = some 0))
    ∧ (∀ m l u q t, k.canEnter = true → (k.entry 60).fifo = m :: l → (k.entry 60).st = .bound → (k.entry 60).en = true → k.owned = true →
      s.runs k.sv.ctxid.toNat = true →
      u = (((s.cancelWaits c).setCore c (entered k .system (if k.act.isSome then k.s0.epc else 0) 0 m.header)).detachJoined c) →
      FrameWritten c k u q t → Happens (.systemChannelEntry c) s (t.setCore c ((ptsFrom q (t.core c)).withMessage m)))
    ∧ (∀ m q st v p s1 s2 u, s.nextAt c = .msg m → q = reqOfMsg m → s.serveReq c m q = some (st, v, p, s1) →
      s2 = s1.setCore c (ptsFrom p (s1.core c)) → u = (s2.replyTo c m q st v (s2.core c).pts).dropHead c 62 0 →
      (q.op = 0 → Happens (.remoteLoad c) s u) ∧ (q.op = 1 → Happens (.remoteStore c) s u)
      ∧ (q.op = 2 → Happens (.remoteCopy c) s u) ∧ (q.op = 3 → Happens (.remoteAtomic c) s u))
    ∧ (∀ m q, q = reqOfMsg m → reqBad m q = false → q.sp = true → q.m1.toNat + q.n ≤ 262144 → q.m1.toNat % q.n = 0 →
      (q.op = 0 → q.qual = 0 → s.serveReq c m q = some (0, k.spRead q.m1.toNat q.n, k.pts, s))
      ∧ (q.op = 1 → q.qual = 0 → s.serveReq c m q = some (0, 0, k.pts, s.setCore c (k.spWrite q.m1.toNat q.n (q.m2.toNat % 2 ^ (8 * q.n))))))
    ∧ ∀ ix m, k.nextPartial = some ix → (k.entry 63).fifo[ix]? = some m → k.inSave = false → partialBad k m = false →
      ∀ red, red = k.placePartial m →
        (red.slots.length < k.u.treen.toNat → Happens (.reductionPartial c) s ((s.setCore c { k with red := red }).dropHead c 63 ix))
        ∧ (k.u.treen.toNat ≤ red.slots.length → k.u.treeop ≠ 6 →
          Happens (.reductionPartial c) s ((((s.setCore c { k with red := red }).endRound c
            (BitVec.ofNat 64 (treeResult k.u.treeop.toNat (treeFold k.u.treeop.toNat red.slots k.u.treen.toNat)))).modCore c
              fun q => { q with red := ⟨[], 0⟩ }).dropHead c 63 ix))

/-! ## Events of the protocol, the links, the platform and the contexts -/

/-- R293, R296 to R302: requests and answers reach the home as the events of their codes, where table 0 answers a first read with a
leased copy, a first RDX with ownership, and a first store by writing it; copies are given up; the home's own events; and the
messages that reach a core. INV takes the copy of a core whole; where it goes to a remote-data cache, the L1s of the die keep their
exclusive copies (log 19, DEDUCED). -/
def Obligations.ProtocolEvents : Prop :=
  (∀ (s : State) (n : Nat) (q : Req) (s1 : State), s.arriving n = some (q, s1) →
    (∀ b, q.kind = .rd b → Happens (.rd n) s (s1.serve q 0))
    ∧ (q.kind = .rdx → Happens (.rdx n) s (s1.serve q 1))
    ∧ (∀ m d, q.kind = .rst m d → Happens (.rst n) s (s1.serve q 6))
    ∧ (∀ m o d c rm, q.kind = .ramo m o d c rm → Happens (.ramo n) s (s1.serve q 7))
    ∧ (∀ c keep e, q.kind = .rack c keep e → Happens (.rack n) s (s1.serveRack q c keep e))
    ∧ (∀ r w t, s1.region? q.home q.pa = some r → r.sel = 0 → q.sel = 0 → r.recalled = false → r.size = 64 → r.owner = none → q.home < 4096 → s1.watches = [] →
      s1.lineTs q.home (q.pa / 64) = (w, t) → w < 2 ^ 62 → t < 2 ^ 62 → q.p < 2 ^ 62 →
      (∀ b, q.kind = .rd b → r.st < 2 → ∃ u m r', Happens (.rd n) s u ∧ u.reps = s1.reps ++ [m] ∧ m.code = 1 ∧ m.core = q.core
        ∧ m.data = s1.storeLine (q.pa / 64) ∧ m.wts = w ∧ m.rts = max t (max (w + 10) (q.p + 10)) ∧ m.tau = max q.p w ∧ u.mem = s1.mem
        ∧ u.region? q.home q.pa = some r' ∧ r'.st = 1 ∧ q.agent ∈ r'.sharers ∧ (∀ a ∈ r.sharers, a ∈ r'.sharers))
      ∧ (q.kind = .rdx → r.st < 2 → ∃ u m r', Happens (.rdx n) s u ∧ u.reps = s1.reps ++ [m] ∧ m.code = 2 ∧ m.core = q.core
        ∧ m.data = s1.storeLine (q.pa / 64) ∧ m.wts = max q.p (t + 1) ∧ m.rts = max q.p (t + 1) ∧ u.mem = s1.mem
        ∧ u.region? q.home q.pa = some r' ∧ r'.st = 2 ∧ r'.owner = some (q.agent, q.core) ∧ r'.sharers = [])
      ∧ (∀ m d, q.kind = .rst m d → r.st < 2 → q.agent = 144 → ∃ u, Happens (.rst n) s u
        ∧ u.acks = s1.acks ++ [{ core := q.core, home := q.home, ctx := q.ctx, tau := max q.p (t + 1), store := true, old := 0, flags := 0 }]
        ∧ u.mem = putBytes s1.mem q.pa m d)))
  ∧ (∀ (s : State) (n : Nat) (q : Req) (rest : List Req) (t : Nat), InFlight s.reqs n q rest → q.retryAt = some t → t ≤ s.cycle →
      Happens (.protoRetry n) s { s with reqs := rest ++ [{ q with retryAt := none }] })
  ∧ (∀ (s : State) (c line : Nat) (r : RegionEntry) (who : Nat × Nat), who = (agentOf s r.home c, c) → c < 1152 →
      s.regions.find? (fun x => x.owner == some (agentOf s x.home c, c) && x.covers x.home (line * 64)) = some r →
      s.reaches r.home c = true → s.takes r (line * 64) 2 who = true → (∀ e ∈ s.reqs, e.isRack = false) →
      (∀ m ∈ s.reps, m.code ≠ 2) →
        Happens (.wb c line) s ((s.setCore c ((s.core c).dropIn r)).protoEvent r (line * 64) 2 (some who) none
          (some ⟨(s.core c).copiesOf r, false⟩)))
  ∧ (∀ (s : State) (c line : Nat) (l : L1Line), c < 1152 → lookupK (s.core c).l1 line = some l → l.excl = false →
      s.region? l.home (line * 64) = none →
        Happens (.drop c line) s (s.setCore c { s.core c with l1 := removeK (s.core c).l1 line }))
  ∧ (∀ (s : State) (h base : Nat) (r : RegionEntry), s.region? h base = some r →
    (∀ t, r.timer = some t → t ≤ s.cycle →
      Happens (.timeout h base) s ((s.protoEvent r base 5 none none none).recallNow h base))
    ∧ (r.recalled = true → r.st ≠ 0 → Happens (.recall h base) s (s.protoEvent r base 10 none none none))
    ∧ (∀ a, r.names a = true → s.agentFenced h a = true → r.home = h →
      Happens (.fenced h base a) s ((s.dropAgent r a).protoEvent r base 9 (some (r.lossSender a)) none none))
    ∧ (∀ a, r.names a = true → (s.agent (agentAddr (homeDie s h) a)).drift = true →
      Happens (.lexp h base a) s ((s.dropAgent r a).protoEvent r base 8 (some (r.lossSender a)) none none))
    ∧ (∀ a, s.agentLost h a = false → ∃ u, Happens (.leaseRenewal h base a) s u ∧ u.mem = s.mem ∧ u.regions = s.regions
        ∧ ∀ c line l, lookupK (s.core c).l1 line = some l → l.home = h → r.base ≤ line * 64 → line * 64 < r.base + r.size →
          s.time < l.lease → agentHas (homeDie s h) a c = true →
            lookupK (u.core c).l1 line = some { l with lease := s.time + 200000 })
    ∧ ∀ q, s.region? h (r.base + r.size) = some q → s.mergeable r q = true →
      ∃ u m, Happens (.regionMerge h base) s u ∧ u.regions = ((s.regions.filter fun x => !(x.home == q.home && x.base == q.base)).map
          fun x => if x.home == r.home && x.base == r.base then m else x) ∧ m.base = r.base ∧ m.size = 2 * r.size ∧ m.st = r.st
        ∧ m.owner = r.owner ∧ m.evr = max r.evr q.evr ∧ u.mem = s.mem ∧ u.cores = s.cores)
  ∧ (∀ (s : State) (n : Nat) (m : Rep) (s1 u : State) (d : Nat), s.coming n = some (m, s1) → m.code = 7 → m.core = 1152 + d →
      Happens (.inv n) s u → ∀ c, dieOf c = d → ∀ p, p ∈ (u.core c).l1 ↔
        p ∈ (s1.core c).l1 ∧ ¬(p.1 = m.pa / 64 ∧ p.2.home = m.home ∧ p.2.excl = false))
  ∧ ∀ (s : State) (n : Nat) (m : Rep) (s1 : State) (q : Req) (k : Core), s.coming n = some (m, s1) → k = s1.core m.core → m.core < 1152 →
    (m.code = 1 → m.req = some q → q.kind = .rd false → homeDie s1 m.home = dieOf m.core → lookupK k.l1 (m.pa / 64) = none → k.stq = [] →
      Happens (.grants n) s (s1.setCore m.core { k with l1 := insertK k.l1 (m.pa / 64) (m.copy false) }))
    ∧ (m.code = 2 → m.req = some q → q.kind = .rdx → k.stq = [] →
      Happens (.grantx n) s (s1.setCore m.core ({ k with l1 := insertK k.l1 (m.pa / 64) (m.copy true) }.answered
        (.granted (m.pa / 64)))))
    ∧ (m.code = 3 → m.req = some q → (∃ w d, q.kind = .rst w d) → k.stq = [] →
      Happens (.ackw n) s
        ((s1.setCore m.core { k with pts := max k.pts m.tau, unacked := k.unacked - 1 }).raiseLaunches q.ctx m.tau))
    ∧ (m.code = 8 → m.req = some q → (∃ w o d c rm, q.kind = .ramo w o d c rm) →
      Happens (.amores n) s (s1.setCore m.core (((ptsFrom m.tau k).orFlags (BitVec.ofNat 5 m.flags)).answered (.got m.old))))
    ∧ (m.code = 4 → Happens (.ownerRecall n) s (s1.answerRecall m false))
    ∧ (m.code = 5 → Happens (.downgrade n) s (s1.answerRecall m true))
    ∧ (m.code = 6 → m.req = none → Happens (.upd n) s (s1.setCore m.core { k with l1 := updIn k.l1 m }))
    ∧ (m.code = 7 → Happens (.inv n) s (s1.setCore m.core { k with
        l1 := k.l1.filter fun p => !(p.1 == m.pa / 64 && p.2.home == m.home) }))

/-- R366 to R376, R306 to R309, R379: training, retraining, commands and LCTL of a link; flits, acknowledgements, NAK, heartbeats, fence
notices and the compression sample; Halyard packets and the liveness of agents; and what becomes of a message that comes to the bridge while
that is FENCED or DISABLED (log 75). The model's choices: what flits hold and lanes count (log 17), a packet of kind 4 fences its
sender (log 18), and the unit number of a replay's log entry (log 30). -/
def Obligations.LinkEvents : Prop :=
  (∀ (s : State) (p : Nat) (l : Link), l = s.link p → p < 17 →
    (∀ g, l.st = .train → s.time ≤ l.since + 100000 → 2 * g < lanesOf p → Happens (.trainingEnd p g) s (s.setLink p { l with st := .down }).bootOn)
    ∧ (∀ g, l.st = .train → l.since + 100000 < s.time → Happens (.trainingEnd p g) s s)
    ∧ (∀ g, l.st = .train → s.time ≤ l.since + 100000 → lanesOf p ≤ 2 * g → l.bad = [] → l.queue = [] →
        Happens (.trainingEnd p g) s (s.setLink p (activeLink l p g).started).bootOn)
    ∧ (l.st = .train → l.since + 100000 ≤ s.time → Happens (.trainingTimeout p) s (s.setLink p { l with st := .down }).bootOn)
    ∧ (∀ g, l.st = .retrain → s.time ≤ l.since + 20000 → lanesOf p ≤ 2 * g → l.bad = [] → l.queue = [] →
        Happens (.retrainEnd p g) s ((s.setLink p { activeLink l p g with
          wire := l.wire ++ l.replay.map Prod.snd, retries := (l.retries + 1) % 65536 }).celAppend 3 p p 0))
    ∧ (∀ g, l.st = .retrain → s.time ≤ l.since + 20000 → 2 * g < lanesOf p → Happens (.retrainEnd p g) s (s.fenceLink p))
    ∧ (l.st = .retrain → l.since + 20000 ≤ s.time → Happens (.retrainTimeout p) s (s.fenceLink p))
    ∧ (∀ n, l.st = .active → Happens (.laneErrorLimit p n) s
        ((s.setLink p { l with bad := insertN l.bad n }).setLink p { (s.setLink p { l with bad := insertN l.bad n }).link p with
          st := .retrain, since := s.time, naks := 0 }))
    ∧ (l.st = .down → l.rcap ≠ 3 → Happens (.lcmdEnable p) s (s.setLink p { l with st := .train, since := s.time }))
    ∧ (l.st = .disabled → l.rcap ≠ 3 → Happens (.lcmdEnable p) s
        (((if p = 12 then s.dropForeign else s).unfenceAgents (peerAgents p)).setLink p { l with st := .train, since := s.time }))
    ∧ (∀ t u : State, s.plat.stage = 3 → s.plat.booterr = 0 → l.st = .train → l.since + 100000 ≤ s.time →
        t = s.setLink p { l with st := .down } → Happens (.trainingTimeout p) s u →
          ((∀ q, 12 ≤ q → q < 17 → (t.link q).st ≠ .train) → u.plat.stage = 6 ∧ u.plat.fwlock = true)
          ∧ ((∃ q, 12 ≤ q ∧ q < 17 ∧ (t.link q).st = .train) → u.plat = s.plat))
    ∧ (l.st ≠ .disabled → Happens (.lcmdDisable p) s (s.disableLink p))
    ∧ (l.st = .fenced → Happens (.lcmdUnfence p) s
        (((if p = 12 then s.dropForeign else s).unfenceAgents (peerAgents p)).setLink p { l with st := .down }))
    ∧ (l.st = .active → Happens (.lcmdRetrain p) s (s.setLink p { l with st := .retrain, since := s.time, naks := 0 }))
    ∧ (∀ v w, (w = .machine ∨ w = .host) → s.writerReaches w = true → slice v 23 16 < slice v 31 24 → slice v 9 8 ≠ 3 → (w = .host ∨ s.plat.fwlock = false ∨ l.rcap ≤ slice v 9 8) → p < 12 →
        ∃ l', Happens (.lctlWrite p v w) s (s.setLink p l') ∧ l'.peerctx = slice v 63 48 ∧ l'.lctx = slice v 47 32
          ∧ l'.con = slice v 31 24 ∧ l'.coff = slice v 23 16 ∧ l'.rcap = slice v 9 8 ∧ l'.cena = v.getLsbD 0
          ∧ l'.comp = (l.comp && v.getLsbD 0) ∧ l'.st = l.st ∧ l'.queue = l.queue ∧ l'.replay = l.replay)
    ∧ (∀ f h, p ≤ 12 → l.st = .active → h = flitHead f →
      (flitIntact f = true → h.type = 0 → h.seq = (l.rxSeq + 1) % 4096 → l.queue = [] →
        ∀ t, t = s.setLink p (Link.controlWith { l.credited h with
          rxSeq := h.seq, hunting := false, rx := l.rx ++ (flitPackets h f).map fun b => (h.vc, b) } 2 h.vc 1) →
        ((p = 12 ∨ h.vc ≠ 3) → Happens (.dataFlit p f) s t)
        ∧ (p < 12 → h.vc = 3 → Happens (.dataFlit p f) s (t.portOps p (flitPackets h f))))
      ∧ (flitIntact f = true → h.type = 0 → h.seq ≠ (l.rxSeq + 1) % 4096 → l.queue = [] →
        ∀ l1, l1 = { l with replay := acked h.ack l.replay } →
        (l.hunting = true → Happens (.dataFlit p f) s (s.setLink p l1))
        ∧ (l.hunting = false → Happens (.dataFlit p f) s (s.setLink p { l1.control 1 with hunting := true })))
      ∧ (flitIntact f = false → Happens (.dataFlit p f) s (s.setLink p { l.control 1 with hunting := true }))
      ∧ (flitIntact f = true → h.type = 1 → Happens (.nak p f) s (s.nakArrives p f))
      ∧ (flitIntact f = true → h.type = 2 → Happens (.idleAckFlit p f) s (s.setLink p (l.absorb h)))
      ∧ (flitIntact f = true → h.type = 3 → ∃ u, Happens (.heartbeatFlit p f) s u ∧ (u.agent (300 + p)).beat = s.time ∧ u.mem = s.mem)
      ∧ (flitIntact f = true → h.type = 4 → Happens (.fenceNotice p f) s (s.fenceLink p)))
    ∧ (p ≤ 12 → Happens (.compSample p) s (s.setLink p { l with
        comp := l.cena && (decide (l.con ≤ s.linkDepth p) || (!decide (s.linkDepth p < l.coff) && l.comp)) })))
  ∧ (∀ (s : State) (a t : Nat),
    ((s.time + 1000 < t ∨ t + 1000 < s.time) → (a < 300 ∨ 312 ≤ a) →
      Happens (.meridianPulse a t) s { s with agents := insertK s.agents a { s.agent a with fenced := true, drift := true } })
    ∧ (s.time ≤ t + 1000 → t ≤ s.time + 1000 →
      ((a < 300 ∨ 312 ≤ a) → Happens (.meridianPulse a t) s s)
      ∧ ∀ p l, p < 12 → l = s.link p → l.st = .active → s.leaseMode (300 + p) = false → (s.agent (300 + p)).fenced = false →
        (s.agent (300 + p)).drift = false → l.beat + 50000 ≤ s.time →
        Happens (.meridianPulse (300 + p) t) s (s.setLink p { l.control 3 with beat := s.time }))
    ∧ (s.leaseMode a = false → (s.agent a).beat + 150000 ≤ s.time → linksOf a = [] →
      Happens (.heartbeatLoss a) s { s with agents := insertK s.agents a { s.agent a with fenced := true } })
    ∧ (a < 296 → (s.agent a).heard + 150000 ≤ s.time →
      Happens (.halyardSilence a) s { s with agents := insertK s.agents a { s.agent a with fenced := true, drift := true } }))
  ∧ (∀ (s : State) (k : BitVec 128) (src dst : Nat), src = pktField k 0 10 → dst = pktField k 10 10 → dst ≠ 0x3FF →
    (pktOk k 1 = true → (src < 292 ∨ src = 294) →
      ∃ u, Happens (.halyardHeartbeat k) s u ∧ (u.agent dst).heard = s.time ∧ u.mem = s.mem
        ∧ ((s.agent src).fenced = false → (u.agent src).beat = s.time)
        ∧ ((s.agent src).fenced = true → (u.agent src).beat = (s.agent src).beat))
    ∧ (pktOk k 2 = true → src = 295 → dst < 288 → ∃ u, Happens (.halyardRestart k) s u
        ∧ (u.core (4 * dst + pktField k 24 2)).halted = false ∧ OtherCoresSame (4 * dst + pktField k 24 2) s u ∧ u.mem = s.mem)
    ∧ (pktOk k 3 = true → src = 295 → dst < 292 → (s.agent dst).drift = true → ∃ u, Happens (.halyardResync k) s u
        ∧ (u.agent dst).fenced = false ∧ (u.agent dst).drift = false ∧ ∀ c, c / 4 = dst → (u.core c).l1 = [])
    ∧ (pktOk k 4 = true → ∃ u, Happens (.halyardFenceNotice k) s u ∧ (u.agent src).fenced = true ∧ u.mem = s.mem))
  ∧ ∀ (s : State) (n : Nat) (m : NetMsg) (r : List NetMsg) (c d : Nat), InFlight s.net n m r → m.child = none → s.inOrder n m = true →
    s.ckHolds m.msg.ctx = false → s.physical m.msg.dst = some c → dieOf c ≠ originDie s m.origin →
    ((s.link 12).st = .fenced ∨ (s.link 12).st = .disabled) → d = State.reportDie { s with net := r } m.msg.ctx →
      (m.msg.isReport = true → Happens (.messageDelivery n) s { s with net := r })
      ∧ (m.msg.isReport = false → Happens (.messageDelivery n) s
          (State.report { s with net := r } d (dieOrigin d) 0x14 12 0 m.msg.ctx 0xFFF))

/-- R220, R294, R312, R316, R318, R377 to R385, R313: snoops, loads, stores and doorbells of the host, the watchdog, device reset, the
power window, the error logs, register writes, power gating and the failure of a core. The model's choices: what the boot image holds
(log 5), the walk of a doorbell (log 16) and the card it leaves alone (log 79), the host's accesses under protocol 0 with its copies
(log 82), the lowest spare (log 30), and the lowest FAULTED cause of a failed core (log 53). -/
def Obligations.HostAndPlatformEvents : Prop :=
  ∀ (s : State),
    (∀ line d, s.snoopable line = true → paRegion (line * 64) = some .host → s.away line = none → s.holdsHost line = true →
      s.lines.Pairwise (fun p q => p.1 < q.1) →
      Happens (.hostSnoop line false d) s { s with toHost := s.toHost ++ [HostEvent.snoopAnswer line (s.storeLine line)] }
      ∧ ∀ v, ∃ u, Happens (.hostSnoop line true (some v)) s u ∧ u.mem = putBytes s.mem (line * 64) 64 v.toNat
        ∧ u.toHost = s.toHost ++ [HostEvent.snoopAnswer line (s.storeLine line)] ∧ u.holdsHost line = false)
    ∧ (∀ pa n, s.ucieUp (dramDie pa) = true → inDram pa = true → (n = 1 ∨ n = 2 ∨ n = 4 ∨ n = 8) → pa % n = 0 →
      (∀ r, s.away (pa / 64) = none → s.region? (s.homeFor pa) pa = some r → s.homeFor pa < 4096 → r.sel = 0 → r.st < 2 → r.owner = none →
        r.size = 64 → s.reps = [] → (s.lineTs (s.homeFor pa) (pa / 64)).1 < 2 ^ 62 → (s.lineTs (s.homeFor pa) (pa / 64)).2 < 2 ^ 62 →
        (∃ u m, Happens (.hostMemAccess pa n none) s u ∧ u.toHost = s.toHost ++ [HostEvent.memAnswer pa (BitVec.ofNat 64 (s.bytes pa n))]
          ∧ u.mem = s.mem ∧ u.cores = s.cores ∧ u.reps = [] ∧ u.region? (s.homeFor pa) pa = some m ∧ m.st = 1 ∧ 145 ∈ m.sharers)
        ∧ ∀ v, (s.inCel pa = false ∨ s.plat.fwlock = false) → s.inMap pa n = false →
          ∃ u, Happens (.hostMemAccess pa n (some v)) s u ∧ u.mem = putBytes s.mem pa n (v.toNat % 2 ^ (8 * n)) ∧ u.cores = s.cores)
      ∧ ∀ v, s.inCel pa = true → s.plat.fwlock = true → Happens (.hostMemAccess pa n (some v)) s s)
    ∧ (∀ die q x d ctl a, die < 2 → q < 1024 → s.ucieUp die = true → s.doorOf die q s.ctxs = some (x, d) → ctl = (s.ctxWord die x (d + 0x10)).getD 0 →
      ctlValid ctl = true → ctlHost ctl = true → ctlZero ctl = true → ctlDie ctl = die →
      (s.door die x d = none → Happens (.doorbellWrite die q a) s ((s.hostCard die x d ctl a).setDoor die x d a))
      ∧ (s.door die x d = some a → Happens (.doorbellWrite die q a) s s))
    ∧ (∀ c t va, c < 1152 → (s.core c).hostWait = some (t, va) → (s.core c).onSys = false → t + 1000000 ≤ s.time →
        Happens (.watchdogExpiry c) s { { s with cur := c }.takeTrap causeWatchdog va with cur := s.cur })
    ∧ (bootError = 0 → ∃ u, Happens .deviceReset s u ∧ u.plat.stage = 3 ∧ u.plat.fwlock = false ∧ u.plat.booterr = 0
        ∧ (∀ p, 12 ≤ p → p < 17 → (u.link p).st = .train) ∧ u.plat.meas = measures ∧ u.plat.hmap = words18 bootFuses
        ∧ u.plat.l2pn = BitVec.ofNat 64 bootCores.length ∧ (∀ c, u.core c = Core.reset) ∧ u.ctxs = [] ∧ u.tables = []
        ∧ (∀ a, a < hostBase → (a < mapBase ∨ mapBase + coreMap.length ≤ a) → cellGet u.mem a = 0)
        ∧ ((∀ c, hostLines (s.core c) = []) → (∀ q ∈ s.reqs, 4096 ≤ q.home → q.copies = []) → ∀ a, hostBase ≤ a → cellGet u.mem a = cellGet s.mem a))
    ∧ (bootError ≠ 0 → ∃ u, Happens .deviceReset s u ∧ u.plat.stage = 2 ∧ u.plat.booterr = bootError
        ∧ (bootError ≠ 3 → u.plat.hmap = words18 bootFuses) ∧ ∀ c, u.core c = Core.reset)
    ∧ (∀ w, Happens (.powerWindow w) s { s with plat := { s.plat with clamp := decide (s.plat.pwrcap < w) } })
    ∧ (∀ kind un loc det, (kind = 1 ∨ kind = 2 ∨ kind = 5) → Happens (.correctedError kind un loc det) s
        { s with plat := { s.plat with celDue := celSorted ⟨s.time, kind, un, loc, det⟩ s.plat.celDue } })
    ∧ (∀ n a e, 0 < n → s.plat.celDue = [e] → a = s.plat.celbase.toNat + 64 * s.plat.celptr.toNat →
      (s.plat.celptr = s.plat.celcap → (s.pass n).plat = { s.plat with cellost := s.plat.cellost + 1, celDue := [] }
        ∧ (s.pass n).toHost = s.toHost ++ [HostEvent.platform] ∧ (s.pass n).mem = s.mem)
      ∧ (s.plat.celptr ≠ s.plat.celcap → s.away (a / 64) = none → s.watches = [] → (∀ q ∈ s.ctxs, q.2.lostIn a 64 = false) →
        (s.pass n).plat = { s.plat with celptr := s.plat.celptr + 1, celDue := [] }
        ∧ (s.pass n).mem = cellSets s.mem a
            (celEntry s.plat.celptr.toNat e.time e.kind e.unit e.loc e.detail (cellGets s.mem (a - 64) 64))))
    ∧ (∀ pa, (inDram pa = true → s.frame pa = .unmapped) →
        Happens (.uncorrectableError pa) s { s with toHost := s.toHost ++ [HostEvent.uncorrectable pa] })
    ∧ (∀ pa x, inDram pa = true → s.frame pa = .mapped x →
        Happens (.uncorrectableError pa) s ({ s with toHost := s.toHost ++ [HostEvent.uncorrectable pa] }.faultCtx x 4 0 0))
    ∧ (∀ off v, s.ucieUp 0 = false → s.ucieUp 1 = false → Happens (.registerWrite off v .host) s s)
    ∧ (∀ v, s.writerReaches .host = true → Happens (.registerWrite 0x420008 v .host) s
        { s with plat := { s.plat with ctxarg := BitVec.ofNat 64 (v.toNat % 2 ^ 52 / 4096 * 4096) } })
    ∧ (∀ v, s.writerReaches .host = true → 400 ≤ v.toNat → v.toNat ≤ 1600 →
        Happens (.registerWrite 0x440008 v .host) s { s with plat := { s.plat with pwrcap := v.toNat } })
    ∧ (∀ v, (v.toNat < 400 ∨ 1600 < v.toNat) → Happens (.registerWrite 0x440008 v .host) s s)
    ∧ (∀ d q v, d < 2 → q < 1024 → s.writerReaches .host = true →
        Happens (.registerWrite (0x400000 + d * 0x2000 + q * 8) v .host) s (s.doorbell d q v.toNat))
    ∧ (∀ c, c < 1152 → (s.core c).idleCore = true → hostLines (s.core c) = [] →
        Happens (.corePowerGating c) s (s.setCore c { s.core c with gated := true }))
    ∧ (∀ c x k, c < 1152 → (s.core c).contexts = [x] → s.ctx? x = some k → k.st = .running → CauseAtHome s k →
        ∃ u w y, Happens (.coreFailure c) s u
        ∧ u.ctx? x = some { k with st := .faulted, fcause := BitVec.ofNat 64 w, lostHw := y } ∧ w % 256 = 4)
    ∧ ∀ c p s1 t, c < 1152 → (s.core c).contexts = [] → s.plat.l2pbase ≠ 0 → s.enabled c = true →
      s1 = { s with plat := { s.plat with failed := insertN s.plat.failed c } } → s1.spareOn (dieOf c) = some p →
      t = { s1 with
        mem := putBytes s.mem (s.plat.l2pbase.toNat + 0x100 + 2 * s.logical c) 2 (physId p)
        dies := s.dies.map fun (d : Die) => { d with dealt := d.dealt.map fun (e : Dealt) => e.moved c p } } →
        Happens (.coreFailure c) s (((t.setHarvest p false).setHarvest c true).celAppend 6 0 (physId c) 0)

/-- R288, R289, R313 to R315: the frame unit assigns, releases, retires and zeroes frames, and the context commands move a context
through its states; a command that the state does not allow is rejected. -/
def Obligations.FrameAndContextEvents : Prop :=
  (∀ (s : State) (d : Nat) (v : Word) (f x : Nat), d < 2 → f = fcmdFrame v → x = fcmdCtx v → fcmdOk v = true →
    (fcmdOp v = 1 → (s.die d).frameAt f = .unmapped → ∃ u, Happens (.fcmdAssign d v) s u ∧ (u.die d).frameAt f = .mapped x
      ∧ (u.die d).fstatErr = false ∧ u.cores = s.cores ∧ (∀ g, g ≠ f → (u.die d).frameAt g = (s.die d).frameAt g)
      ∧ ∀ a, cellGet u.mem a =
          if frameBase d f ≤ a ∧ a < frameBase d f + 2 ^ 21 ∧ s.guarded a 1 = false then 0 else cellGet s.mem a)
    ∧ (fcmdOp v = 1 → ∀ y, (s.die d).frameAt f = .mapped y → y ≠ x → ∃ u, Happens (.fcmdAssign d v) s u
      ∧ (u.die d).frameAt f = .zeroing (some x) ∧ (u.die d).fstatErr = false
      ∧ (∀ c, ∀ t ∈ (u.core c).tlb, meets t.base' (2 ^ t.bits) (frameBase d f) (2 ^ 21) = false)
      ∧ ∀ q ∈ u.ctlb, ∀ t ∈ q.2, meets t.base' (2 ^ t.bits) (frameBase d f) (2 ^ 21) = false)
    ∧ (fcmdOp v = 2 → ∀ y, (s.die d).frameAt f = .mapped y → ∃ u, Happens (.fcmdRelease d v) s u
      ∧ (u.die d).frameAt f = .zeroing none ∧ (u.die d).fstatErr = false)
    ∧ (fcmdOp v = 3 → (s.die d).frameAt f = .unmapped → ∃ u, Happens (.fcmdRetire d v) s u ∧ (u.die d).frameAt f = .retired
      ∧ (u.die d).fstatErr = false)
    ∧ (fcmdOp v = 2 → (s.die d).frameAt f = .unmapped → ∃ u, Happens (.fcmdRelease d v) s u ∧ (u.die d).fstatErr = true
      ∧ (u.die d).frameAt f = .unmapped)
    ∧ (∀ p, f < 65536 → (s.die d).frames.Pairwise (fun a b => a.1 < b.1) → (s.die d).frameAt f = .zeroing p → s.rangeBusy (frameBase d f) (2 ^ 21) = false →
      (s.recallsOut [(frameBase d f, 2 ^ 21)] = true → Happens (.zeroingComplete d f) s (s.markRecalled [(frameBase d f, 2 ^ 21)]))
      ∧ (s.recallsOut [(frameBase d f, 2 ^ 21)] = false →
        (∀ q ∈ s.cores, ∀ l ∈ q.2.l1, lineIn [(frameBase d f, 2 ^ 21)] l.1 = true → l.2.wts < 2 ^ 63 ∧ l.2.rts < 2 ^ 63) →
        ∃ u, Happens (.zeroingComplete d f) s u
        ∧ (∀ a, frameBase d f ≤ a → a < frameBase d f + 2 ^ 21 → s.guarded a 1 = false → cellGet u.mem a = 0)
        ∧ (∀ a, (a < frameBase d f ∨ frameBase d f + 2 ^ 21 ≤ a) → cellGet u.mem a = cellGet s.mem a)
        ∧ (∀ c, ∀ q ∈ (u.core c).l1, lineIn [(frameBase d f, 2 ^ 21)] q.1 = false)
        ∧ (u.die d).frameAt f = match p with
          | some y => .mapped y
          | none => .unmapped)))
  ∧ ∀ (s : State) (v : Word) (x : Nat), x = cmdCtx v → v.toNat < 2 ^ 20 →
    (cmdOp v = 1 → ∀ desc w, desc = slice s.plat.ctxarg 51 12 → w = s.words (desc * 4096) 16 → s.plat.stage = 6 →
      (s.ctxSt x = .empty ∨ s.ctxSt x = .dead) → inDram (desc * 4096) = true → descOk w = true →
      ∃ u, Happens (.create v) s u ∧ u.ctx? x = some (contextFrom desc w) ∧ u.plat.ctxErr = false ∧ u.plat.ctxNamed = x)
    ∧ (∀ k, s.ctx? x = some k →
      (cmdOp v = 2 → k.st = .loading → ∃ u, Happens (.start v) s u ∧ u.ctx? x = some { k with st := .runnable } ∧ u.plat.ctxErr = false
        ∧ u.mem = s.mem ∧ u.cores = s.cores)
      ∧ (cmdOp v = 4 → k.st = .saved → ∃ u, Happens (.resume v) s u ∧ u.ctx? x = some { k with st := .runnable }
        ∧ u.plat.ctxErr = false ∧ u.mem = s.mem ∧ u.cores = s.cores)
      ∧ (cmdOp v = 3 → (k.st = .runnable ∨ k.st = .running) → (∀ p ∈ s.cores, p.2.group = none) → (∀ d, (s.die d).cards = []) →
        ∃ u, Happens (.stop v) s u ∧ u.ctx? x = some { k with st := .saved } ∧ u.plat.ctxErr = false)
      ∧ (cmdOp v = 5 → k.st ≠ .empty → k.st ≠ .dead → (∀ d, (s.die d).cards = []) →
        ∃ u, Happens (.destroy v) s u ∧ u.ctx? x = some { k with st := .draining } ∧ u.plat.ctxErr = false
          ∧ ∀ c, (s.core c).owned = true → (s.core c).sv.ctxid.toNat = x → (u.core c).act = none ∧ (u.core c).group = none)
      ∧ (cmdOp v = 2 → k.st ≠ .loading → Happens (.start v) s { s with plat := { s.plat with ctxNamed := x, ctxErr := true } })
      ∧ (cmdOp v = 3 → k.st ≠ .runnable → k.st ≠ .running →
          Happens (.stop v) s { s with plat := { s.plat with ctxNamed := x, ctxErr := true } })
      ∧ (cmdOp v = 4 → k.st ≠ .saved → Happens (.resume v) s { s with plat := { s.plat with ctxNamed := x, ctxErr := true } })
      ∧ (k.st = .draining → s.framesFree x = true → ∃ u q, Happens (.contextDrained x) s u ∧ u.ctx? x = some q ∧ q.st = .dead
          ∧ (∀ t ∈ u.tables, t.1 ≠ x)))

/-- R217, R224, R225, R227, R228, R230 to R233: an engine takes the best READY card, a copy engine's job reads, writes and ends its card
with its STATUS, and a DONE card writes its sequence value and is RETIRED. -/
def Obligations.EngineJobs : Prop :=
  (∀ (s : State) (die cls k : Nat) (c : Card), die < 2 → s.card die k = some c →
    (∀ j q, s.card die j = some q → q.id = j) → s.mayStart die cls c = true →
    (∀ q ∈ (s.die die).cards, s.mayStart die cls q = true → q.prio < c.prio ∨ (q.prio = c.prio ∧ k ≤ q.id)) → c.fin = 0 → c.fout = 0 →
      (cls ≠ 2 → Happens (.jobStart die cls) s (s.setCard die { c with st := .running }))
      ∧ (cls = 2 → Happens (.jobStart die cls) s ((s.setCard die { c with st := .running }).startLineage die k)))
  ∧ (∀ (s : State) (die k : Nat) (c : Card) (src dst n : Nat), JobRuns s die k 1 c → c.began = none → src = c.args[0].toNat → dst = c.args[1].toNat →
    n = c.args[2].toNat → c.args[3] = 0 → c.args[0].getLsbD 63 = false → c.args[1].getLsbD 63 = false →
    (n = 0 → Nat.land c.flags fDSP = 0 → Happens (.copy die k) s (jobClosed die k 5 0 c.ts s))
    ∧ (1 ≤ n → n < 2 ^ 48 → Nat.land c.flags fDSP = 0 → meets src n dst n = true → Happens (.copy die k) s (jobClosed die k 5 0 c.ts s))
    ∧ ∀ b ts s1 t u, 1 ≤ n → n < 2 ^ 48 → JobReads s die c src n b ts s1 →
      (Nat.land c.flags fDSP = 0 → meets src n dst n = false → JobWrites s1 die c dst ts b t u →
        Happens (.copy die k) s (jobClosed die k 1 0 t u))
      ∧ (∀ l off q, Nat.land c.flags fDSP ≠ 0 → spPlace dst n = some (.sp l off) → s.spHolder c.ctx l = some q →
        s1.spHolder c.ctx l = some q → Happens (.copy die k) s (jobClosed die k 1 0 ts (s1.putSp die c.ctx l q off b ts))))
  ∧ (∀ (s : State) (die k : Nat) (c : Card) (r n z sp dp : Nat), JobRuns s die k 2 c → shapeOf c.args[2] = some (r, n, z) →
    sp = slice c.args[3] 31 0 → dp = slice c.args[3] 63 32 →
    ((sp < n * z ∨ dp < r * z) → Happens (.copyt die k) s (jobClosed die k 5 0 c.ts s))
    ∧ (n * z ≤ sp → r * z ≤ dp →
      (∀ i j, i < r → j < n → meets (c.args[0].toNat + i * sp) (n * z) (c.args[1].toNat + j * dp) (r * z) = false) →
        Happens (.copyt die k) s ((s.moveRows die c c.args[0].toNat c.args[1].toNat sp dp n z c.ts r 0).close die k)))
  ∧ (∀ (s : State) (die k : Nat) (c : Card) (n t : Nat) (u : State), JobRuns s die k 3 c → n = c.args[1].toNat → c.args[3] = 0 →
    1 ≤ n → n < 2 ^ 48 → Nat.land c.flags fDSP = 0 →
    JobWrites s die c c.args[0].toNat c.ts ((List.range n).map fun i => BitVec.ofNat 8 (bitsOf c.args[2].toNat (8 * (i % 8)) 8)) t u →
      Happens (.fill die k) s (jobClosed die k 1 0 t u))
  ∧ (∀ (s : State) (die k : Nat) (c : Card) (b : List Byte) (n ts t : Nat) (s1 u : State), JobRuns s die k 6 c → n = c.args[1].toNat →
    slice c.args[2] 63 32 = 0 → c.args[3].toNat % 8 = 0 → 1 ≤ n → n < 2 ^ 48 → JobReads s die c c.args[0].toNat n b ts s1 →
    s1.vwrite (s1.ctxEnv die c.ctx) c.user .none c.args[3].toNat 8 (crc32c (slice c.args[2] 31 0) b) ts = .ok (t, u) →
      Happens (.crc die k) s (jobClosed die k 1 0 t u))
  ∧ (∀ (s : State) (die k : Nat) (c : Card) (op src dst n m : Nat) (b d : List Byte) (ts t : Nat) (s1 u : State),
    JobRuns s die k op c → src = c.args[0].toNat → dst = c.args[1].toNat → n = slice c.args[2] 31 0 → m = slice c.args[2] 63 32 →
    c.args[3] = 0 → Nat.land c.flags (fCRCS + fCRCD + fXPOSE) = 0 → Nat.land c.flags fDSP = 0 → 1 ≤ n → 1 ≤ m →
    meets src n dst m = false → JobReads s die c src n b ts s1 → JobWrites s1 die c dst ts d t u →
    (op = 4 → d.length = m → m ≤ 65536 → b = leBytes 4 (m + 2 ^ 31) ++ d → Happens (.lz4x die k) s (jobClosed die k 1 0 t u))
    ∧ (op = 5 → b.length = n → n ≤ 12 → n + 5 ≤ m → d = leBytes 4 (n + 1) ++ BitVec.ofNat 8 (16 * n) :: b →
        Happens (.lz4c die k) s (jobClosed die k 1 0 t u)))
  ∧ ∀ (s : State) (die k : Nat) (c : Card), die < 2 → s.card die k = some c → c.st = .done → s.diffInFlight die c = false →
    (∀ q ∈ (s.die die).cards, q.sameQueue c = true → q.id < c.id → q.st = .retired) →
    (∀ t s1, s.vwrite (s.ctxEnv die c.ctx) false .none c.doneVa 8 c.seq.toNat c.ts = .ok (t, s1) →
      Happens (.cardRetire die k) s
        ((((s1.setCard die { c with st := .retired, ts := t }).putHead die c).clearJob die c t).notify die c t))
    ∧ ∀ e, s.vwrite (s.ctxEnv die c.ctx) false .none c.doneVa 8 c.seq.toNat c.ts = .error e →
      Happens (.cardRetire die k) s
        (((((s.report die (dieOrigin die) 7 (BitVec.ofNat 64 c.addr) (BitVec.ofNat 64 e) c.ctx 0xFFF).setCard die
          { c with st := .retired }).putHead die c).clearJob die c c.ts).notify die c c.ts)

/-- R324 to R330, R347, R348, R358 to R361: lineage jobs, checkpoint jobs and the codecs' operations run to the end that their work
gives, and the refusals of CKSAVE and CKLOAD have their STATUS. -/
def Obligations.LineageCheckpointAndCodecJobs : Prop :=
  (∀ (s : State) (die k : Nat) (c : Card), die < 2 → s.card die k = some c → c.st = .running → ∀ ev op f, LineageJob ev op f → c.op = op →
    ((s.die die).pins.any fun q => q.1 == k) = true → ∀ n o r o', linNode (s.linEnv die c.ctx) (handleIx (c.args[0].toNat % 2 ^ 32)) ⟨s, c.ts⟩ = .ok (n, o) →
      f die (s.linEnv die c.ctx) c n o = .ok (r, o') → Happens (ev die k) s ((jobClosed die k r.1 r.2 o'.p o'.s).unpin die k))
  ∧ (∀ (v : LinEnv) (c : Card) (n : Node) (o : Orrery) (die : Nat),
    (c.args[3] = 0 → c.args[1].toNat % 64 = 0 → c.args[2].toNat < n.blocks * blockBytes n.fmt → jobFlatten die v c n o = .ok ((0x44, 0), o))
    ∧ ((c.args[3] ≠ 0 ∨ c.args[1].toNat % 64 ≠ 0) → jobFlatten die v c n o = .ok ((5, 0), o))
    ∧ (slice c.args[3] 62 32 = 0 → slice c.args[3] 31 0 ≠ 0 → n.blocks < c.args[1].toNat + slice c.args[3] 31 0 →
        jobResolve die v c n o = .ok ((0x45, 0), o)))
  ∧ (∀ (s : State) (k : Nat) (c : Card) (x : Context), s.card 0 k = some c → c.st = .running → s.ctx? c.ctx = some x →
    (c.op = 0x20 →
      (∀ t, ((x.st ≠ .saved ∨ c.args[3].getLsbD 0 = false) ∧ t = s) ∨ (x.st = .saved ∧ c.args[3].getLsbD 0 = true ∧ t = s.ctxTo c.ctx x .runnable) →
        ((c.args[2] ≠ 0 ∨ slice c.args[3] 63 1 ≠ 0) → Happens (.cksave 0 k) s (t.endCard 0 k 5 0))
        ∧ (c.args[2] = 0 → slice c.args[3] 63 1 = 0 → c.args[0].toNat % 65536 ≠ 0 → Happens (.cksave 0 k) s (t.endCard 0 k 0x51 0)))
      ∧ (saveCheck 0 c = none → (x.st = .runnable ∨ x.st = .running) →
          Happens (.cksave 0 k) s ((s.setCard 0 { c with began := some s.time }).beginStop c.ctx x))
      ∧ (saveCheck 0 c = none → s.atPeace c.ctx = true →
          (s.ctxRegions c.ctx = true →
            Happens (.cksave 0 k) s ((s.setCard 0 { c with began := some (c.began.getD s.time) }).recallCtx c.ctx))
          ∧ (s.ctxRegions c.ctx = false → Happens (.cksave 0 k) s (s.saveImage k c x)))
      ∧ (saveCheck 0 c = none → x.st = .preempting → Happens (.cksave 0 k) s s)
      ∧ (saveCheck 0 c = none → (x.st = .loading ∨ x.st = .draining ∨ x.st = .dead) → Happens (.cksave 0 k) s (s.endCard 0 k 0x52 0)))
    ∧ (c.op = 0x21 →
      ((slice c.args[3] 63 2 ≠ 0 ∨ c.args[2].toNat % 8 ≠ 0) → Happens (.ckload 0 k) s (s.endCard 0 k 5 0))
      ∧ (slice c.args[3] 63 2 = 0 → c.args[2].toNat % 8 = 0 → c.args[0].toNat % 65536 ≠ 0 → Happens (.ckload 0 k) s (s.endCard 0 k 0x51 0))
      ∧ (slice c.args[3] 63 2 = 0 → c.args[2].toNat % 8 = 0 → c.args[0].toNat % 65536 = 0 →
        (x.st ≠ .loading → Happens (.ckload 0 k) s (s.endCard 0 k 0x52 0))
        ∧ ∀ n b ts s1, x.st = .loading → n = c.args[1].toNat →
          s.hostRange (s.ctxEnv 0 c.ctx) c.user .read 0 c.args[0].toNat n (n / 4096 + 2) = none → JobReads s 0 c c.args[0].toNat n b ts s1 →
          (manifestOf b = none → Happens (.ckload 0 k) s (s1.endCard 0 k 0x58 0))
          ∧ ∀ m key t s2, manifestOf b = some m →
            s1.readBlock (s.ctxEnv 0 c.ctx) c.user .none c.args[2].toNat c.ts 97 98 = .ok (key, t, s2) →
            (digestBytes (sha384 key) ≠ imgBytes b 0x30 48 → Happens (.ckload 0 k) s (s2.endCard 0 k 0x54 0))
            ∧ (s2.signedBad c x b key m = none → Happens (.ckload 0 k) s (s2.loadImage k c x b m)))))
  ∧ ∀ (s : State) (die k : Nat) (c : Card) (e : TEnv), die < 2 → s.card die k = some c → c.st = .ready → e = s.ctxEnv die c.ctx →
    (c.op = 0x100 → s.stashStart die e c = none → Happens (.stashOperation die k) s (s.regionGone die e c))
    ∧ (∀ h r, c.op = 0x100 → s.stashStart die e c = some h →
      r = stashBlocks e h.shape c h.shape.blocks 0 ⟨none, 0, 0, h.stat, c.ts, s⟩ → r.fail = none →
      ∀ u, u = r.state.putStat die e c (statAfter r) ((h.gen + 1) % 2 ^ 64) r.ts →
        Happens (.stashOperation die k) s (u.2.endOperation die e c 1 (min r.overs (2 ^ 24 - 1)) u.1))
    ∧ (c.op = 0x101 → s.stashStart die e c = none → Happens (.restoreOperation die k) s (s.regionGone die e c))
    ∧ (∀ h, c.op = 0x101 → s.stashStart die e c = some h → h.stat.testBit 33 = true →
      ∀ u, u = s.putStat die e c h.stat h.gen c.ts → Happens (.restoreOperation die k) s (u.2.endOperation die e c 0x61 0 u.1))
    ∧ (∀ h r, c.op = 0x101 → s.stashStart die e c = some h → h.stat.testBit 33 = false →
      r = restoreBlocks e h.shape c h.shape.blocks 0 ⟨none, 0, 0, h.stat, c.ts, s⟩ → r.fail = none →
      ∀ u, u = r.state.putStat die e c h.stat h.gen r.ts → Happens (.restoreOperation die k) s (u.2.endOperation die e c 1 0 u.1))

/-- R204 to R212, R240 to R254: a launch is dealt or fails with its code, groups are placed, pre-empted, saved and resumed, and the
cluster queues are balanced. The model's readings: a record at an address that is no multiple of 64 ends with 0x20 (log 34, DEDUCED),
what a placement clears (log 31) and what a saved group keeps (log 33). -/
def Obligations.LaunchEvents : Prop :=
  (∀ (s : State) (die k : Nat) (c : Card), die < 2 → s.card die k = some c →
    (c.op = 0x80 → c.st = .ready → s.serves c.ctx 0 0x80 = true → s.checkpointAllows c = true →
      (s.readRecord die c.ctx c.args[0].toNat c.ts = none → Happens (.launchDeal die k) s (s.endCard die c.id 0x26 0))
      ∧ (∀ r p s1, s.readRecord die c.ctx c.args[0].toNat c.ts = some (r, p, s1) → s1.readTemplate die c.ctx r.tmpl p = none →
          Happens (.launchDeal die k) s (s1.endCard die c.id 0x26 0))
      ∧ ∀ r p s1 t q s2 l ls d, s.readRecord die c.ctx c.args[0].toNat c.ts = some (r, p, s1) →
        s1.readTemplate die c.ctx r.tmpl p = some (t, q, s2) → r.levels = l :: ls → d = s2.level0 die l.level.domain →
        (c.args[0].toNat % 64 ≠ 0 → Happens (.launchDeal die k) s (s2.endCard die c.id 0x20 0))
        ∧ (s2.recordStatus c.args[0].toNat r d = 0 → templateOk r.clen t = false → Happens (.launchDeal die k) s (s2.endCard die c.id 0x23 0))
        ∧ (∀ x, d = some x → s2.recordStatus c.args[0].toNat r d = 0 → templateOk r.clen t = true →
            Happens (.launchDeal die k) s (s2.dealOut die c r t x q)))
    ∧ (∀ l, c.launch = some l → c.st = .running → l.retired = l.groupn → s.settledCtx c.ctx = true →
        Happens (.launchComplete die k) s (s.endCard die k 1 0))
    ∧ (∀ l, c.launch = some l → l.retired < l.groupn → Happens (.launchComplete die k) s s))
  ∧ (∀ (s : State) (c x : Nat), c < 1152 → s.freeCore c = true → s.gangAt c = none → s.heldByRunner c = true →
    x = (s.core c).sv.ctxid.toNat → s.inReserve c = false →
    ((∀ g ∈ (s.core c).saved, g.grp.ctx ≠ x) →
      (s.nextEntry c x = none → Happens (.groupPlacement c) s s)
      ∧ ∀ e q l tag, s.nextEntry c x = some e → s.launchOf e.die e.card = some (q, l) →
        tag = (if ((s.core c).gen + 1) % 4096 = 0 then 1 else ((s.core c).gen + 1) % 4096) →
          ∃ u, Happens (.groupPlacement c) s u ∧ GroupPlaced e q l tag (u.core c) ∧ OtherCoresSame c s u ∧ u.mem = s.mem
            ∧ (u.die (dieOf c)).dealt = (s.die (dieOf c)).dealt.erase e)
    ∧ ∀ g w p s1, (s.core c).saved.find? (fun g => g.grp.ctx == x) = some g →
      s.vreads ((s.core c).tenv (dieOf c)) false g.area (s.core c).pts 50176 = .ok (w, p, s1) →
      ∀ s2, s2 = s1.modCore c (fun q => (q.restored g w s1.cycle).raisePts p) → s2.spilledFor c x (s2.logical c) = [] →
        Happens (.groupResume c) s ((s2.running x).tryRetire c))
  ∧ (∀ (s : State) (die : Nat), die < 2 →
    ((s.die die).balthr = 0 → ∃ u, Happens (.balanceExchange die) s u ∧ (u.die die).dealt = (s.die die).dealt ∧ u.mem = s.mem ∧ u.cores = s.cores)
    ∧ (∃ u, Happens (.balanceExchange die) s u ∧ (u.die die).dealt = (s.die die).dealt.map fun e =>
        match (s.pushes' die).find? fun p => p.1 == e with
        | some p => { e with cluster := p.2, pushed := true }
        | none => e)
    ∧ (s.dueGang die = none → Happens (.gangReserve die) s s)
    ∧ (∀ e q l a, s.dueGang die = some e → s.launchOf e.die e.card = some (q, l) → s.bayFor e l.gang = some a →
      (s.die (dieOf a)).reserve = none →
        Happens (.gangReserve die) s ((s.modDie (dieOf a) fun x => { x with reserve := some (bayOf a, e.ord, e.ix) }).clearSingles
          ((List.range 36).map (a + ·))))
    ∧ ∀ v x c g, slice v 63 32 = 0 → slice v 15 12 = 0 → x = slice v 31 16 → s.physical (slice v 11 0) = some c → dieOf c = die →
      (s.core c).group = some g → g.ctx = x → (s.core c).preempt = .none →
        Happens (.preempt die v (.supervisor x)) s (s.setCore c { s.core c with preempt := .requested, wake := true })
        ∧ ∀ y, y ≠ x → Happens (.preempt die v (.supervisor y)) s s)
  ∧ ∀ (s : State) (c : Nat) (k : Core), c < 1152 → k = s.core c →
    (k.owned = true → k.sv.slice ≠ 0 → k.sliceEnd ≠ 0 → k.sliceEnd ≤ s.cycle → k.preempt = .none →
      (s.nextCtx c = none → Happens (.sliceExpiry c) s (s.setCore c { k with sliceEnd := s.cycle + k.sv.slice.toNat }))
      ∧ (∀ x g, s.nextCtx c = some x → k.group = some g →
          Happens (.sliceExpiry c) s (s.setCore c { k with passing := true, preempt := .requested, wake := true }))
      ∧ (∀ x, s.nextCtx c = some x → s.freeCore c = true → Happens (.sliceExpiry c) s (s.giveCore c x)))
    ∧ ((s.cycle < k.sliceEnd ∨ k.sv.slice = 0) → Happens (.sliceExpiry c) s s)
    ∧ (k.preempt = .requested → k.atBoundary = true → Happens (.preemptionRequest c) s
        ((((s.cancelWaits c).detachJoined c).endLeading c).modCore c fun q =>
          { q.retireMatrix with
            preempt := .saving k.barwSeen, hostWait := none, follow := .none
            pend := match k.scanAt with
              | some i => .scan i
              | none => .none }))
    ∧ ∀ b g p s1 w, k.preempt = .saving b → k.group = some g → s.accessesDone c = true → k.passing = false → SaveWritten s c g b p s1 →
      k.queued = [] → w = s1.modCore c (fun q => q.raisePts p) →
        Happens (.saveComplete c) s (((w.modCore c fun q => q.afterSave g w.cycle).settleCtx g.ctx).settleStop g.ctx)

/-! ## Hints, illegal words, reset, steps, encodings and frames -/

/-- R65 to R69, R100: a hint leaves its effect for the word after it and changes nothing else; a REP starts at its first repetition, or
at the one that ERET or a restore names, and its target issues once for each repetition; an illegal word and a fetch fault trap. -/
def Obligations.HintsAndIllegalWords : Prop :=
  (∀ (s : State) (i : Instr) (h : Hint), HintOf i h →
    exec i s = .next (s.setCore s.cur (s.countIssue (hintedCore (s.core s.cur) h 0))))
  ∧ (∀ (s : State) (c : BitVec 6) (ds as bs : BitVec 3) (j : Nat),
    ((∃ a, (s.core s.cur).hart.hint = some ⟨a, .resume, j⟩) ∨ ((∀ a n, (s.core s.cur).hart.hint ≠ some ⟨a, .resume, n⟩) ∧ j = 0)) →
      exec (.rep c ds as bs) s = .next (s.setCore s.cur (s.countIssue
        (hintedCore (s.core s.cur) (.rep (c.toNat + 1) ds.toNat as.toNat bs.toNat) j))))
  ∧ (∀ (h : Hart) (a : Word) (c x y z j : Nat), h.hint = some ⟨a, .rep c x y z, j⟩ →
    (j + 1 < c → h.advance = { h with hint := some ⟨a, .rep c x y z, j + 1⟩ })
    ∧ (c ≤ j + 1 → h.advance = { h with pc := h.pc + 4, hint := none }))
  ∧ (∀ (h : Hart) (a : Word) (c x y z j w : Nat) (i q : Instr), h.hint = some ⟨a, .rep c x y z, j⟩ → decodeNat w = some i →
    repTakes w = true → stepsOk w x y z c = true → stepInstr w j x y z = some q → h.instr w = .ok q)
  ∧ (∀ (w : IWord) (s : State), Traps (.illegalWord w) s causeIllegal (w.zeroExtend 64))
  ∧ ∀ (c : Nat) (va : Word) (s : State), Traps (.fetchFault c va) s c va

/-- R35, R379: what reset leaves: no activation, every core at PL 1 in slot 0 with nothing in flight, FCTL 0x10, PROTOMASK 1, every other
register that software reads at the value of R35, memory empty. The values that the spec states no reset value for are the model's
(log 10, DESIGN CHOICE); memory reads 0 (log 1, DESIGN CHOICE), and STATUS is 4, the PL of R40 where R35's table says 0 (log 54,
DEDUCED). -/
def Obligations.ResetState : Prop :=
  Inv State.reset ∧ (∀ a, State.reset.byte a = 0) ∧ (∀ c, State.reset.core c = Core.reset)
  ∧ Core.reset.act = none ∧ Core.reset.slot3 = .idle ∧ Core.reset.s0 = Hart.reset ∧ Core.reset.pts = 0
  ∧ Core.reset.u.fctl = 0x10 ∧ Core.reset.sv.status = 4 ∧ Core.reset.sv.protomask = 1
  ∧ (∀ r ∈ sysTable, r.id ∉ [0x001, 0x010, 0x011, 0x100, 0x10D, 0x200, 0x230] → r.read State.reset Core.reset = 0)
  ∧ (∀ e ∈ Core.reset.htab.toList, e.st = .empty ∧ e.fifo = [])
  ∧ (∀ d < 2, (State.reset.die d).balthr = 3 ∧ (State.reset.die d).gangexp = 20 ∧ (State.reset.die d).cards = []
      ∧ ∀ f, (State.reset.die d).frameAt f = .unmapped)
  ∧ (∀ p < 17, (State.reset.link p).st = .down) ∧ State.reset.ctxs = [] ∧ State.reset.net = [] ∧ State.reset.reqs = []

/-- R33, R52, R65: a step runs the instruction that the word at the PC of the issuing slot decodes to, after its cycle has passed; a word
that is no instruction is an illegal word. R97: a leader issues with its group, every core of it in the one step (log 21, DEDUCED), and a
follower's own turn passes. A turn that names an event runs the event; the agenda of turns, and that core `cur` issues with one cycle
passed where it is empty, are the model's (log 3, DESIGN CHOICE). -/
def Obligations.StepRunsDecoded : Prop :=
  (∀ (s u v : State) (w : Nat), s.agenda = [] → u = s.pass 1 → u.mayIssue u.cur = true → u.crew u.cur = [u.cur] → FetchesWord u w v →
    (v.core u.cur).hart.hint = none →
      (∀ i, decodeNat w = some i → step s = exec i v)
      ∧ (decodeNat w = none → step s = exec (.illegalWord (BitVec.ofNat 32 w)) v.dropResume))
  ∧ (∀ (s u v : State) (t : Turn) (rest : List Turn) (c w : Nat), s.agenda = t :: rest → t.act = .issue c →
    u = { { s with agenda := rest }.pass t.cycles with cur := c } → u.mayIssue c = true →
    ((u.core c).onSys = true ∨ u.late c = true ∨ u.crew c = [c]) → FetchesWord u w v →
    v.holdsAt c = false → ∀ i, (v.core c).hart.instr w = .ok i → step s = exec i v)
  ∧ (∀ (s : State) (t : Turn) (rest : List Turn) (c : Nat), s.agenda = t :: rest → t.act = .issue c →
    ∀ u, u = { s with agenda := rest }.pass t.cycles → (u.core c).onSys = false → u.late c = false → u.crew c ≠ [c] →
      (u.alone c = true → (∀ m ∈ u.crew c, u.mayRun m = true ∧ u.late m = false) → step s = u.crewIssue c)
      ∧ (u.alone c = false → step s = .next { u with cur := c }))
  ∧ (∀ (s t : State) (c : Nat), s.crewAll (s.crew c) = (.next t, []) → s.crewIssue c = .next { t with cur := c })
  ∧ (∀ (s : State) (t : Turn) (rest : List Turn) (i : Instr), s.agenda = t :: rest → t.act = .event i → isEventRow i = true →
      step s = exec i ({ s with agenda := rest }.pass t.cycles))
  ∧ ∀ (s : State), s.agenda = [] → (s.pass 1).mayIssue s.cur = false → (s.pass 1).crew s.cur = [s.cur] → step s = .next (s.pass 1)

/-- R53 to R61, R67, R68: words of the families, written out from their encodings, and words that are no instruction. -/
def Obligations.DecodeWords : Prop :=
  decodeNat 0b00000100011000010001000000000000 = some (.add 3 1 2)
  ∧ decodeNat 0b00001000101001001111111111111110 = some (.addi 5 4 0xFFFE)
  ∧ decodeNat 0b01000000001000100000000000001000 = some (.beq 1 2 8)
  ∧ decodeNat 0b01011011111111111111111111111111 = some (.jal 0x3FFFFFF)
  ∧ decodeNat 0b01100000110001110000000000010000 = some (.ld 6 7 16)
  ∧ decodeNat 0b10100000001000100001100001000001 = some (.amoand 1 2 3 .w32)
  ∧ decodeNat 0b10101000011000100001010010000000 = some (.send 3 2 5 2)
  ∧ decodeNat 0b11000000001000100001100001000010 = some (.fmul 1 2 3 .f32)
  ∧ decodeNat 0b11001000001000100001100101000000 = some (.vadd 1 2 3 .i32)
  ∧ decodeNat 0b11100001001000110010000100000000 = some (.mmulSp 1 .w2 3 4 .w2)
  ∧ decodeNat 0b11110000000000000000000000000001 = some .eret
  ∧ decodeNat 0b11111101100001100101001100000000 = some (.rep 3 1 2 3)
  ∧ decodeNat 0 = none ∧ decodeNat 0b11111000000000000000000000000000 = none
  ∧ decodeNat 0b00000100011111110001000000000000 = none ∧ decodeNat 0b00000111110000010001000000000000 = none

/-- R53 to R68: decoding and encoding agree: a well-formed instruction's word is 32 bits and decodes to it with every operand, and a
word that decodes is the encoding of what it decodes to. -/
def Obligations.DecodeEncode : Prop :=
  (∀ (i : Instr) (w : Nat), i.wf = true → encode i = some w → w < 2 ^ 32 ∧ decodeNat w = some i)
  ∧ ∀ (w : Nat) (i : Instr), w < 2 ^ 32 → decodeNat w = some i → i.wf = true ∧ encode i = some w

/-- R19, R28, R33, R88 to R95, R123, R127 to R133, R136, R138, R140 to R142, R146: an integer, floating or vector instruction on registers that has completed has changed its
destination, the queues it names, FFLAGS where it is a floating one, and where the slot goes on: every other register, flag, system
register, accumulator and byte of memory is as before. -/
def Obligations.RegisterFrames : Prop :=
  ∀ (s t : State) (d a b e : Reg), CoresSorted s →
    (∀ p ∈ twoSourceTable, exec (p.1 d a b) s = .next t → Stopped s t ∨ RegFrame [d] [] [a, b] false s t)
    ∧ (∀ p ∈ oneSourceTable, exec (p.1 d a) s = .next t → Stopped s t ∨ RegFrame [d] [] [a] false s t)
    ∧ (exec (.sel d a b e) s = .next t → Stopped s t ∨ RegFrame [d] [] [a, b, e] false s t)
    ∧ (∀ p ∈ immediateTable, ∀ i, exec (p.1 d a i) s = .next t → Stopped s t ∨ RegFrame [d] [] [a] false s t)
    ∧ (∀ p ∈ shiftTable, ∀ n, exec (p.1 d a n) s = .next t → Stopped s t ∨ RegFrame [d] [] [a] false s t)
    ∧ (∀ i, exec (.lui d i) s = .next t ∨ exec (.auipc d i) s = .next t → Stopped s t ∨ RegFrame [d] [] [] false s t)
    ∧ (∀ p ∈ branchTable, ∀ i, exec (p.1 a b i) s = .next t → Stopped s t ∨ RegFrame [] [] [a, b] false s t)
    ∧ (∀ off, exec (.jal off) s = .next t → Stopped s t ∨ RegFrame [1] [] [] false s t)
    ∧ (∀ i, exec (.jalr d a i) s = .next t → Stopped s t ∨ RegFrame [d] [] [a] false s t)
    ∧ (∀ p ∈ fpBinTable, ∀ ty, exec (p.1 d a b ty) s = .next t → Stopped s t ∨ RegFrame [] [d] [] true s t)
    ∧ (∀ p ∈ fpCmpTable, ∀ ty, exec (p.1 d a b ty) s = .next t → Stopped s t ∨ RegFrame [d] [] [] true s t)
    ∧ (∀ p ∈ signTable, ∀ ty, exec (p.1 d a b ty) s = .next t → Stopped s t ∨ RegFrame [] [d] [] false s t)
    ∧ (∀ p ∈ fusedTable, exec (p.1 d a b e) s = .next t → Stopped s t ∨ RegFrame [] [d] [] true s t)
    ∧ (∀ p ∈ laneBinTable, ∀ ty, exec (p.1 d a b ty) s = .next t → Stopped s t ∨ VecFrame [d] [a, b] s t)
    ∧ (∀ p ∈ laneUnTable, ∀ ty, exec (p.1 d a ty) s = .next t → Stopped s t ∨ VecFrame [d] [a] s t)
    ∧ (∀ p ∈ laneTriTable, exec (p.1 d a b e) s = .next t → Stopped s t ∨ VecFrame [d] [a, b, e] s t)
    ∧ (∀ p ∈ reduceTable, ∀ ty, exec (p.1 d a ty) s = .next t → Stopped s t ∨ VecFrame [d] [a] s t)
    ∧ (∀ ty, exec (.fsqrt d a ty) s = .next t → Stopped s t ∨ RegFrame [] [d] [] true s t)
    ∧ (∀ ty, exec (.fclass d a ty) s = .next t ∨ exec (.fmvxf d a ty) s = .next t → Stopped s t ∨ RegFrame [d] [] [] false s t)
    ∧ (∀ x y, exec (.fcvtf d a x y) s = .next t → Stopped s t ∨ RegFrame [] [d] [] true s t)
    ∧ (∀ z ty, exec (.fcvtfi d a z ty) s = .next t → Stopped s t ∨ RegFrame [d] [] [] true s t)
    ∧ (∀ z ty, exec (.fcvtif d a z ty) s = .next t → Stopped s t ∨ RegFrame [] [d] [a] true s t)
    ∧ (∀ ty, exec (.fmvfx d a ty) s = .next t → Stopped s t ∨ RegFrame [] [d] [a] false s t)
    ∧ (∀ x y, exec (.vcvt d a x y) s = .next t → Stopped s t ∨ VecFrame [d] [a] s t)
    ∧ (∀ ty, exec (.vsel d a b ty) s = .next t → Stopped s t ∨ LaneFrame [d] [d, a, b] [] [] false s t)
    ∧ (∀ ty, exec (.vperm d a b ty) s = .next t → Stopped s t ∨ LaneFrame [d] [a, b] [] [] false s t)
    ∧ (∀ ty, exec (.vbcl d a b ty) s = .next t → Stopped s t ∨ LaneFrame [d] [a] [] [b] false s t)
    ∧ (∀ ty, exec (.vextx d a b ty) s = .next t → Stopped s t ∨ LaneFrame [] [a] [d] [b] false s t)
    ∧ (∀ ty, exec (.vinsx d a b ty) s = .next t → Stopped s t ∨ LaneFrame [d] [d] [] [a, b] false s t)
    ∧ (exec (.vmov d a) s = .next t → Stopped s t ∨ LaneFrame [d] [a] [] [] false s t)
    ∧ (exec (.vzero d) s = .next t → Stopped s t ∨ LaneFrame [d] [] [] [] false s t)
    ∧ ∀ ty, exec (.vrand d ty) s = .next t → Stopped s t ∨ LaneFrame [d] [] [] [] true s t

/-- R105, R110, R111, R116, R118, R119, R293: a load that hits leaves every byte of memory as it was; a store or an atomic to a line that
the core owns, in long mode to four lines, changes
exactly the bytes it stores, at the physical address of its virtual address, and they read back as what was stored. -/
def Obligations.MemoryFrames : Prop :=
  (∀ p ∈ loadTable, ∀ (s : State) (d a : Reg) (i : BitVec 16) (va : Word) (k1 k2 : Core) (v : Nat) (t : State), CoresSorted s →
    AddrI (s.core s.cur) a i va k1 → va.toNat % p.2.1 = 0 → Loads (s.setCore s.cur k1) va p.2.1 v t → Dest (t.core s.cur) d (p.2.2 v) k2 →
      ∃ u, exec (p.1 d a i) s = .next u ∧ SameBytes s u)
  ∧ (∀ p ∈ storeTable, ∀ (s : State) (a b : Reg) (i : BitVec 16) (va v : Word) (k1 k2 : Core) (pa : Nat) (l : L1Line), CoresSorted s →
    AddrI (s.core s.cur) a i va k1 → Source k1 b v k2 → va.toNat % p.2 = 0 → OwnsAt (s.setCore s.cur k2) .write va p.2 pa l →
      ∃ u, exec (p.1 a b i) s = .next u ∧ StoredBytes s u pa p.2 (v.toNat % 2 ^ (8 * p.2)))
  ∧ (∀ (s : State) (a b : Reg) (i : BitVec 16) (va v : Word) (k1 : Core) (pa : Nat) (l : L1Line), CoresSorted s →
    AddrI (s.core s.cur) a i va k1 → FSource k1 b v → va.toNat % 8 = 0 → OwnsAt (s.setCore s.cur k1) .write va 8 pa l →
      ∃ u, exec (.fsd a b i) s = .next u ∧ StoredBytes s u pa 8 v.toNat)
  ∧ (∀ p ∈ amoTable, ∀ (s : State) (d a b : Reg) (w : Width) (va v : Word) (k1 k2 k3 : Core) (pa old : Nat) (l : L1Line), CoresSorted s →
    Source (s.core s.cur) a va k1 → Source k1 b v k2 → va.toNat % (amoBits w / 8) = 0 → OwnsAt (s.setCore s.cur k2) .amo va (amoBits w / 8) pa l →
    old = bitsOf l.data.toNat (8 * (pa % 64)) (amoBits w) → Dest k2 d (BitVec.ofInt 64 (sextNat old (amoBits w))) k3 →
      ∃ u, exec (p.1 d a b w) s = .next u
        ∧ StoredBytes s u pa (amoBits w / 8) (p.2 (amoBits w) old (v.toNat % 2 ^ amoBits w) % 2 ^ amoBits w))
  ∧ (∀ (s : State) (d a b : Reg) (va : Word) (k1 k2 : Core) (v pa : Nat) (l : L1Line), CoresSorted s → OneMode (s.core s.cur) false [d] →
    AddrX (s.core s.cur) a b va k1 → VSource k1 false d v k2 → va.toNat % 32 = 0 → OwnsAt (s.setCore s.cur k2) .write va 32 pa l →
      ∃ u, exec (.vst d a b) s = .next u ∧ StoredBytes s u pa 32 v)
  ∧ (∀ (s : State) (d a b : Reg) (va : Word) (k1 k2 : Core) (v : Nat) (t : State) (pa : Nat → Nat), CoresSorted s →
    OneMode (s.core s.cur) true [d] → AddrX (s.core s.cur) a b va k1 → VSource k1 true d v k2 → va.toNat % 256 = 0 →
    StoresLong (s.setCore s.cur k2) va v t →
    (∀ i < 4, ∃ l, OwnsAt (s.setCore s.cur k2) .write (va + BitVec.ofNat 64 (64 * i)) 64 (pa i) l) →
      ∃ u, exec (.vst d a b) s = .next u ∧ (∀ i < 4, u.bytes (pa i) 64 = bitsOf v (512 * i) 512)
        ∧ ∀ q, (∀ i < 4, Outside (pa i) 64 q) → u.byte q = s.byte q)
  ∧ (∀ (s : State) (d a : Reg) (i : BitVec 16) (va : Word) (k1 : Core) (v : Nat) (t : State), CoresSorted s →
    AddrI (s.core s.cur) a i va k1 → va.toNat % 8 = 0 → Loads (s.setCore s.cur k1) va 8 v t →
      ∃ u, exec (.fld d a i) s = .next u ∧ SameBytes s u)
  ∧ (∀ (s : State) (d a b : Reg) (va : Word) (k1 : Core) (v : Nat) (t : State), CoresSorted s →
    AddrX (s.core s.cur) a b va k1 → va.toNat % 4 = 0 → Loads (s.setCore s.cur k1) va 4 v t →
      ∃ u, exec (.flw d a b) s = .next u ∧ SameBytes s u)
  ∧ (∀ (s : State) (d a b : Reg) (va : Word) (long : Bool) (k1 k2 : Core) (v : Nat) (t : State), CoresSorted s →
    OneMode (s.core s.cur) long [d] → AddrX (s.core s.cur) a b va k1 → va.toNat % vecBytes long = 0 →
    (if long then LoadsLong (s.setCore s.cur k1) va v t else Loads (s.setCore s.cur k1) va 32 v t) → VDest (t.core s.cur) long d v k2 →
      ∃ u, exec (.vld d a b) s = .next u ∧ SameBytes s u)
  ∧ (∀ (s : State) (d a b : Reg) (va v : Word) (k1 : Core) (pa : Nat) (l : L1Line), CoresSorted s →
    AddrX (s.core s.cur) a b va k1 → FSource k1 d v → va.toNat % 4 = 0 → OwnsAt (s.setCore s.cur k1) .write va 4 pa l →
      ∃ u, exec (.fsw d a b) s = .next u ∧ StoredBytes s u pa 4 (v.toNat % 2 ^ 32))
  ∧ (∀ (s : State) (d a b : Reg) (w : Width) (va c v : Word) (k1 k2 k3 k4 : Core) (pa old : Nat) (l : L1Line), CoresSorted s →
    Source (s.core s.cur) a va k1 → Source k1 b c k2 → Source k2 d v k3 → va.toNat % (amoBits w / 8) = 0 →
    OwnsAt (s.setCore s.cur k3) .amo va (amoBits w / 8) pa l → old = bitsOf l.data.toNat (8 * (pa % 64)) (amoBits w) →
    Dest k3 d (BitVec.ofInt 64 (sextNat old (amoBits w))) k4 →
      ∃ u, exec (.amocas d a b w) s = .next u
        ∧ StoredBytes s u pa (amoBits w / 8) (if old = c.toNat % 2 ^ amoBits w then v.toNat % 2 ^ amoBits w else old))
  ∧ ∀ (s : State) (d a b : Reg) (w : Width) (va v : Word) (k1 : Core) (pa old : Nat) (r : Nat × FFlags) (l : L1Line), CoresSorted s →
    Source (s.core s.cur) a va k1 → FSource k1 b v → va.toNat % (amoBits w / 8) = 0 →
    OwnsAt (s.setCore s.cur k1) .amo va (amoBits w / 8) pa l → old = bitsOf l.data.toNat (8 * (pa % 64)) (amoBits w) →
    r = fpBin .add (if amoBits w = 64 then .f64 else .f32) ⟨(modesOf k1).rm, false, false, true⟩ old (v.toNat % 2 ^ amoBits w) →
      ∃ u, exec (.amofadd d a b w) s = .next u ∧ StoredBytes s u pa (amoBits w / 8) (r.1 % 2 ^ amoBits w)

/-- From every state whose memory is in its canonical form and whose cores stand in order, every step that goes on leaves such a state,
whatever turn the agenda names: an instruction of any core, or any event. -/
def Obligations.EveryStepKeepsTheInvariant : Prop :=
  ∀ (s t : State), Inv s → step s = .next t → Inv t
end

