-- ==== Sys2Proof/Laws/PerInstr.lean ====
section
/-! SUPPORT. Laws/PerInstr.lean: of every constructor, that its word, where it has one, is a word of 32 bits; the events have none. -/
namespace Sys2Proof.Laws.Fits
open Sys2Proof

/-- The word of the instruction, where it has one, fits in 32 bits (R53). -/
def Statement (i : Instr) : Prop := ∀ w, encode i = some w → w < 2 ^ 32

/-- Format A (R53). -/
theorem packA_lt {maj op : Nat} (d a b e : Reg) (hm : maj < 64) (ho : op < 64) : packA maj op d a b e < 2 ^ 32 := by
  unfold packA
  omega
/-- Format A with a code in field e. -/
theorem packC_lt {maj op e : Nat} (d a b : Reg) (hm : maj < 64) (ho : op < 64) (he : e < 32) : packC maj op d a b e < 2 ^ 32 := by
  unfold packC
  omega
/-- Format A with codes in fields b and e. -/
theorem packCC_lt {maj op b e : Nat} (d a : Reg) (hm : maj < 64) (ho : op < 64) (hb : b < 32) (he : e < 32) :
    packCC maj op d a b e < 2 ^ 32 := by
  unfold packCC
  omega
/-- Formats I and B. -/
theorem packI_lt {maj i : Nat} (d a : Reg) (hm : maj < 64) (hi : i < 65536) : packI maj d a i < 2 ^ 32 := by
  unfold packI
  omega
/-- Format Q. -/
theorem packQ_lt {op ch e : Nat} (d a : Reg) (ho : op < 64) (hc : ch < 64) (he : e < 16) : packQ op d a ch e < 2 ^ 32 := by
  unfold packQ
  omega
/-- A format code of the matrix unit has three bits. -/
theorem matFmt_code_lt (f : MatFmt) : f.code < 8 := by cases f <;> decide
/-- Format M. -/
theorem packM_lt {op src : Nat} (t : BitVec 2) (fa : MatFmt) (a b : Reg) (fb : MatFmt) (ta : BitVec 2) (ho : op < 16) (hs : src < 4) :
    packM op t fa a b fb src ta < 2 ^ 32 := by
  have h1 := matFmt_code_lt fa
  have h2 := matFmt_code_lt fb
  unfold packM
  omega
/-- Format H. -/
theorem packH_lt {k p : Nat} (hk : k < 8) (hp : p < 2 ^ 23) : packH k p < 2 ^ 32 := by
  unfold packH
  omega
/-- A type code is below 14 (R62). -/
theorem ty_code_lt (t : Ty) : t.code < 14 := by cases t <;> decide
/-- The payload of an HMOD has 23 bits (R68). -/
theorem hmod_payload_lt (m : HMod) : m.payload < 2 ^ 23 := by
  cases m with
  | rm r => simp only [HMod.payload]; omega
  | sat b => cases b <;> decide
  | na => decide
  | ftz f d => cases f <;> cases d <;> decide

theorem add (d a b : Reg) : Statement (.add d a b) := by
  intro w h
  cases h
  exact packA_lt _ _ _ _ (by decide) (by decide)
theorem sub (d a b : Reg) : Statement (.sub d a b) := by
  intro w h
  cases h
  exact packA_lt _ _ _ _ (by decide) (by decide)
theorem and (d a b : Reg) : Statement (.and d a b) := by
  intro w h
  cases h
  exact packA_lt _ _ _ _ (by decide) (by decide)
theorem or (d a b : Reg) : Statement (.or d a b) := by
  intro w h
  cases h
  exact packA_lt _ _ _ _ (by decide) (by decide)
theorem xor (d a b : Reg) : Statement (.xor d a b) := by
  intro w h
  cases h
  exact packA_lt _ _ _ _ (by decide) (by decide)
theorem andn (d a b : Reg) : Statement (.andn d a b) := by
  intro w h
  cases h
  exact packA_lt _ _ _ _ (by decide) (by decide)
theorem sll (d a b : Reg) : Statement (.sll d a b) := by
  intro w h
  cases h
  exact packA_lt _ _ _ _ (by decide) (by decide)
theorem srl (d a b : Reg) : Statement (.srl d a b) := by
  intro w h
  cases h
  exact packA_lt _ _ _ _ (by decide) (by decide)
theorem sra (d a b : Reg) : Statement (.sra d a b) := by
  intro w h
  cases h
  exact packA_lt _ _ _ _ (by decide) (by decide)
theorem rol (d a b : Reg) : Statement (.rol d a b) := by
  intro w h
  cases h
  exact packA_lt _ _ _ _ (by decide) (by decide)
theorem ror (d a b : Reg) : Statement (.ror d a b) := by
  intro w h
  cases h
  exact packA_lt _ _ _ _ (by decide) (by decide)
theorem slt (d a b : Reg) : Statement (.slt d a b) := by
  intro w h
  cases h
  exact packA_lt _ _ _ _ (by decide) (by decide)
theorem sltu (d a b : Reg) : Statement (.sltu d a b) := by
  intro w h
  cases h
  exact packA_lt _ _ _ _ (by decide) (by decide)
theorem min (d a b : Reg) : Statement (.min d a b) := by
  intro w h
  cases h
  exact packA_lt _ _ _ _ (by decide) (by decide)
theorem max (d a b : Reg) : Statement (.max d a b) := by
  intro w h
  cases h
  exact packA_lt _ _ _ _ (by decide) (by decide)
theorem minu (d a b : Reg) : Statement (.minu d a b) := by
  intro w h
  cases h
  exact packA_lt _ _ _ _ (by decide) (by decide)
theorem maxu (d a b : Reg) : Statement (.maxu d a b) := by
  intro w h
  cases h
  exact packA_lt _ _ _ _ (by decide) (by decide)
theorem mul (d a b : Reg) : Statement (.mul d a b) := by
  intro w h
  cases h
  exact packA_lt _ _ _ _ (by decide) (by decide)
theorem mulh (d a b : Reg) : Statement (.mulh d a b) := by
  intro w h
  cases h
  exact packA_lt _ _ _ _ (by decide) (by decide)
theorem mulhu (d a b : Reg) : Statement (.mulhu d a b) := by
  intro w h
  cases h
  exact packA_lt _ _ _ _ (by decide) (by decide)
theorem div (d a b : Reg) : Statement (.div d a b) := by
  intro w h
  cases h
  exact packA_lt _ _ _ _ (by decide) (by decide)
theorem divu (d a b : Reg) : Statement (.divu d a b) := by
  intro w h
  cases h
  exact packA_lt _ _ _ _ (by decide) (by decide)
theorem rem (d a b : Reg) : Statement (.rem d a b) := by
  intro w h
  cases h
  exact packA_lt _ _ _ _ (by decide) (by decide)
theorem remu (d a b : Reg) : Statement (.remu d a b) := by
  intro w h
  cases h
  exact packA_lt _ _ _ _ (by decide) (by decide)
theorem addw (d a b : Reg) : Statement (.addw d a b) := by
  intro w h
  cases h
  exact packA_lt _ _ _ _ (by decide) (by decide)
theorem subw (d a b : Reg) : Statement (.subw d a b) := by
  intro w h
  cases h
  exact packA_lt _ _ _ _ (by decide) (by decide)
theorem mulw (d a b : Reg) : Statement (.mulw d a b) := by
  intro w h
  cases h
  exact packA_lt _ _ _ _ (by decide) (by decide)
theorem cnt (d a : Reg) : Statement (.cnt d a) := by
  intro w h
  cases h
  exact packA_lt _ _ _ _ (by decide) (by decide)
theorem clz (d a : Reg) : Statement (.clz d a) := by
  intro w h
  cases h
  exact packA_lt _ _ _ _ (by decide) (by decide)
theorem ctz (d a : Reg) : Statement (.ctz d a) := by
  intro w h
  cases h
  exact packA_lt _ _ _ _ (by decide) (by decide)
theorem bswap (d a : Reg) : Statement (.bswap d a) := by
  intro w h
  cases h
  exact packA_lt _ _ _ _ (by decide) (by decide)
theorem sel (d a b e : Reg) : Statement (.sel d a b e) := by
  intro w h
  cases h
  exact packA_lt _ _ _ _ (by decide) (by decide)
theorem addi (d a : Reg) (i : BitVec 16) : Statement (.addi d a i) := by
  intro w h
  cases h
  exact packI_lt _ _ (by decide) (by omega)
theorem andi (d a : Reg) (i : BitVec 16) : Statement (.andi d a i) := by
  intro w h
  cases h
  exact packI_lt _ _ (by decide) (by omega)
theorem ori (d a : Reg) (i : BitVec 16) : Statement (.ori d a i) := by
  intro w h
  cases h
  exact packI_lt _ _ (by decide) (by omega)
theorem xori (d a : Reg) (i : BitVec 16) : Statement (.xori d a i) := by
  intro w h
  cases h
  exact packI_lt _ _ (by decide) (by omega)
theorem slti (d a : Reg) (i : BitVec 16) : Statement (.slti d a i) := by
  intro w h
  cases h
  exact packI_lt _ _ (by decide) (by omega)
theorem sltiu (d a : Reg) (i : BitVec 16) : Statement (.sltiu d a i) := by
  intro w h
  cases h
  exact packI_lt _ _ (by decide) (by omega)
theorem slli (d a : Reg) (sh : BitVec 6) : Statement (.slli d a sh) := by
  intro w h
  cases h
  exact packI_lt _ _ (by decide) (by omega)
theorem srli (d a : Reg) (sh : BitVec 6) : Statement (.srli d a sh) := by
  intro w h
  cases h
  exact packI_lt _ _ (by decide) (by omega)
theorem srai (d a : Reg) (sh : BitVec 6) : Statement (.srai d a sh) := by
  intro w h
  cases h
  exact packI_lt _ _ (by decide) (by omega)
theorem lui (d : Reg) (i : BitVec 16) : Statement (.lui d i) := by
  intro w h
  cases h
  exact packI_lt _ _ (by decide) (by omega)
theorem auipc (d : Reg) (i : BitVec 16) : Statement (.auipc d i) := by
  intro w h
  cases h
  exact packI_lt _ _ (by decide) (by omega)
theorem follow (l : BitVec 2) : Statement (.follow l) := by
  intro w h
  cases h
  exact packC_lt _ _ _ (by decide) (by decide) (by omega)
theorem detach : Statement (.detach) := by
  intro w h
  cases h
  exact packA_lt _ _ _ _ (by decide) (by decide)
theorem sysrd (d : Reg) (id : BitVec 12) : Statement (.sysrd d id) := by
  intro w h
  cases h
  exact packI_lt _ _ (by decide) (by omega)
theorem syswr (a : Reg) (id : BitVec 12) : Statement (.syswr a id) := by
  intro w h
  cases h
  exact packI_lt _ _ (by decide) (by omega)
theorem beq (a b : Reg) (i : BitVec 16) : Statement (.beq a b i) := by
  intro w h
  cases h
  exact packI_lt _ _ (by decide) (by omega)
theorem bne (a b : Reg) (i : BitVec 16) : Statement (.bne a b i) := by
  intro w h
  cases h
  exact packI_lt _ _ (by decide) (by omega)
theorem blt (a b : Reg) (i : BitVec 16) : Statement (.blt a b i) := by
  intro w h
  cases h
  exact packI_lt _ _ (by decide) (by omega)
theorem bge (a b : Reg) (i : BitVec 16) : Statement (.bge a b i) := by
  intro w h
  cases h
  exact packI_lt _ _ (by decide) (by omega)
theorem bltu (a b : Reg) (i : BitVec 16) : Statement (.bltu a b i) := by
  intro w h
  cases h
  exact packI_lt _ _ (by decide) (by omega)
theorem bgeu (a b : Reg) (i : BitVec 16) : Statement (.bgeu a b i) := by
  intro w h
  cases h
  exact packI_lt _ _ (by decide) (by omega)
theorem jal (off : BitVec 26) : Statement (.jal off) := by
  intro w h
  cases h
  omega
theorem jalr (d a : Reg) (i : BitVec 16) : Statement (.jalr d a i) := by
  intro w h
  cases h
  exact packI_lt _ _ (by decide) (by omega)
theorem ld (d a : Reg) (i : BitVec 16) : Statement (.ld d a i) := by
  intro w h
  cases h
  exact packI_lt _ _ (by decide) (by omega)
theorem lw (d a : Reg) (i : BitVec 16) : Statement (.lw d a i) := by
  intro w h
  cases h
  exact packI_lt _ _ (by decide) (by omega)
theorem lwu (d a : Reg) (i : BitVec 16) : Statement (.lwu d a i) := by
  intro w h
  cases h
  exact packI_lt _ _ (by decide) (by omega)
theorem lh (d a : Reg) (i : BitVec 16) : Statement (.lh d a i) := by
  intro w h
  cases h
  exact packI_lt _ _ (by decide) (by omega)
theorem lhu (d a : Reg) (i : BitVec 16) : Statement (.lhu d a i) := by
  intro w h
  cases h
  exact packI_lt _ _ (by decide) (by omega)
theorem lb (d a : Reg) (i : BitVec 16) : Statement (.lb d a i) := by
  intro w h
  cases h
  exact packI_lt _ _ (by decide) (by omega)
theorem lbu (d a : Reg) (i : BitVec 16) : Statement (.lbu d a i) := by
  intro w h
  cases h
  exact packI_lt _ _ (by decide) (by omega)
theorem fld (d a : Reg) (i : BitVec 16) : Statement (.fld d a i) := by
  intro w h
  cases h
  exact packI_lt _ _ (by decide) (by omega)
theorem sd (a b : Reg) (i : BitVec 16) : Statement (.sd a b i) := by
  intro w h
  cases h
  exact packI_lt _ _ (by decide) (by omega)
theorem sw (a b : Reg) (i : BitVec 16) : Statement (.sw a b i) := by
  intro w h
  cases h
  exact packI_lt _ _ (by decide) (by omega)
theorem sh (a b : Reg) (i : BitVec 16) : Statement (.sh a b i) := by
  intro w h
  cases h
  exact packI_lt _ _ (by decide) (by omega)
theorem sb (a b : Reg) (i : BitVec 16) : Statement (.sb a b i) := by
  intro w h
  cases h
  exact packI_lt _ _ (by decide) (by omega)
theorem fsd (a b : Reg) (i : BitVec 16) : Statement (.fsd a b i) := by
  intro w h
  cases h
  exact packI_lt _ _ (by decide) (by omega)
theorem sld (d a : Reg) (q : LoadQ) (i : BitVec 14) : Statement (.sld d a q i) := by
  intro w h
  cases h
  exact packI_lt _ _ (by decide) (by cases q <;> simp only [LoadQ.code] <;> omega)
theorem sst (a b : Reg) (q : StoreQ) (i : BitVec 14) : Statement (.sst a b q i) := by
  intro w h
  cases h
  exact packI_lt _ _ (by decide) (by cases q <;> simp only [StoreQ.code] <;> omega)
theorem vld (d a b : Reg) : Statement (.vld d a b) := by
  intro w h
  cases h
  exact packA_lt _ _ _ _ (by decide) (by decide)
theorem vst (d a b : Reg) : Statement (.vst d a b) := by
  intro w h
  cases h
  exact packA_lt _ _ _ _ (by decide) (by decide)
theorem vsld (d a b : Reg) (q : LoadQ) : Statement (.vsld d a b q) := by
  intro w h
  cases h
  exact packC_lt _ _ _ (by decide) (by decide) (by cases q <;> decide)
theorem vsst (d a b : Reg) (q : StoreQ) : Statement (.vsst d a b q) := by
  intro w h
  cases h
  exact packC_lt _ _ _ (by decide) (by decide) (by cases q <;> decide)
theorem vldbc (d a b : Reg) (s : Size) : Statement (.vldbc d a b s) := by
  intro w h
  cases h
  exact packC_lt _ _ _ (by decide) (by decide) (by cases s <;> decide)
theorem flw (d a b : Reg) : Statement (.flw d a b) := by
  intro w h
  cases h
  exact packA_lt _ _ _ _ (by decide) (by decide)
theorem fsw (d a b : Reg) : Statement (.fsw d a b) := by
  intro w h
  cases h
  exact packA_lt _ _ _ _ (by decide) (by decide)
theorem qld (a b e : Reg) : Statement (.qld a b e) := by
  intro w h
  cases h
  exact packA_lt _ _ _ _ (by decide) (by decide)
theorem qst (a b e : Reg) : Statement (.qst a b e) := by
  intro w h
  cases h
  exact packA_lt _ _ _ _ (by decide) (by decide)
theorem pref (a b : Reg) : Statement (.pref a b) := by
  intro w h
  cases h
  exact packA_lt _ _ _ _ (by decide) (by decide)
theorem cflush (a b : Reg) : Statement (.cflush a b) := by
  intro w h
  cases h
  exact packA_lt _ _ _ _ (by decide) (by decide)
theorem amoadd (d a b : Reg) (w : Width) : Statement (.amoadd d a b w) := by
  intro w h
  cases h
  exact packC_lt _ _ _ (by decide) (by decide) (by cases w <;> decide)
theorem amoand (d a b : Reg) (w : Width) : Statement (.amoand d a b w) := by
  intro w h
  cases h
  exact packC_lt _ _ _ (by decide) (by decide) (by cases w <;> decide)
theorem amoor (d a b : Reg) (w : Width) : Statement (.amoor d a b w) := by
  intro w h
  cases h
  exact packC_lt _ _ _ (by decide) (by decide) (by cases w <;> decide)
theorem amoxor (d a b : Reg) (w : Width) : Statement (.amoxor d a b w) := by
  intro w h
  cases h
  exact packC_lt _ _ _ (by decide) (by decide) (by cases w <;> decide)
theorem amomin (d a b : Reg) (w : Width) : Statement (.amomin d a b w) := by
  intro w h
  cases h
  exact packC_lt _ _ _ (by decide) (by decide) (by cases w <;> decide)
theorem amomax (d a b : Reg) (w : Width) : Statement (.amomax d a b w) := by
  intro w h
  cases h
  exact packC_lt _ _ _ (by decide) (by decide) (by cases w <;> decide)
theorem amominu (d a b : Reg) (w : Width) : Statement (.amominu d a b w) := by
  intro w h
  cases h
  exact packC_lt _ _ _ (by decide) (by decide) (by cases w <;> decide)
theorem amomaxu (d a b : Reg) (w : Width) : Statement (.amomaxu d a b w) := by
  intro w h
  cases h
  exact packC_lt _ _ _ (by decide) (by decide) (by cases w <;> decide)
theorem amoswap (d a b : Reg) (w : Width) : Statement (.amoswap d a b w) := by
  intro w h
  cases h
  exact packC_lt _ _ _ (by decide) (by decide) (by cases w <;> decide)
theorem amocas (d a b : Reg) (w : Width) : Statement (.amocas d a b w) := by
  intro w h
  cases h
  exact packC_lt _ _ _ (by decide) (by decide) (by cases w <;> decide)
theorem amofadd (d a b : Reg) (w : Width) : Statement (.amofadd d a b w) := by
  intro w h
  cases h
  exact packC_lt _ _ _ (by decide) (by decide) (by cases w <;> decide)
theorem fence (s : Scope) : Statement (.fence s) := by
  intro w h
  cases h
  exact packC_lt _ _ _ (by decide) (by decide) (by cases s <;> decide)
theorem fencej (s : Scope) : Statement (.fencej s) := by
  intro w h
  cases h
  exact packC_lt _ _ _ (by decide) (by decide) (by cases s <;> decide)
theorem wfe : Statement (.wfe) := by
  intro w h
  cases h
  exact packA_lt _ _ _ _ (by decide) (by decide)
theorem send (d a : Reg) (ch : BitVec 6) (len : BitVec 4) : Statement (.send d a ch len) := by
  intro w h
  cases h
  exact packQ_lt _ _ (by decide) (by omega) (by omega)
theorem sendv (d a : Reg) (ch : BitVec 6) : Statement (.sendv d a ch) := by
  intro w h
  cases h
  exact packQ_lt _ _ (by decide) (by omega) (by decide)
theorem sendnz (d a : Reg) (ch : BitVec 6) (t : Ty) : Statement (.sendnz d a ch t) := by
  intro w h
  cases h
  exact packQ_lt _ _ (by decide) (by omega) (Nat.lt_trans (ty_code_lt _) (by decide))
theorem hret : Statement (.hret) := by
  intro w h
  cases h
  exact packQ_lt _ _ (by decide) (by decide) (by decide)
theorem hyield : Statement (.hyield) := by
  intro w h
  cases h
  exact packQ_lt _ _ (by decide) (by decide) (by decide)
theorem hbind (a : Reg) (ch : BitVec 6) (prio : BitVec 4) : Statement (.hbind a ch prio) := by
  intro w h
  cases h
  exact packQ_lt _ _ (by decide) (by omega) (by omega)
theorem hunbind (ch : BitVec 6) : Statement (.hunbind ch) := by
  intro w h
  cases h
  exact packQ_lt _ _ (by decide) (by omega) (by decide)
theorem hmask (ch : BitVec 6) : Statement (.hmask ch) := by
  intro w h
  cases h
  exact packQ_lt _ _ (by decide) (by omega) (by decide)
theorem hunmask (ch : BitVec 6) : Statement (.hunmask ch) := by
  intro w h
  cases h
  exact packQ_lt _ _ (by decide) (by omega) (by decide)
theorem hpend (ch : BitVec 6) : Statement (.hpend ch) := by
  intro w h
  cases h
  exact packQ_lt _ _ (by decide) (by omega) (by decide)
theorem hquery (d : Reg) (ch : BitVec 6) : Statement (.hquery d ch) := by
  intro w h
  cases h
  exact packQ_lt _ _ (by decide) (by omega) (by decide)
theorem watch (d a : Reg) (ch : BitVec 6) (w : Width) : Statement (.watch d a ch w) := by
  intro w h
  cases h
  exact packQ_lt _ _ (by decide) (by omega) (by cases w <;> decide)
theorem rsend (d : Reg) (ch : BitVec 6) (len : BitVec 4) : Statement (.rsend d ch len) := by
  intro w h
  cases h
  exact packQ_lt _ _ (by decide) (by omega) (by omega)
theorem japp (a b : Reg) : Statement (.japp a b) := by
  intro w h
  cases h
  exact packA_lt _ _ _ _ (by decide) (by decide)
theorem jwait (a b : Reg) : Statement (.jwait a b) := by
  intro w h
  cases h
  exact packA_lt _ _ _ _ (by decide) (by decide)
theorem jpoll (d a : Reg) : Statement (.jpoll d a) := by
  intro w h
  cases h
  exact packA_lt _ _ _ _ (by decide) (by decide)
theorem jabort (a : Reg) : Statement (.jabort a) := by
  intro w h
  cases h
  exact packA_lt _ _ _ _ (by decide) (by decide)
theorem kapp (a b : Reg) : Statement (.kapp a b) := by
  intro w h
  cases h
  exact packA_lt _ _ _ _ (by decide) (by decide)
theorem kwait (a b : Reg) : Statement (.kwait a b) := by
  intro w h
  cases h
  exact packA_lt _ _ _ _ (by decide) (by decide)
theorem lfork (d a : Reg) : Statement (.lfork d a) := by
  intro w h
  cases h
  exact packA_lt _ _ _ _ (by decide) (by decide)
theorem ldrop (a : Reg) : Statement (.ldrop a) := by
  intro w h
  cases h
  exact packA_lt _ _ _ _ (by decide) (by decide)
theorem lwr (a b e : Reg) : Statement (.lwr a b e) := by
  intro w h
  cases h
  exact packA_lt _ _ _ _ (by decide) (by decide)
theorem lrd (d a b : Reg) : Statement (.lrd d a b) := by
  intro w h
  cases h
  exact packA_lt _ _ _ _ (by decide) (by decide)
theorem lstat (d a : Reg) : Statement (.lstat d a) := by
  intro w h
  cases h
  exact packA_lt _ _ _ _ (by decide) (by decide)
theorem stash (a b e : Reg) : Statement (.stash a b e) := by
  intro w h
  cases h
  exact packA_lt _ _ _ _ (by decide) (by decide)
theorem restore (a b e : Reg) : Statement (.restore a b e) := by
  intro w h
  cases h
  exact packA_lt _ _ _ _ (by decide) (by decide)
theorem sstat (d a : Reg) : Statement (.sstat d a) := by
  intro w h
  cases h
  exact packA_lt _ _ _ _ (by decide) (by decide)
theorem barr (d a : Reg) : Statement (.barr d a) := by
  intro w h
  cases h
  exact packA_lt _ _ _ _ (by decide) (by decide)
theorem bwait (a b : Reg) : Statement (.bwait a b) := by
  intro w h
  cases h
  exact packA_lt _ _ _ _ (by decide) (by decide)
theorem barw (a : Reg) : Statement (.barw a) := by
  intro w h
  cases h
  exact packA_lt _ _ _ _ (by decide) (by decide)
theorem binit (a b e : Reg) : Statement (.binit a b e) := by
  intro w h
  cases h
  exact packA_lt _ _ _ _ (by decide) (by decide)
theorem fadd (d a b : Reg) (t : Ty) : Statement (.fadd d a b t) := by
  intro w h
  cases h
  exact packC_lt _ _ _ (by decide) (by decide) (Nat.lt_trans (ty_code_lt _) (by decide))
theorem fsub (d a b : Reg) (t : Ty) : Statement (.fsub d a b t) := by
  intro w h
  cases h
  exact packC_lt _ _ _ (by decide) (by decide) (Nat.lt_trans (ty_code_lt _) (by decide))
theorem fmul (d a b : Reg) (t : Ty) : Statement (.fmul d a b t) := by
  intro w h
  cases h
  exact packC_lt _ _ _ (by decide) (by decide) (Nat.lt_trans (ty_code_lt _) (by decide))
theorem fdiv (d a b : Reg) (t : Ty) : Statement (.fdiv d a b t) := by
  intro w h
  cases h
  exact packC_lt _ _ _ (by decide) (by decide) (Nat.lt_trans (ty_code_lt _) (by decide))
theorem fsqrt (d a : Reg) (t : Ty) : Statement (.fsqrt d a t) := by
  intro w h
  cases h
  exact packC_lt _ _ _ (by decide) (by decide) (Nat.lt_trans (ty_code_lt _) (by decide))
theorem fmin (d a b : Reg) (t : Ty) : Statement (.fmin d a b t) := by
  intro w h
  cases h
  exact packC_lt _ _ _ (by decide) (by decide) (Nat.lt_trans (ty_code_lt _) (by decide))
theorem fmax (d a b : Reg) (t : Ty) : Statement (.fmax d a b t) := by
  intro w h
  cases h
  exact packC_lt _ _ _ (by decide) (by decide) (Nat.lt_trans (ty_code_lt _) (by decide))
theorem feq (d a b : Reg) (t : Ty) : Statement (.feq d a b t) := by
  intro w h
  cases h
  exact packC_lt _ _ _ (by decide) (by decide) (Nat.lt_trans (ty_code_lt _) (by decide))
theorem flt (d a b : Reg) (t : Ty) : Statement (.flt d a b t) := by
  intro w h
  cases h
  exact packC_lt _ _ _ (by decide) (by decide) (Nat.lt_trans (ty_code_lt _) (by decide))
theorem fle (d a b : Reg) (t : Ty) : Statement (.fle d a b t) := by
  intro w h
  cases h
  exact packC_lt _ _ _ (by decide) (by decide) (Nat.lt_trans (ty_code_lt _) (by decide))
theorem fclass (d a : Reg) (t : Ty) : Statement (.fclass d a t) := by
  intro w h
  cases h
  exact packC_lt _ _ _ (by decide) (by decide) (Nat.lt_trans (ty_code_lt _) (by decide))
theorem fsgnj (d a b : Reg) (t : Ty) : Statement (.fsgnj d a b t) := by
  intro w h
  cases h
  exact packC_lt _ _ _ (by decide) (by decide) (Nat.lt_trans (ty_code_lt _) (by decide))
theorem fsgnjn (d a b : Reg) (t : Ty) : Statement (.fsgnjn d a b t) := by
  intro w h
  cases h
  exact packC_lt _ _ _ (by decide) (by decide) (Nat.lt_trans (ty_code_lt _) (by decide))
theorem fsgnjx (d a b : Reg) (t : Ty) : Statement (.fsgnjx d a b t) := by
  intro w h
  cases h
  exact packC_lt _ _ _ (by decide) (by decide) (Nat.lt_trans (ty_code_lt _) (by decide))
theorem fcvtf (d a : Reg) (src dst : Ty) : Statement (.fcvtf d a src dst) := by
  intro w h
  cases h
  exact packCC_lt _ _ (by decide) (by decide) (by cases src <;> decide) (by cases dst <;> decide)
theorem fcvtfi (d a : Reg) (k : IntKind) (t : Ty) : Statement (.fcvtfi d a k t) := by
  intro w h
  cases h
  exact packCC_lt _ _ (by decide) (by decide) (by cases k <;> decide) (Nat.lt_trans (ty_code_lt _) (by decide))
theorem fcvtif (d a : Reg) (k : IntKind) (t : Ty) : Statement (.fcvtif d a k t) := by
  intro w h
  cases h
  exact packCC_lt _ _ (by decide) (by decide) (by cases k <;> decide) (Nat.lt_trans (ty_code_lt _) (by decide))
theorem fmvxf (d a : Reg) (t : Ty) : Statement (.fmvxf d a t) := by
  intro w h
  cases h
  exact packC_lt _ _ _ (by decide) (by decide) (Nat.lt_trans (ty_code_lt _) (by decide))
theorem fmvfx (d a : Reg) (t : Ty) : Statement (.fmvfx d a t) := by
  intro w h
  cases h
  exact packC_lt _ _ _ (by decide) (by decide) (Nat.lt_trans (ty_code_lt _) (by decide))
theorem fmaddD (d a b e : Reg) : Statement (.fmaddD d a b e) := by
  intro w h
  cases h
  exact packA_lt _ _ _ _ (by decide) (by decide)
theorem fmsubD (d a b e : Reg) : Statement (.fmsubD d a b e) := by
  intro w h
  cases h
  exact packA_lt _ _ _ _ (by decide) (by decide)
theorem fnmaddD (d a b e : Reg) : Statement (.fnmaddD d a b e) := by
  intro w h
  cases h
  exact packA_lt _ _ _ _ (by decide) (by decide)
theorem fnmsubD (d a b e : Reg) : Statement (.fnmsubD d a b e) := by
  intro w h
  cases h
  exact packA_lt _ _ _ _ (by decide) (by decide)
theorem fmaddS (d a b e : Reg) : Statement (.fmaddS d a b e) := by
  intro w h
  cases h
  exact packA_lt _ _ _ _ (by decide) (by decide)
theorem fmsubS (d a b e : Reg) : Statement (.fmsubS d a b e) := by
  intro w h
  cases h
  exact packA_lt _ _ _ _ (by decide) (by decide)
theorem fnmaddS (d a b e : Reg) : Statement (.fnmaddS d a b e) := by
  intro w h
  cases h
  exact packA_lt _ _ _ _ (by decide) (by decide)
theorem fnmsubS (d a b e : Reg) : Statement (.fnmsubS d a b e) := by
  intro w h
  cases h
  exact packA_lt _ _ _ _ (by decide) (by decide)
theorem vadd (d a b : Reg) (t : Ty) : Statement (.vadd d a b t) := by
  intro w h
  cases h
  exact packC_lt _ _ _ (by decide) (by decide) (Nat.lt_trans (ty_code_lt _) (by decide))
theorem vsub (d a b : Reg) (t : Ty) : Statement (.vsub d a b t) := by
  intro w h
  cases h
  exact packC_lt _ _ _ (by decide) (by decide) (Nat.lt_trans (ty_code_lt _) (by decide))
theorem vmul (d a b : Reg) (t : Ty) : Statement (.vmul d a b t) := by
  intro w h
  cases h
  exact packC_lt _ _ _ (by decide) (by decide) (Nat.lt_trans (ty_code_lt _) (by decide))
theorem vmin (d a b : Reg) (t : Ty) : Statement (.vmin d a b t) := by
  intro w h
  cases h
  exact packC_lt _ _ _ (by decide) (by decide) (Nat.lt_trans (ty_code_lt _) (by decide))
theorem vmax (d a b : Reg) (t : Ty) : Statement (.vmax d a b t) := by
  intro w h
  cases h
  exact packC_lt _ _ _ (by decide) (by decide) (Nat.lt_trans (ty_code_lt _) (by decide))
theorem vand (d a b : Reg) (t : Ty) : Statement (.vand d a b t) := by
  intro w h
  cases h
  exact packC_lt _ _ _ (by decide) (by decide) (Nat.lt_trans (ty_code_lt _) (by decide))
theorem vor (d a b : Reg) (t : Ty) : Statement (.vor d a b t) := by
  intro w h
  cases h
  exact packC_lt _ _ _ (by decide) (by decide) (Nat.lt_trans (ty_code_lt _) (by decide))
theorem vxor (d a b : Reg) (t : Ty) : Statement (.vxor d a b t) := by
  intro w h
  cases h
  exact packC_lt _ _ _ (by decide) (by decide) (Nat.lt_trans (ty_code_lt _) (by decide))
theorem vsll (d a b : Reg) (t : Ty) : Statement (.vsll d a b t) := by
  intro w h
  cases h
  exact packC_lt _ _ _ (by decide) (by decide) (Nat.lt_trans (ty_code_lt _) (by decide))
theorem vsrl (d a b : Reg) (t : Ty) : Statement (.vsrl d a b t) := by
  intro w h
  cases h
  exact packC_lt _ _ _ (by decide) (by decide) (Nat.lt_trans (ty_code_lt _) (by decide))
theorem vsra (d a b : Reg) (t : Ty) : Statement (.vsra d a b t) := by
  intro w h
  cases h
  exact packC_lt _ _ _ (by decide) (by decide) (Nat.lt_trans (ty_code_lt _) (by decide))
theorem vcmpeq (d a b : Reg) (t : Ty) : Statement (.vcmpeq d a b t) := by
  intro w h
  cases h
  exact packC_lt _ _ _ (by decide) (by decide) (Nat.lt_trans (ty_code_lt _) (by decide))
theorem vcmplt (d a b : Reg) (t : Ty) : Statement (.vcmplt d a b t) := by
  intro w h
  cases h
  exact packC_lt _ _ _ (by decide) (by decide) (Nat.lt_trans (ty_code_lt _) (by decide))
theorem vcmple (d a b : Reg) (t : Ty) : Statement (.vcmple d a b t) := by
  intro w h
  cases h
  exact packC_lt _ _ _ (by decide) (by decide) (Nat.lt_trans (ty_code_lt _) (by decide))
theorem vsel (d a b : Reg) (t : Ty) : Statement (.vsel d a b t) := by
  intro w h
  cases h
  exact packC_lt _ _ _ (by decide) (by decide) (Nat.lt_trans (ty_code_lt _) (by decide))
theorem vabs (d a : Reg) (t : Ty) : Statement (.vabs d a t) := by
  intro w h
  cases h
  exact packC_lt _ _ _ (by decide) (by decide) (Nat.lt_trans (ty_code_lt _) (by decide))
theorem vneg (d a : Reg) (t : Ty) : Statement (.vneg d a t) := by
  intro w h
  cases h
  exact packC_lt _ _ _ (by decide) (by decide) (Nat.lt_trans (ty_code_lt _) (by decide))
theorem vcvt (d a : Reg) (src dst : Ty) : Statement (.vcvt d a src dst) := by
  intro w h
  cases h
  exact packCC_lt _ _ (by decide) (by decide) (by cases src <;> decide) (by cases dst <;> decide)
theorem vredsum (d a : Reg) (t : Ty) : Statement (.vredsum d a t) := by
  intro w h
  cases h
  exact packC_lt _ _ _ (by decide) (by decide) (Nat.lt_trans (ty_code_lt _) (by decide))
theorem vredmax (d a : Reg) (t : Ty) : Statement (.vredmax d a t) := by
  intro w h
  cases h
  exact packC_lt _ _ _ (by decide) (by decide) (Nat.lt_trans (ty_code_lt _) (by decide))
theorem vredmin (d a : Reg) (t : Ty) : Statement (.vredmin d a t) := by
  intro w h
  cases h
  exact packC_lt _ _ _ (by decide) (by decide) (Nat.lt_trans (ty_code_lt _) (by decide))
theorem vperm (d a b : Reg) (t : Ty) : Statement (.vperm d a b t) := by
  intro w h
  cases h
  exact packC_lt _ _ _ (by decide) (by decide) (Nat.lt_trans (ty_code_lt _) (by decide))
theorem vbcl (d a b : Reg) (t : Ty) : Statement (.vbcl d a b t) := by
  intro w h
  cases h
  exact packC_lt _ _ _ (by decide) (by decide) (Nat.lt_trans (ty_code_lt _) (by decide))
theorem vextx (d a b : Reg) (t : Ty) : Statement (.vextx d a b t) := by
  intro w h
  cases h
  exact packC_lt _ _ _ (by decide) (by decide) (Nat.lt_trans (ty_code_lt _) (by decide))
theorem vinsx (d a b : Reg) (t : Ty) : Statement (.vinsx d a b t) := by
  intro w h
  cases h
  exact packC_lt _ _ _ (by decide) (by decide) (Nat.lt_trans (ty_code_lt _) (by decide))
theorem vmov (d a : Reg) : Statement (.vmov d a) := by
  intro w h
  cases h
  exact packA_lt _ _ _ _ (by decide) (by decide)
theorem vcnt (d a : Reg) (t : Ty) : Statement (.vcnt d a t) := by
  intro w h
  cases h
  exact packC_lt _ _ _ (by decide) (by decide) (Nat.lt_trans (ty_code_lt _) (by decide))
theorem vzero (d : Reg) : Statement (.vzero d) := by
  intro w h
  cases h
  exact packA_lt _ _ _ _ (by decide) (by decide)
theorem vfmaF64 (d a b e : Reg) : Statement (.vfmaF64 d a b e) := by
  intro w h
  cases h
  exact packA_lt _ _ _ _ (by decide) (by decide)
theorem vfmaF32 (d a b e : Reg) : Statement (.vfmaF32 d a b e) := by
  intro w h
  cases h
  exact packA_lt _ _ _ _ (by decide) (by decide)
theorem vfmaF16 (d a b e : Reg) : Statement (.vfmaF16 d a b e) := by
  intro w h
  cases h
  exact packA_lt _ _ _ _ (by decide) (by decide)
theorem vfmaBf16 (d a b e : Reg) : Statement (.vfmaBf16 d a b e) := by
  intro w h
  cases h
  exact packA_lt _ _ _ _ (by decide) (by decide)
theorem vfmsF64 (d a b e : Reg) : Statement (.vfmsF64 d a b e) := by
  intro w h
  cases h
  exact packA_lt _ _ _ _ (by decide) (by decide)
theorem vfmsF32 (d a b e : Reg) : Statement (.vfmsF32 d a b e) := by
  intro w h
  cases h
  exact packA_lt _ _ _ _ (by decide) (by decide)
theorem vdot4I8 (d a b e : Reg) : Statement (.vdot4I8 d a b e) := by
  intro w h
  cases h
  exact packA_lt _ _ _ _ (by decide) (by decide)
theorem vdot2Bf16 (d a b e : Reg) : Statement (.vdot2Bf16 d a b e) := by
  intro w h
  cases h
  exact packA_lt _ _ _ _ (by decide) (by decide)
theorem vexp (d a : Reg) (t : Ty) : Statement (.vexp d a t) := by
  intro w h
  cases h
  exact packC_lt _ _ _ (by decide) (by decide) (Nat.lt_trans (ty_code_lt _) (by decide))
theorem vexp2 (d a : Reg) (t : Ty) : Statement (.vexp2 d a t) := by
  intro w h
  cases h
  exact packC_lt _ _ _ (by decide) (by decide) (Nat.lt_trans (ty_code_lt _) (by decide))
theorem vlog2 (d a : Reg) (t : Ty) : Statement (.vlog2 d a t) := by
  intro w h
  cases h
  exact packC_lt _ _ _ (by decide) (by decide) (Nat.lt_trans (ty_code_lt _) (by decide))
theorem vrcp (d a : Reg) (t : Ty) : Statement (.vrcp d a t) := by
  intro w h
  cases h
  exact packC_lt _ _ _ (by decide) (by decide) (Nat.lt_trans (ty_code_lt _) (by decide))
theorem vrsqrt (d a : Reg) (t : Ty) : Statement (.vrsqrt d a t) := by
  intro w h
  cases h
  exact packC_lt _ _ _ (by decide) (by decide) (Nat.lt_trans (ty_code_lt _) (by decide))
theorem vtanh (d a : Reg) (t : Ty) : Statement (.vtanh d a t) := by
  intro w h
  cases h
  exact packC_lt _ _ _ (by decide) (by decide) (Nat.lt_trans (ty_code_lt _) (by decide))
theorem vsigm (d a : Reg) (t : Ty) : Statement (.vsigm d a t) := by
  intro w h
  cases h
  exact packC_lt _ _ _ (by decide) (by decide) (Nat.lt_trans (ty_code_lt _) (by decide))
theorem vrand (d : Reg) (t : Ty) : Statement (.vrand d t) := by
  intro w h
  cases h
  exact packC_lt _ _ _ (by decide) (by decide) (Nat.lt_trans (ty_code_lt _) (by decide))
theorem lvon : Statement (.lvon) := by
  intro w h
  cases h
  exact packA_lt _ _ _ _ (by decide) (by decide)
theorem lvoff : Statement (.lvoff) := by
  intro w h
  cases h
  exact packA_lt _ _ _ _ (by decide) (by decide)
theorem lvqry (d : Reg) : Statement (.lvqry d) := by
  intro w h
  cases h
  exact packA_lt _ _ _ _ (by decide) (by decide)
theorem mmulSp (t : BitVec 2) (fa : MatFmt) (a b : Reg) (fb : MatFmt) : Statement (.mmulSp t fa a b fb) := by
  intro w h
  cases h
  exact packM_lt _ _ _ _ _ _ (by decide) (by decide)
theorem mmulAcc (t : BitVec 2) (fa : MatFmt) (a b : Reg) (fb : MatFmt) (ta : BitVec 2) : Statement (.mmulAcc t fa a b fb ta) := by
  intro w h
  cases h
  exact packM_lt _ _ _ _ _ _ (by decide) (by decide)
theorem mmulzSp (t : BitVec 2) (fa : MatFmt) (a b : Reg) (fb : MatFmt) : Statement (.mmulzSp t fa a b fb) := by
  intro w h
  cases h
  exact packM_lt _ _ _ _ _ _ (by decide) (by decide)
theorem mmulzAcc (t : BitVec 2) (fa : MatFmt) (a b : Reg) (fb : MatFmt) (ta : BitVec 2) : Statement (.mmulzAcc t fa a b fb ta) := by
  intro w h
  cases h
  exact packM_lt _ _ _ _ _ _ (by decide) (by decide)
theorem mzero (d : Reg) (c : TileClass) : Statement (.mzero d c) := by
  intro w h
  cases h
  exact packC_lt _ _ _ (by decide) (by decide) (by cases c <;> decide)
theorem mload (d a b : Reg) (t : Ty) : Statement (.mload d a b t) := by
  intro w h
  cases h
  exact packC_lt _ _ _ (by decide) (by decide) (Nat.lt_trans (ty_code_lt _) (by decide))
theorem mstore (d a b : Reg) (t : Ty) : Statement (.mstore d a b t) := by
  intro w h
  cases h
  exact packC_lt _ _ _ (by decide) (by decide) (Nat.lt_trans (ty_code_lt _) (by decide))
theorem mscacc (d a b e : Reg) : Statement (.mscacc d a b e) := by
  intro w h
  cases h
  exact packA_lt _ _ _ _ (by decide) (by decide)
theorem mcvt (d : Reg) (c : TileClass) : Statement (.mcvt d c) := by
  intro w h
  cases h
  exact packC_lt _ _ _ (by decide) (by decide) (by cases c <;> decide)
theorem mcopy (d a : Reg) : Statement (.mcopy d a) := by
  intro w h
  cases h
  exact packA_lt _ _ _ _ (by decide) (by decide)
theorem mflags (d : Reg) : Statement (.mflags d) := by
  intro w h
  cases h
  exact packA_lt _ _ _ _ (by decide) (by decide)
theorem bpq (d a b : Reg) (m : BitVec 5) : Statement (.bpq d a b m) := by
  intro w h
  cases h
  exact packA_lt _ _ _ _ (by decide) (by decide)
theorem bpdq (d a b : Reg) (m : BitVec 5) : Statement (.bpdq d a b m) := by
  intro w h
  cases h
  exact packA_lt _ _ _ _ (by decide) (by decide)
theorem bpack (d a : Reg) (m : BitVec 5) : Statement (.bpack d a m) := by
  intro w h
  cases h
  exact packA_lt _ _ _ _ (by decide) (by decide)
theorem bunpack (d a : Reg) (m : BitVec 5) : Statement (.bunpack d a m) := by
  intro w h
  cases h
  exact packA_lt _ _ _ _ (by decide) (by decide)
theorem bpmaxe (d a : Reg) : Statement (.bpmaxe d a) := by
  intro w h
  cases h
  exact packA_lt _ _ _ _ (by decide) (by decide)
theorem ecall : Statement (.ecall) := by
  intro w h
  cases h
  exact packA_lt _ _ _ _ (by decide) (by decide)
theorem eret : Statement (.eret) := by
  intro w h
  cases h
  exact packA_lt _ _ _ _ (by decide) (by decide)
theorem brk : Statement (.brk) := by
  intro w h
  cases h
  exact packA_lt _ _ _ _ (by decide) (by decide)
theorem wfi : Statement (.wfi) := by
  intro w h
  cases h
  exact packA_lt _ _ _ _ (by decide) (by decide)
theorem tlbinv (a b : Reg) (k : TlbKind) : Statement (.tlbinv a b k) := by
  intro w h
  cases h
  exact packC_lt _ _ _ (by decide) (by decide) (by cases k <;> decide)
theorem ptload (a : Reg) (sel : BitVec 5) : Statement (.ptload a sel) := by
  intro w h
  cases h
  exact packA_lt _ _ _ _ (by decide) (by decide)
theorem halt : Statement (.halt) := by
  intro w h
  cases h
  exact packA_lt _ _ _ _ (by decide) (by decide)
theorem himm (p : BitVec 23) : Statement (.himm p) := by
  intro w h
  cases h
  exact packH_lt (by decide) (by omega)
theorem hmod (m : HMod) : Statement (.hmod m) := by
  intro w h
  cases h
  exact packH_lt (by decide) (hmod_payload_lt _)
theorem hsched (first : Bool) : Statement (.hsched first) := by
  intro w h
  cases h
  exact packH_lt (by decide) (by cases first <;> decide)
theorem rep (c : BitVec 6) (ds as bs : BitVec 3) : Statement (.rep c ds as bs) := by
  intro w h
  cases h
  exact packH_lt (by decide) (by omega)
theorem realign (n : BitVec 5) : Statement (.realign n) := by
  intro w h
  cases h
  exact packH_lt (by decide) (by omega)
theorem illegalWord (w : IWord) : Statement (.illegalWord w) := by
  intro w h
  cases h
theorem fetchFault (cause : Nat) (va : Word) : Statement (.fetchFault cause va) := by
  intro w h
  cases h
theorem followJoin (c : Nat) : Statement (.followJoin c) := by
  intro w h
  cases h
theorem followTimeout (c : Nat) : Statement (.followTimeout c) := by
  intro w h
  cases h
theorem realignJoin (c : Nat) : Statement (.realignJoin c) := by
  intro w h
  cases h
theorem realignTimeout (c : Nat) : Statement (.realignTimeout c) := by
  intro w h
  cases h
theorem wfeWake (c : Nat) : Statement (.wfeWake c) := by
  intro w h
  cases h
theorem wfeTimeout (c : Nat) : Statement (.wfeTimeout c) := by
  intro w h
  cases h
theorem loadStreamFetch (c : Nat) : Statement (.loadStreamFetch c) := by
  intro w h
  cases h
theorem storeStreamWrite (c : Nat) : Statement (.storeStreamWrite c) := by
  intro w h
  cases h
theorem matrixRetire (c : Nat) : Statement (.matrixRetire c) := by
  intro w h
  cases h
theorem remoteStoreAck (k : Nat) : Statement (.remoteStoreAck k) := by
  intro w h
  cases h
theorem vqoPushArrival (k : Nat) : Statement (.vqoPushArrival k) := by
  intro w h
  cases h
theorem stageCreditArrival (k : Nat) : Statement (.stageCreditArrival k) := by
  intro w h
  cases h
theorem stageCreditRevoke (k : Nat) : Statement (.stageCreditRevoke k) := by
  intro w h
  cases h
theorem messageDelivery (k : Nat) : Statement (.messageDelivery k) := by
  intro w h
  cases h
theorem spillHoldRelease (k : Nat) : Statement (.spillHoldRelease k) := by
  intro w h
  cases h
theorem activationStart (c : Nat) : Statement (.activationStart c) := by
  intro w h
  cases h
theorem systemChannelEntry (c : Nat) : Statement (.systemChannelEntry c) := by
  intro w h
  cases h
theorem remoteLoad (c : Nat) : Statement (.remoteLoad c) := by
  intro w h
  cases h
theorem remoteStore (c : Nat) : Statement (.remoteStore c) := by
  intro w h
  cases h
theorem remoteCopy (c : Nat) : Statement (.remoteCopy c) := by
  intro w h
  cases h
theorem remoteAtomic (c : Nat) : Statement (.remoteAtomic c) := by
  intro w h
  cases h
theorem reductionPartial (c : Nat) : Statement (.reductionPartial c) := by
  intro w h
  cases h
theorem barrierArrival (k : Nat) : Statement (.barrierArrival k) := by
  intro w h
  cases h
theorem childArrival (k : Nat) : Statement (.childArrival k) := by
  intro w h
  cases h
theorem barrierRelease (k : Nat) : Statement (.barrierRelease k) := by
  intro w h
  cases h
theorem barrierWait (k : Nat) : Statement (.barrierWait k) := by
  intro w h
  cases h
theorem barrierWaitRetry (k : Nat) : Statement (.barrierWaitRetry k) := by
  intro w h
  cases h
theorem pageWalk (bay : Nat) : Statement (.pageWalk bay) := by
  intro w h
  cases h
theorem rd (k : Nat) : Statement (.rd k) := by
  intro w h
  cases h
theorem rdx (k : Nat) : Statement (.rdx k) := by
  intro w h
  cases h
theorem wb (c line : Nat) : Statement (.wb c line) := by
  intro w h
  cases h
theorem drop (c line : Nat) : Statement (.drop c line) := by
  intro w h
  cases h
theorem rack (k : Nat) : Statement (.rack k) := by
  intro w h
  cases h
theorem timeout (h base : Nat) : Statement (.timeout h base) := by
  intro w h
  cases h
theorem rst (k : Nat) : Statement (.rst k) := by
  intro w h
  cases h
theorem ramo (k : Nat) : Statement (.ramo k) := by
  intro w h
  cases h
theorem lexp (h base agent : Nat) : Statement (.lexp h base agent) := by
  intro w h
  cases h
theorem fenced (h base agent : Nat) : Statement (.fenced h base agent) := by
  intro w h
  cases h
theorem protoRetry (k : Nat) : Statement (.protoRetry k) := by
  intro w h
  cases h
theorem regionMerge (h base : Nat) : Statement (.regionMerge h base) := by
  intro w h
  cases h
theorem grants (k : Nat) : Statement (.grants k) := by
  intro w h
  cases h
theorem grantx (k : Nat) : Statement (.grantx k) := by
  intro w h
  cases h
theorem ackw (k : Nat) : Statement (.ackw k) := by
  intro w h
  cases h
theorem ownerRecall (k : Nat) : Statement (.ownerRecall k) := by
  intro w h
  cases h
theorem downgrade (k : Nat) : Statement (.downgrade k) := by
  intro w h
  cases h
theorem upd (k : Nat) : Statement (.upd k) := by
  intro w h
  cases h
theorem inv (k : Nat) : Statement (.inv k) := by
  intro w h
  cases h
theorem amores (k : Nat) : Statement (.amores k) := by
  intro w h
  cases h
theorem leaseRenewal (h base agent : Nat) : Statement (.leaseRenewal h base agent) := by
  intro w h
  cases h
theorem heartbeatLoss (agent : Nat) : Statement (.heartbeatLoss agent) := by
  intro w h
  cases h
theorem meridianPulse (agent localTime : Nat) : Statement (.meridianPulse agent localTime) := by
  intro w h
  cases h
theorem halyardSilence (agent : Nat) : Statement (.halyardSilence agent) := by
  intro w h
  cases h
theorem hostSnoop (line : Nat) (invalidate : Bool) (data : Option Line) : Statement (.hostSnoop line invalidate data) := by
  intro w h
  cases h
theorem hostMemAccess (pa n : Nat) (store : Option Word) : Statement (.hostMemAccess pa n store) := by
  intro w h
  cases h
theorem doorbellWrite (die qnum addr : Nat) : Statement (.doorbellWrite die qnum addr) := by
  intro w h
  cases h
theorem jobStart (die cls : Nat) : Statement (.jobStart die cls) := by
  intro w h
  cases h
theorem copy (die k : Nat) : Statement (.copy die k) := by
  intro w h
  cases h
theorem copyt (die k : Nat) : Statement (.copyt die k) := by
  intro w h
  cases h
theorem fill (die k : Nat) : Statement (.fill die k) := by
  intro w h
  cases h
theorem lz4x (die k : Nat) : Statement (.lz4x die k) := by
  intro w h
  cases h
theorem lz4c (die k : Nat) : Statement (.lz4c die k) := by
  intro w h
  cases h
theorem crc (die k : Nat) : Statement (.crc die k) := by
  intro w h
  cases h
theorem lflatten (die k : Nat) : Statement (.lflatten die k) := by
  intro w h
  cases h
theorem lrebase (die k : Nat) : Statement (.lrebase die k) := by
  intro w h
  cases h
theorem ldiff (die k : Nat) : Statement (.ldiff die k) := by
  intro w h
  cases h
theorem lresolve (die k : Nat) : Statement (.lresolve die k) := by
  intro w h
  cases h
theorem cksave (die k : Nat) : Statement (.cksave die k) := by
  intro w h
  cases h
theorem ckload (die k : Nat) : Statement (.ckload die k) := by
  intro w h
  cases h
theorem cardRetire (die k : Nat) : Statement (.cardRetire die k) := by
  intro w h
  cases h
theorem stashOperation (die k : Nat) : Statement (.stashOperation die k) := by
  intro w h
  cases h
theorem restoreOperation (die k : Nat) : Statement (.restoreOperation die k) := by
  intro w h
  cases h
theorem launchDeal (die k : Nat) : Statement (.launchDeal die k) := by
  intro w h
  cases h
theorem groupPlacement (c : Nat) : Statement (.groupPlacement c) := by
  intro w h
  cases h
theorem launchComplete (die k : Nat) : Statement (.launchComplete die k) := by
  intro w h
  cases h
theorem balanceExchange (die : Nat) : Statement (.balanceExchange die) := by
  intro w h
  cases h
theorem gangReserve (die : Nat) : Statement (.gangReserve die) := by
  intro w h
  cases h
theorem sliceExpiry (c : Nat) : Statement (.sliceExpiry c) := by
  intro w h
  cases h
theorem preemptionRequest (c : Nat) : Statement (.preemptionRequest c) := by
  intro w h
  cases h
theorem saveComplete (c : Nat) : Statement (.saveComplete c) := by
  intro w h
  cases h
theorem groupResume (c : Nat) : Statement (.groupResume c) := by
  intro w h
  cases h
theorem preempt (die : Nat) (v : Word) (w : Writer) : Statement (.preempt die v w) := by
  intro w h
  cases h
theorem fcmdAssign (die : Nat) (v : Word) : Statement (.fcmdAssign die v) := by
  intro w h
  cases h
theorem fcmdRelease (die : Nat) (v : Word) : Statement (.fcmdRelease die v) := by
  intro w h
  cases h
theorem fcmdRetire (die : Nat) (v : Word) : Statement (.fcmdRetire die v) := by
  intro w h
  cases h
theorem zeroingComplete (die frame : Nat) : Statement (.zeroingComplete die frame) := by
  intro w h
  cases h
theorem create (v : Word) : Statement (.create v) := by
  intro w h
  cases h
theorem start (v : Word) : Statement (.start v) := by
  intro w h
  cases h
theorem stop (v : Word) : Statement (.stop v) := by
  intro w h
  cases h
theorem resume (v : Word) : Statement (.resume v) := by
  intro w h
  cases h
theorem destroy (v : Word) : Statement (.destroy v) := by
  intro w h
  cases h
theorem contextDrained (ctx : Nat) : Statement (.contextDrained ctx) := by
  intro w h
  cases h
theorem lcmdEnable (p : Nat) : Statement (.lcmdEnable p) := by
  intro w h
  cases h
theorem lcmdDisable (p : Nat) : Statement (.lcmdDisable p) := by
  intro w h
  cases h
theorem lcmdUnfence (p : Nat) : Statement (.lcmdUnfence p) := by
  intro w h
  cases h
theorem lcmdRetrain (p : Nat) : Statement (.lcmdRetrain p) := by
  intro w h
  cases h
theorem lctlWrite (p : Nat) (v : Word) (w : Writer) : Statement (.lctlWrite p v w) := by
  intro w h
  cases h
theorem trainingEnd (p : Nat) (good : Nat) : Statement (.trainingEnd p good) := by
  intro w h
  cases h
theorem trainingTimeout (p : Nat) : Statement (.trainingTimeout p) := by
  intro w h
  cases h
theorem retrainEnd (p : Nat) (good : Nat) : Statement (.retrainEnd p good) := by
  intro w h
  cases h
theorem retrainTimeout (p : Nat) : Statement (.retrainTimeout p) := by
  intro w h
  cases h
theorem laneErrorLimit (p lane : Nat) : Statement (.laneErrorLimit p lane) := by
  intro w h
  cases h
theorem dataFlit (p : Nat) (flit : List Byte) : Statement (.dataFlit p flit) := by
  intro w h
  cases h
theorem nak (p : Nat) (flit : List Byte) : Statement (.nak p flit) := by
  intro w h
  cases h
theorem idleAckFlit (p : Nat) (flit : List Byte) : Statement (.idleAckFlit p flit) := by
  intro w h
  cases h
theorem heartbeatFlit (p : Nat) (flit : List Byte) : Statement (.heartbeatFlit p flit) := by
  intro w h
  cases h
theorem fenceNotice (p : Nat) (flit : List Byte) : Statement (.fenceNotice p flit) := by
  intro w h
  cases h
theorem compSample (p : Nat) : Statement (.compSample p) := by
  intro w h
  cases h
theorem halyardHeartbeat (pkt : BitVec 128) : Statement (.halyardHeartbeat pkt) := by
  intro w h
  cases h
theorem halyardRestart (pkt : BitVec 128) : Statement (.halyardRestart pkt) := by
  intro w h
  cases h
theorem halyardResync (pkt : BitVec 128) : Statement (.halyardResync pkt) := by
  intro w h
  cases h
theorem halyardFenceNotice (pkt : BitVec 128) : Statement (.halyardFenceNotice pkt) := by
  intro w h
  cases h
theorem deviceReset : Statement (.deviceReset) := by
  intro w h
  cases h
theorem powerWindow (watts : Nat) : Statement (.powerWindow watts) := by
  intro w h
  cases h
theorem correctedError (kind unit loc detail : Nat) : Statement (.correctedError kind unit loc detail) := by
  intro w h
  cases h
theorem uncorrectableError (pa : Nat) : Statement (.uncorrectableError pa) := by
  intro w h
  cases h
theorem watchdogExpiry (c : Nat) : Statement (.watchdogExpiry c) := by
  intro w h
  cases h
theorem registerWrite (off : Nat) (v : Word) (w : Writer) : Statement (.registerWrite off v w) := by
  intro w h
  cases h
theorem corePowerGating (c : Nat) : Statement (.corePowerGating c) := by
  intro w h
  cases h
theorem coreFailure (c : Nat) : Statement (.coreFailure c) := by
  intro w h
  cases h

end Sys2Proof.Laws.Fits

theorem Sys2Proof.Laws.Fits.recall (h base : Nat) : Sys2Proof.Laws.Fits.Statement (.recall h base) := by
  intro w h
  cases h
end

