-- ==== Sys2Proof/Laws/Prim.lean ====
section
/-! SUPPORT. Laws/Prim.lean: laws of keyed lists, of the canonical byte store, and of reading back what was written. -/
namespace Sys2Proof.Machine

/-! ## Keyed lists -/

/-- A key reads back what was put at it. -/
@[simp] theorem lookupK_insertK_self {α : Type} (l : List (Nat × α)) (k : Nat) (v : α) : lookupK (insertK l k v) k = some v := by
  induction l with
  | nil => simp [insertK, lookupK]
  | cons p r ih =>
    obtain ⟨j, w⟩ := p
    unfold insertK
    split
    · simp [lookupK]
    · split
      · simp [lookupK]
      · simp only [lookupK]
        rw [if_neg (by assumption)]
        exact ih

/-- Other keys read as before. -/
theorem lookupK_insertK_ne {α : Type} (l : List (Nat × α)) {k q : Nat} (v : α) (h : q ≠ k) :
    lookupK (insertK l k v) q = lookupK l q := by
  induction l with
  | nil => simp [insertK, lookupK, Ne.symm h]
  | cons p r ih =>
    obtain ⟨j, w⟩ := p
    unfold insertK
    split
    · simp [lookupK, Ne.symm h]
    · split
      · rename_i hj
        subst hj
        simp [lookupK, Ne.symm h]
      · simp only [lookupK]
        split
        · rfl
        · exact ih

/-- Putting twice at a key is putting the second value. -/
@[simp] theorem insertK_insertK {α : Type} (l : List (Nat × α)) (k : Nat) (v w : α) :
    insertK (insertK l k v) k w = insertK l k w := by
  induction l with
  | nil => simp [insertK]
  | cons p r ih =>
    obtain ⟨j, x⟩ := p
    by_cases h1 : k < j
    · simp [insertK, h1]
    · by_cases h2 : j = k
      · subst h2
        simp [insertK]
      · simp [insertK, h1, h2, ih]

/-! ## The canonical byte store -/

/-- A lower bound may be lowered. -/
theorem cellsFrom_mono {m : List Host.Cell} {a b : Nat} (hab : a ≤ b) (h : cellsFrom b m = true) : cellsFrom a m = true := by
  cases m with
  | nil => rfl
  | cons p r =>
    obtain ⟨j, x⟩ := p
    simp only [cellsFrom, Bool.and_eq_true, decide_eq_true_eq] at h ⊢
    exact ⟨⟨le_trans hab h.1.1, h.1.2⟩, h.2⟩

/-- Nothing is listed below the bound. -/
theorem lookupK_none_of_cellsFrom {m : List Host.Cell} {a k : Nat} (h : cellsFrom a m = true) (hk : k < a) : lookupK m k = none := by
  induction m generalizing a with
  | nil => rfl
  | cons p r ih =>
    obtain ⟨j, x⟩ := p
    simp only [cellsFrom, Bool.and_eq_true, decide_eq_true_eq] at h
    simp only [lookupK]
    rw [if_neg (by omega)]
    exact ih h.2 (by omega)

/-- Inserting a nonzero byte keeps the form. -/
theorem cellsFrom_insertK {m : List Host.Cell} {a k : Nat} {b : Byte} (h : cellsFrom a m = true) (hk : a ≤ k) (hb : b ≠ 0) :
    cellsFrom a (insertK m k b) = true := by
  induction m generalizing a with
  | nil => simpa [insertK, cellsFrom, hk] using hb
  | cons p r ih =>
    obtain ⟨j, x⟩ := p
    simp only [cellsFrom, Bool.and_eq_true, decide_eq_true_eq] at h
    simp only [insertK]
    split
    · simp only [cellsFrom, Bool.and_eq_true, decide_eq_true_eq]
      exact ⟨⟨hk, by simpa using hb⟩, ⟨by omega, h.1.2⟩, h.2⟩
    · split
      · rename_i hj
        subst hj
        simp only [cellsFrom, Bool.and_eq_true, decide_eq_true_eq]
        exact ⟨⟨hk, by simpa using hb⟩, h.2⟩
      · simp only [cellsFrom, Bool.and_eq_true, decide_eq_true_eq]
        exact ⟨h.1, ih h.2 (by omega)⟩

/-- Removing a byte keeps the form. -/
theorem cellsFrom_removeK {m : List Host.Cell} {a k : Nat} (h : cellsFrom a m = true) : cellsFrom a (removeK m k) = true := by
  induction m generalizing a with
  | nil => rfl
  | cons p r ih =>
    obtain ⟨j, x⟩ := p
    simp only [cellsFrom, Bool.and_eq_true, decide_eq_true_eq] at h
    simp only [removeK]
    split
    · exact cellsFrom_mono (by omega) h.2
    · simp only [cellsFrom, Bool.and_eq_true, decide_eq_true_eq]
      exact ⟨h.1, ih h.2⟩

/-- Keeping some of the bytes keeps the form. -/
theorem cellsFrom_filter {m : List Host.Cell} {a : Nat} (p : Host.Cell → Bool) (h : cellsFrom a m = true) :
    cellsFrom a (m.filter p) = true := by
  induction m generalizing a with
  | nil => rfl
  | cons c r ih =>
    obtain ⟨j, x⟩ := c
    simp only [cellsFrom, Bool.and_eq_true, decide_eq_true_eq] at h
    simp only [List.filter]
    split
    · simp only [cellsFrom, Bool.and_eq_true, decide_eq_true_eq]
      exact ⟨h.1, ih h.2⟩
    · exact cellsFrom_mono (by omega) (ih h.2)

/-- Writing one byte keeps the canonical form. -/
theorem wf_cellSet {m : List Host.Cell} (a : Nat) (b : Byte) (h : Memory.wf m = true) : Memory.wf (cellSet m a b) = true := by
  unfold cellSet
  split
  · exact cellsFrom_removeK h
  · rename_i hb
    exact cellsFrom_insertK h (Nat.zero_le a) hb

/-- Writing a list of bytes keeps it. -/
theorem wf_cellSets {m : List Host.Cell} (a : Nat) (l : List Byte) (h : Memory.wf m = true) : Memory.wf (cellSets m a l) = true := by
  induction l generalizing m a with
  | nil => exact h
  | cons b r ih => exact ih (a + 1) (wf_cellSet a b h)

/-- Writing a number keeps it. -/
theorem wf_putBytes {m : List Host.Cell} (a n v : Nat) (h : Memory.wf m = true) : Memory.wf (putBytes m a n v) = true := by
  induction n with
  | zero => exact h
  | succ n ih => exact wf_cellSet _ _ ih

/-- Clearing a range keeps it. -/
theorem wf_cellClear {m : List Host.Cell} (a n : Nat) (h : Memory.wf m = true) : Memory.wf (cellClear m a n) = true :=
  cellsFrom_filter _ h

/-- Every key of a canonical store is at or above its bound. -/
theorem key_ge_of_cellsFrom {m : List Host.Cell} {a j : Nat} {b : Byte} (h : cellsFrom a m = true) (hm : (j, b) ∈ m) : a ≤ j := by
  induction m generalizing a with
  | nil => cases hm
  | cons p r ih =>
    obtain ⟨i, x⟩ := p
    simp only [cellsFrom, Bool.and_eq_true, decide_eq_true_eq] at h
    rcases List.mem_cons.mp hm with e | e
    · cases e
      exact h.1.1
    · have := ih h.2 e
      omega

/-- A removed key is listed no more. -/
theorem lookupK_removeK_self {m : List Host.Cell} {a : Nat} (k : Nat) (h : cellsFrom a m = true) : lookupK (removeK m k) k = none := by
  induction m generalizing a with
  | nil => rfl
  | cons p r ih =>
    obtain ⟨j, x⟩ := p
    simp only [cellsFrom, Bool.and_eq_true, decide_eq_true_eq] at h
    simp only [removeK]
    split
    · rename_i hj
      exact lookupK_none_of_cellsFrom h.2 (by omega)
    · rename_i hj
      simp only [lookupK, if_neg hj]
      exact ih h.2

/-- Other keys stay. -/
theorem lookupK_removeK_ne {α : Type} (m : List (Nat × α)) {k q : Nat} (h : q ≠ k) : lookupK (removeK m k) q = lookupK m q := by
  induction m with
  | nil => rfl
  | cons p r ih =>
    obtain ⟨j, x⟩ := p
    simp only [removeK]
    split
    · rename_i hj
      subst hj
      simp [lookupK, Ne.symm h]
    · simp only [lookupK]
      split
      · rfl
      · exact ih

/-- A byte reads back as it was written. -/
theorem cellGet_cellSet_self {m : List Host.Cell} (a : Nat) (b : Byte) (h : Memory.wf m = true) : cellGet (cellSet m a b) a = b := by
  unfold cellGet cellSet
  split
  · rename_i hb
    rw [lookupK_removeK_self a h, hb]
    rfl
  · simp

/-- Other bytes read as before. -/
theorem cellGet_cellSet_ne (m : List Host.Cell) {a q : Nat} (b : Byte) (h : q ≠ a) : cellGet (cellSet m a b) q = cellGet m q := by
  unfold cellGet cellSet
  split
  · rw [lookupK_removeK_ne m h]
  · rw [lookupK_insertK_ne m b h]

/-- Bytes outside a written number read as before. -/
theorem cellGet_putBytes_out (m : List Host.Cell) (a n v : Nat) {q : Nat} (h : q < a ∨ a + n ≤ q) :
    cellGet (putBytes m a n v) q = cellGet m q := by
  induction n with
  | zero => rfl
  | succ n ih =>
    simp only [putBytes]
    rw [cellGet_cellSet_ne _ _ (by omega), ih (by omega)]

/-! ## Cores -/

/-- A core reads back as it was put. -/
@[simp] theorem State.core_setCore_self (s : State) (c : Nat) (k : Core) : (s.setCore c k).core c = k := by
  simp [State.core, State.setCore]

/-- Another core is as before. -/
theorem State.core_setCore_ne (s : State) {c d : Nat} (k : Core) (h : d ≠ c) : (s.setCore c k).core d = s.core d := by
  simp [State.core, State.setCore, lookupK_insertK_ne _ _ h]

/-- Putting a core twice is putting the second one. -/
@[simp] theorem State.setCore_setCore (s : State) (c : Nat) (k q : Core) : (s.setCore c k).setCore c q = s.setCore c q := by
  simp [State.setCore]

end Sys2Proof.Machine
end

