-- ==== Sys2Proof/Laws/State.lean ====
section
/-! SUPPORT. Laws/State.lean: what each update of the package and of a core leaves alone, field by field. -/
namespace Sys2Proof.Machine

/-! ## Replacing a core -/

@[simp] theorem State.setCore_agenda (s : State) (c : Nat) (k : Core) : (s.setCore c k).agenda = s.agenda := rfl
@[simp] theorem State.setCore_cur (s : State) (c : Nat) (k : Core) : (s.setCore c k).cur = s.cur := rfl
@[simp] theorem State.setCore_cycle (s : State) (c : Nat) (k : Core) : (s.setCore c k).cycle = s.cycle := rfl
@[simp] theorem State.setCore_time (s : State) (c : Nat) (k : Core) : (s.setCore c k).time = s.time := rfl
@[simp] theorem State.setCore_free (s : State) (c : Nat) (k : Core) : (s.setCore c k).free = s.free := rfl
@[simp] theorem State.setCore_serial (s : State) (c : Nat) (k : Core) : (s.setCore c k).serial = s.serial := rfl
@[simp] theorem State.setCore_mem (s : State) (c : Nat) (k : Core) : (s.setCore c k).mem = s.mem := rfl
@[simp] theorem State.setCore_dies (s : State) (c : Nat) (k : Core) : (s.setCore c k).dies = s.dies := rfl
@[simp] theorem State.setCore_ctxs (s : State) (c : Nat) (k : Core) : (s.setCore c k).ctxs = s.ctxs := rfl
@[simp] theorem State.setCore_links (s : State) (c : Nat) (k : Core) : (s.setCore c k).links = s.links := rfl
@[simp] theorem State.setCore_plat (s : State) (c : Nat) (k : Core) : (s.setCore c k).plat = s.plat := rfl
@[simp] theorem State.setCore_agents (s : State) (c : Nat) (k : Core) : (s.setCore c k).agents = s.agents := rfl
@[simp] theorem State.setCore_net (s : State) (c : Nat) (k : Core) : (s.setCore c k).net = s.net := rfl
@[simp] theorem State.setCore_held (s : State) (c : Nat) (k : Core) : (s.setCore c k).held = s.held := rfl
@[simp] theorem State.setCore_bars (s : State) (c : Nat) (k : Core) : (s.setCore c k).bars = s.bars := rfl
@[simp] theorem State.setCore_barWaits (s : State) (c : Nat) (k : Core) : (s.setCore c k).barWaits = s.barWaits := rfl
@[simp] theorem State.setCore_watches (s : State) (c : Nat) (k : Core) : (s.setCore c k).watches = s.watches := rfl
@[simp] theorem State.setCore_walks (s : State) (c : Nat) (k : Core) : (s.setCore c k).walks = s.walks := rfl
@[simp] theorem State.setCore_ctlb (s : State) (c : Nat) (k : Core) : (s.setCore c k).ctlb = s.ctlb := rfl
@[simp] theorem State.setCore_wcache (s : State) (c : Nat) (k : Core) : (s.setCore c k).wcache = s.wcache := rfl
@[simp] theorem State.setCore_pushes (s : State) (c : Nat) (k : Core) : (s.setCore c k).pushes = s.pushes := rfl
@[simp] theorem State.setCore_credits (s : State) (c : Nat) (k : Core) : (s.setCore c k).credits = s.credits := rfl
@[simp] theorem State.setCore_reqs (s : State) (c : Nat) (k : Core) : (s.setCore c k).reqs = s.reqs := rfl
@[simp] theorem State.setCore_reps (s : State) (c : Nat) (k : Core) : (s.setCore c k).reps = s.reps := rfl
@[simp] theorem State.setCore_acks (s : State) (c : Nat) (k : Core) : (s.setCore c k).acks = s.acks := rfl
@[simp] theorem State.setCore_regions (s : State) (c : Nat) (k : Core) : (s.setCore c k).regions = s.regions := rfl
@[simp] theorem State.setCore_lines (s : State) (c : Nat) (k : Core) : (s.setCore c k).lines = s.lines := rfl
@[simp] theorem State.setCore_floors (s : State) (c : Nat) (k : Core) : (s.setCore c k).floors = s.floors := rfl
@[simp] theorem State.setCore_tables (s : State) (c : Nat) (k : Core) : (s.setCore c k).tables = s.tables := rfl
@[simp] theorem State.setCore_toHost (s : State) (c : Nat) (k : Core) : (s.setCore c k).toHost = s.toHost := rfl
@[simp] theorem State.setCore_toPeer (s : State) (c : Nat) (k : Core) : (s.setCore c k).toPeer = s.toPeer := rfl

/-! ## Replacing a die -/

@[simp] theorem State.setDie_agenda (s : State) (d : Nat) (x : Die) : (s.setDie d x).agenda = s.agenda := rfl
@[simp] theorem State.setDie_cur (s : State) (d : Nat) (x : Die) : (s.setDie d x).cur = s.cur := rfl
@[simp] theorem State.setDie_cycle (s : State) (d : Nat) (x : Die) : (s.setDie d x).cycle = s.cycle := rfl
@[simp] theorem State.setDie_time (s : State) (d : Nat) (x : Die) : (s.setDie d x).time = s.time := rfl
@[simp] theorem State.setDie_free (s : State) (d : Nat) (x : Die) : (s.setDie d x).free = s.free := rfl
@[simp] theorem State.setDie_serial (s : State) (d : Nat) (x : Die) : (s.setDie d x).serial = s.serial := rfl
@[simp] theorem State.setDie_mem (s : State) (d : Nat) (x : Die) : (s.setDie d x).mem = s.mem := rfl
@[simp] theorem State.setDie_cores (s : State) (d : Nat) (x : Die) : (s.setDie d x).cores = s.cores := rfl
@[simp] theorem State.setDie_ctxs (s : State) (d : Nat) (x : Die) : (s.setDie d x).ctxs = s.ctxs := rfl
@[simp] theorem State.setDie_links (s : State) (d : Nat) (x : Die) : (s.setDie d x).links = s.links := rfl
@[simp] theorem State.setDie_plat (s : State) (d : Nat) (x : Die) : (s.setDie d x).plat = s.plat := rfl
@[simp] theorem State.setDie_agents (s : State) (d : Nat) (x : Die) : (s.setDie d x).agents = s.agents := rfl
@[simp] theorem State.setDie_net (s : State) (d : Nat) (x : Die) : (s.setDie d x).net = s.net := rfl
@[simp] theorem State.setDie_held (s : State) (d : Nat) (x : Die) : (s.setDie d x).held = s.held := rfl
@[simp] theorem State.setDie_bars (s : State) (d : Nat) (x : Die) : (s.setDie d x).bars = s.bars := rfl
@[simp] theorem State.setDie_barWaits (s : State) (d : Nat) (x : Die) : (s.setDie d x).barWaits = s.barWaits := rfl
@[simp] theorem State.setDie_watches (s : State) (d : Nat) (x : Die) : (s.setDie d x).watches = s.watches := rfl
@[simp] theorem State.setDie_walks (s : State) (d : Nat) (x : Die) : (s.setDie d x).walks = s.walks := rfl
@[simp] theorem State.setDie_ctlb (s : State) (d : Nat) (x : Die) : (s.setDie d x).ctlb = s.ctlb := rfl
@[simp] theorem State.setDie_wcache (s : State) (d : Nat) (x : Die) : (s.setDie d x).wcache = s.wcache := rfl
@[simp] theorem State.setDie_pushes (s : State) (d : Nat) (x : Die) : (s.setDie d x).pushes = s.pushes := rfl
@[simp] theorem State.setDie_credits (s : State) (d : Nat) (x : Die) : (s.setDie d x).credits = s.credits := rfl
@[simp] theorem State.setDie_reqs (s : State) (d : Nat) (x : Die) : (s.setDie d x).reqs = s.reqs := rfl
@[simp] theorem State.setDie_reps (s : State) (d : Nat) (x : Die) : (s.setDie d x).reps = s.reps := rfl
@[simp] theorem State.setDie_acks (s : State) (d : Nat) (x : Die) : (s.setDie d x).acks = s.acks := rfl
@[simp] theorem State.setDie_regions (s : State) (d : Nat) (x : Die) : (s.setDie d x).regions = s.regions := rfl
@[simp] theorem State.setDie_lines (s : State) (d : Nat) (x : Die) : (s.setDie d x).lines = s.lines := rfl
@[simp] theorem State.setDie_floors (s : State) (d : Nat) (x : Die) : (s.setDie d x).floors = s.floors := rfl
@[simp] theorem State.setDie_tables (s : State) (d : Nat) (x : Die) : (s.setDie d x).tables = s.tables := rfl
@[simp] theorem State.setDie_toHost (s : State) (d : Nat) (x : Die) : (s.setDie d x).toHost = s.toHost := rfl
@[simp] theorem State.setDie_toPeer (s : State) (d : Nat) (x : Die) : (s.setDie d x).toPeer = s.toPeer := rfl

/-! ## Replacing a link -/

@[simp] theorem State.setLink_agenda (s : State) (p : Nat) (l : Link) : (s.setLink p l).agenda = s.agenda := rfl
@[simp] theorem State.setLink_cur (s : State) (p : Nat) (l : Link) : (s.setLink p l).cur = s.cur := rfl
@[simp] theorem State.setLink_cycle (s : State) (p : Nat) (l : Link) : (s.setLink p l).cycle = s.cycle := rfl
@[simp] theorem State.setLink_time (s : State) (p : Nat) (l : Link) : (s.setLink p l).time = s.time := rfl
@[simp] theorem State.setLink_free (s : State) (p : Nat) (l : Link) : (s.setLink p l).free = s.free := rfl
@[simp] theorem State.setLink_serial (s : State) (p : Nat) (l : Link) : (s.setLink p l).serial = s.serial := rfl
@[simp] theorem State.setLink_mem (s : State) (p : Nat) (l : Link) : (s.setLink p l).mem = s.mem := rfl
@[simp] theorem State.setLink_cores (s : State) (p : Nat) (l : Link) : (s.setLink p l).cores = s.cores := rfl
@[simp] theorem State.setLink_dies (s : State) (p : Nat) (l : Link) : (s.setLink p l).dies = s.dies := rfl
@[simp] theorem State.setLink_ctxs (s : State) (p : Nat) (l : Link) : (s.setLink p l).ctxs = s.ctxs := rfl
@[simp] theorem State.setLink_plat (s : State) (p : Nat) (l : Link) : (s.setLink p l).plat = s.plat := rfl
@[simp] theorem State.setLink_agents (s : State) (p : Nat) (l : Link) : (s.setLink p l).agents = s.agents := rfl
@[simp] theorem State.setLink_net (s : State) (p : Nat) (l : Link) : (s.setLink p l).net = s.net := rfl
@[simp] theorem State.setLink_held (s : State) (p : Nat) (l : Link) : (s.setLink p l).held = s.held := rfl
@[simp] theorem State.setLink_bars (s : State) (p : Nat) (l : Link) : (s.setLink p l).bars = s.bars := rfl
@[simp] theorem State.setLink_barWaits (s : State) (p : Nat) (l : Link) : (s.setLink p l).barWaits = s.barWaits := rfl
@[simp] theorem State.setLink_watches (s : State) (p : Nat) (l : Link) : (s.setLink p l).watches = s.watches := rfl
@[simp] theorem State.setLink_walks (s : State) (p : Nat) (l : Link) : (s.setLink p l).walks = s.walks := rfl
@[simp] theorem State.setLink_ctlb (s : State) (p : Nat) (l : Link) : (s.setLink p l).ctlb = s.ctlb := rfl
@[simp] theorem State.setLink_wcache (s : State) (p : Nat) (l : Link) : (s.setLink p l).wcache = s.wcache := rfl
@[simp] theorem State.setLink_pushes (s : State) (p : Nat) (l : Link) : (s.setLink p l).pushes = s.pushes := rfl
@[simp] theorem State.setLink_credits (s : State) (p : Nat) (l : Link) : (s.setLink p l).credits = s.credits := rfl
@[simp] theorem State.setLink_reqs (s : State) (p : Nat) (l : Link) : (s.setLink p l).reqs = s.reqs := rfl
@[simp] theorem State.setLink_reps (s : State) (p : Nat) (l : Link) : (s.setLink p l).reps = s.reps := rfl
@[simp] theorem State.setLink_acks (s : State) (p : Nat) (l : Link) : (s.setLink p l).acks = s.acks := rfl
@[simp] theorem State.setLink_regions (s : State) (p : Nat) (l : Link) : (s.setLink p l).regions = s.regions := rfl
@[simp] theorem State.setLink_lines (s : State) (p : Nat) (l : Link) : (s.setLink p l).lines = s.lines := rfl
@[simp] theorem State.setLink_floors (s : State) (p : Nat) (l : Link) : (s.setLink p l).floors = s.floors := rfl
@[simp] theorem State.setLink_tables (s : State) (p : Nat) (l : Link) : (s.setLink p l).tables = s.tables := rfl
@[simp] theorem State.setLink_toHost (s : State) (p : Nat) (l : Link) : (s.setLink p l).toHost = s.toHost := rfl
@[simp] theorem State.setLink_toPeer (s : State) (p : Nat) (l : Link) : (s.setLink p l).toPeer = s.toPeer := rfl

/-! ## Replacing a context -/

@[simp] theorem State.setCtx_agenda (s : State) (x : Nat) (k : Context) : (s.setCtx x k).agenda = s.agenda := rfl
@[simp] theorem State.setCtx_cur (s : State) (x : Nat) (k : Context) : (s.setCtx x k).cur = s.cur := rfl
@[simp] theorem State.setCtx_cycle (s : State) (x : Nat) (k : Context) : (s.setCtx x k).cycle = s.cycle := rfl
@[simp] theorem State.setCtx_time (s : State) (x : Nat) (k : Context) : (s.setCtx x k).time = s.time := rfl
@[simp] theorem State.setCtx_free (s : State) (x : Nat) (k : Context) : (s.setCtx x k).free = s.free := rfl
@[simp] theorem State.setCtx_serial (s : State) (x : Nat) (k : Context) : (s.setCtx x k).serial = s.serial := rfl
@[simp] theorem State.setCtx_mem (s : State) (x : Nat) (k : Context) : (s.setCtx x k).mem = s.mem := rfl
@[simp] theorem State.setCtx_cores (s : State) (x : Nat) (k : Context) : (s.setCtx x k).cores = s.cores := rfl
@[simp] theorem State.setCtx_dies (s : State) (x : Nat) (k : Context) : (s.setCtx x k).dies = s.dies := rfl
@[simp] theorem State.setCtx_links (s : State) (x : Nat) (k : Context) : (s.setCtx x k).links = s.links := rfl
@[simp] theorem State.setCtx_plat (s : State) (x : Nat) (k : Context) : (s.setCtx x k).plat = s.plat := rfl
@[simp] theorem State.setCtx_agents (s : State) (x : Nat) (k : Context) : (s.setCtx x k).agents = s.agents := rfl
@[simp] theorem State.setCtx_net (s : State) (x : Nat) (k : Context) : (s.setCtx x k).net = s.net := rfl
@[simp] theorem State.setCtx_held (s : State) (x : Nat) (k : Context) : (s.setCtx x k).held = s.held := rfl
@[simp] theorem State.setCtx_bars (s : State) (x : Nat) (k : Context) : (s.setCtx x k).bars = s.bars := rfl
@[simp] theorem State.setCtx_barWaits (s : State) (x : Nat) (k : Context) : (s.setCtx x k).barWaits = s.barWaits := rfl
@[simp] theorem State.setCtx_watches (s : State) (x : Nat) (k : Context) : (s.setCtx x k).watches = s.watches := rfl
@[simp] theorem State.setCtx_walks (s : State) (x : Nat) (k : Context) : (s.setCtx x k).walks = s.walks := rfl
@[simp] theorem State.setCtx_ctlb (s : State) (x : Nat) (k : Context) : (s.setCtx x k).ctlb = s.ctlb := rfl
@[simp] theorem State.setCtx_wcache (s : State) (x : Nat) (k : Context) : (s.setCtx x k).wcache = s.wcache := rfl
@[simp] theorem State.setCtx_pushes (s : State) (x : Nat) (k : Context) : (s.setCtx x k).pushes = s.pushes := rfl
@[simp] theorem State.setCtx_credits (s : State) (x : Nat) (k : Context) : (s.setCtx x k).credits = s.credits := rfl
@[simp] theorem State.setCtx_reqs (s : State) (x : Nat) (k : Context) : (s.setCtx x k).reqs = s.reqs := rfl
@[simp] theorem State.setCtx_reps (s : State) (x : Nat) (k : Context) : (s.setCtx x k).reps = s.reps := rfl
@[simp] theorem State.setCtx_acks (s : State) (x : Nat) (k : Context) : (s.setCtx x k).acks = s.acks := rfl
@[simp] theorem State.setCtx_regions (s : State) (x : Nat) (k : Context) : (s.setCtx x k).regions = s.regions := rfl
@[simp] theorem State.setCtx_lines (s : State) (x : Nat) (k : Context) : (s.setCtx x k).lines = s.lines := rfl
@[simp] theorem State.setCtx_floors (s : State) (x : Nat) (k : Context) : (s.setCtx x k).floors = s.floors := rfl
@[simp] theorem State.setCtx_tables (s : State) (x : Nat) (k : Context) : (s.setCtx x k).tables = s.tables := rfl
@[simp] theorem State.setCtx_toHost (s : State) (x : Nat) (k : Context) : (s.setCtx x k).toHost = s.toHost := rfl
@[simp] theorem State.setCtx_toPeer (s : State) (x : Nat) (k : Context) : (s.setCtx x k).toPeer = s.toPeer := rfl

/-! ## Replacing the registers of the issuing slot -/

@[simp] theorem Core.setHart_act (k : Core) (h : Hart) : (k.setHart h).act = k.act := by unfold Core.setHart; split <;> rfl
@[simp] theorem Core.setHart_slot3 (k : Core) (h : Hart) : (k.setHart h).slot3 = k.slot3 := by unfold Core.setHart; split <;> rfl
@[simp] theorem Core.setHart_halted (k : Core) (h : Hart) : (k.setHart h).halted = k.halted := by unfold Core.setHart; split <;> rfl
@[simp] theorem Core.setHart_fwRet (k : Core) (h : Hart) : (k.setHart h).fwRet = k.fwRet := by unfold Core.setHart; split <;> rfl
@[simp] theorem Core.setHart_u (k : Core) (h : Hart) : (k.setHart h).u = k.u := by unfold Core.setHart; split <;> rfl
@[simp] theorem Core.setHart_sv (k : Core) (h : Hart) : (k.setHart h).sv = k.sv := by unfold Core.setHart; split <;> rfl
@[simp] theorem Core.setHart_pts (k : Core) (h : Hart) : (k.setHart h).pts = k.pts := by unfold Core.setHart; split <;> rfl
@[simp] theorem Core.setHart_v (k : Core) (h : Hart) : (k.setHart h).v = k.v := by unfold Core.setHart; split <;> rfl
@[simp] theorem Core.setHart_lv (k : Core) (h : Hart) : (k.setHart h).lv = k.lv := by unfold Core.setHart; split <;> rfl
@[simp] theorem Core.setHart_acc (k : Core) (h : Hart) : (k.setHart h).acc = k.acc := by unfold Core.setHart; split <;> rfl
@[simp] theorem Core.setHart_mat (k : Core) (h : Hart) : (k.setHart h).mat = k.mat := by unfold Core.setHart; split <;> rfl
@[simp] theorem Core.setHart_qi (k : Core) (h : Hart) : (k.setHart h).qi = k.qi := by unfold Core.setHart; split <;> rfl
@[simp] theorem Core.setHart_qs (k : Core) (h : Hart) : (k.setHart h).qs = k.qs := by unfold Core.setHart; split <;> rfl
@[simp] theorem Core.setHart_vqi (k : Core) (h : Hart) : (k.setHart h).vqi = k.vqi := by unfold Core.setHart; split <;> rfl
@[simp] theorem Core.setHart_popped (k : Core) (h : Hart) : (k.setHart h).popped = k.popped := by unfold Core.setHart; split <;> rfl
@[simp] theorem Core.setHart_pushed (k : Core) (h : Hart) : (k.setHart h).pushed = k.pushed := by unfold Core.setHart; split <;> rfl
@[simp] theorem Core.setHart_lstream (k : Core) (h : Hart) : (k.setHart h).lstream = k.lstream := by unfold Core.setHart; split <;> rfl
@[simp] theorem Core.setHart_sstream (k : Core) (h : Hart) : (k.setHart h).sstream = k.sstream := by unfold Core.setHart; split <;> rfl
@[simp] theorem Core.setHart_sfault (k : Core) (h : Hart) : (k.setHart h).sfault = k.sfault := by unfold Core.setHart; split <;> rfl
@[simp] theorem Core.setHart_sp (k : Core) (h : Hart) : (k.setHart h).sp = k.sp := by unfold Core.setHart; split <;> rfl
@[simp] theorem Core.setHart_fe (k : Core) (h : Hart) : (k.setHart h).fe = k.fe := by unfold Core.setHart; split <;> rfl
@[simp] theorem Core.setHart_latch (k : Core) (h : Hart) : (k.setHart h).latch = k.latch := by unfold Core.setHart; split <;> rfl
@[simp] theorem Core.setHart_wake (k : Core) (h : Hart) : (k.setHart h).wake = k.wake := by unfold Core.setHart; split <;> rfl
@[simp] theorem Core.setHart_pend (k : Core) (h : Hart) : (k.setHart h).pend = k.pend := by unfold Core.setHart; split <;> rfl
@[simp] theorem Core.setHart_pend3 (k : Core) (h : Hart) : (k.setHart h).pend3 = k.pend3 := by unfold Core.setHart; split <;> rfl
@[simp] theorem Core.setHart_hostWait (k : Core) (h : Hart) : (k.setHart h).hostWait = k.hostWait := by unfold Core.setHart; split <;> rfl
@[simp] theorem Core.setHart_follow (k : Core) (h : Hart) : (k.setHart h).follow = k.follow := by unfold Core.setHart; split <;> rfl
@[simp] theorem Core.setHart_issued (k : Core) (h : Hart) : (k.setHart h).issued = k.issued := by unfold Core.setHart; split <;> rfl
@[simp] theorem Core.setHart_htab (k : Core) (h : Hart) : (k.setHart h).htab = k.htab := by unfold Core.setHart; split <;> rfl
@[simp] theorem Core.setHart_rgns (k : Core) (h : Hart) : (k.setHart h).rgns = k.rgns := by unfold Core.setHart; split <;> rfl
@[simp] theorem Core.setHart_rrptr (k : Core) (h : Hart) : (k.setHart h).rrptr = k.rrptr := by unfold Core.setHart; split <;> rfl
@[simp] theorem Core.setHart_red (k : Core) (h : Hart) : (k.setHart h).red = k.red := by unfold Core.setHart; split <;> rfl
@[simp] theorem Core.setHart_slot1 (k : Core) (h : Hart) : (k.setHart h).slot1 = k.slot1 := by unfold Core.setHart; split <;> rfl
@[simp] theorem Core.setHart_gen (k : Core) (h : Hart) : (k.setHart h).gen = k.gen := by unfold Core.setHart; split <;> rfl
@[simp] theorem Core.setHart_owned (k : Core) (h : Hart) : (k.setHart h).owned = k.owned := by unfold Core.setHart; split <;> rfl
@[simp] theorem Core.setHart_sliceEnd (k : Core) (h : Hart) : (k.setHart h).sliceEnd = k.sliceEnd := by unfold Core.setHart; split <;> rfl
@[simp] theorem Core.setHart_passing (k : Core) (h : Hart) : (k.setHart h).passing = k.passing := by unfold Core.setHart; split <;> rfl
@[simp] theorem Core.setHart_group (k : Core) (h : Hart) : (k.setHart h).group = k.group := by unfold Core.setHart; split <;> rfl
@[simp] theorem Core.setHart_saved (k : Core) (h : Hart) : (k.setHart h).saved = k.saved := by unfold Core.setHart; split <;> rfl
@[simp] theorem Core.setHart_ended (k : Core) (h : Hart) : (k.setHart h).ended = k.ended := by unfold Core.setHart; split <;> rfl
@[simp] theorem Core.setHart_preempt (k : Core) (h : Hart) : (k.setHart h).preempt = k.preempt := by unfold Core.setHart; split <;> rfl
@[simp] theorem Core.setHart_tlb (k : Core) (h : Hart) : (k.setHart h).tlb = k.tlb := by unfold Core.setHart; split <;> rfl
@[simp] theorem Core.setHart_l1 (k : Core) (h : Hart) : (k.setHart h).l1 = k.l1 := by unfold Core.setHart; split <;> rfl
@[simp] theorem Core.setHart_unacked (k : Core) (h : Hart) : (k.setHart h).unacked = k.unacked := by unfold Core.setHart; split <;> rfl
@[simp] theorem Core.setHart_jobs (k : Core) (h : Hart) : (k.setHart h).jobs = k.jobs := by unfold Core.setHart; split <;> rfl
@[simp] theorem Core.setHart_gated (k : Core) (h : Hart) : (k.setHart h).gated = k.gated := by unfold Core.setHart; split <;> rfl

/-! ## Setting the multi-step instruction -/

@[simp] theorem Core.setPending_s0 (k : Core) (p : Pend) : (k.setPending p).s0 = k.s0 := by unfold Core.setPending; split <;> rfl
@[simp] theorem Core.setPending_s3 (k : Core) (p : Pend) : (k.setPending p).s3 = k.s3 := by unfold Core.setPending; split <;> rfl
@[simp] theorem Core.setPending_act (k : Core) (p : Pend) : (k.setPending p).act = k.act := by unfold Core.setPending; split <;> rfl
@[simp] theorem Core.setPending_slot3 (k : Core) (p : Pend) : (k.setPending p).slot3 = k.slot3 := by unfold Core.setPending; split <;> rfl
@[simp] theorem Core.setPending_halted (k : Core) (p : Pend) : (k.setPending p).halted = k.halted := by unfold Core.setPending; split <;> rfl
@[simp] theorem Core.setPending_fwRet (k : Core) (p : Pend) : (k.setPending p).fwRet = k.fwRet := by unfold Core.setPending; split <;> rfl
@[simp] theorem Core.setPending_u (k : Core) (p : Pend) : (k.setPending p).u = k.u := by unfold Core.setPending; split <;> rfl
@[simp] theorem Core.setPending_sv (k : Core) (p : Pend) : (k.setPending p).sv = k.sv := by unfold Core.setPending; split <;> rfl
@[simp] theorem Core.setPending_pts (k : Core) (p : Pend) : (k.setPending p).pts = k.pts := by unfold Core.setPending; split <;> rfl
@[simp] theorem Core.setPending_v (k : Core) (p : Pend) : (k.setPending p).v = k.v := by unfold Core.setPending; split <;> rfl
@[simp] theorem Core.setPending_lv (k : Core) (p : Pend) : (k.setPending p).lv = k.lv := by unfold Core.setPending; split <;> rfl
@[simp] theorem Core.setPending_acc (k : Core) (p : Pend) : (k.setPending p).acc = k.acc := by unfold Core.setPending; split <;> rfl
@[simp] theorem Core.setPending_mat (k : Core) (p : Pend) : (k.setPending p).mat = k.mat := by unfold Core.setPending; split <;> rfl
@[simp] theorem Core.setPending_qi (k : Core) (p : Pend) : (k.setPending p).qi = k.qi := by unfold Core.setPending; split <;> rfl
@[simp] theorem Core.setPending_qs (k : Core) (p : Pend) : (k.setPending p).qs = k.qs := by unfold Core.setPending; split <;> rfl
@[simp] theorem Core.setPending_vqi (k : Core) (p : Pend) : (k.setPending p).vqi = k.vqi := by unfold Core.setPending; split <;> rfl
@[simp] theorem Core.setPending_popped (k : Core) (p : Pend) : (k.setPending p).popped = k.popped := by unfold Core.setPending; split <;> rfl
@[simp] theorem Core.setPending_pushed (k : Core) (p : Pend) : (k.setPending p).pushed = k.pushed := by unfold Core.setPending; split <;> rfl
@[simp] theorem Core.setPending_lstream (k : Core) (p : Pend) : (k.setPending p).lstream = k.lstream := by unfold Core.setPending; split <;> rfl
@[simp] theorem Core.setPending_sstream (k : Core) (p : Pend) : (k.setPending p).sstream = k.sstream := by unfold Core.setPending; split <;> rfl
@[simp] theorem Core.setPending_sfault (k : Core) (p : Pend) : (k.setPending p).sfault = k.sfault := by unfold Core.setPending; split <;> rfl
@[simp] theorem Core.setPending_sp (k : Core) (p : Pend) : (k.setPending p).sp = k.sp := by unfold Core.setPending; split <;> rfl
@[simp] theorem Core.setPending_fe (k : Core) (p : Pend) : (k.setPending p).fe = k.fe := by unfold Core.setPending; split <;> rfl
@[simp] theorem Core.setPending_latch (k : Core) (p : Pend) : (k.setPending p).latch = k.latch := by unfold Core.setPending; split <;> rfl
@[simp] theorem Core.setPending_wake (k : Core) (p : Pend) : (k.setPending p).wake = k.wake := by unfold Core.setPending; split <;> rfl
@[simp] theorem Core.setPending_hostWait (k : Core) (p : Pend) : (k.setPending p).hostWait = k.hostWait := by unfold Core.setPending; split <;> rfl
@[simp] theorem Core.setPending_follow (k : Core) (p : Pend) : (k.setPending p).follow = k.follow := by unfold Core.setPending; split <;> rfl
@[simp] theorem Core.setPending_issued (k : Core) (p : Pend) : (k.setPending p).issued = k.issued := by unfold Core.setPending; split <;> rfl
@[simp] theorem Core.setPending_htab (k : Core) (p : Pend) : (k.setPending p).htab = k.htab := by unfold Core.setPending; split <;> rfl
@[simp] theorem Core.setPending_rgns (k : Core) (p : Pend) : (k.setPending p).rgns = k.rgns := by unfold Core.setPending; split <;> rfl
@[simp] theorem Core.setPending_rrptr (k : Core) (p : Pend) : (k.setPending p).rrptr = k.rrptr := by unfold Core.setPending; split <;> rfl
@[simp] theorem Core.setPending_red (k : Core) (p : Pend) : (k.setPending p).red = k.red := by unfold Core.setPending; split <;> rfl
@[simp] theorem Core.setPending_slot1 (k : Core) (p : Pend) : (k.setPending p).slot1 = k.slot1 := by unfold Core.setPending; split <;> rfl
@[simp] theorem Core.setPending_gen (k : Core) (p : Pend) : (k.setPending p).gen = k.gen := by unfold Core.setPending; split <;> rfl
@[simp] theorem Core.setPending_owned (k : Core) (p : Pend) : (k.setPending p).owned = k.owned := by unfold Core.setPending; split <;> rfl
@[simp] theorem Core.setPending_sliceEnd (k : Core) (p : Pend) : (k.setPending p).sliceEnd = k.sliceEnd := by unfold Core.setPending; split <;> rfl
@[simp] theorem Core.setPending_passing (k : Core) (p : Pend) : (k.setPending p).passing = k.passing := by unfold Core.setPending; split <;> rfl
@[simp] theorem Core.setPending_group (k : Core) (p : Pend) : (k.setPending p).group = k.group := by unfold Core.setPending; split <;> rfl
@[simp] theorem Core.setPending_saved (k : Core) (p : Pend) : (k.setPending p).saved = k.saved := by unfold Core.setPending; split <;> rfl
@[simp] theorem Core.setPending_ended (k : Core) (p : Pend) : (k.setPending p).ended = k.ended := by unfold Core.setPending; split <;> rfl
@[simp] theorem Core.setPending_preempt (k : Core) (p : Pend) : (k.setPending p).preempt = k.preempt := by unfold Core.setPending; split <;> rfl
@[simp] theorem Core.setPending_tlb (k : Core) (p : Pend) : (k.setPending p).tlb = k.tlb := by unfold Core.setPending; split <;> rfl
@[simp] theorem Core.setPending_l1 (k : Core) (p : Pend) : (k.setPending p).l1 = k.l1 := by unfold Core.setPending; split <;> rfl
@[simp] theorem Core.setPending_unacked (k : Core) (p : Pend) : (k.setPending p).unacked = k.unacked := by unfold Core.setPending; split <;> rfl
@[simp] theorem Core.setPending_jobs (k : Core) (p : Pend) : (k.setPending p).jobs = k.jobs := by unfold Core.setPending; split <;> rfl
@[simp] theorem Core.setPending_gated (k : Core) (p : Pend) : (k.setPending p).gated = k.gated := by unfold Core.setPending; split <;> rfl

end Sys2Proof.Machine
end

