-- ==== Sys2Proof/Laws/Run.lean ====
section
/-! SUPPORT. Laws/Run.lean: one lemma per operand form and per way of running a meaning: what it answers when it goes on. -/
namespace Sys2Proof.Machine

open Sys2Proof.Safety

/-! ## Binding -/

/-- A computation that answers goes on with its answer. -/
theorem bind_ok {σ α β : Type} {m : M σ α} {f : α → M σ β} {s t : σ} {a : α} (h : m s = .ok (a, t)) : (m >>= f) s = f a t := by
  simp only [bind, StateT.bind, h]
  rfl

/-- A computation that stops, stops the whole. -/
theorem bind_err {σ α β : Type} {m : M σ α} {f : α → M σ β} {s : σ} {e : Stop} (h : m s = .error e) : (m >>= f) s = .error e := by
  simp only [bind, StateT.bind, h]
  rfl

/-- A computation that needs nothing. -/
@[simp] theorem pure_ok {σ α : Type} (a : α) (s : σ) : (pure a : M σ α) s = .ok (a, s) := rfl

/-- A computation of the core inside the package. -/
theorem onCore_ok {α : Type} {m : CpuM α} {s : State} {a : α} {k : Core} (h : m (s.core s.cur) = .ok (a, k)) :
    onCore m s = .ok (a, s.setCore s.cur k) := by
  simp only [onCore, h]

/-- A stop of the core stops the instruction. -/
theorem onCore_err {α : Type} {m : CpuM α} {s : State} {e : Stop} (h : m (s.core s.cur) = .error e) : onCore m s = .error e := by
  simp only [onCore, h]

/-- A condition that does not hold does not trap. -/
theorem trapIf_ok {σ : Type} {c : Bool} (cause : Nat) (tval : Word) (s : σ) (h : c = false) :
    trapIf c cause tval s = .ok ((), s) := by
  simp [trapIf, h]

/-! ## Running -/

/-- An instruction of the package that answers. -/
theorem runInstr_ok {m : DevM Unit} {s t : State} (h : m s = .ok ((), t)) : runInstr m s = .next t.retire := by
  simp only [runInstr, runDev, bind_ok h, wr]

/-- An instruction of the core that answers. -/
theorem runCore_ok {m : CpuM Unit} {s : State} {k : Core} (h : m (s.core s.cur) = .ok ((), k)) :
    runCore m s = .next (s.setCore s.cur k).retire :=
  runInstr_ok (onCore_ok h)

/-- An instruction of the core with queue traffic that answers. -/
theorem runVec_ok {m : CpuM Unit} {s : State} {k : Core} (h : m (s.core s.cur) = .ok ((), k)) :
    runVec m s = .next ((s.setCore s.cur k).flushChain).retire := by
  unfold runVec
  exact runInstr_ok (by rw [bind_ok (onCore_ok h)]; rfl)

/-- A jump that answers. -/
theorem runJump_ok {m : DevM Word} {s t : State} {pc : Word} (h : m s = .ok (pc, t)) : runJump m s = .next (t.retireTo pc) := by
  simp only [runJump, runDev, bind_ok h, wr]

/-- A trap of an instruction of the core. -/
theorem runCore_trap {m : CpuM Unit} {s : State} {c : Nat} {v : Word} (h : m (s.core s.cur) = .error (.trap c v)) :
    runCore m s = .next (s.takeTrap c v) := by
  simp only [runCore, runInstr, runDev, bind_err (onCore_err h)]

/-- A trap of an instruction of the package. -/
theorem runInstr_trap {m : DevM Unit} {s : State} {c : Nat} {v : Word} (h : m s = .error (.trap c v)) :
    runInstr m s = .next (s.takeTrap c v) := by
  simp only [runInstr, runDev, bind_err h]

/-- A wait of an instruction of the package. -/
theorem runInstr_wait {m : DevM Unit} {s : State} {p : State → State} (h : m s = .error (.wait p)) : runInstr m s = .next (p s) := by
  simp only [runInstr, runDev, bind_err h]

/-! ## Operands -/

/-- Within bounds the two ways of setting an element agree. -/
theorem vset_eq {α : Type} {n : Nat} (v : Vector α n) (i : Nat) (x : α) (h : i < n) : v.set i x h = v.setIfInBounds i x := by
  ext j hj
  simp [Vector.getElem_set, Vector.getElem_setIfInBounds]

/-- Reading an x register. -/
theorem getX_of_source {k k' : Core} {r : Reg} {v : Word} (h : Source k r v k') : getX r k = .ok (v, k') := by
  rcases h with ⟨rfl, rfl, rfl⟩ | ⟨h0, h30, h31, hv, rfl⟩ | ⟨rfl, rest, hq, rfl⟩
  · simp [getX]
  · unfold getX
    rw [if_neg h30, if_neg h31, if_neg h0]
    rw [Vector.getElem?_eq_getElem r.isLt] at hv
    rw [Option.some.inj hv]
  · simp [getX, popQi, hq]

/-- Writing an x register. -/
theorem setX_of_dest {k k' : Core} {r : Reg} {v : Word} (h : Dest k r v k') : setX r v k = .ok ((), k') := by
  rcases h with ⟨rfl, rfl⟩ | ⟨h0, h30, h31, rfl⟩ | ⟨rfl, hf, hq, rfl⟩
  · simp [setX]
  · unfold setX
    rw [if_neg h31, if_neg h30, if_neg h0]
    simp [Core.putX, vset_eq]
  · simp only [setX, if_true, pushQs]
    rcases hf with hf | hf
    · simp [hf, hq]
    · simp [hf, hq]

/-- Reading an f register. -/
theorem getF_of_source {k : Core} {r : Reg} {v : Word} (h : FSource k r v) : getF r k = .ok (v, k) := by
  unfold FSource at h
  rw [Vector.getElem?_eq_getElem r.isLt] at h
  unfold getF
  rw [Option.some.inj h]

/-- Writing an f register. -/
theorem setF_ok (k : Core) (r : Reg) (v : Word) : setF r v k = .ok ((), fWritten k r v) := by
  simp [setF, Core.putF, fWritten, vset_eq]

end Sys2Proof.Machine
end

