-- ==== Sys2Proof/Tests/Slice0.lean ====
section
/-! SUPPORT. Tests/Slice0.lean: decoding of words written out from the spec, the smoke test of WellFormed, and for every obligation the
states and operands that meet its hypotheses, clause by clause (hyp_<Obligation>_<clause>). -/
namespace Sys2Proof.Tests
open Sys2Proof Sys2Proof.Machine Sys2Proof.Safety
set_option Elab.async false

/-! ## Well-formedness: for each check of R64 a term that it refuses, and a neighbour that it accepts -/

theorem test_wf_x_source : (Instr.add 3 31 2).wf = false ∧ (Instr.add 3 1 31).wf = false ∧ (Instr.add 31 30 2).wf = true := by decide
theorem test_wf_x_destination : (Instr.add 30 1 2).wf = false ∧ (Instr.lui 30 1).wf = false ∧ (Instr.jalr 31 1 0).wf = true := by decide
theorem test_wf_third_source : (Instr.sel 3 1 2 31).wf = false ∧ (Instr.sel 3 1 2 30).wf = true := by decide
theorem test_wf_store_source : (Instr.sd 1 31 0).wf = false ∧ (Instr.sst 31 1 .plain 0).wf = false ∧ (Instr.fsd 1 31 0).wf = true := by decide
theorem test_wf_source_and_destination : (Instr.amocas 30 1 2 .w64).wf = false ∧ (Instr.amocas 31 1 2 .w64).wf = false
    ∧ (Instr.amocas 29 1 2 .w64).wf = true := by decide
theorem test_wf_v_source : (Instr.vadd 1 15 2 .i32).wf = false ∧ (Instr.vadd 1 16 2 .i32).wf = false
    ∧ (Instr.vadd 15 14 14 .i32).wf = true := by decide
theorem test_wf_v_destination : (Instr.vadd 14 1 2 .i32).wf = false ∧ (Instr.vadd 16 1 2 .i32).wf = false ∧ (Instr.vzero 15).wf = true := by
  decide
theorem test_wf_v_source_and_destination : (Instr.vsel 15 1 2 .i32).wf = false ∧ (Instr.vinsx 14 1 2 .i32).wf = false
    ∧ (Instr.vsel 13 1 2 .i32).wf = true := by decide
theorem test_wf_tile : (Instr.mcopy 4 0).wf = false ∧ (Instr.mcopy 0 4).wf = false ∧ (Instr.mcopy 3 0).wf = true := by decide
theorem test_wf_payload : (Instr.send 3 2 5 5).wf = false ∧ (Instr.send 3 2 5 0).wf = false ∧ (Instr.send 29 2 5 3).wf = false
    ∧ (Instr.send 27 2 5 4).wf = true ∧ (Instr.rsend 0 5 0).wf = true := by decide
theorem test_wf_planes : (Instr.bpq 1 2 3 1).wf = false ∧ (Instr.bpq 1 2 3 9).wf = false ∧ (Instr.bpq 1 2 3 8).wf = true := by decide
theorem test_wf_types : (Instr.fadd 1 2 3 .i32).wf = false ∧ (Instr.vand 1 2 3 .f32).wf = false ∧ (Instr.vabs 1 2 .u8).wf = false
    ∧ (Instr.vexp 1 2 .f16).wf = false ∧ (Instr.vadd 1 2 3 .e4m3).wf = false ∧ (Instr.sendnz 1 2 3 .e5m2).wf = false := by decide
theorem test_wf_formats : (Instr.fcvtf 1 2 .f64 .f64).wf = false ∧ (Instr.fcvtf 1 2 .i64 .f64).wf = false
    ∧ (Instr.vcvt 1 2 .i8 .i8).wf = false ∧ (Instr.fcvtf 1 2 .e5m2 .f64).wf = true := by decide
theorem test_wf_matrix : (Instr.mmulAcc 1 .w4 2 3 .w4 1).wf = false ∧ (Instr.mmulAcc 1 .e4m3 2 3 .e4m3 0).wf = false
    ∧ (Instr.mmulAcc 1 .w4 2 3 .w4 0).wf = true := by decide
theorem test_wf_priority : (Instr.hbind 1 5 8).wf = false ∧ (Instr.hbind 1 5 7).wf = true := by decide
theorem test_wf_tlbinv : (Instr.tlbinv 1 0 .context).wf = false ∧ (Instr.tlbinv 0 1 .all).wf = false ∧ (Instr.tlbinv 1 2 .page).wf = true := by
  decide
theorem test_wf_ptload : (Instr.ptload 1 0).wf = false ∧ (Instr.ptload 1 8).wf = false ∧ (Instr.ptload 1 7).wf = true := by decide
theorem test_wf_realign : (Instr.realign 21).wf = false ∧ (Instr.realign 20).wf = true := by decide

/-! ## Decoding: words that the spec writes out beside its instructions, and words laid out by hand from R53 to R63 -/

/-- R90, R91, R92, R95, R96, R99. -/
theorem test_decode_words_05 : decodeNat 0x20A60003 = some (.slli 5 6 3) ∧ decodeNat 0x20A68003 = some (.srai 5 6 3)
    ∧ decodeNat 0x24A01234 = some (.lui 5 0x1234) ∧ decodeNat 0x30A00001 = some (.sysrd 5 1) ∧ decodeNat 0x34050001 = some (.syswr 5 1)
    ∧ decodeNat 0x5C010000 = some (.jalr 0 1 0) ∧ decodeNat 0x2C000080 = some (.follow 2) ∧ decodeNat 0x2C000001 = some .detach := by decide
/-- R112, R110, R120, R122. -/
theorem test_decode_words_memory : decodeNat 0x9C063A07 = some (.qld 6 7 8) ∧ decodeNat 0x9C263800 = some (.vld 1 6 7)
    ∧ decodeNat 0xA4000080 = some (.fence .die) ∧ decodeNat 0xA4000002 = some .wfe := by decide
/-- R100, R103, R131, R132, R138. -/
theorem test_decode_words_hints_and_floats : decodeNat 0xFE00000A = some (.realign 10) ∧ decodeNat 0xFD000001 = some (.hsched true)
    ∧ decodeNat 0xC0A1000A = some (.fclass 5 1 .f64) ∧ decodeNat 0xC022004E = some (.fcvtf 1 2 .f64 .f32) := by decide
/-- R138, R139, R143, R144, R146, R147. -/
theorem test_decode_words_vectors : decodeNat 0xC8221851 = some (.vcvt 1 2 .bf16 .f32) ∧ decodeNat 0xC8220052 = some (.vredsum 1 2 .f32)
    ∧ decodeNat 0xCC221901 = some (.vfmaF32 1 2 3 4) ∧ decodeNat 0xCC221906 = some (.vdot4I8 1 2 3 4)
    ∧ decodeNat 0xD0200047 = some (.vrand 1 .f32) ∧ decodeNat 0xD4A00002 = some (.lvqry 5) := by decide

/-! Every instruction: a word laid out from the fields of its row of the opcode table (R53 to R63), registers 3, 6, 9 and 12. -/

theorem test_decode_every_inta :
    decodeNat 0x04664800 = some (.add 3 6 9) ∧ decodeNat 0x04664801 = some (.sub 3 6 9) ∧ decodeNat 0x04664802 = some (.and 3 6 9)
      ∧ decodeNat 0x04664803 = some (.or 3 6 9) ∧ decodeNat 0x04664804 = some (.xor 3 6 9)
      ∧ decodeNat 0x04664805 = some (.andn 3 6 9) ∧ decodeNat 0x04664806 = some (.sll 3 6 9)
      ∧ decodeNat 0x04664807 = some (.srl 3 6 9) ∧ decodeNat 0x04664808 = some (.sra 3 6 9)
      ∧ decodeNat 0x04664809 = some (.rol 3 6 9) ∧ decodeNat 0x0466480A = some (.ror 3 6 9)
      ∧ decodeNat 0x0466480B = some (.slt 3 6 9) ∧ decodeNat 0x0466480C = some (.sltu 3 6 9)
      ∧ decodeNat 0x0466480D = some (.min 3 6 9) ∧ decodeNat 0x0466480E = some (.max 3 6 9)
      ∧ decodeNat 0x0466480F = some (.minu 3 6 9) ∧ decodeNat 0x04664810 = some (.maxu 3 6 9)
      ∧ decodeNat 0x04664811 = some (.mul 3 6 9) ∧ decodeNat 0x04664812 = some (.mulh 3 6 9)
      ∧ decodeNat 0x04664813 = some (.mulhu 3 6 9) ∧ decodeNat 0x04664814 = some (.div 3 6 9)
      ∧ decodeNat 0x04664815 = some (.divu 3 6 9) ∧ decodeNat 0x04664816 = some (.rem 3 6 9)
      ∧ decodeNat 0x04664817 = some (.remu 3 6 9) ∧ decodeNat 0x04664818 = some (.addw 3 6 9)
      ∧ decodeNat 0x04664819 = some (.subw 3 6 9) ∧ decodeNat 0x0466481A = some (.mulw 3 6 9)
      ∧ decodeNat 0x0466001B = some (.cnt 3 6) ∧ decodeNat 0x0466001C = some (.clz 3 6) ∧ decodeNat 0x0466001D = some (.ctz 3 6)
      ∧ decodeNat 0x0466001E = some (.bswap 3 6) ∧ decodeNat 0x04664B1F = some (.sel 3 6 9 12) :=
  by and_intros <;> rfl
theorem test_decode_every_immediates :
    decodeNat 0x0866FFF8 = some (.addi 3 6 0xfff8) ∧ decodeNat 0x0C66FFF8 = some (.andi 3 6 0xfff8)
      ∧ decodeNat 0x1066FFF8 = some (.ori 3 6 0xfff8) ∧ decodeNat 0x1466FFF8 = some (.xori 3 6 0xfff8)
      ∧ decodeNat 0x1866FFF8 = some (.slti 3 6 0xfff8) ∧ decodeNat 0x1C66FFF8 = some (.sltiu 3 6 0xfff8)
      ∧ decodeNat 0x2066000C = some (.slli 3 6 12) ∧ decodeNat 0x2066400C = some (.srli 3 6 12)
      ∧ decodeNat 0x2066800C = some (.srai 3 6 12) ∧ decodeNat 0x2460FFF8 = some (.lui 3 0xfff8)
      ∧ decodeNat 0x2860FFF8 = some (.auipc 3 0xfff8) :=
  by and_intros <;> rfl
theorem test_decode_every_ctl :
    decodeNat 0x2C000080 = some (.follow 2) ∧ decodeNat 0x2C000001 = some .detach :=
  ⟨rfl, rfl⟩
theorem test_decode_every_control :
    decodeNat 0x30600105 = some (.sysrd 3 0x105) ∧ decodeNat 0x34030105 = some (.syswr 3 0x105)
      ∧ decodeNat 0x4066FFF8 = some (.beq 3 6 0xfff8) ∧ decodeNat 0x4466FFF8 = some (.bne 3 6 0xfff8)
      ∧ decodeNat 0x4866FFF8 = some (.blt 3 6 0xfff8) ∧ decodeNat 0x4C66FFF8 = some (.bge 3 6 0xfff8)
      ∧ decodeNat 0x5066FFF8 = some (.bltu 3 6 0xfff8) ∧ decodeNat 0x5466FFF8 = some (.bgeu 3 6 0xfff8)
      ∧ decodeNat 0x5BFFFFFE = some (.jal 0x3fffffe) ∧ decodeNat 0x5C66FFF8 = some (.jalr 3 6 0xfff8) :=
  by and_intros <;> rfl
theorem test_decode_every_loads_and_stores :
    decodeNat 0x6066FFF8 = some (.ld 3 6 0xfff8) ∧ decodeNat 0x6466FFF8 = some (.lw 3 6 0xfff8)
      ∧ decodeNat 0x6866FFF8 = some (.lwu 3 6 0xfff8) ∧ decodeNat 0x6C66FFF8 = some (.lh 3 6 0xfff8)
      ∧ decodeNat 0x7066FFF8 = some (.lhu 3 6 0xfff8) ∧ decodeNat 0x7466FFF8 = some (.lb 3 6 0xfff8)
      ∧ decodeNat 0x7866FFF8 = some (.lbu 3 6 0xfff8) ∧ decodeNat 0x7C66FFF8 = some (.fld 3 6 0xfff8)
      ∧ decodeNat 0x8066FFF8 = some (.sd 3 6 0xfff8) ∧ decodeNat 0x8466FFF8 = some (.sw 3 6 0xfff8)
      ∧ decodeNat 0x8866FFF8 = some (.sh 3 6 0xfff8) ∧ decodeNat 0x8C66FFF8 = some (.sb 3 6 0xfff8)
      ∧ decodeNat 0x9066FFF8 = some (.fsd 3 6 0xfff8) ∧ decodeNat 0x9466BFF8 = some (.sld 3 6 .fe 0x3ff8)
      ∧ decodeNat 0x9866BFF8 = some (.sst 3 6 .f 0x3ff8) :=
  by and_intros <;> rfl
theorem test_decode_every_vmem :
    decodeNat 0x9C664800 = some (.vld 3 6 9) ∧ decodeNat 0x9C664801 = some (.vst 3 6 9)
      ∧ decodeNat 0x9C664882 = some (.vsld 3 6 9 .fe) ∧ decodeNat 0x9C664883 = some (.vsst 3 6 9 .f)
      ∧ decodeNat 0x9C664884 = some (.vldbc 3 6 9 .s16) ∧ decodeNat 0x9C664805 = some (.flw 3 6 9)
      ∧ decodeNat 0x9C664806 = some (.fsw 3 6 9) ∧ decodeNat 0x9C033247 = some (.qld 3 6 9)
      ∧ decodeNat 0x9C033248 = some (.qst 3 6 9) ∧ decodeNat 0x9C033009 = some (.pref 3 6)
      ∧ decodeNat 0x9C03300A = some (.cflush 3 6) :=
  by and_intros <;> rfl
theorem test_decode_every_amo :
    decodeNat 0xA0664840 = some (.amoadd 3 6 9 .w32) ∧ decodeNat 0xA0664841 = some (.amoand 3 6 9 .w32)
      ∧ decodeNat 0xA0664842 = some (.amoor 3 6 9 .w32) ∧ decodeNat 0xA0664843 = some (.amoxor 3 6 9 .w32)
      ∧ decodeNat 0xA0664844 = some (.amomin 3 6 9 .w32) ∧ decodeNat 0xA0664845 = some (.amomax 3 6 9 .w32)
      ∧ decodeNat 0xA0664846 = some (.amominu 3 6 9 .w32) ∧ decodeNat 0xA0664847 = some (.amomaxu 3 6 9 .w32)
      ∧ decodeNat 0xA0664848 = some (.amoswap 3 6 9 .w32) ∧ decodeNat 0xA0664849 = some (.amocas 3 6 9 .w32)
      ∧ decodeNat 0xA066484A = some (.amofadd 3 6 9 .w32) :=
  by and_intros <;> rfl
theorem test_decode_every_sync :
    decodeNat 0xA4000080 = some (.fence .die) ∧ decodeNat 0xA4000081 = some (.fencej .die) ∧ decodeNat 0xA4000002 = some .wfe :=
  ⟨rfl, rfl, rfl⟩
theorem test_decode_every_msg :
    decodeNat 0xA8663080 = some (.send 3 6 12 2) ∧ decodeNat 0xA8663001 = some (.sendv 3 6 12)
      ∧ decodeNat 0xA8663042 = some (.sendnz 3 6 12 .f32) ∧ decodeNat 0xA8000003 = some .hret ∧ decodeNat 0xA8000004 = some .hyield
      ∧ decodeNat 0xA8033085 = some (.hbind 3 12 2) ∧ decodeNat 0xA8003006 = some (.hunbind 12)
      ∧ decodeNat 0xA8003007 = some (.hmask 12) ∧ decodeNat 0xA8003008 = some (.hunmask 12)
      ∧ decodeNat 0xA8003009 = some (.hpend 12) ∧ decodeNat 0xA860300A = some (.hquery 3 12)
      ∧ decodeNat 0xA866304B = some (.watch 3 6 12 .w32) ∧ decodeNat 0xA860308C = some (.rsend 3 12 2) :=
  by and_intros <;> rfl
theorem test_decode_every_job :
    decodeNat 0xAC033000 = some (.japp 3 6) ∧ decodeNat 0xAC033001 = some (.jwait 3 6) ∧ decodeNat 0xAC660002 = some (.jpoll 3 6)
      ∧ decodeNat 0xAC030003 = some (.jabort 3) ∧ decodeNat 0xAC033004 = some (.kapp 3 6) ∧ decodeNat 0xAC033005 = some (.kwait 3 6) :=
  ⟨rfl, rfl, rfl, rfl, rfl, rfl⟩
theorem test_decode_every_lin :
    decodeNat 0xB0660000 = some (.lfork 3 6) ∧ decodeNat 0xB0030001 = some (.ldrop 3) ∧ decodeNat 0xB0033242 = some (.lwr 3 6 9)
      ∧ decodeNat 0xB0664803 = some (.lrd 3 6 9) ∧ decodeNat 0xB0660004 = some (.lstat 3 6) :=
  ⟨rfl, rfl, rfl, rfl, rfl⟩
theorem test_decode_every_stsh :
    decodeNat 0xB4033240 = some (.stash 3 6 9) ∧ decodeNat 0xB4033241 = some (.restore 3 6 9)
      ∧ decodeNat 0xB4660002 = some (.sstat 3 6) :=
  ⟨rfl, rfl, rfl⟩
theorem test_decode_every_bar :
    decodeNat 0xB8660000 = some (.barr 3 6) ∧ decodeNat 0xB8033001 = some (.bwait 3 6) ∧ decodeNat 0xB8030002 = some (.barw 3)
      ∧ decodeNat 0xB8033243 = some (.binit 3 6 9) :=
  ⟨rfl, rfl, rfl, rfl⟩
theorem test_decode_every_fpa :
    decodeNat 0xC0664840 = some (.fadd 3 6 9 .f32) ∧ decodeNat 0xC0664841 = some (.fsub 3 6 9 .f32)
      ∧ decodeNat 0xC0664842 = some (.fmul 3 6 9 .f32) ∧ decodeNat 0xC0664843 = some (.fdiv 3 6 9 .f32)
      ∧ decodeNat 0xC0660044 = some (.fsqrt 3 6 .f32) ∧ decodeNat 0xC0664845 = some (.fmin 3 6 9 .f32)
      ∧ decodeNat 0xC0664846 = some (.fmax 3 6 9 .f32) ∧ decodeNat 0xC0664847 = some (.feq 3 6 9 .f32)
      ∧ decodeNat 0xC0664848 = some (.flt 3 6 9 .f32) ∧ decodeNat 0xC0664849 = some (.fle 3 6 9 .f32)
      ∧ decodeNat 0xC066004A = some (.fclass 3 6 .f32) ∧ decodeNat 0xC066484B = some (.fsgnj 3 6 9 .f32)
      ∧ decodeNat 0xC066484C = some (.fsgnjn 3 6 9 .f32) ∧ decodeNat 0xC066484D = some (.fsgnjx 3 6 9 .f32)
      ∧ decodeNat 0xC066004E = some (.fcvtf 3 6 .f64 .f32) ∧ decodeNat 0xC066104F = some (.fcvtfi 3 6 .u64 .f32)
      ∧ decodeNat 0xC0661050 = some (.fcvtif 3 6 .u64 .f32) ∧ decodeNat 0xC0660051 = some (.fmvxf 3 6 .f32)
      ∧ decodeNat 0xC0660052 = some (.fmvfx 3 6 .f32) :=
  by and_intros <;> rfl
theorem test_decode_every_fma :
    decodeNat 0xC4664B00 = some (.fmaddD 3 6 9 12) ∧ decodeNat 0xC4664B01 = some (.fmsubD 3 6 9 12)
      ∧ decodeNat 0xC4664B02 = some (.fnmaddD 3 6 9 12) ∧ decodeNat 0xC4664B03 = some (.fnmsubD 3 6 9 12)
      ∧ decodeNat 0xC4664B04 = some (.fmaddS 3 6 9 12) ∧ decodeNat 0xC4664B05 = some (.fmsubS 3 6 9 12)
      ∧ decodeNat 0xC4664B06 = some (.fnmaddS 3 6 9 12) ∧ decodeNat 0xC4664B07 = some (.fnmsubS 3 6 9 12) :=
  by and_intros <;> rfl
theorem test_decode_every_veca :
    decodeNat 0xC8664840 = some (.vadd 3 6 9 .f32) ∧ decodeNat 0xC8664841 = some (.vsub 3 6 9 .f32)
      ∧ decodeNat 0xC8664842 = some (.vmul 3 6 9 .f32) ∧ decodeNat 0xC8664843 = some (.vmin 3 6 9 .f32)
      ∧ decodeNat 0xC8664844 = some (.vmax 3 6 9 .f32) ∧ decodeNat 0xC8664945 = some (.vand 3 6 9 .i32)
      ∧ decodeNat 0xC8664946 = some (.vor 3 6 9 .i32) ∧ decodeNat 0xC8664947 = some (.vxor 3 6 9 .i32)
      ∧ decodeNat 0xC8664948 = some (.vsll 3 6 9 .i32) ∧ decodeNat 0xC8664949 = some (.vsrl 3 6 9 .i32)
      ∧ decodeNat 0xC866494A = some (.vsra 3 6 9 .i32) ∧ decodeNat 0xC866484B = some (.vcmpeq 3 6 9 .f32)
      ∧ decodeNat 0xC866484C = some (.vcmplt 3 6 9 .f32) ∧ decodeNat 0xC866484D = some (.vcmple 3 6 9 .f32)
      ∧ decodeNat 0xC866484E = some (.vsel 3 6 9 .f32) ∧ decodeNat 0xC866004F = some (.vabs 3 6 .f32)
      ∧ decodeNat 0xC8660050 = some (.vneg 3 6 .f32) ∧ decodeNat 0xC8661851 = some (.vcvt 3 6 .bf16 .f32)
      ∧ decodeNat 0xC8660052 = some (.vredsum 3 6 .f32) ∧ decodeNat 0xC8660053 = some (.vredmax 3 6 .f32)
      ∧ decodeNat 0xC8660054 = some (.vredmin 3 6 .f32) ∧ decodeNat 0xC8664855 = some (.vperm 3 6 9 .f32)
      ∧ decodeNat 0xC8664856 = some (.vbcl 3 6 9 .f32) ∧ decodeNat 0xC8664857 = some (.vextx 3 6 9 .f32)
      ∧ decodeNat 0xC8664858 = some (.vinsx 3 6 9 .f32) ∧ decodeNat 0xC8660019 = some (.vmov 3 6)
      ∧ decodeNat 0xC866015A = some (.vcnt 3 6 .i32) ∧ decodeNat 0xC860001B = some (.vzero 3) :=
  by and_intros <;> rfl
theorem test_decode_every_vfma :
    decodeNat 0xCC664B00 = some (.vfmaF64 3 6 9 12) ∧ decodeNat 0xCC664B01 = some (.vfmaF32 3 6 9 12)
      ∧ decodeNat 0xCC664B02 = some (.vfmaF16 3 6 9 12) ∧ decodeNat 0xCC664B03 = some (.vfmaBf16 3 6 9 12)
      ∧ decodeNat 0xCC664B04 = some (.vfmsF64 3 6 9 12) ∧ decodeNat 0xCC664B05 = some (.vfmsF32 3 6 9 12)
      ∧ decodeNat 0xCC664B06 = some (.vdot4I8 3 6 9 12) ∧ decodeNat 0xCC664B07 = some (.vdot2Bf16 3 6 9 12) :=
  by and_intros <;> rfl
theorem test_decode_every_vsf :
    decodeNat 0xD0660040 = some (.vexp 3 6 .f32) ∧ decodeNat 0xD0660041 = some (.vexp2 3 6 .f32)
      ∧ decodeNat 0xD0660042 = some (.vlog2 3 6 .f32) ∧ decodeNat 0xD0660043 = some (.vrcp 3 6 .f32)
      ∧ decodeNat 0xD0660044 = some (.vrsqrt 3 6 .f32) ∧ decodeNat 0xD0660045 = some (.vtanh 3 6 .f32)
      ∧ decodeNat 0xD0660046 = some (.vsigm 3 6 .f32) ∧ decodeNat 0xD0600047 = some (.vrand 3 .f32) :=
  by and_intros <;> rfl
theorem test_decode_every_vmode :
    decodeNat 0xD4000000 = some .lvon ∧ decodeNat 0xD4000001 = some .lvoff ∧ decodeNat 0xD4600002 = some (.lvqry 3) :=
  ⟨rfl, rfl, rfl⟩
theorem test_decode_every_mat :
    decodeNat 0xE2633700 = some (.mmulSp 2 .w4 3 6 .w8) ∧ decodeNat 0xE2633750 = some (.mmulAcc 2 .w4 3 6 .w8 1)
      ∧ decodeNat 0xE2633701 = some (.mmulzSp 2 .w4 3 6 .w8) ∧ decodeNat 0xE2633751 = some (.mmulzAcc 2 .w4 3 6 .w8 1) :=
  ⟨rfl, rfl, rfl, rfl⟩
theorem test_decode_every_matx :
    decodeNat 0xE4400040 = some (.mzero 2 .f8) ∧ decodeNat 0xE4464841 = some (.mload 2 6 9 .f32)
      ∧ decodeNat 0xE4464842 = some (.mstore 2 6 9 .f32) ∧ decodeNat 0xE4414B03 = some (.mscacc 2 1 9 12)
      ∧ decodeNat 0xE4400044 = some (.mcvt 2 .f8) ∧ decodeNat 0xE4410005 = some (.mcopy 2 1)
      ∧ decodeNat 0xE4600006 = some (.mflags 3) :=
  ⟨rfl, rfl, rfl, rfl, rfl, rfl, rfl⟩
theorem test_decode_every_bpl :
    decodeNat 0xE8664900 = some (.bpq 3 6 9 4) ∧ decodeNat 0xE8664901 = some (.bpdq 3 6 9 4)
      ∧ decodeNat 0xE8660102 = some (.bpack 3 6 4) ∧ decodeNat 0xE8660103 = some (.bunpack 3 6 4)
      ∧ decodeNat 0xE8660004 = some (.bpmaxe 3 6) :=
  ⟨rfl, rfl, rfl, rfl, rfl⟩
theorem test_decode_every_sys :
    decodeNat 0xF0000000 = some .ecall ∧ decodeNat 0xF0000001 = some .eret ∧ decodeNat 0xF0000002 = some .brk
      ∧ decodeNat 0xF0000003 = some .wfi ∧ decodeNat 0xF0033004 = some (.tlbinv 3 6 .page)
      ∧ decodeNat 0xF0030105 = some (.ptload 3 4) ∧ decodeNat 0xF0000006 = some .halt :=
  ⟨rfl, rfl, rfl, rfl, rfl, rfl, rfl⟩
theorem test_decode_every_hint :
    decodeNat 0xFC400001 = some (.himm 0x400001) ∧ decodeNat 0xFCB00001 = some (.hmod (.ftz true false))
      ∧ decodeNat 0xFD000001 = some (.hsched true) ∧ decodeNat 0xFD985300 = some (.rep 12 1 2 3)
      ∧ decodeNat 0xFE000004 = some (.realign 4) :=
  ⟨rfl, rfl, rfl, rfl, rfl⟩

/-! ## Small states -/

/-- The x registers with some written. -/
def xs (l : List (Nat × Word)) : Vector Word 32 := l.foldl (fun v p => v.setIfInBounds p.1 p.2) (Vector.replicate 32 0)
/-- The core after reset with x registers and the PC of slot 0. -/
def kx (l : List (Nat × Word)) : Core := { Core.reset with s0 := { Hart.reset with x := xs l, pc := 0x1000 } }
/-- The package after reset with core 0. -/
def st (k : Core) : State := State.reset.setCore 0 k
/-- A core whose slot 3 runs a trap at privilege `p`. -/
def atPriv (p : Nat) (k : Core) : Core :=
  { k with slot3 := .trap, s3 := k.s0, sv := { k.sv with status := BitVec.ofNat 64 (4 * p) } }

theorem source_of {k : Core} {r : Reg} {v : Word} (h : r ≠ 0 ∧ r ≠ 30 ∧ r ≠ 31) (e : k.hart.x[r.toNat]? = some v) : Source k r v k :=
  .inr (.inl ⟨h.1, h.2.1, h.2.2, e, rfl⟩)
theorem source_zero (k : Core) : Source k 0 0 k := .inl ⟨rfl, rfl, rfl⟩
theorem source_qi {k : Core} {v : Word} {r : List QEntry} (h : k.qi = .data v :: r) : Source k 30 v { k with qi := r } :=
  .inr (.inr ⟨rfl, r, h, rfl⟩)
theorem dest_of (k : Core) {r : Reg} (v : Word) (h : r ≠ 0 ∧ r ≠ 30 ∧ r ≠ 31) :
    Dest k r v (k.setHart { k.hart with x := k.hart.x.setIfInBounds r.toNat v }) := .inr (.inl ⟨h.1, h.2.1, h.2.2, rfl⟩)
theorem dest_zero (k : Core) (v : Word) : Dest k 0 v k := .inl ⟨rfl, rfl⟩
theorem dest_qs {k : Core} (v : Word) (h : (k.onSys = true ∨ k.sfault = none) ∧ k.qs.length < 16) : Dest k 31 v { k with qs := k.qs ++ [v] } :=
  .inr (.inr ⟨rfl, h.1, h.2, rfl⟩)
theorem imm_of {k : Core} (i : BitVec 16) (h : k.hart.hint = none) : Imm k i (i.signExtend 64) :=
  .inr ⟨by simp [h], rfl⟩

/-! ## The hypotheses of the statements are met: for each statement, states and operands that meet them together -/

theorem hyp_TwoSourceResults : ∀ p ∈ twoSourceTable, ∃ (s : State) (d a b : Reg) (x y : Word) (k1 k2 k3 : Core),
    Source (s.core s.cur) a x k1 ∧ Source k1 b y k2 ∧ Dest k2 d (p.2 x y) k3 := fun p _ =>
  ⟨st (kx [(6, 8), (9, 3)]), 3, 6, 9, 8, 3, _, _, _, source_of (by decide) rfl, source_of (by decide) rfl, dest_of _ _ (by decide)⟩
/-- The same with the queues: x30 pops qi twice, x31 pushes qs. -/
theorem hyp_TwoSourceResults_queues : ∃ (s : State) (x y : Word) (k1 k2 k3 : Core),
    Source (s.core s.cur) 30 x k1 ∧ Source k1 30 y k2 ∧ Dest k2 31 (x + y) k3 :=
  ⟨st { kx [] with qi := [.data 5, .data 7] }, 5, 7, _, _, _, source_qi (r := [.data 7]) rfl, source_qi (r := []) rfl,
    dest_qs _ (by decide)⟩
theorem hyp_OneSourceResults : ∀ p ∈ oneSourceTable, ∃ (s : State) (d a : Reg) (x v : Word) (k1 k2 : Core),
    Source (s.core s.cur) a x k1 ∧ p.2 x v ∧ Dest k1 d v k2 := by
  have h : ∀ p ∈ oneSourceTable, ∃ v, p.2 0 v := by
    simp only [oneSourceTable, List.mem_cons, List.not_mem_nil, or_false, forall_eq_or_imp, forall_eq]
    exact ⟨⟨0, by decide⟩, ⟨64, by decide⟩, ⟨64, by decide⟩, ⟨0, by decide⟩⟩
  exact fun p hp => let ⟨v, hv⟩ := h p hp
    ⟨st (kx []), 3, 0, 0, v, _, _, source_zero _, hv, dest_of _ _ (by decide)⟩
theorem hyp_OneSourceResults_sel : ∃ (s : State) (d a b e : Reg) (x y z : Word) (k1 k2 k3 k4 : Core), Source (s.core s.cur) a x k1 ∧
    Source k1 b y k2 ∧ Source k2 e z k3 ∧ Dest k3 d (if z ≠ 0 then x else y) k4 :=
  ⟨st (kx [(6, 8), (9, 3)]), 3, 6, 9, 0, 8, 3, 0, _, _, _, _, source_of (by decide) rfl, source_of (by decide) rfl, source_zero _,
    dest_of _ _ (by decide)⟩
theorem hyp_ImmediateResults : ∀ p ∈ immediateTable, ∃ (s : State) (d a : Reg) (i : BitVec 16) (x v : Word) (k1 k2 : Core),
    Source (s.core s.cur) a x k1 ∧ Imm k1 i v ∧ Dest k1 d (p.2 x v) k2 := fun p _ =>
  ⟨st (kx [(6, 8)]), 3, 6, 0x8000, 8, _, _, _, source_of (by decide) rfl, imm_of _ rfl, dest_of _ _ (by decide)⟩
theorem hyp_ImmediateResults_shift : ∀ p ∈ shiftTable, ∃ (s : State) (d a : Reg) (n : BitVec 6) (x : Word) (k1 k2 : Core),
    Source (s.core s.cur) a x k1 ∧ Dest k1 d (p.2 x n.toNat) k2 := fun p _ =>
  ⟨st (kx [(6, 8)]), 3, 6, 63, 8, _, _, source_of (by decide) rfl, dest_of _ _ (by decide)⟩
theorem hyp_ImmediateResults_lui : ∃ (s : State) (k : Core), Imm (s.core s.cur) 0x1234 0x1234 ∧ Dest (s.core s.cur) 5 0x12340000 k :=
  ⟨st (kx []), _, imm_of _ rfl, dest_of _ _ (by decide)⟩
/-- A HIMM in front: its 23 bits stand above the immediate. -/
theorem hyp_ImmediateResults_himm : ∃ (s : State) (v : Word) (k : Core), Imm (s.core s.cur) 0xFFFF v ∧ v = 0x1FFFF ∧
    Dest (s.core s.cur) 5 ((s.core s.cur).hart.pc + BitVec.ofNat 64 (v.toNat * 65536)) k :=
  ⟨st { kx [] with s0 := { (kx []).s0 with hint := some ⟨0xFFC, .himm 1, 0⟩ } }, 0x1FFFF, _, .inl ⟨0xFFC, 1, 0, rfl, by decide⟩, rfl,
    dest_of _ _ (by decide)⟩
theorem hyp_ImmediateResults_field : ∃ w, (bitsOf w 26 6 = 0x09 ∨ bitsOf w 26 6 = 0x0A) ∧ bitsOf w 16 5 ≠ 0 := ⟨0x24A11234, by decide⟩
theorem hyp_Branches : ∀ p ∈ branchTable, ∃ (s : State) (a b : Reg) (i : BitVec 16) (x y v : Word) (k1 k2 : Core),
    Source (s.core s.cur) a x k1 ∧ Source k1 b y k2 ∧ Imm k2 i v := fun _ _ =>
  ⟨st (kx [(6, 8)]), 6, 0, 0xFFFE, 8, 0, _, _, _, source_of (by decide) rfl, source_zero _, imm_of _ rfl⟩
theorem hyp_JumpsAndLinks : ∃ (s : State) (a : Reg) (i : BitVec 16) (x v : Word) (k1 k2 k3 : Core),
    Dest (s.core s.cur) 1 ((s.core s.cur).hart.pc + 4) k3 ∧ Source (s.core s.cur) a x k1 ∧ Imm k1 i v ∧ (x + v).toNat % 4 = 0 ∧
    Dest k1 a ((s.core s.cur).hart.pc + 4) k2 :=
  ⟨st (kx [(6, 0x2004)]), 6, 0xFFFC, 0x2004, _, _, _, _, dest_of _ _ (by decide), source_of (by decide) rfl, imm_of _ rfl, by decide,
    dest_of _ _ (by decide)⟩
theorem hyp_JumpsAndLinks_misaligned : ∃ (s : State) (a : Reg) (i : BitVec 16) (x v : Word) (k1 : Core),
    Source (s.core s.cur) a x k1 ∧ Imm k1 i v ∧ (x + v).toNat % 4 ≠ 0 :=
  ⟨st (kx [(6, 0x2004)]), 6, 1, 0x2004, _, _, source_of (by decide) rfl, imm_of _ rfl, by decide⟩
theorem hyp_JumpsAndLinks_himm : ∃ (h : Hart) (a : Word) (p : BitVec 23) (j w : Nat), h.hint = some ⟨a, .himm p, j⟩ ∧ bitsOf w 26 6 = 0x16 :=
  ⟨{ Hart.reset with hint := some ⟨0, .himm 1, 0⟩ }, 0, 1, 0, 0x58000010, rfl, by decide⟩

/-- Core 1 runs an activation of the same context, so that core 0 may follow it. -/
def led (k : Core) : State := (st k).setCore 1 { Core.reset with act := some ⟨0, 0, false⟩ }
theorem hyp_FollowAndDetach : ∀ t ∈ [led Core.reset], (t.core 0).slot3 = .idle ∧ 1 ≠ t.cur ∧ t.enabled 1 = true
    ∧ (t.core 0).follow.following = false ∧ t.hasFollowers 0 = false ∧ (t.core 1).act ≠ none
    ∧ (t.core 1).sv.ctxid = (t.core 0).sv.ctxid := by decide +kernel
theorem hyp_FollowAndDetach_traps :
    ((led (atPriv 1 Core.reset)).core 0).slot3 ≠ .idle
    ∧ (led { Core.reset with follow := .joined 1 0 }).hasFollowers 1 = true
    ∧ ((led { Core.reset with follow := .joined 1 0 }).core 0).follow.following = true
    ∧ ((st Core.reset).core 1).act = none ∧ (st Core.reset).enabled 1 = true ∧ (st Core.reset).hasFollowers 0 = false
    ∧ { st Core.reset with plat := { Platform.reset with hmap := (Vector.replicate 18 0).set 0 2 } }.enabled 1 = false := by decide +kernel

/-! ### System registers -/

theorem hyp_SystemRegisterReads : ∀ r ∈ sysTable ++ hmapTable, ∃ (s : State) (d : Reg) (k : Core), r.priv ≤ (s.core s.cur).priv ∧
    (s.core s.cur).mat = none ∧ Dest (s.core s.cur) d (r.read s (s.core s.cur)) k := by
  have h : ∀ r ∈ sysTable ++ hmapTable, r.priv ≤ ((st (atPriv 3 Core.reset)).core 0).priv := by decide +kernel
  exact fun r hr => ⟨st (atPriv 3 Core.reset), 5, _, h r hr, rfl, dest_of _ _ (by decide)⟩
theorem hyp_SystemRegisterReads_below : ((st Core.reset).core 0).priv < 1 ∧ ((st (atPriv 1 Core.reset)).core 0).priv < 3
    ∧ (∃ r ∈ sysTable, r.priv = 1) ∧ (∃ r ∈ sysTable, r.priv = 3)
    ∧ ∀ r ∈ sysTable ++ hmapTable, r.id ≠ (0x222 : BitVec 12).toNat := by decide +kernel
theorem hyp_SystemRegisterWrites : ∀ r ∈ sysTable, r.ro = false → ∃ (s : State) (a : Reg) (v : Word) (k : Core),
    r.priv ≤ (s.core s.cur).priv ∧ Source (s.core s.cur) a v k ∧ r.allows v ∧ k.mat = none ∧ k.red.slots = [] := by
  have h : ∀ r ∈ sysTable, r.priv ≤ ((st (atPriv 3 Core.reset)).core 0).priv ∧ (0 : Word) &&& BitVec.ofNat 64 r.zero = 0 := by
    decide +kernel
  exact fun r hr _ => ⟨st (atPriv 3 Core.reset), 0, 0, _, (h r hr).1, source_zero _, ⟨(h r hr).2, by simp, by simp⟩, rfl, rfl⟩
/-- The largest values of FCTL and STATUS that check 4 allows, and values that it does not. -/
theorem hyp_SystemRegisterWrites_boundary : (0x1F : Word) &&& BitVec.ofNat 64 (2 ^ 64 - 2 ^ 5) = 0 ∧ (0x3F : Word).toNat % 4 ≠ 2
    ∧ (0x3F : Word) &&& BitVec.ofNat 64 (2 ^ 64 - 2 ^ 6) = 0 := by decide
theorem hyp_SystemRegisterChecks : (∃ r ∈ sysTable, r.id = 0x042 ∧ r.priv ≤ ((st Core.reset).core 0).priv ∧ r.ro = false ∧ ¬ r.allows 7)
    ∧ (∃ r ∈ sysTable, r.ro = true ∧ r.priv ≤ ((st Core.reset).core 0).priv)
    ∧ ∃ r ∈ sysTable, ((st Core.reset).core 0).priv < r.priv :=
  ⟨⟨sysTable[21], by simp [sysTable], by decide +kernel, by decide +kernel, by decide +kernel,
      fun h => h.2.1 (by decide +kernel) rfl⟩, by decide +kernel⟩

/-! ### Memory and the scratchpad -/

/-- The translation of the page at 0x10000 to the first DRAM page of die 0, home 0, with R, W, X and U, and D and A set. -/
def page0 : TlbEntry := { ctx := 0, page := 0x10, bits := 12, leaf := 0x40000000DF, base := 0, mask := 0 }
/-- The page's first line, whose bytes are 0x80 to 0xBF, owned or leased. -/
def line0 (excl : Bool) : L1Line :=
  { home := 0, excl := excl, data := BitVec.ofNat 512 (((List.range 64).map fun n => (0x80 + n) * 2 ^ (8 * n)).sum), wts := 3, rts := 5,
    lease := 0 }
/-- A core with that translation and the page's first four lines. -/
def km (excl : Bool) (l : List (Nat × Word)) : Core :=
  { kx l with tlb := [page0], l1 := (List.range 4).map fun n => (0x100000000 + n, line0 excl), v := (Vector.replicate 14 0).set 1 7 }

theorem tlb_hit {s : State} {va : Nat} {t : TlbEntry} (h : (s.core s.cur).tlbFind va = some t) : s.tlbHit s.cur va = some (t, s) := by
  rw [State.tlbHit, h]
theorem translates_of {s : State} {acc : Acc} {va : Word} {t : TlbEntry} (h : (s.core s.cur).pending = .none)
    (e : va.toNat < 2 ^ 48 ∧ (s.core s.cur).tlbFind va.toNat = some t ∧ s.hitOk (s.core s.cur) acc t va.toNat = true ∧ leafD t.leaf = true) :
    Translates s acc va t s :=
  ⟨by simp [h], e.1, tlb_hit e.2.1, e.2.2.1, fun _ => e.2.2.2⟩
theorem asks_nothing {k : Core} (h : k.pending = .none) : AsksNothing k := by simp [AsksNothing, h]
theorem addrI_of {k : Core} {a : Reg} {x : Word} (i : BitVec 16) (h : a ≠ 0 ∧ a ≠ 30 ∧ a ≠ 31) (e : k.hart.x[a.toNat]? = some x)
    (n : k.hart.hint = none) : AddrI k a i (x + i.signExtend 64) k := ⟨x, _, source_of h e, imm_of i n, rfl⟩
theorem addrX_of {k : Core} {a b : Reg} {x y : Word} (h : a ≠ 0 ∧ a ≠ 30 ∧ a ≠ 31) (e : k.hart.x[a.toNat]? = some x)
    (g : b ≠ 0 ∧ b ≠ 30 ∧ b ≠ 31) (f : k.hart.x[b.toNat]? = some y) : AddrX k a b (x + y) k := ⟨x, y, k, source_of h e, source_of g f, rfl⟩


/-- The core owns the lines (`true`) or holds leased copies of them; x6 holds 0x10000, x9 0x38 and x10 1. -/
def sm (excl : Bool) : State :=
  (st (km excl [(6, 0x10000), (9, 0x38), (10, 1)])).modDie 0 fun d => { d with frames := [(0, .mapped 0)] }

/-- What the state has for the accesses at an address of the page's first four lines. -/
def Held (e : Bool) (va : Word) : Prop :=
  (va.toNat < 2 ^ 48 ∧ ((sm e).core (sm e).cur).tlbFind va.toNat = some page0 ∧ (sm e).target page0 (page0.pa va.toNat) = .near 0
    ∧ lookupK ((sm e).core (sm e).cur).l1 (page0.pa va.toNat / 64) = some (line0 e) ∧ (sm e).watched (page0.pa va.toNat / 64) = false)
  ∧ (sm e).hitOk ((sm e).core (sm e).cur) .read page0 va.toNat = true ∧ (sm e).hitOk ((sm e).core (sm e).cur) .write page0 va.toNat = true
  ∧ (sm e).hitOk ((sm e).core (sm e).cur) .amo page0 va.toNat = true
theorem held_first (e : Bool) : Held e 0x10000 := by
  refine ⟨⟨by decide, ?_, ?_, ?_, rfl⟩, ?_, ?_, ?_⟩ <;> cases e <;> decide +kernel
theorem held_last (e : Bool) : Held e 0x10038 := by
  refine ⟨⟨by decide, ?_, ?_, ?_, rfl⟩, ?_, ?_, ?_⟩ <;> cases e <;> decide +kernel
theorem sm_rest (e : Bool) : (sm e).copyUsable (sm e).cur (line0 e) = true ∧ (sm e).owns 0 0 = true := by cases e <;> decide +kernel
theorem sm_guard (e : Bool) (pa n : Nat) : (sm e).guarded pa n = false := by cases e <;> rfl
theorem held_acc {e : Bool} {va : Word} (h : Held e va) : ∀ acc, acc ≠ .fetch → (sm e).hitOk ((sm e).core (sm e).cur) acc page0 va.toNat = true
  | .read, _ => h.2.1
  | .write, _ => h.2.2.1
  | .amo, _ => h.2.2.2

theorem sm_translates (e : Bool) {acc : Acc} {va : Word} (ha : acc ≠ .fetch) (h : Held e va) : Translates (sm e) acc va page0 (sm e) :=
  translates_of rfl ⟨h.1.1, h.1.2.1, held_acc h acc ha, by decide⟩
theorem sm_loads (e : Bool) (n : Nat) {va : Word} (h : Held e va) : ∃ v t, Loads (sm e) va n v t :=
  ⟨_, _, page0, _, line0 e, _, sm_translates e (by decide) h, ⟨rfl, rfl⟩, .inl h.1.2.2.1, h.1.2.2.2.1, (sm_rest e).1, .inr (Nat.zero_le _), rfl,
    rfl, rfl⟩
theorem sm_owns {acc : Acc} {va : Word} (ha : acc ≠ .fetch) (n : Nat) (h : Held true va) : Owns (sm true) acc va n page0 (sm true) (line0 true) :=
  ⟨sm_translates true ha h, sm_guard _ _ _, h.1.2.2.1, (sm_rest true).2, ⟨rfl, rfl⟩, asks_nothing rfl, h.1.2.2.2.2, h.1.2.2.2.1, rfl,
    (sm_rest true).1⟩
theorem sm_stores (n v : Nat) {va : Word} (h : Held true va) : ∃ t, Stores (sm true) va n v t :=
  ⟨_, page0, _, line0 true, _, sm_owns (by decide) n h, rfl, rfl⟩
theorem sm_atomic (n : Nat) (f : Nat → Nat) {va : Word} (h : Held true va) : ∃ old t, Atomic (sm true) va n old (f old) t :=
  ⟨_, _, page0, _, line0 true, _, sm_owns (by decide) n h, rfl, rfl, rfl⟩
theorem sm_at (e : Bool) (i : BitVec 16) : AddrI ((sm e).core (sm e).cur) 6 i (0x10000 + i.signExtend 64) ((sm e).core (sm e).cur) :=
  addrI_of i (by decide) rfl rfl
theorem sm_ax (e : Bool) : AddrX ((sm e).core (sm e).cur) 6 0 0x10000 ((sm e).core (sm e).cur) :=
  ⟨0x10000, 0, _, source_of (by decide) rfl, source_zero _, by decide⟩

theorem hyp_LoadHits : ∀ _e : Bool, ∀ p ∈ loadTable, ∃ (s : State) (d a : Reg) (i : BitVec 16) (va : Word) (k1 k2 : Core) (v : Nat) (t : State),
    AddrI (s.core s.cur) a i va k1 ∧ va.toNat % p.2.1 = 0 ∧ Loads (s.setCore s.cur k1) va p.2.1 v t ∧ Dest (t.core s.cur) d (p.2.2 v) k2 := by
  intro e p hp
  have h : ∀ p ∈ loadTable, (0x10038 : Word).toNat % p.2.1 = 0 := by decide
  obtain ⟨v, t, hl⟩ := sm_loads e p.2.1 (held_last _)
  exact ⟨sm e, 3, 6, 0x38, 0x10038, _, _, v, t, sm_at e 0x38, h p hp, hl, dest_of _ _ (by decide)⟩
theorem hyp_LoadHits_float : ∃ (s : State) (i : BitVec 16) (va wa : Word) (k1 k2 : Core) (v w : Nat) (t u : State),
    AddrI (s.core s.cur) 6 i va k1 ∧ va.toNat % 8 = 0 ∧ Loads (s.setCore s.cur k1) va 8 v t ∧
    AddrX (s.core s.cur) 6 0 wa k2 ∧ wa.toNat % 4 = 0 ∧ Loads (s.setCore s.cur k2) wa 4 w u := by
  obtain ⟨v, t, hl⟩ := sm_loads true 8 (held_last _)
  obtain ⟨w, u, hk⟩ := sm_loads true 4 (held_first _)
  exact ⟨sm true, 0x38, 0x10038, 0x10000, _, _, v, w, t, u, sm_at true 0x38, by decide, hl, sm_ax true, by decide, hk⟩
theorem hyp_StoreHits : ∀ p ∈ storeTable, ∃ (s : State) (a b : Reg) (i : BitVec 16) (va v : Word) (k1 k2 : Core) (t : State),
    AddrI (s.core s.cur) a i va k1 ∧ Source k1 b v k2 ∧ va.toNat % p.2 = 0 ∧ Stores (s.setCore s.cur k2) va p.2 (v.toNat % 2 ^ (8 * p.2)) t := by
  intro p hp
  have h : ∀ p ∈ storeTable, (0x10038 : Word).toNat % p.2 = 0 := by decide
  obtain ⟨t, hl⟩ := sm_stores p.2 ((0x10000 : Word).toNat % 2 ^ (8 * p.2)) (held_last _)
  exact ⟨sm true, 6, 6, 0x38, 0x10038, 0x10000, _, _, t, sm_at true 0x38, source_of (by decide) rfl, h p hp, hl⟩
theorem hyp_StoreHits_float : ∃ (s : State) (i : BitVec 16) (va wa : Word) (k1 k2 : Core) (t u : State),
    AddrI (s.core s.cur) 6 i va k1 ∧ FSource k1 1 0 ∧ va.toNat % 8 = 0 ∧ Stores (s.setCore s.cur k1) va 8 0 t ∧
    AddrX (s.core s.cur) 6 0 wa k2 ∧ FSource k2 1 0 ∧ wa.toNat % 4 = 0 ∧ Stores (s.setCore s.cur k2) wa 4 0 u := by
  obtain ⟨t, hl⟩ := sm_stores 8 0 (held_last _)
  obtain ⟨u, hk⟩ := sm_stores 4 0 (held_first _)
  exact ⟨sm true, 0x38, 0x10038, 0x10000, _, _, t, u, sm_at true 0x38, rfl, by decide, hl, sm_ax true, rfl, by decide, hk⟩
theorem hyp_AtomicHits : ∀ p ∈ amoTable, ∀ w : Width, ∃ (s : State) (d a b : Reg) (va v : Word) (k1 k2 k3 : Core) (old : Nat) (t : State),
    Source (s.core s.cur) a va k1 ∧ Source k1 b v k2 ∧ va.toNat % (amoBits w / 8) = 0 ∧
    Atomic (s.setCore s.cur k2) va (amoBits w / 8) old (p.2 (amoBits w) old (v.toNat % 2 ^ amoBits w)) t ∧
    Dest (t.core s.cur) d (BitVec.ofInt 64 (sextNat old (amoBits w))) k3 := by
  intro p _ w
  obtain ⟨old, t, h⟩ := sm_atomic (amoBits w / 8) (fun o => p.2 (amoBits w) o ((1 : Word).toNat % 2 ^ amoBits w)) (held_first _)
  exact ⟨sm true, 3, 6, 10, 0x10000, 1, _, _, _, old, t, source_of (by decide) rfl, source_of (by decide) rfl, by cases w <;> decide, h,
    dest_of _ _ (by decide)⟩
theorem hyp_AtomicHits_cas : ∀ w : Width, ∃ (s : State) (d a b : Reg) (va c v : Word) (k1 k2 k3 k4 : Core) (old : Nat) (t : State),
    Source (s.core s.cur) a va k1 ∧ Source k1 b c k2 ∧ Source k2 d v k3 ∧ va.toNat % (amoBits w / 8) = 0 ∧
    Atomic (s.setCore s.cur k3) va (amoBits w / 8) old (if old = c.toNat % 2 ^ amoBits w then v.toNat % 2 ^ amoBits w else old) t ∧
    Dest (t.core s.cur) d (BitVec.ofInt 64 (sextNat old (amoBits w))) k4 := by
  intro w
  obtain ⟨old, t, h⟩ := sm_atomic (amoBits w / 8)
    (fun o => if o = (1 : Word).toNat % 2 ^ amoBits w then (0x38 : Word).toNat % 2 ^ amoBits w else o) (held_first _)
  exact ⟨sm true, 9, 6, 10, 0x10000, 1, 0x38, _, _, _, _, old, t, source_of (by decide) rfl, source_of (by decide) rfl,
    source_of (by decide) rfl, by cases w <;> decide, h, dest_of _ _ (by decide)⟩
theorem hyp_AtomicHits_word : ∃ w, bitsOf w 26 6 = 0x28 ∧ bitsOf w 0 6 = 9 ∧ bitsOf w 21 5 = 31 := ⟨0xA3E63809, by decide⟩
theorem hyp_MisalignedTraps : (∀ p ∈ loadTable, p.2.1 ≠ 1 → ∃ (s : State) (a : Reg) (i : BitVec 16) (va : Word) (k1 : Core),
      AddrI (s.core s.cur) a i va k1 ∧ va.toNat % p.2.1 ≠ 0)
    ∧ (∀ p ∈ storeTable, p.2 ≠ 1 → ∃ (s : State) (a b : Reg) (i : BitVec 16) (va v : Word) (k1 k2 : Core),
      AddrI (s.core s.cur) a i va k1 ∧ Source k1 b v k2 ∧ va.toNat % p.2 ≠ 0)
    ∧ (∀ w : Width, ∃ (s : State) (a b : Reg) (va v : Word) (k1 k2 : Core),
      Source (s.core s.cur) a va k1 ∧ Source k1 b v k2 ∧ AsksNothing k2 ∧ va.toNat % (amoBits w / 8) ≠ 0)
    ∧ ∃ (s : State) (va : Word) (k1 : Core), OneMode (s.core s.cur) false [1] ∧ AddrX (s.core s.cur) 6 10 va k1 ∧ va.toNat % 32 ≠ 0 := by
  refine ⟨fun p hp _ => ⟨sm true, 6, 1, _, _, sm_at true 1, ?_⟩, fun p hp h => ⟨sm true, 6, 0, 1, _, 0, _, _, sm_at true 1, source_zero _, ?_⟩,
    fun w => ⟨sm true, 10, 0, 1, 0, _, _, source_of (by decide) rfl, source_zero _, asks_nothing rfl,
      by cases w <;> decide⟩,
    ⟨sm true, _, _, by simp [OneMode, sm, State.modDie, State.setDie, State.die, st, km, kx, Core.reset, USys.reset, State.setCore, State.core, State.reset, insertK, lookupK],
      addrX_of (by decide) rfl (by decide) rfl, by decide⟩⟩
  · revert p; decide
  · revert p; decide
/-- A core whose page has another leaf. -/
def kp (leaf : Word) : Core := { kx [(6, 0x10000)] with tlb := [{ page0 with leaf := leaf }] }
theorem not_walked {k : Core} (h : k.pending = .none) : ∀ q v c, k.pending ≠ .walked q v c := by simp [h]
/-- The lowest address of 2^48 and above, and a page that is for reading only. -/
theorem hyp_TranslationTraps : ∃ (s : State) (va : Word) (k1 : Core), AddrI (s.core s.cur) 6 0 va k1 ∧ (∀ q v c, k1.pending ≠ .walked q v c) ∧
    2 ^ 48 ≤ va.toNat :=
  ⟨st (kx [(6, 0x1000000000000)]), _, _, addrI_of 0 (by decide) rfl rfl, not_walked rfl, by decide⟩
theorem hyp_TranslationTraps_prot : ∀ p : Acc × Word, p = (.read, 0x40000000DD) ∨ p = (.write, 0x40000000DB) ∨ p = (.read, 0x40000000DF) →
    ∃ (s : State) (va : Word) (k1 : Core) (t : TlbEntry) (u : State), AddrI (s.core s.cur) 6 0 va k1 ∧ (∀ q v c, k1.pending ≠ .walked q v c) ∧
    va.toNat < 2 ^ 48 ∧ s.tlbHit s.cur va.toNat = some (t, u) ∧ s.hitOk (s.core s.cur) p.1 t va.toNat = false := by
  rintro p (rfl | rfl | rfl)
  · exact ⟨st (kp 0x40000000DD), 0x10000, kp 0x40000000DD, { page0 with leaf := 0x40000000DD }, _,
      addrI_of (a := 6) (x := 0x10000) 0 (by decide) rfl rfl, not_walked rfl, by decide,
      tlb_hit (s := st (kp 0x40000000DD)) (by decide +kernel), by decide +kernel⟩
  · exact ⟨st (kp 0x40000000DB), 0x10000, kp 0x40000000DB, { page0 with leaf := 0x40000000DB }, _,
      addrI_of (a := 6) (x := 0x10000) 0 (by decide) rfl rfl, not_walked rfl, by decide,
      tlb_hit (s := st (kp 0x40000000DB)) (by decide +kernel), by decide +kernel⟩
  · exact ⟨st (kp 0x40000000DF), 0x10000, kp 0x40000000DF, { page0 with leaf := 0x40000000DF }, _,
      addrI_of (a := 6) (x := 0x10000) 0 (by decide) rfl rfl, not_walked rfl, by decide,
      tlb_hit (s := st (kp 0x40000000DF)) (by decide +kernel), by decide +kernel⟩

/-- A long-mode core with the four lines at 0x10000. -/
def kl : Core := { km true [(6, 0x10000)] with u := { USys.reset with long := true } }
/-- The state after a load, or a store of 64 bytes 0, at `va` of the page. -/
def loaded (s : State) (va : Word) : State := s.setCore s.cur { s.core s.cur with
  l1 := insertK (s.core s.cur).l1 (page0.pa va.toNat / 64) { line0 true with rts := max 5 (max (s.core s.cur).pts 3) }, pts := max (s.core s.cur).pts (max (s.core s.cur).pts 3) }
def stored (s : State) (va : Word) (v : Nat) : State :=
  wroteLine s s.cur (page0.pa va.toNat) 64 v (max (s.core s.cur).pts 6 + 7) (line0 true)
/-- A long-mode core's package. -/
def sl : State := (st kl).modDie 0 fun d => { d with frames := [(0, .mapped 0)] }
/-- An access there meets the owned line. -/
def Meets (s : State) (va : Word) : Prop :=
  (va.toNat < 2 ^ 48 ∧ (s.core s.cur).tlbFind va.toNat = some page0 ∧ s.hitOk (s.core s.cur) .read page0 va.toNat = true
    ∧ s.hitOk (s.core s.cur) .write page0 va.toNat = true)
  ∧ (s.target page0 (page0.pa va.toNat) = .near 0 ∧ lookupK (s.core s.cur).l1 (page0.pa va.toNat / 64) = some (line0 true))
  ∧ (s.guarded (page0.pa va.toNat) 64 = false ∧ s.watched (page0.pa va.toNat / 64) = false)
  ∧ s.copyUsable s.cur (line0 true) = true ∧ s.owns (s.core s.cur).sv.ctxid.toNat (leafProto page0.leaf) = true
theorem loads_of {s : State} {va : Word} (h : Meets s va) (p : (s.core s.cur).pending = .none) (u : Acked (s.core s.cur)) :
    ∃ v, Loads s va 64 v (loaded s va) :=
  ⟨_, page0, _, line0 true, max (s.core s.cur).pts 3, translates_of p ⟨h.1.1, h.1.2.1, h.1.2.2.1, by decide +kernel⟩, u, .inl h.2.1.1,
    h.2.1.2, h.2.2.2.1, .inl rfl, rfl, rfl, rfl⟩
theorem stores_of {s : State} {va : Word} {v : Nat} (h : Meets s va) (p : (s.core s.cur).pending = .none) (u : Acked (s.core s.cur))
    (g : (s.core s.cur).grantedLine (page0.pa va.toNat / 64) = false) : Stores s va 64 v (stored s va v) := by
  refine ⟨page0, _, line0 true, _, ⟨translates_of p ⟨h.1.1, h.1.2.1, h.1.2.2.2, by decide +kernel⟩, h.2.2.1.1, h.2.1.1, h.2.2.2.2, u,
    asks_nothing p, h.2.2.1.2, h.2.1.2, rfl, h.2.2.2.1⟩, ?_, rfl⟩
  simp [WriteTime, g, line0]
theorem hyp_VectorAccess_long : ∃ (s : State) (d : Reg) (va : Word) (k1 k2 : Core) (v : Nat) (t u : State), OneMode (s.core s.cur) true [d] ∧
    AddrX (s.core s.cur) 6 0 va k1 ∧ va.toNat % vecBytes true = 0 ∧ LoadsLong (s.setCore s.cur k1) va v t ∧ VDest (t.core s.cur) true d v k2 ∧
    StoresLong (s.setCore s.cur k1) va 0 u := by
  have a0 : Meets sl 0x10000 := by constructor <;> decide +kernel
  have a1 : Meets (loaded sl 0x10000) 0x10040 := by constructor <;> decide +kernel
  have a2 : Meets (loaded (loaded sl 0x10000) 0x10040) 0x10080 := by constructor <;> decide +kernel
  have a3 : Meets (loaded (loaded (loaded sl 0x10000) 0x10040) 0x10080) 0x100C0 := by constructor <;> decide +kernel
  have b1 : Meets (stored sl 0x10000 (bitsOf 0 0 512)) 0x10040 := by constructor <;> decide +kernel
  have b2 : Meets (stored (stored sl 0x10000 (bitsOf 0 0 512)) 0x10040 (bitsOf 0 512 512)) 0x10080 := by constructor <;> decide +kernel
  have b3 : Meets (stored (stored (stored sl 0x10000 (bitsOf 0 0 512)) 0x10040 (bitsOf 0 512 512)) 0x10080 (bitsOf 0 1024 512)) 0x100C0 := by constructor <;> decide +kernel
  obtain ⟨v0, h0⟩ := loads_of a0 rfl ⟨rfl, rfl⟩
  obtain ⟨v1, h1⟩ := loads_of a1 rfl ⟨rfl, rfl⟩
  obtain ⟨v2, h2⟩ := loads_of a2 rfl ⟨rfl, rfl⟩
  obtain ⟨v3, h3⟩ := loads_of a3 rfl ⟨rfl, rfl⟩
  exact ⟨sl, 7, 0x10000, kl, _, _, _, _, by simp [OneMode]; decide +kernel, ⟨0x10000, 0, _, source_of (by decide) rfl, source_zero _, by decide⟩,
    by decide, ⟨v0, v1, v2, v3, _, _, _, h0, h1, h2, h3, rfl⟩, .inl ⟨rfl, rfl⟩,
    ⟨_, _, _, stores_of a0 rfl ⟨rfl, rfl⟩ rfl, stores_of b1 rfl ⟨rfl, rfl⟩ rfl, stores_of b2 rfl ⟨rfl, rfl⟩ rfl, stores_of b3 rfl ⟨rfl, rfl⟩ rfl⟩⟩
theorem hyp_VectorAccess_private : ∃ (s : State) (va : Word) (k1 k2 : Core) (v : Nat) (t u : State), OneMode (s.core s.cur) false [1] ∧
    AddrX (s.core s.cur) 6 0 va k1 ∧ va.toNat % vecBytes false = 0 ∧ Loads (s.setCore s.cur k1) va 32 v t ∧ VDest (t.core s.cur) false 1 v k2 ∧
    VSource k1 false 1 7 k1 ∧ Stores (s.setCore s.cur k1) va 32 7 u := by
  obtain ⟨v, t, hl⟩ := sm_loads true 32 (held_first _)
  obtain ⟨u, hk⟩ := sm_stores 32 7 (held_first _)
  exact ⟨sm true, 0x10000, _, _, v, t, u, by simp [OneMode]; decide +kernel, sm_ax true, by decide, hl, .inr (.inl ⟨rfl, by decide, rfl⟩),
    .inr (.inl ⟨rfl, ⟨7, rfl, rfl⟩, rfl⟩), hk⟩
theorem hyp_VectorAccess_broadcast : ∀ z : Size, ∃ (s : State) (va : Word) (k1 k2 : Core) (v r : Nat) (t : State),
    OneMode (s.core s.cur) false [1] ∧ AddrX (s.core s.cur) 6 0 va k1 ∧ va.toNat % bytesOf z = 0 ∧ Loads (s.setCore s.cur k1) va (bytesOf z) v t ∧
    Lanes (8 * bytesOf z) (vecBytes false / bytesOf z) r (fun _ => v) ∧ VDest (t.core s.cur) false 1 r k2 := by
  intro z
  have f := held_first true
  cases z
  case s64 => exact ⟨sm true, 0x10000, _, _, 0x8786858483828180, 0x8786858483828180878685848382818087868584838281808786858483828180, _,
      by simp [OneMode]; decide +kernel, sm_ax true, by decide, ⟨page0, _, line0 true, _, sm_translates true (by decide) f, ⟨rfl, rfl⟩,
      .inl f.1.2.2.1, f.1.2.2.2.1, (sm_rest true).1, .inl rfl, rfl, by decide +kernel, rfl⟩, ⟨by decide +kernel, by decide +kernel⟩, .inr (.inl ⟨rfl, by decide, rfl⟩)⟩
  case s32 => exact ⟨sm true, 0x10000, _, _, 0x83828180, 0x8382818083828180838281808382818083828180838281808382818083828180, _,
      by simp [OneMode]; decide +kernel, sm_ax true, by decide, ⟨page0, _, line0 true, _, sm_translates true (by decide) f, ⟨rfl, rfl⟩,
      .inl f.1.2.2.1, f.1.2.2.2.1, (sm_rest true).1, .inl rfl, rfl, by decide +kernel, rfl⟩, ⟨by decide +kernel, by decide +kernel⟩, .inr (.inl ⟨rfl, by decide, rfl⟩)⟩
  case s16 => exact ⟨sm true, 0x10000, _, _, 0x8180, 0x8180818081808180818081808180818081808180818081808180818081808180, _,
      by simp [OneMode]; decide +kernel, sm_ax true, by decide, ⟨page0, _, line0 true, _, sm_translates true (by decide) f, ⟨rfl, rfl⟩,
      .inl f.1.2.2.1, f.1.2.2.2.1, (sm_rest true).1, .inl rfl, rfl, by decide +kernel, rfl⟩, ⟨by decide +kernel, by decide +kernel⟩, .inr (.inl ⟨rfl, by decide, rfl⟩)⟩
  case s8 => exact ⟨sm true, 0x10000, _, _, 0x80, 0x8080808080808080808080808080808080808080808080808080808080808080, _,
      by simp [OneMode]; decide +kernel, sm_ax true, by decide, ⟨page0, _, line0 true, _, sm_translates true (by decide) f, ⟨rfl, rfl⟩,
      .inl f.1.2.2.1, f.1.2.2.2.1, (sm_rest true).1, .inl rfl, rfl, by decide +kernel, rfl⟩, ⟨by decide +kernel, by decide +kernel⟩, .inr (.inl ⟨rfl, by decide, rfl⟩)⟩

/-- A private-mode core. -/
theorem oneMode {k : Core} {l : List Reg} (h : k.u.long = false) : OneMode k false l := fun _ _ => by simp [h]

/-- The last doubleword, and the last 32 bytes, of the scratchpad, full. -/
def ksp (full : Bool) : Core := { kx [(6, 0x3FFF8), (9, 0x3FFE0), (10, 5)] with fe := if full then [16382, 16383] else [] }
theorem ksp_last (b : Bool) : AllGranules (ksp b) 262136 8 b := by
  intro g h1 h2
  have : g = 16383 := by omega
  subst this
  cases b <;> decide
theorem ksp_vector (b : Bool) : AllGranules (ksp b) 262112 32 b := by
  intro g h1 h2
  have : g = 16382 ∨ g = 16383 := by omega
  rcases this with h | h <;> subst h <;> cases b <;> decide
theorem hyp_ScratchpadAccess_load : ∀ q : LoadQ, ∃ (s : State) (x : Word) (k1 k2 k3 : Core) (v : Nat), Source (s.core s.cur) 6 x k1 ∧
    ScratchLoads k1 (x + (0 : BitVec 14).signExtend 64) 8 q v k2 ∧ Dest k2 3 (BitVec.ofNat 64 v) k3 := fun q =>
  ⟨st (ksp true), 0x3FFF8, _, _, _, _, source_of (by decide) rfl,
    ⟨⟨by decide +kernel, by decide +kernel, rfl⟩, rfl, fun _ => ksp_last true, rfl⟩, dest_of _ _ (by decide)⟩
theorem hyp_ScratchpadAccess_store : ∀ q : StoreQ, ∃ (s : State) (x v : Word) (k1 k2 k3 : Core), Source (s.core s.cur) 6 x k1 ∧
    Source k1 10 v k2 ∧ ScratchStores k2 (x + (0 : BitVec 14).signExtend 64) 8 v.toNat q k3 := fun q =>
  ⟨st (ksp false), 0x3FFF8, 5, _, _, _, source_of (by decide) rfl, source_of (by decide) rfl,
    ⟨⟨by decide +kernel, by decide +kernel, rfl⟩, fun _ => ksp_last false, rfl⟩⟩
theorem hyp_ScratchpadAccess_vector : ∀ (q : LoadQ) (w : StoreQ), ∃ (s t : State) (off : Word) (k1 k2 k3 k4 k5 : Core) (v : Nat),
    OneMode (s.core s.cur) false [1] ∧ AddrX (s.core s.cur) 9 0 off k1 ∧ ScratchLoads k1 off (vecBytes false) q v k2 ∧ VDest k2 false 1 v k3 ∧
    AddrX (t.core t.cur) 9 0 off k4 ∧ VSource k4 false 1 0 k4 ∧ ScratchStores k4 off (vecBytes false) 0 w k5 := fun q w =>
  ⟨st (ksp true), st (ksp false), 0x3FFE0, _, _, _, _, _, _, oneMode rfl, ⟨0x3FFE0, 0, _, source_of (by decide) rfl, source_zero _, by decide⟩,
    ⟨⟨by decide +kernel, by decide +kernel, rfl⟩, rfl, fun _ => ksp_vector true, rfl⟩, .inr (.inl ⟨rfl, by decide, rfl⟩),
    ⟨0x3FFE0, 0, _, source_of (by decide) rfl, source_zero _, by decide⟩, .inr (.inl ⟨rfl, ⟨0, rfl, rfl⟩, rfl⟩),
    ⟨⟨by decide +kernel, by decide +kernel, rfl⟩, fun _ => ksp_vector false, rfl⟩⟩
/-- The first offset from which 8 bytes leave the scratchpad, and a load that waits for an empty granule. -/
theorem hyp_ScratchpadAccess_outside : ∃ (s : State) (x : Word) (k1 : Core), Source (s.core s.cur) 6 x k1 ∧
    262144 < (x + (1 : BitVec 14).signExtend 64).toNat + 8 :=
  ⟨st (ksp true), 0x3FFF8, _, source_of (by decide) rfl, by decide +kernel⟩
theorem hyp_ScratchpadAccess_waits : ∃ (s : State) (x : Word) (k1 : Core), Source (s.core s.cur) 6 x k1 ∧
    InScratch k1 (x + (0 : BitVec 14).signExtend 64) 8 false ∧ ¬ AllGranules k1 (x + (0 : BitVec 14).signExtend 64).toNat 8 true :=
  ⟨st (ksp false), 0x3FFF8, _, source_of (by decide) rfl, ⟨by decide +kernel, by decide +kernel, rfl⟩,
    fun h => absurd (h 16383 (by decide +kernel) (by decide +kernel)) (by decide +kernel)⟩
theorem hyp_StreamsStart : ∀ p : Word × Word × Word, ∃ (s : State) (k : Core), StreamArgs (s.core s.cur) 6 9 10 p.1 p.2.1 p.2.2 k :=
  fun p => ⟨st (kx [(6, p.1), (9, p.2.1), (10, p.2.2)]), _, _, _, source_of (by decide) rfl, source_of (by decide) rfl, source_of (by decide) rfl⟩
theorem hyp_StreamsStart_values : (7 : Word).toNat % 8 ≠ 0 ∧ (8 : Word).toNat % 8 = 0 ∧ (0xFFFFFFF8 : Word).toNat % 8 = 0 ∧
    2 ^ 32 ≤ (0x100000000 : Word).toNat ∧ (0xFFFFFFFF : Word).toNat < 2 ^ 32 ∧ (kx []).lstream = none ∧ (kx []).sstream = none := by
  refine ⟨by decide, by decide, by decide, by decide, by decide, rfl, rfl⟩
theorem hyp_CacheHints : ∀ e : Bool, ∃ (s : State) (va : Word) (k1 : Core) (t : TlbEntry) (v : State) (l : L1Line),
    AddrX (s.core s.cur) 6 0 va k1 ∧ Translates (s.setCore s.cur k1) .read va t v ∧ Acked (v.core s.cur) ∧ dramBase ≤ t.pa va.toNat ∧
    lookupK (v.core s.cur).l1 (t.pa va.toNat / 64) = some l ∧ max l.wts l.rts < 2 ^ 63 ∧
    l.excl = e ∧ (s.lineTs l.home (t.pa va.toNat / 64)).1 ≤ l.wts := fun e =>
  ⟨sm e, 0x10000, _, page0, sm e, line0 e, sm_ax e, sm_translates e (by decide) (held_first e), ⟨rfl, rfl⟩, by decide +kernel,
    (held_first e).1.2.2.2.1, by cases e <;> decide, rfl, by cases e <;> decide +kernel⟩
/-- The 4,096th cycle after WFE, and the one before it; a card appended to the scheduler of the own die and one of the other. -/
theorem hyp_FencesAndWfe : (∀ sc : Scope, (kx []).sfault = none ∧ (st (kx [])).fenceBusy 0 sc = false)
    ∧ (∀ j ∈ ({ kx [] with jobs := [(1, 0)] } : Core).jobs, jobInScope 0 j.1 .die = false)
    ∧ (∀ j ∈ (kx []).jobs, jobInScope 0 j.1 .package = false)
    ∧ (∃ j ∈ ({ kx [] with jobs := [(0, 0)] } : Core).jobs, jobInScope 0 j.1 .core = true)
    ∧ ({ kx [] with latch := true } : Core).latch = true
    ∧ ({ kx [] with pend := .idle 10 } : Core).pending = .idle 10 ∧ 10 + 4096 ≤ 4106 ∧ 4105 < 10 + 4096
    ∧ ({ kx [] with pend := .idle 10 } : Core).latch = false := by
  refine ⟨fun sc => ⟨rfl, by cases sc <;> decide +kernel⟩, by decide +kernel, by decide +kernel, by decide +kernel, rfl, rfl, by decide, by decide, rfl⟩

/-! ### Messages and channels -/

/-- A core that sends: x6 names core 1151 of its own generation, x9 core 0 with generation 5, x3 and x4 hold a payload. -/
def kn : Core := { kx [(6, 1151), (9, 0x80050000), (3, 30), (4, 40), (10, 0x100000000), (11, 4095)] with
  u := { USys.reset with hgen := 7 }, act := some ⟨5, 0x00C04000, true⟩, v := ((Vector.replicate 14 0).set 1 0x0000000700000000FFFFFFFF00000001).set 2 (BitVec.allOnes 256),
  htab := (Vector.replicate 64 HEntry.reset).set 5 { HEntry.reset with st := .bound, code := 0x2000, fifo := [] } }
theorem payload_two (k : Core) (h : k.hart.x[3]? = some 30 ∧ k.hart.x[4]? = some 40) : Payload k 3 2 [30, 40] k :=
  ⟨[30], 40, k, ⟨[], 30, k, ⟨rfl, rfl⟩, source_of (by decide) h.1, rfl⟩, source_of (by decide) h.2, rfl⟩
theorem hyp_SendsMessageOrTraps_send : ∃ (s : State) (v w : Word) (dst gen : Nat) (l : List Word) (k1 k2 : Core), Source (s.core s.cur) 6 v k1 ∧
    Destination (s.setCore s.cur k1) v dst gen ∧ Payload k1 3 (2 : BitVec 4).toNat l k2 ∧ MayName k2 47 ∧ NetReady s ∧
    Source (s.core s.cur) 9 w k1 ∧ Destination (s.setCore s.cur k1) w 0 5 :=
  ⟨st kn, 1151, 0x80050000, 1151, 7, [30, 40], _, _, source_of (by decide) rfl, by unfold Destination; decide +kernel,
    payload_two _ ⟨rfl, rfl⟩, by unfold MayName; decide +kernel, by unfold NetReady; decide +kernel, source_of (by decide) rfl,
    by unfold Destination; decide +kernel⟩
theorem hyp_SendsMessageOrTraps_reply : ∃ (s : State) (a : Activation) (l : List Word) (k2 : Core), (s.core s.cur).slot3 = .idle ∧
    (s.core s.cur).act = some a ∧ a.ahdr ≠ 0 ∧ a.ahdr.toNat / 2 ^ 16 % 8 ≠ 4 ∧ Payload (s.core s.cur) 3 (2 : BitVec 4).toNat l k2 ∧
    MayName k2 1 ∧ NetReady s :=
  ⟨st kn, ⟨5, 0x00C04000, true⟩, [30, 40], _, rfl, rfl, by decide, by decide, payload_two _ ⟨rfl, rfl⟩, by unfold MayName; decide +kernel,
    by unfold NetReady; decide +kernel⟩
theorem hyp_SendsMessageOrTraps_vector : ∃ (s : State) (v : Word) (dst gen w : Nat) (k1 k2 : Core), Source (s.core s.cur) 6 v k1 ∧
    Destination (s.setCore s.cur k1) v dst gen ∧ OneMode k1 false [1] ∧ VSource k1 false 1 w k2 ∧ MayName k2 63 ∧ NetReady s :=
  ⟨st kn, 1151, 1151, 7, _, _, _, source_of (by decide) rfl, by unfold Destination; decide +kernel, oneMode rfl,
    .inr (.inl ⟨rfl, ⟨_, rfl, rfl⟩, rfl⟩), by unfold MayName; decide +kernel, by unfold NetReady; decide +kernel⟩
/-- The lowest word that names no core, the core numbers from the first that does not exist, and the channels 0, 48, 60 and 61. -/
theorem hyp_SendsMessageOrTraps_traps : ((0x100000000 : Word).toNat / 2 ^ 32 ≠ 0) ∧ ((1152 : Word).toNat < 4096 ∧ (st kn).logicalCount ≤ (1152 : Word).toNat)
    ∧ (∀ ch ∈ [(0 : BitVec 6), 48, 60, 61], ¬ MayName kn ch) ∧ (∃ a, ({ kn with act := some ⟨0, 0, false⟩ } : Core).act = some a ∧ a.ahdr = 0) :=
  ⟨by decide, by decide +kernel, by unfold MayName; decide +kernel, ⟨0, 0, false⟩, rfl, rfl⟩
theorem hyp_SendsNonzeroLanes : ∀ t : Ty, t.isLane = true → ∃ (s : State) (v : Word) (dst gen w : Nat) (k1 k2 : Core),
    Source (s.core s.cur) 6 v k1 ∧ Destination (s.setCore s.cur k1) v dst gen ∧ MayName k1 9 ∧ OneMode k1 false [1] ∧ VSource k1 false 1 w k2 ∧
    NetReady s := fun t _ =>
  ⟨st kn, 1151, 1151, 7, _, _, _, source_of (by decide) rfl, by unfold Destination; decide +kernel, by unfold MayName; decide +kernel, oneMode rfl,
    .inr (.inl ⟨rfl, ⟨_, rfl, rfl⟩, rfl⟩), by unfold NetReady; decide +kernel⟩
/-- Eight messages fill the interface: of the lanes of all ones, eight of 32 bits fit, and of 32 of 8 bits the ninth waits. -/
theorem hyp_SendsNonzeroLanes_room : ((List.range (8 * vecBytes false / tyBits .i32)).filter fun n =>
      decide ((kn).scanFrom ≤ n) && decide (bitsOf (BitVec.allOnes 256).toNat (tyBits .i32 * n) (tyBits .i32) ≠ 0)).length = (st kn).niRoom 0
    ∧ ((List.range (8 * vecBytes false / tyBits .i8)).filter fun n =>
      decide ((kn).scanFrom ≤ n) && decide (bitsOf (BitVec.allOnes 256).toNat (tyBits .i8 * n) (tyBits .i8) ≠ 0))[(st kn).niRoom 0]? = some 8 := by
  decide +kernel
theorem hyp_ActivationEnds : ∃ (s : State) (k : Core) (a : Activation) (e : HEntry) (t : State), k = s.core s.cur ∧ k.slot3 = .idle ∧ k.sfault = none ∧
    k.act = some a ∧ HasEntry k a.ch e ∧ e.st ≠ .empty ∧
    t = (s.setCore s.cur (ended k a.ch (rebound (headGone a e)))).endLeading s.cur ∧
    t.spilledFor s.cur k.sv.ctxid.toNat (t.logical s.cur) = [] :=
  ⟨st kn, _, ⟨5, 0x00C04000, true⟩, _, _, rfl, rfl, rfl, rfl, by unfold HasEntry; rfl, by decide, rfl, by decide +kernel⟩
theorem hyp_ActivationEnds_slot3 : ((st (atPriv 1 kn)).core 0).slot3 ≠ .idle := by decide +kernel
/-- HBIND has a result for every entry. -/
theorem binds_exists (e : HEntry) (xa c : Word) (prio rgn : Nat) (own waits : Bool) (n : xa = 0 → c = 0) :
    ∃ e', Binds e xa c prio rgn own waits e' := by
  unfold Binds
  cases h : e.st <;> by_cases f : xa = 0#64 <;> by_cases g : c = 0#64 <;> cases own <;> simp_all
/-- HBIND of a channel of U, by the activation of channel 5, for each state of the entry. -/
theorem hyp_ChannelBindingAndControl : ∀ (z : EntryState) (c : Word), c = 0 ∨ c = 0xFFFFFFFFFFFC → ∃ (s : State) (k : Core) (e e' f : HEntry) (q : Activation),
    Source (s.core s.cur) 6 c k ∧ (3 : BitVec 4).toNat < 8 ∧ (12 : BitVec 6).toNat < 61 ∧ ¬ (48 ≤ (12 : BitVec 6).toNat ∨ (3 : BitVec 4) = 7) ∧ c.toNat % 4 = 0 ∧
    k.priv = 0 ∧ c.toNat < 2 ^ 48 ∧ HasEntry k 12 e ∧ e.st = z ∧ k.slot3 = .idle ∧ k.act = some q ∧ q.ch = 5 ∧ HasEntry k 5 f ∧
    Binds e c (BitVec.ofNat 64 (c.toNat % 2 ^ 48)) 3 f.rgn false ((s.setCore s.cur k).waits s.cur 12) e' := by
  intro z c hc
  have n : c.toNat % 4 = 0 ∧ c.toNat < 2 ^ 48 := by rcases hc with rfl | rfl <;> decide
  let e : HEntry := { HEntry.reset with st := z }
  let k : Core := { kn with s0 := { (kx [(6, c)]).s0 with pc := 0 }, htab := kn.htab.set 12 e }
  obtain ⟨e', h⟩ := binds_exists e c (BitVec.ofNat 64 (c.toNat % 2 ^ 48)) 3 0 false (((st k).setCore (st k).cur k).waits (st k).cur 12)
    (fun z => by subst z; decide)
  exact ⟨st k, k, e, e', { HEntry.reset with st := .bound, code := 0x2000 }, ⟨5, 0x00C04000, true⟩, source_of (by decide) rfl, by decide, by decide,
    by decide, n.1, rfl, n.2, rfl, rfl, rfl, rfl, rfl, rfl, h⟩
theorem hyp_ChannelBindingAndControl_entries : HasEntry kn 5 { HEntry.reset with st := .bound, code := 0x2000 } ∧ HasEntry kn 60 HEntry.reset
    ∧ (atPriv 1 kn).priv ≠ 0 ∧ (st (withEntry kn 5 { HEntry.reset with code := 0x2000 })).spilledFor 0 0 0 = [] := by
  refine ⟨rfl, rfl, by decide, by decide +kernel⟩
/-- A word at 0x10000 whose bytes are 0: no copy of its line is away. -/
def sw (n : Nat) : State := ({ st { kp 0x40000000DF with s0 := (kx [(6, 0x10000), (9, 7)]).s0, u := { USys.reset with hgen := 7 } } with
  watches := List.replicate n { home := 0, pa := 0, va := 0, n := 8, target := 0, core := 0, ch := 1, gen := 7, ctx := 0 } }).modDie 0
    fun d => { d with frames := [(0, .mapped 0)] }
theorem hyp_WatchArms : ∀ n ∈ [0, 63, 64], ∃ (va : Word) (k1 k2 : Core), Source ((sw n).core (sw n).cur) 6 va k1 ∧ Source k1 9 7 k2 ∧
    va.toNat % 8 = 0 ∧ Translates ((sw n).setCore (sw n).cur k2) .read va page0 (sw n) ∧ inDram (page0.pa va.toNat) = true ∧
    page0.home (dieOf (sw n).cur) (page0.pa va.toNat) = 0 ∧ (sw n).away (page0.pa va.toNat / 64) = none ∧
    BelowLimit (sw n) 0 (page0.pa va.toNat / 64) ((sw n).core (sw n).cur).pts ∧
    ((sw n).watches.filter fun y => y.home == 0).length = n ∧ (∀ y ∈ (sw n).watches, y.pa ≠ page0.pa va.toNat) ∧
    (sw n).bytes (page0.pa va.toNat) 8 ≠ (7 : Word).toNat % 2 ^ 64 ∧
    (sw n).bytes (page0.pa va.toNat) 8 = (0 : Word).toNat % 2 ^ 64 := by
  intro n hn
  have h : n = 0 ∨ n = 63 ∨ n = 64 := by simpa using hn
  refine ⟨0x10000, _, _, source_of (by decide) rfl, source_of (by decide) rfl, by decide, translates_of rfl ⟨by decide, ?_⟩, ?_⟩ <;>
    (try unfold BelowLimit
     rcases h with rfl | rfl | rfl <;> decide +kernel)

/-! ### Floating point, lanes and long mode -/

theorem fSource_zero (k : Core) (h : k.hart.f[1]? = some 0) : FSource k 1 0 := h
theorem hyp_ScalarFloats : ∃ (s : State) (k : Core), k = s.core s.cur ∧ FSource k 1 0x7FF0000000000001 ∧ FSource k 2 0x3FF0000000000000 ∧
    (∀ v, ∃ k', Dest k 3 v k') ∧ (∀ fl v, ∃ k', Dest (k.orFlags fl) 3 v k') ∧ Source k 6 5 k :=
  ⟨st { kx [(6, 5)] with s0 := { (kx [(6, 5)]).s0 with f := (xs [(1, 0x7FF0000000000001), (2, 0x3FF0000000000000)]) } }, _, rfl, rfl, rfl,
    fun v => ⟨_, dest_of _ v (by decide)⟩, fun _ v => ⟨_, dest_of _ v (by decide)⟩, source_of (by decide) rfl⟩
theorem hyp_ScalarFloats_sign : ∀ p ∈ signTable, ∀ t ∈ [Ty.f64, .f32, .f16, .bf16], ∃ v, v < 2 ^ tyBits t ∧
    v % 2 ^ (tyBits t - 1) = 0 % 2 ^ (tyBits t - 1) ∧
    v.testBit (tyBits t - 1) = p.2 ((0 : Nat).testBit (tyBits t - 1)) ((2 ^ (tyBits t - 1) : Nat).testBit (tyBits t - 1)) := by
  intro p hp t ht
  have g : ∀ b : Bool, ∃ v, v < 2 ^ tyBits t ∧ v % 2 ^ (tyBits t - 1) = 0 % 2 ^ (tyBits t - 1) ∧ v.testBit (tyBits t - 1) = b := by
    intro b
    refine ⟨if b then 2 ^ (tyBits t - 1) else 0, ?_⟩
    fin_cases ht <;> cases b <;> decide
  exact g _
theorem hyp_ScalarFloats_word : ∃ w, bitsOf w 26 6 = 0x30 ∧ (bitsOf w 0 6 = 17 ∨ bitsOf w 0 6 = 18) ∧ 3 < bitsOf w 6 5 := ⟨0xC0A10111, by decide⟩
/-- 5 / 2 in every mode and sign; a signalling and a quiet NaN of F64 and of F32. -/
theorem hyp_RoundingAndNaN : (∀ rm < 4, ∃ q b, roundDiv rm true 5 2 = (q, b)) ∧ 0 < 2
    ∧ ((fmtOf .f64).operand ⟨0, false, false, false⟩ 0x7FF0000000000001).isNan = true
    ∧ ((fmtOf .f64).operand ⟨0, false, false, false⟩ 0x7FF0000000000001).isSig = true
    ∧ ((fmtOf .f32).operand ⟨3, true, true, true⟩ 0x7FC00000).isNan = true := by
  refine ⟨fun rm _ => ⟨_, _, rfl⟩, by decide, by decide +kernel, by decide +kernel, by decide +kernel⟩

/-- Numbers below 2^w are the lanes of some number. -/
theorem lanes_exists (w n : Nat) (g : Nat → Nat) (h : ∀ i < n, g i < 2 ^ w) : ∃ r, Lanes w n r g := by
  induction n with
  | zero => exact ⟨0, by simp, nofun⟩
  | succ n ih =>
    obtain ⟨r, hr, e⟩ := ih fun i hi => h i (by omega)
    have hw : (2 : Nat) ^ (w * (n + 1)) = 2 ^ w * 2 ^ (w * n) := by rw [← pow_add]; ring_nf
    have hg := h n (by omega)
    refine ⟨r + g n * 2 ^ (w * n), ?_, ?_⟩
    · rw [hw]
      calc r + g n * 2 ^ (w * n) < (1 + g n) * 2 ^ (w * n) := by rw [Nat.add_mul, Nat.one_mul]; omega
        _ ≤ 2 ^ w * 2 ^ (w * n) := Nat.mul_le_mul_right _ (by omega)
    · intro i hi
      rcases Nat.lt_or_eq_of_le (Nat.le_of_lt_succ hi) with lt | rfl
      · rw [← e i lt]
        have : g n * 2 ^ (w * n) = g n * 2 ^ (w * (n - i - 1)) * 2 ^ w * 2 ^ (w * i) := by
          rw [Nat.mul_assoc, Nat.mul_assoc, ← pow_add, ← pow_add]
          congr 2
          obtain ⟨m, rfl⟩ := Nat.exists_eq_add_of_lt lt
          have : i + m + 1 - i - 1 = m := by omega
          rw [this]
          ring
        simp only [bitsOf]
        rw [this, Nat.add_mul_div_right _ _ (by positivity), Nat.add_mul_mod_self_right]
      · simp only [bitsOf]
        rw [Nat.add_mul_div_right _ _ (by positivity), Nat.div_eq_of_lt hr, Nat.zero_add, Nat.mod_eq_of_lt hg]
/-- Flags of lanes have their OR. -/
theorem allFlags_exists (n : Nat) (g : Nat → FFlags) : ∃ fl, AllFlags n g fl := by
  induction n with
  | zero => exact ⟨0, by simp [AllFlags]⟩
  | succ n ih =>
    obtain ⟨fl, h⟩ := ih
    refine ⟨fl ||| g n, fun j => ?_⟩
    rw [BitVec.getLsbD_or, Bool.or_eq_true, h j]
    constructor
    · rintro (⟨i, hi, e⟩ | e)
      · exact ⟨i, by omega, e⟩
      · exact ⟨n, by omega, e⟩
    · rintro ⟨i, hi, e⟩
      rcases Nat.lt_or_eq_of_le (Nat.le_of_lt_succ hi) with lt | rfl
      · exact .inl ⟨i, lt, e⟩
      · exact .inr e
theorem at_lt (w v i : Nat) : at' w v i < 2 ^ w := Nat.mod_lt _ (by positivity)

/-- Two registers of eight I32 lanes; v1 and v2 in private mode, lv1 and lv2 in long mode. -/
def kv (long : Bool) : Core := { kx [(6, 7), (9, 8), (10, 5), (11, 63), (12, 64)] with
  u := { USys.reset with long := long },
  v := ((Vector.replicate 14 0).set 1 0x0000000700000006000000050000000400000003000000028000000180000000).set 2
    0x7FFFFFFF000000060000000500000004FFFFFFFF000000020000000100000000 }
theorem kv_source (r : Reg) (h : r = 1 ∨ r = 2 ∨ r = 3) (b : Bool) (k : Core) (e : k = kv b) : ∃ v, VSource k b r v k := by
  subst e
  cases b
  · exact ⟨((kv false).v[r.toNat]?.getD 0).toNat, .inr (.inl ⟨rfl, ⟨_, by rcases h with rfl | rfl | rfl <;> rfl, rfl⟩, rfl⟩)⟩
  · exact ⟨((kv true).lv[r.toNat]?.getD 0).toNat, .inl ⟨rfl, ⟨_, by rcases h with rfl | rfl | rfl <;> rfl, rfl⟩, rfl⟩⟩
theorem vdest_exists (k : Core) (b : Bool) (v : Nat) : ∃ k', VDest k b 3 v k' := by
  cases b
  · exact ⟨_, .inr (.inl ⟨rfl, by decide, rfl⟩)⟩
  · exact ⟨_, .inl ⟨rfl, rfl⟩⟩
theorem kv_mode (b : Bool) : OneMode (kv b) b [3, 1, 2] := by
  intro r hr
  have : r = 3 ∨ r = 1 ∨ r = 2 := by simpa using hr
  cases b <;> rcases this with rfl | rfl | rfl <;> rfl
def xv : Nat := 0x0000000700000006000000050000000400000003000000028000000180000000
def yv : Nat := 0x7FFFFFFF000000060000000500000004FFFFFFFF000000020000000100000000
theorem hyp_LanewiseResults_two : ∀ p ∈ laneBinTable, ∃ (s : State) (k : Core) (r : Nat) (fl : FFlags) (k3 : Core), k = s.core s.cur ∧
    OneMode k false [3, 1, 2] ∧ VSource k false 1 xv k ∧ VSource k false 2 yv k ∧
    (Lanes 32 8 r fun i => (p.2 .i32 (modesOf k) (at' 32 xv i) (at' 32 yv i)).1) ∧
    (AllFlags 8 (fun i => (p.2 .i32 (modesOf k) (at' 32 xv i) (at' 32 yv i)).2) fl) ∧ VDest (k.orFlags fl) false 3 r k3 := by
  intro p hp
  obtain ⟨fl, hf⟩ := allFlags_exists 8 fun i => (p.2 .i32 (modesOf (kv false)) (at' 32 xv i) (at' 32 yv i)).2
  have hb : ∀ p ∈ laneBinTable, ∀ i < 8, (p.2 .i32 (modesOf (kv false)) (at' 32 xv i) (at' 32 yv i)).1 < 4294967296 := by decide +kernel
  obtain ⟨r, hr⟩ := lanes_exists 32 8 _ (hb p hp)
  obtain ⟨k3, h3⟩ := vdest_exists ((kv false).orFlags fl) false r
  exact ⟨st (kv false), _, r, fl, k3, rfl, kv_mode false, .inr (.inl ⟨rfl, ⟨_, rfl, by decide +kernel⟩, rfl⟩),
    .inr (.inl ⟨rfl, ⟨_, rfl, by decide +kernel⟩, rfl⟩), hr, hf, h3⟩
theorem hyp_LanewiseResults_one : ∀ p ∈ laneUnTable, ∀ b : Bool, ∃ (s : State) (k : Core) (x r n : Nat) (fl : FFlags) (k3 : Core), k = s.core s.cur ∧
    OneMode k b [3, 1] ∧ VSource k b 3 x k ∧ n = 8 * vecBytes b / tyBits .f32 ∧
    (Lanes 32 n r fun i => (p.2 .f32 (modesOf k) (at' 32 x i)).1) ∧
    (AllFlags n (fun i => (p.2 .f32 (modesOf k) (at' 32 x i)).2) fl) ∧ VDest (k.orFlags fl) b 3 r k3 := by
  intro p hp b
  obtain ⟨fl, hf⟩ := allFlags_exists (8 * vecBytes b / tyBits .f32) fun i => (p.2 .f32 (modesOf (kv b)) (at' 32 0 i)).2
  have hb : ∀ p ∈ laneUnTable, ∀ c : Bool, (p.2 .f32 (modesOf (kv c)) 0).1 < 4294967296 := by decide +kernel
  have z : ∀ i, at' 32 0 i = 0 := fun i => by simp [at', bitsOf]
  obtain ⟨r, hr⟩ := lanes_exists 32 (8 * vecBytes b / tyBits .f32) (fun i => (p.2 .f32 (modesOf (kv b)) (at' 32 0 i)).1)
    (fun i _ => by rw [z i]; exact hb p hp b)
  obtain ⟨k3, h3⟩ := vdest_exists ((kv b).orFlags fl) b r
  refine ⟨st (kv b), _, 0, r, _, fl, k3, rfl, fun q hq => kv_mode b q (by simp at hq ⊢; tauto), ?_, rfl, hr, hf, h3⟩
  cases b
  · exact .inr (.inl ⟨rfl, ⟨0, rfl, rfl⟩, rfl⟩)
  · exact .inl ⟨rfl, ⟨0, rfl, by decide +kernel⟩, rfl⟩
theorem hyp_LanewiseResults_three : ∀ p ∈ laneTriTable, ∃ (s : State) (k : Core) (r w n : Nat) (fl : FFlags) (k4 : Core), k = s.core s.cur ∧
    OneMode k false [3, 1, 2, 3] ∧ VSource k false 3 0 k ∧ w = tyBits p.2.1 ∧ n = 8 * vecBytes false / w ∧
    (Lanes w n r fun i => (p.2.2 (modesOf k) (at' w 0 i) (at' w 0 i) (at' w 0 i)).1) ∧
    (AllFlags n (fun i => (p.2.2 (modesOf k) (at' w 0 i) (at' w 0 i) (at' w 0 i)).2) fl) ∧ VDest (k.orFlags fl) false 3 r k4 := by
  intro p hp
  obtain ⟨fl, hf⟩ := allFlags_exists (8 * vecBytes false / tyBits p.2.1) fun i =>
    (p.2.2 (modesOf (kv false)) (at' (tyBits p.2.1) 0 i) (at' (tyBits p.2.1) 0 i) (at' (tyBits p.2.1) 0 i)).2
  have hb : ∀ p ∈ laneTriTable, (p.2.2 (modesOf (kv false)) 0 0 0).1 = 0 := by decide +kernel
  have z : ∀ w i, at' w 0 i = 0 := fun w i => by simp [at', bitsOf]
  obtain ⟨r, hr⟩ := lanes_exists (tyBits p.2.1) (8 * vecBytes false / tyBits p.2.1)
    (fun i => (p.2.2 (modesOf (kv false)) (at' (tyBits p.2.1) 0 i) (at' (tyBits p.2.1) 0 i) (at' (tyBits p.2.1) 0 i)).1)
    (fun i _ => by rw [z, hb p hp]; positivity)
  obtain ⟨k3, h3⟩ := vdest_exists ((kv false).orFlags fl) false r
  exact ⟨st (kv false), _, r, _, _, fl, k3, rfl, oneMode rfl, .inr (.inl ⟨rfl, ⟨0, rfl, rfl⟩, rfl⟩), rfl, rfl, hr, hf, h3⟩
theorem hyp_LaneMoves : ∀ b : Bool, ∀ t ∈ [Ty.f64, .i32, .u16, .i8], ∃ (s : State) (k : Core) (x y m r1 r2 r3 r4 w n : Nat) (k1 : Core),
    k = s.core s.cur ∧ OneMode k b [3, 1, 2] ∧ VSource k b 1 x k ∧ VSource k b 2 y k ∧ VSource k b 3 m k ∧ Source k 9 8 k ∧ w = tyBits t ∧ n = 8 * vecBytes b / w ∧
    (Lanes w n r1 fun i => if at' w m i ≠ 0 then at' w x i else at' w y i) ∧ (Lanes w n r2 fun i => if at' w y i < n then at' w x (at' w y i) else 0) ∧
    (Lanes w n r3 fun _ => at' w x 3) ∧
    (Lanes w n r4 fun i => ((List.range w).filter fun j => (at' w x i).testBit j).length) ∧ VDest k b 3 r1 k1 := by
  intro b t ht
  obtain ⟨x, hx⟩ := kv_source 1 (.inl rfl) b _ rfl
  obtain ⟨y, hy⟩ := kv_source 2 (.inr (.inl rfl)) b _ rfl
  obtain ⟨m, hm⟩ := kv_source 3 (.inr (.inr rfl)) b _ rfl
  obtain ⟨r1, h1⟩ := lanes_exists (tyBits t) (8 * vecBytes b / tyBits t) (fun i => if at' (tyBits t) m i ≠ 0 then at' (tyBits t) x i else at' (tyBits t) y i)
    (fun i _ => by split <;> exact at_lt _ _ _)
  obtain ⟨r2, h2⟩ := lanes_exists (tyBits t) (8 * vecBytes b / tyBits t)
    (fun i => if at' (tyBits t) y i < 8 * vecBytes b / tyBits t then at' (tyBits t) x (at' (tyBits t) y i) else 0)
    (fun i _ => by split; exact at_lt _ _ _; positivity)
  obtain ⟨r3, h3⟩ := lanes_exists (tyBits t) (8 * vecBytes b / tyBits t) (fun _ => at' (tyBits t) x 3) (fun _ _ => at_lt _ _ _)
  obtain ⟨r4, h4⟩ := lanes_exists (tyBits t) (8 * vecBytes b / tyBits t)
    (fun i => ((List.range (tyBits t)).filter fun j => (at' (tyBits t) x i).testBit j).length)
    (fun i _ => Nat.lt_of_le_of_lt (List.length_filter_le _ _) (by rw [List.length_range]; exact Nat.lt_two_pow_self))
  obtain ⟨k1, hk⟩ := vdest_exists (kv b) b r1
  exact ⟨st (kv b), _, x, y, m, r1, r2, r3, r4, _, _, k1, rfl, kv_mode b, hx, hy, hm, source_of (by decide) rfl, rfl, rfl, h1, h2, h3, h4, hk⟩
/-- The last lane index and the first that is too great, in private and in long mode, for I32 lanes. -/
theorem hyp_LaneMoves_index : (Source (kv false) 6 7 (kv false) ∧ (7 : Word).toNat < 8 * vecBytes false / tyBits .i32)
    ∧ (Source (kv false) 9 8 (kv false) ∧ 8 * vecBytes false / tyBits .i32 ≤ (8 : Word).toNat)
    ∧ (Source (kv true) 11 63 (kv true) ∧ (63 : Word).toNat < 8 * vecBytes true / tyBits .i32)
    ∧ (Source (kv true) 12 64 (kv true) ∧ 8 * vecBytes true / tyBits .i32 ≤ (64 : Word).toNat) := by
  refine ⟨⟨source_of (by decide) rfl, by decide⟩, ⟨source_of (by decide) rfl, by decide⟩, ⟨source_of (by decide) rfl, by decide⟩,
    ⟨source_of (by decide) rfl, by decide⟩⟩
theorem hyp_LaneMoves_insert : ∃ (r : Nat) (k4 : Core), Source (kv false) 10 5 (kv false) ∧ VSource (kv false) false 1 xv (kv false) ∧
    (Lanes 32 8 r fun i => if i = (7 : Word).toNat then (5 : Word).toNat % 2 ^ 32 else at' 32 xv i) ∧ VDest (kv false) false 3 r k4 := by
  obtain ⟨r, h⟩ := lanes_exists 32 8 (fun i => if i = (7 : Word).toNat then (5 : Word).toNat % 2 ^ 32 else at' 32 xv i)
    (fun i _ => by split; exact Nat.mod_lt _ (by positivity); exact at_lt _ _ _)
  obtain ⟨k, hk⟩ := vdest_exists (kv false) false r
  exact ⟨r, k, source_of (by decide) rfl, .inr (.inl ⟨rfl, ⟨_, rfl, by decide +kernel⟩, rfl⟩), h, hk⟩
theorem hyp_LaneMoves_convert : ∃ (r : Nat) (fl : FFlags) (k2 : Core), VSource (kv false) false 3 0 (kv false) ∧
    (Lanes 32 (8 * vecBytes false / max (tyBits .bf16) (tyBits .f32)) r fun i => (laneConv .bf16 .f32 (modesOf (kv false)) (at' 16 0 i)).1) ∧
    (AllFlags 8 (fun i => (laneConv .bf16 .f32 (modesOf (kv false)) (at' 16 0 i)).2) fl) ∧ VDest ((kv false).orFlags fl) false 3 r k2 := by
  have z : ∀ i, at' 16 0 i = 0 := fun i => by simp [at', bitsOf]
  obtain ⟨r, h⟩ := lanes_exists 32 (8 * vecBytes false / max (tyBits .bf16) (tyBits .f32))
    (fun i => (laneConv .bf16 .f32 (modesOf (kv false)) (at' 16 0 i)).1) (fun i _ => by rw [z]; decide +kernel)
  obtain ⟨fl, hf⟩ := allFlags_exists 8 fun i => (laneConv .bf16 .f32 (modesOf (kv false)) (at' 16 0 i)).2
  obtain ⟨k, hk⟩ := vdest_exists ((kv false).orFlags fl) false r
  exact ⟨r, fl, k, .inr (.inl ⟨rfl, ⟨0, rfl, rfl⟩, rfl⟩), h, hf, hk⟩
theorem hyp_LaneMoves_random : ∃ r, (Lanes 32 8 r fun i => uniform .f32 (at' 32 (philoxWords 0 0 2) i / 2 ^ 8) 24)
    ∧ (Lanes 64 4 r fun i => at' 64 r i) := by
  have h : ∀ i < 8, uniform .f32 (at' 32 (philoxWords 0 0 2) i / 2 ^ 8) 24 < 4294967296 := by decide +kernel
  obtain ⟨r, e⟩ := lanes_exists 32 8 _ h
  exact ⟨r, e, e.1, fun _ _ => rfl⟩
theorem hyp_LaneMoves_word : ∃ w, bitsOf w 26 6 = 0x32 ∧ (bitsOf w 0 6 = 14 ∨ bitsOf w 0 6 = 24) ∧ bitsOf w 21 5 = 15 := ⟨0xC9E1114E, by decide⟩
theorem hyp_ReductionTree : ∀ p ∈ reduceTable, ∀ b : Bool, ∃ (s : State) (k : Core) (x n : Nat) (k1 k2 : Core) (r : Nat × FFlags), k = s.core s.cur ∧
    OneMode k b [3, 1] ∧ VSource k b 1 x k1 ∧ 2 ^ n = 8 * vecBytes b / tyBits .f32 ∧
    r = fixedTree (p.2 .f32 (modesOf k)) (tyBits .f32) x n 0 ∧ VDest (k1.orFlags r.2) b 3 r.1 k2 := by
  intro p _ b
  obtain ⟨x, hx⟩ := kv_source 1 (.inl rfl) b _ rfl
  obtain ⟨k2, hk⟩ := vdest_exists ((kv b).orFlags (fixedTree (p.2 .f32 (modesOf (kv b))) (tyBits .f32) x (if b then 6 else 3) 0).2) b
    (fixedTree (p.2 .f32 (modesOf (kv b))) (tyBits .f32) x (if b then 6 else 3) 0).1
  exact ⟨st (kv b), _, x, _, _, k2, _, rfl, fun q hq => kv_mode b q (by simp at hq ⊢; tauto), hx, by cases b <;> decide, rfl, hk⟩
theorem hyp_LongMode : (kv false).u.long = false ∧ (kv true).u.long = true ∧ (kv false).v[(1 : Reg).toNat]? = some (BitVec.ofNat 256 xv) ∧
    (∃ (k : Core) (a : Activation) (e : HEntry) (t : State), k = { kn with u := { kn.u with long := true } } ∧ k.slot3 = .idle ∧ k.sfault = none ∧
      k.act = some a ∧ HasEntry k a.ch e ∧ e.st ≠ .empty ∧ t = ((st k).setCore 0 (ended k a.ch (rebound (headGone a e)))).endLeading 0 ∧
      t.spilledFor 0 k.sv.ctxid.toNat (t.logical 0) = []) := by
  refine ⟨rfl, rfl, by decide +kernel, _, ⟨5, 0x00C04000, true⟩, _, _, rfl, rfl, rfl, rfl, rfl, by decide, rfl, by decide +kernel⟩

/-! ### The matrix unit and the bit planes -/

/-- x6 and x9 name the last operands that fit, x10 and x11 the extreme shifts, x12 and x13 those beyond them. -/
def kt : Core := kx [(6, 258048), (9, 0), (10, 63), (11, 0xFFFFFFFFFFFFFFC0), (12, 64), (13, 0xFFFFFFFFFFFFFFBF), (16, 262080), (17, 1)]
theorem hyp_MatrixIssues_product : ∀ fa ∈ [MatFmt.e4m3, .w2, .w8], ∃ (x y : Word) (k1 k2 : Core), kt.mat = none ∧ Source kt 6 x k1 ∧ Source k1 9 y k2 ∧
    Pairs fa fa ∧ OperandAt x (matBytes fa) 64 ∧ OperandAt y (matBytes fa) 64 := by
  intro fa h
  refine ⟨258048, 0, kt, kt, rfl, source_of (by decide) rfl, source_of (by decide) rfl, Iff.rfl, ?_, ?_⟩ <;> fin_cases h <;> unfold OperandAt <;> decide
theorem hyp_MatrixIssues_classes : (kt.tile 1).cls = (if MatFmt.w4 = .e4m3 then .f8 else .int) ∧ (kt.tile 1).cls ≠ (if MatFmt.e4m3 = .e4m3 then .f8 else .int)
    ∧ ¬ Pairs .e4m3 .w4 ∧ (kt.tile 2).cls ≠ .f32 ∧ Source kt 10 63 kt ∧ (63 : Word).toNat ≤ 63 := by
  refine ⟨rfl, by decide +kernel, by simp [Pairs], by decide +kernel, source_of (by decide) rfl, by decide⟩
theorem hyp_MatrixIssues_retired : (st kt).cur < 1152 ∧ (3 : Reg).toNat < 4 ∧ (0 : Reg).toNat < 4 := by decide
theorem hyp_MatrixIssues_moves : (Source kt 10 63 kt ∧ (63 : Word).toInt ≤ 63) ∧ (Source kt 11 0xFFFFFFFFFFFFFFC0 kt ∧ -64 ≤ (0xFFFFFFFFFFFFFFC0 : Word).toInt)
    ∧ (Source kt 12 64 kt ∧ 63 < (64 : Word).toInt) ∧ (Source kt 13 0xFFFFFFFFFFFFFFBF kt ∧ (0xFFFFFFFFFFFFFFBF : Word).toInt < -64)
    ∧ OperandAt 0 (4096 * (tyBits .i64 / 8)) 64 ∧ OperandAt 258048 (4096 * (tyBits .i8 / 8)) 64 := by
  refine ⟨⟨source_of (by decide) rfl, by decide⟩, ⟨source_of (by decide) rfl, by decide⟩, ⟨source_of (by decide) rfl, by decide⟩,
    ⟨source_of (by decide) rfl, by decide⟩, by unfold OperandAt; decide, by unfold OperandAt; decide⟩
theorem hyp_MatrixIssues_scale : ∃ (k : Core), k.mat = none ∧ Source k 16 262080 k ∧ Source k 9 0 k ∧ (k.tile 1).cls = .f32 ∧ (k.tile 0).cls ≠ .f32 ∧
    (k.tile 0).cls ≠ .f32 ∧ OperandAt 262080 64 64 ∧ OperandAt 0 64 64 ∧ ∃ k', Dest k 3 (mflagsWord k) k' :=
  ⟨{ kt with acc := kt.acc.set 1 ⟨.f32, []⟩ }, rfl, source_of (by decide) rfl, source_of (by decide) rfl, rfl, by decide +kernel, by decide +kernel,
    by unfold OperandAt; decide, by unfold OperandAt; decide, _, dest_of _ _ (by decide)⟩
theorem hyp_MatrixIssues_busy : ({ kt with mat := some (.mzero 0 .int) } : Core).mat ≠ none := by simp
theorem hyp_MatrixProduct : ∃ (k k' : Core) (sum : Nat → Nat → Int), 3 < 4 ∧ k' = matEffect k (.mmul true 3 .w8 0 0 .w8) ∧
    ∀ i j, sum i j = (if true then 0 else ((k.tile 3).list.getD (64 * i + j) 0).toInt)
      + ((List.range 64).map fun q => operandElem k 0 .w8 i q * operandElem k 0 .w8 j q).sum :=
  ⟨kt, _, _, by decide, rfl, fun _ _ => rfl⟩
theorem hyp_BitPlanes : ∀ m ∈ [(2 : BitVec 5), 8], ∃ (k : Core) (fl1 fl2 : FFlags), k = (st (kx [(6, 1000), (9, 261888), (10, 255), (11, 256), (12, 0)])).core 0 ∧
    2 ≤ m.toNat ∧ m.toNat ≤ 8 ∧ Source k 9 261888 k ∧ Source k 10 255 k ∧ Source k 11 256 k ∧ Source k 6 1000 k ∧ 255 < (256 : Word).toNat ∧ (255 : Word).toNat ≤ 255 ∧
    OperandAt 261888 256 8 ∧ OperandAt 1000 (8 * m.toNat) 8 ∧ OperandAt 1000 64 8 ∧ k.matBusy 261888 256 false = false ∧ k.matBusy 1000 (8 * m.toNat) true = false ∧
    AllFlags 64 (fun i => (bpqElem m.toNat (modesOf k).rm 255 (spF32 k 261888 i)).2.2) fl1 ∧
    AllFlags 64 (fun i => ((fmtOf .f32).round modesRNE (exactInt (planeElem k 1000 m.toNat i) ((255 : Int) - 127) false)).2) fl2 := by
  intro m hm
  let k : Core := kx [(6, 1000), (9, 261888), (10, 255), (11, 256), (12, 0)]
  obtain ⟨f1, h1⟩ := allFlags_exists 64 fun i => (bpqElem m.toNat (modesOf k).rm 255 (spF32 k 261888 i)).2.2
  obtain ⟨f2, h2⟩ := allFlags_exists 64 fun i => ((fmtOf .f32).round modesRNE (exactInt (planeElem k 1000 m.toNat i) ((255 : Int) - 127) false)).2
  refine ⟨k, f1, f2, rfl, ?_, ?_, source_of (by decide) rfl, source_of (by decide) rfl, source_of (by decide) rfl, source_of (by decide) rfl, by decide,
    by decide, by unfold OperandAt; decide, ?_, by unfold OperandAt; decide, rfl, rfl, h1, h2⟩ <;> fin_cases hm <;> first | decide | (unfold OperandAt; decide)
theorem hyp_BitPlanes_maximum : ∃ (k : Core) (v : Nat) (k2 : Core), Source k 0 0 k ∧ OperandAt 0 256 8 ∧
    (∀ j, j < 64 → bitsOf (spF32 k 0 j) 23 8 ≠ 255 → bitsOf (spF32 k 0 j) 23 8 ≤ v) ∧ (v = 0 ∨ ∃ j, j < 64 ∧ bitsOf (spF32 k 0 j) 23 8 = v ∧ v ≠ 255) ∧
    Dest k 3 (BitVec.ofNat 64 v) k2 :=
  ⟨kx [], 0, _, source_zero _, by unfold OperandAt; decide, by decide +kernel, .inl rfl, dest_of _ _ (by decide)⟩

/-! ### Exceptions and the system instructions -/

/-- The value of a result, and a default where it is an error. -/
def got {ε α : Type} (e : Except ε α) (d : α) : α := match e with
  | .ok a => a
  | .error _ => d
/-- The result is a value. -/
def isOk {ε α : Type} (e : Except ε α) : Bool := match e with
  | .ok _ => true
  | .error _ => false
theorem got_ok {ε α : Type} {e : Except ε α} (d : α) (h : isOk e = true) : e = .ok (got e d) := by
  cases e <;> simp_all [isOk, got]
theorem got_pair {ε α β : Type} {e : Except ε (α × β)} (d : α × β) (h : isOk e = true) : e = .ok ((got e d).1, (got e d).2) := got_ok d h
theorem got_triple {ε α β γ : Type} {e : Except ε (α × β × γ)} (d : α × β × γ) (h : isOk e = true) :
    e = .ok ((got e d).1, (got e d).2.1, (got e d).2.2) := got_ok d h
theorem isOk_exists {ε α : Type} {e : Except ε α} (h : isOk e = true) : ∃ a, e = .ok a := by
  cases e <;> simp_all [isOk]
theorem error_exists {ε α : Type} {e : Except ε α} (h : isOk e = false) : ∃ x, e = .error x := by
  cases e <;> simp_all [isOk]

/-- A running context 0 with its page tables in frame 1. -/
def ctx0 : Context :=
  { st := .running, desc := 0, ptbase := 0x4000200000, hometab := 0x4000202000, lintab := 0x30000, spillq := 0, orphq := 0, savebase := 0x20000,
    tvec := 0x3000, slice := 0, protomask := 1, prio := 0, qtab := 0x40000, ckseq := 0, fcause := 0, lostHw := [] }
/-- Virtual addresses below 1 GiB are the DRAM of die 0 from its start, at home 0, for S and U: a root, a table with one leaf, a home entry. -/
def world (k : Core) (words : List (Nat × Nat)) : State :=
  { st k with
    mem := words.foldl (fun m p => putBytes m (0x4000000000 + p.1) 8 p.2)
      (putBytes (putBytes (putBytes [] 0x4000200000 8 0x4000201001) 0x4000201000 8 0x40000000DF) 0x4000202000 8 (2 ^ 63))
    dies := (Vector.replicate 2 Die.reset).set 0 { Die.reset with frames := [(0, .mapped 0), (1, .mapped 0)] }
    ctxs := [(0, ctx0)] }
/-- A core of that context. -/
def kw (l : List (Nat × Word)) : Core := { kx l with
  owned := true, act := some ⟨5, 0x00C04000, true⟩,
  sv := { SSys.reset with ptbase := 0x4000200000, hometab := 0x4000202000, htab := 0x21000, tvec := 0x3000, lintab := 0x30000 } }
theorem hyp_TrapEntry : ∃ (s : State) (c : Nat) (k : Core) (u : State) (q : Nat) (t : State), c = s.cur ∧ k = s.core c ∧ k.slot3 = .idle ∧
    u = (s.setCore c (entered k .trap k.s0.epc causeBrk 0)).detachJoined c ∧ FrameWritten c k u q t := by
  let k := kw [(1, 7)]
  let u := ((world k []).setCore 0 (entered k .trap k.s0.epc causeBrk 0)).detachJoined 0
  have h1 : isOk (u.vwrites (k.tenv (dieOf 0)) false (saveAt k 0x108) k.pts ((k.s0.x.toList.drop 1).take 29)) = true := by decide +kernel
  let v := got (u.vwrites (k.tenv (dieOf 0)) false (saveAt k 0x108) k.pts ((k.s0.x.toList.drop 1).take 29)) (0, u)
  have h2 : isOk (v.2.vwrites (k.tenv (dieOf 0)) false (saveAt k 0x200) v.1 k.s0.f.toList) = true := by decide +kernel
  exact ⟨world k [], 0, k, u, _, _, rfl, rfl, rfl, rfl, v.1, v.2, got_ok (0, u) h1, got_pair (0, u) h2⟩
theorem hyp_TrapEntry_fault : ∃ (s : State) (k : Core) (u : State) (e : Nat × Nat), k = s.core 0 ∧ k.slot3 = .idle ∧
    u = (s.setCore 0 (entered k .trap k.s0.epc causeBrk 0)).detachJoined 0 ∧
    u.vwrites (k.tenv (dieOf 0)) false (saveAt k 0x108) k.pts ((k.s0.x.toList.drop 1).take 29) = .error e := by
  have h : isOk (((world (kx []) []).setCore 0 (entered (kx []) .trap (kx []).s0.epc causeBrk 0)).detachJoined 0 |>.vwrites
    ((kx []).tenv (dieOf 0)) false (saveAt (kx []) 0x108) (kx []).pts (((kx []).s0.x.toList.drop 1).take 29)) = false := by decide +kernel
  obtain ⟨e, he⟩ := error_exists h
  exact ⟨world (kx []) [], kx [], _, e, rfl, rfl, rfl, he⟩
theorem hyp_TrapEntry_slot3 : ∃ (s : State) (k : Core) (x : Context), k = s.core 0 ∧ k.slot3 ≠ .idle ∧ k.priv = 1 ∧ s.ctx? k.sv.ctxid.toNat = some x ∧
    x.st = .running :=
  ⟨world (atPriv 1 (kw [])) [], _, ctx0, rfl, by decide +kernel, by decide +kernel, rfl, rfl⟩
/-- Slot 3 in a trap of slot 0, at S, its frame in the save area. -/
def kr (status epc : Word) : Core := { kw [] with slot3 := .trap, s3 := (kx [(10, 3)]).s0, sv := { (kw []).sv with status := status, epc := epc } }
theorem hyp_SystemInstructions : (kw []).priv = 0 ∧ (atPriv 3 (kw [])).priv = 3 ∧ (kr 4 0x1000).priv = 1 ∧ Acked (kr 4 0x1000) ∧
    (kr 4 0x1000).s3.x[10] ≠ 1 ∧ (world (kr 4 0x1000) []).ctx? (kr 4 0x1000).sv.ctxid.toNat = some ctx0 ∧ ctx0.st = .running ∧
    (∀ p ∈ privTable, (kw []).priv < p.2) ∧ (kr 5 0x1000).sv.status.toNat % 4 ≠ 0 ∧ (kr 4 0x1002).sv.epc.toNat % 4 ≠ 0 ∧
    2 ^ 54 ≤ (0x40000000000000 : Word).toNat ∧ ({ kr 4 0x1000 with wake := true } : Core).wake = true ∧ (kr 4 0x1000).wake = false ∧
    (st (atPriv 3 (kx []))).quiet 0 = true ∧ ∀ p ∈ (atPriv 3 (kx [])).l1, p.2.home < 4096 := by
  unfold Acked
  and_intros <;> decide +kernel
/-- The greatest return address, and the last repetition that EPC can name. -/
theorem hyp_SystemInstructions_eret : ∃ (s : State) (k : Core) (x f : List Word) (q : Nat) (t : State), k = s.core 0 ∧ k.priv = 1 ∧ k.slot3 = .trap ∧
    k.sv.status.toNat % 4 = 0 ∧ k.sv.epc.toNat % 4 = 0 ∧ k.sv.epc.toNat < 2 ^ 54 ∧ k.sv.epc ≠ 0 ∧ Acked k ∧ k.act ≠ none ∧
    FrameRead 0 k (s.setCore 0 k) x f q t := by
  let k := kr 0x34 0x3FFFFFFFFFFFFC
  let s := world k [(0x20108, 5), (0x20200, 6)]
  have h1 : isOk ((s.setCore 0 k).vreads (k.tenv (dieOf 0)) false (saveAt k 0x108) k.pts 29) = true := by decide +kernel
  let v := got ((s.setCore 0 k).vreads (k.tenv (dieOf 0)) false (saveAt k 0x108) k.pts 29) ([], 0, s)
  have h2 : isOk (v.2.2.vreads (k.tenv (dieOf 0)) false (saveAt k 0x200) v.2.1 32) = true := by decide +kernel
  exact ⟨s, k, v.1, _, _, _, rfl, by decide +kernel, rfl, by decide +kernel, by decide +kernel, by decide +kernel, by decide +kernel, ⟨rfl, rfl⟩,
    by simp only [k, kr, kw]; exact nofun, v.2.1, v.2.2, got_triple ([], 0, s) h1, got_triple ([], 0, s) h2⟩
/-- A supervisor whose translation of the last page is dropped, or is dropped with an access to the page still on its way. -/
theorem hyp_TranslationControl : ∀ kind : TlbKind, ∃ (s : State) (va x : Word) (k k1 k2 : Core), k = s.core 0 ∧ 1 ≤ k.priv ∧ Source k 6 va k1 ∧ Source k1 0 x k2 ∧
    (kind = .all ∨ (x.toNat < 2 ^ 16 ∧ (k.priv = 1 → x.toNat = k.sv.ctxid.toNat % 2 ^ 16))) ∧ (kind = .page → va.toNat < 2 ^ 48) ∧ Acked k ∧
    ∀ l i, k.pending ≠ .recalling l i := fun kind =>
  ⟨st (atPriv 1 (kx [(6, 0xFFFFFFFFF000)])), 0xFFFFFFFFF000, 0, _, _, _, rfl, by decide +kernel, source_of (by decide) rfl, source_zero _,
    .inr ⟨by decide, fun _ => by decide +kernel⟩, fun _ => by decide, ⟨rfl, rfl⟩, nofun⟩
theorem hyp_TranslationControl_waits : ∀ kind : TlbKind, ∀ busy : Bool, ∃ (s : State) (va x : Word) (k k1 k2 : Core) (l : List (Nat × Nat)) (i : List Byte),
    k = s.core 0 ∧ 1 ≤ k.priv ∧ Source k 6 va k1 ∧ Source k1 0 x k2 ∧ (kind = .all ∨ (x.toNat < 2 ^ 16 ∧ (k.priv = 1 → x.toNat = k.sv.ctxid.toNat % 2 ^ 16))) ∧
    (kind = .page → va.toNat < 2 ^ 48) ∧ Acked k ∧ k.pending = .recalling l i ∧ (busy = false → ∀ q ∈ l, s.pageDone (decide (kind ≠ .all)) q = true) ∧
    (busy = true → ∃ q ∈ l, s.rangeBusy q.1 q.2 = true) := fun kind busy =>
  ⟨st { atPriv 1 (kx [(6, 0xFFFFFFFFF000)]) with
        pend3 := .recalling [(dramBase, 4096)] []
        slot1 := if busy then [⟨1, dramBase + 4095, 1, none, 0, 0, 0, 0, 0, 0, 0⟩] else [] }, 0xFFFFFFFFF000, 0, _, _, _, [(dramBase, 4096)], [], rfl, by cases busy <;> decide +kernel,
    source_of (by decide) rfl, source_zero _, .inr ⟨by decide, fun _ => by cases busy <;> decide +kernel⟩, fun _ => by decide, ⟨rfl, rfl⟩, by cases busy <;> rfl,
    by cases busy <;> cases kind <;> decide +kernel, by cases busy <;> decide +kernel⟩
theorem hyp_TranslationControl_foreign : Source (atPriv 1 (kx [(6, 1)])) 6 1 (atPriv 1 (kx [(6, 1)])) ∧ (atPriv 1 (kx [(6, 1)])).priv = 1 ∧
    (1 : Word).toNat % 2 ^ 16 ≠ (atPriv 1 (kx [(6, 1)])).sv.ctxid.toNat % 2 ^ 16 := ⟨source_of (by decide) rfl, by decide +kernel, by decide +kernel⟩
/-- The image of built-in table 1, which the checker accepts (R302, R303). -/
theorem hyp_TranslationControl_accepted :
    (TableImage.flaw ⟨((List.range 256).map fun n => romCell 1 (n / 16) (n % 16)).toArray, romCfg 1⟩ true).isNone = true := by decide +kernel
/-- A region of the selector is in state 1 where `on`. -/
def spt (on : Bool) (p : Pend) : State :=
  { world { atPriv 1 (kw [(6, 0x50000)]) with pend3 := p } [] with
    regions := if on then [{ lineRegion 0 dramBase with st := 1, sel := 4 }] else [] }
/-- What PTLOAD reads at 0x50000, whether it may write RESULT, what the checker finds, and the write. -/
def pt1 (s : State) := readAs (0x50000 : Word).toNat 1088 (s.setCore s.cur (s.core s.cur))
def pt2 (s : State) := permit (s.core s.cur).user .write ((0x50000 : Word).toNat + 0x408) (got (pt1 s) ([], s)).2
def ptFlaw (s : State) := (tableOf (got (pt1 s) ([], s)).1).flaw ((got (pt2 s) ((), s)).2.tableFits 0 4)
def pt3 (s : State) := writeAs ((0x50000 : Word).toNat + 0x408) (BitVec.ofNat 64 (resultWord (ptFlaw s))) (got (pt2 s) ((), s)).2
theorem ptload_reads {s : State} {on : Bool} (h : isOk (pt1 s) = true ∧ isOk (pt2 s) = true ∧ (ptFlaw s).isSome = true ∧ isOk (pt3 s) = true
    ∧ ((got (pt2 s) ((), s)).2.regions.any fun r => r.governed 0 4) = on) : ∃ (img : List Byte) (s1 s2 s3 : State) (f : Option (Nat × Nat)),
    readAs (0x50000 : Word).toNat 1088 (s.setCore s.cur (s.core s.cur)) = .ok (img, s1) ∧
    permit (s.core s.cur).user .write ((0x50000 : Word).toNat + 0x408) s1 = .ok ((), s2) ∧ (tableOf img).flaw (s2.tableFits 0 4) = f ∧ f.isSome = true ∧
    (s2.regions.any fun r => r.governed 0 4) = on ∧ writeAs ((0x50000 : Word).toNat + 0x408) (BitVec.ofNat 64 (resultWord f)) s2 = .ok ((), s3) :=
  ⟨_, _, _, _, ptFlaw s, got_pair ([], s) h.1, got_pair ((), s) h.2.1, rfl, h.2.2.1, h.2.2.2.2, got_pair ((), s) h.2.2.2.1⟩
/-- An image of zeros, which the checker refuses, without a region that its selector governs and with one. -/
theorem hyp_TranslationControl_ptload (on : Bool) : isOk (pt1 (spt on .none)) = true ∧ isOk (pt2 (spt on .none)) = true ∧
    (ptFlaw (spt on .none)).isSome = true ∧ isOk (pt3 (spt on .none)) = true ∧
    ((got (pt2 (spt on .none)) ((), spt on .none)).2.regions.any fun r => r.governed 0 4) = on := by
  and_intros <;> cases on <;> decide +kernel
theorem hyp_TranslationControl_ptload_core : ∀ on : Bool, ∃ (t : Word) (k : Core), k = (spt on .none).core (spt on .none).cur ∧ 1 ≤ k.priv ∧ Source k 6 t k ∧
    t.toNat % 64 = 0 ∧ Acked k ∧ (∀ l i, k.pending ≠ .recalling l i) ∧ t = 0x50000 := fun on =>
  ⟨0x50000, _, rfl, by cases on <;> decide +kernel, source_of (by decide) (by cases on <;> rfl), by decide, by cases on <;> exact ⟨rfl, rfl⟩,
    by cases on <;> exact nofun, rfl⟩
theorem hyp_TranslationControl_recalled : ∃ (s : State) (l : List (Nat × Nat)) (img : List Byte) (s3 : State), (0x50000 : Word).toNat % 64 = 0 ∧
    Acked (s.core s.cur) ∧ (s.core s.cur).pending = .recalling l img ∧ (∀ q ∈ s.regions, q.governed 0 4 = false) ∧
    writeAs ((0x50000 : Word).toNat + 0x408) (BitVec.ofNat 64 (resultWord none)) (s.setCore s.cur (s.core s.cur)) = .ok ((), s3) := by
  let s := spt false (.recalling [] [1])
  have h : isOk (writeAs ((0x50000 : Word).toNat + 0x408) (BitVec.ofNat 64 (resultWord none)) (s.setCore s.cur (s.core s.cur))) = true := by decide +kernel
  exact ⟨s, [], [1], _, by decide, ⟨rfl, rfl⟩, rfl, nofun, got_pair ((), s) h⟩

/-! ### Jobs, lineage, stash and barriers -/

/-- A COPY card at 0x50000 and a launch card at 0x50080, a job queue at 0x40000 and a kernel queue at 0x40040, a record at 0x70000. -/
def jobWords : List (Nat × Nat) :=
  [(0x40010, 0x510), (0x40050, 0x400), (0x50008, 0x101), (0x50010, 0x60000), (0x50088, 0x80), (0x500E0, 0x70000), (0x70010, 0x71000)]
/-- x6 and x9 name a card and its queue, x10 a card address that is misaligned, x11 a count. -/
def kj (card queue : Word) : Core := kw [(6, card), (9, queue), (10, 0x50040), (11, 0xFFFFFFFFFFFFFFFF)]
theorem got_unit {ε β : Type} {e : Except ε (Unit × β)} (d : β) (h : isOk e = true) : e = .ok ((), (got e ((), d)).2) := got_ok ((), d) h
def ja : State := world (kj 0x50000 0x40000) jobWords
def ja1 := readAs (0x50000 : Word).toNat 128 (ja.setCore ja.cur (kj 0x50000 0x40000))
def ja2 := permit ((got ja1 ([], ja)).2.core (got ja1 ([], ja)).2.cur).user .write (0x50000 : Word).toNat (got ja1 ([], ja)).2
def jaW : List Word := wordsOf (got ja1 ([], ja)).1 16
def ja3 := openQueue (0x40000 : Word) 1 (bitsOf (wordAt jaW 1).toNat 8 4) (got ja2 ((), ja)).2
def ja4 := permitLink (0x40000 : Word).toNat (got ja3 (0, ja)).2
theorem ja_ok : isOk ja1 = true ∧ isOk ja2 = true ∧ isOk ja3 = true ∧ isOk ja4 = true ∧ jobHeaderOk (wordAt jaW 1).toNat (wordAt jaW 2).toNat = true ∧
    checkpointOp (wordAt jaW 1).toNat = false ∧ ctlDie (got ja3 (0, ja)).1 = dieOf (got ja4 ((), ja)).2.cur := by decide +kernel
theorem hyp_JobInstructions_japp : ∃ (s : State) (x y : Word) (k1 k2 : Core) (bytes : List Byte) (w : List Word) (h ctl : Nat) (s1 s2 s3 s4 : State),
    Source (s.core s.cur) 6 x k1 ∧ Source k1 9 y k2 ∧ x.toNat % 128 = 0 ∧ y.toNat % 64 = 0 ∧ (Acked k2 ∧ k2.drained = true) ∧
    readAs x.toNat 128 (s.setCore s.cur k2) = .ok (bytes, s1) ∧ permit (s1.core s1.cur).user .write x.toNat s1 = .ok ((), s2) ∧ w = wordsOf bytes 16 ∧
    h = (wordAt w 1).toNat ∧ jobHeaderOk h (wordAt w 2).toNat = true ∧ checkpointOp h = false ∧ openQueue y 1 (bitsOf h 8 4) s2 = .ok (ctl, s3) ∧
    permitLink y.toNat s3 = .ok ((), s4) ∧ ctlDie ctl = dieOf s4.cur :=
  ⟨ja, 0x50000, 0x40000, kj 0x50000 0x40000, kj 0x50000 0x40000, _, jaW, _, _, _, _, _, _, source_of (by decide) rfl, source_of (by decide) rfl, by decide,
    by decide, ⟨⟨rfl, rfl⟩, rfl⟩, got_pair (e := ja1) ([], ja) ja_ok.1, got_unit (e := ja2) ja ja_ok.2.1, rfl, rfl, ja_ok.2.2.2.2.1, ja_ok.2.2.2.2.2.1,
    got_pair (e := ja3) (0, ja) ja_ok.2.2.1, got_unit (e := ja4) ja ja_ok.2.2.2.1, ja_ok.2.2.2.2.2.2⟩
def ka : State := { world (kj 0x50080 0x40040) jobWords with links := (Vector.replicate 17 Link.reset).set 12 { Link.reset with st := .active } }
def ka1 := readWordAs ((0x50080 : Word).toNat + 8) (ka.setCore ka.cur (kj 0x50080 0x40040))
def ka2 := permit ((got ka1 (0, ka)).2.core (got ka1 (0, ka)).2.cur).user .write (0x50080 : Word).toNat (got ka1 (0, ka)).2
def ka3 := openQueue (0x40040 : Word) 0 0 (got ka2 ((), ka)).2
def ka4 := readWordAs ((0x50080 : Word).toNat + 0x60) (got ka3 (0, ka)).2
def ka5 := readLaunch (got ka4 (0, ka)).1 (got ka4 (0, ka)).2
def ka6 := permitLink (0x40040 : Word).toNat (got ka5 (false, ka)).2
def ka7 := readAs (0x50080 : Word).toNat 128 (got ka6 ((), ka)).2
theorem ka_ok : isOk ka1 = true ∧ isOk ka2 = true ∧ isOk ka3 = true ∧ isOk ka4 = true ∧ isOk ka5 = true ∧ isOk ka6 = true ∧ isOk ka7 = true := by
  decide +kernel
theorem ka_facts : (got ka1 (0, ka)).1 % 2 ^ 8 = 0x80 ∧ (got ka1 (0, ka)).1 / 2 ^ 8 % 2 ^ 48 = 0 ∧ (got ka6 ((), ka)).2.bridgeUp = true := by
  decide +kernel
theorem hyp_JobInstructions_kapp : ∃ (s : State) (x y : Word) (k1 k2 : Core) (h r ctl : Nat) (package : Bool) (bytes : List Byte)
    (s1 s2 s3 s4 s5 s6 s7 : State), Source (s.core s.cur) 6 x k1 ∧ Source k1 9 y k2 ∧ x.toNat % 128 = 0 ∧ y.toNat % 64 = 0 ∧ (Acked k2 ∧ k2.drained = true) ∧
    readWordAs (x.toNat + 8) (s.setCore s.cur k2) = .ok (h, s1) ∧ permit (s1.core s1.cur).user .write x.toNat s1 = .ok ((), s2) ∧
    h % 2 ^ 8 = 0x80 ∧ h / 2 ^ 8 % 2 ^ 48 = 0 ∧ openQueue y 0 0 s2 = .ok (ctl, s3) ∧ readWordAs (x.toNat + 0x60) s3 = .ok (r, s4) ∧
    readLaunch r s4 = .ok (package, s5) ∧ permitLink y.toNat s5 = .ok ((), s6) ∧ s6.bridgeUp = true ∧ readAs x.toNat 128 s6 = .ok (bytes, s7) :=
  ⟨ka, 0x50080, 0x40040, kj 0x50080 0x40040, kj 0x50080 0x40040, _, _, _, _, _, _, _, _, _, _, _, _, source_of (by decide) rfl, source_of (by decide) rfl,
    by decide, by decide, ⟨⟨rfl, rfl⟩, rfl⟩, got_pair (e := ka1) (0, ka) ka_ok.1, got_unit (e := ka2) ka ka_ok.2.1, ka_facts.1, ka_facts.2.1,
    got_pair (e := ka3) (0, ka) ka_ok.2.2.1, got_pair (e := ka4) (0, ka) ka_ok.2.2.2.1, got_pair (e := ka5) (false, ka) ka_ok.2.2.2.2.1,
    got_unit (e := ka6) ka ka_ok.2.2.2.2.2.1, ka_facts.2.2, got_pair (e := ka7) ([], ka) ka_ok.2.2.2.2.2.2⟩
theorem hyp_JobInstructions_waits : ∃ (v : Nat) (t : State), Source ((sm false).core (sm false).cur) 6 0x10000 ((sm false).core (sm false).cur) ∧
    (0x10000 : Word).toNat % 8 = 0 ∧ Loads (sm false) 0x10000 8 v t ∧ v = 0x8786858483828180 ∧ (0x8786858483828180 : Word).toNat ≤ v ∧ v < (0x8786858483828181 : Word).toNat := by
  have f := held_first false
  exact ⟨0x8786858483828180, _, source_of (by decide) rfl, by decide, ⟨page0, _, line0 false, _, sm_translates false (by decide) f, ⟨rfl, rfl⟩, .inl f.1.2.2.1,
    f.1.2.2.2.1, (sm_rest false).1, .inr (Nat.zero_le _), rfl, by decide +kernel, rfl⟩, rfl, by decide +kernel, by decide +kernel⟩
/-- A card whose header's opcode is none. -/
def jz : State := world (kj 0x50000 0x40000) [(0x50008, 0xFF)]
def jz1 := readAs (0x50000 : Word).toNat 128 (jz.setCore jz.cur (kj 0x50000 0x40000))
theorem hyp_JobInstructions_header : isOk jz1 = true ∧
    isOk (permit ((got jz1 ([], jz)).2.core (got jz1 ([], jz)).2.cur).user .write (0x50000 : Word).toNat (got jz1 ([], jz)).2) = true ∧
    jobHeaderOk (wordAt (wordsOf (got jz1 ([], jz)).1 16) 1).toNat (wordAt (wordsOf (got jz1 ([], jz)).1 16) 2).toNat = false := by decide +kernel
def jx : State := world (kj 0x50000 0) jobWords
def jx1 := placeAs (kj 0x50000 0).user .read (0x50000 : Word).toNat (jx.setCore 0 (kj 0x50000 0))
theorem jx_ok : isOk jx1 = true ∧ ((got jx1 (0, jx)).2.core (got jx1 (0, jx)).2.cur).unacked = 0 ∧
    ((got jx1 (0, jx)).2.core (got jx1 (0, jx)).2.cur).stq = [] := by decide +kernel
theorem hyp_JobInstructions_abort : ∃ (pa : Nat) (s1 : State), Source (jx.core 0) 6 0x50000 (kj 0x50000 0) ∧ (0x50000 : Word).toNat % 128 = 0 ∧
    placeAs (kj 0x50000 0).user .read (0x50000 : Word).toNat (jx.setCore 0 (kj 0x50000 0)) = .ok (pa, s1) ∧
    Acked (s1.core s1.cur) ∧ (0x50040 : Word).toNat % 128 ≠ 0 :=
  ⟨_, _, source_of (by decide) rfl, by decide, got_pair (e := jx1) (0, jx) jx_ok.1, jx_ok.2, by decide⟩

/-! ### Lineage -/

/-- A lineage table at 0x30000 whose page carries LIN: slot 1 a root of 64 F32 elements at 0x80000, frozen by its child, slot 2. -/
def linWords : List (Nat × Nat) :=
  [(0x201000, 0x40000000000000D7 + 0x4000000000), (0x30000, 64), (0x30010, 0x90000), (0x30018, 0x10000), (0x30028, 3),
   (0x30040, 2 + 5 * 2 ^ 4 + 2 ^ 16 + 2 ^ 32), (0x30050, 64 + 2 ^ 32), (0x30058, 1 + 2 ^ 32), (0x30060, 0x80000),
   (0x30080, 1 + 5 * 2 ^ 4 + 2 ^ 8 + 2 ^ 16), (0x30088, 0x100001), (0x30090, 64 + 2 ^ 32), (0x30098, 1 + 2 ^ 32), (0x300A0, 0x80000)]
/-- Handles of the root (x6) and the child (x9), the last element (x10), the first beyond (x11), a value (x12) and one that does not fit (x13). -/
def kli : Core := kw [(6, 0x100001), (9, 0x100002), (10, 63), (11, 64), (12, 0x40000000), (13, 0x100000000)]
def lin (more : List (Nat × Nat)) : State := world kli (linWords ++ more)
/-- A node whose words are zero, for the defaults. -/
def node0 : Node := ⟨0, 0, 0, 0, 0, 0, 0, 0, 0, 0, 0, 0, 0, 0⟩
def lo (s : State) (k : Core) (x : Word) := linOpen (orreryOf s) x.toNat (orreryAt s k)
def lo1 (s : State) (k : Core) (x : Word) : (LinHeader × Node) × Orrery := got (lo s k x) ((⟨0, 0, 0, 0, 0, 0, 0⟩, node0), orreryAt s k)
theorem lo_ok {s : State} {k : Core} {x : Word} (h : isOk (lo s k x) = true) :
    linOpen (orreryOf s) x.toNat (orreryAt s k) = .ok (((lo1 s k x).1.1, (lo1 s k x).1.2), (lo1 s k x).2) := got_ok _ h
def la (s : State) (k : Core) (x : Word) := linAlloc (orreryOf s) (lo1 s k x).1.1 (lo1 s k x).2
def la1 (s : State) (k : Core) (x : Word) : Option (Nat × Nat) × Orrery := got (la s k x) (none, (lo1 s k x).2)
def lc (s : State) (k : Core) (x : Word) := linSet (orreryOf s) { (lo1 s k x).1.2 with
  ix := 3, st := 1, kids := 0, reuse := 0, depth := (lo1 s k x).1.2.depth + 1, parent := x.toNat, dmap := 0, nblk := 0, dlen := 0 } (la1 s k x).2
def lc1 (s : State) (k : Core) (x : Word) : Orrery := (got (lc s k x) ((), (la1 s k x).2)).2
def lp (s : State) (k : Core) (x : Word) :=
  linSet (orreryOf s) { (lo1 s k x).1.2 with kids := (lo1 s k x).1.2.kids + 1, st := 2 } (lc1 s k x)
def lp1 (s : State) (k : Core) (x : Word) : Orrery := (got (lp s k x) ((), (lc1 s k x))).2
/-- What LFORK's completion asks for. -/
def ForkOk (s : State) (k : Core) (x : Word) : Prop := isOk (lo s k x) = true
    ∧ (lo1 s k x).2.s.rewritten k.sv.ctxid.toNat (lo1 s k x).1.2.ix = false ∧ (lo1 s k x).1.2.depth ≠ 7 ∧ isOk (la s k x) = true
    ∧ (la1 s k x).1 = some (3, 0) ∧ isOk (lc s k x) = true ∧ isOk (lp s k x) = true ∧ (lp1 s k x).s.cur = s.cur
theorem fork_of {s : State} {k : Core} {x : Word} (h : ForkOk s k x) (a : Source (s.core s.cur) 6 x k ∧ Acked k) :
    ∃ (k2 : Core) (h : LinHeader) (p : Node) (o o1 o2 o3 o4 : Orrery) (ix r : Nat),
    (Source (s.core s.cur) 6 x k ∧ Acked k) ∧ o = orreryAt s k ∧ linOpen (orreryOf s) x.toNat o = .ok ((h, p), o1) ∧
    o1.s.rewritten k.sv.ctxid.toNat p.ix = false ∧ p.depth ≠ 7 ∧ linAlloc (orreryOf s) h o1 = .ok (some (ix, r), o2) ∧
    linSet (orreryOf s) { p with ix := ix, st := 1, kids := 0, reuse := r, depth := p.depth + 1, parent := x.toNat, dmap := 0,
                                 nblk := 0, dlen := 0 } o2 = .ok ((), o3) ∧
    linSet (orreryOf s) { p with kids := p.kids + 1, st := 2 } o3 = .ok ((), o4) ∧ o4.s.cur = s.cur ∧
    Dest ((o4.s.core s.cur).raisePts o4.p) 3 (BitVec.ofNat 64 (r * 2 ^ 20 + ix)) k2 := by
  obtain ⟨h1, h2, h3, h4, h5, h6, h7, h8⟩ := h
  have e : la s k x = .ok (some (3, 0), (la1 s k x).2) := (got_pair (e := la s k x) (none, (lo1 s k x).2) h4).trans (by rw [← h5]; rfl)
  exact ⟨_, _, _, _, (lo1 s k x).2, (la1 s k x).2, lc1 s k x, lp1 s k x, 3, 0, a, rfl, lo_ok h1, h2, h3, e, got_unit (e := lc s k x) _ h6,
    got_unit (e := lp s k x) _ h7, h8, dest_of _ _ (by decide)⟩
theorem fork_ok : ForkOk (lin []) kli 0x100001 := by unfold ForkOk; decide +kernel
theorem hyp_LineageInstructions_lfork : ∃ (s : State) (k1 : Core) (x : Word) (k2 : Core) (h : LinHeader) (p : Node) (o o1 o2 o3 o4 : Orrery) (ix r : Nat),
    (Source (s.core s.cur) 6 x k1 ∧ Acked k1) ∧ o = orreryAt s k1 ∧ linOpen (orreryOf s) x.toNat o = .ok ((h, p), o1) ∧
    o1.s.rewritten k1.sv.ctxid.toNat p.ix = false ∧ p.depth ≠ 7 ∧ linAlloc (orreryOf s) h o1 = .ok (some (ix, r), o2) ∧
    linSet (orreryOf s) { p with ix := ix, st := 1, kids := 0, reuse := r, depth := p.depth + 1, parent := x.toNat, dmap := 0,
                                 nblk := 0, dlen := 0 } o2 = .ok ((), o3) ∧
    linSet (orreryOf s) { p with kids := p.kids + 1, st := 2 } o3 = .ok ((), o4) ∧ o4.s.cur = s.cur ∧
    Dest ((o4.s.core s.cur).raisePts o4.p) 3 (BitVec.ofNat 64 (r * 2 ^ 20 + ix)) k2 :=
  ⟨lin [], kli, 0x100001, fork_of fork_ok ⟨source_of (by decide) rfl, ⟨rfl, rfl⟩⟩⟩
/-- The root at depth 7, and a table whose 64 slots are taken. -/
theorem hyp_LineageInstructions_lfork_traps :
    (isOk (lo (lin [(0x30040, 1 + 5 * 2 ^ 4 + 7 * 2 ^ 8 + 2 ^ 16)]) kli 0x100001) = true ∧
      (lo1 (lin [(0x30040, 1 + 5 * 2 ^ 4 + 7 * 2 ^ 8 + 2 ^ 16)]) kli 0x100001).1.2.depth = 7)
    ∧ isOk (lo (lin [(0x30028, 64)]) kli 0x100001) = true ∧ (lo1 (lin [(0x30028, 64)]) kli 0x100001).1.2.depth ≠ 7
    ∧ isOk (la (lin [(0x30028, 64)]) kli 0x100001) = true ∧ (la1 (lin [(0x30028, 64)]) kli 0x100001).1 = none := by decide +kernel

def lf (s : State) (k : Core) (x : Word) := linFree (orreryOf s) (lo1 s k x).1.2 (lo1 s k x).2
def lf1 (s : State) (k : Core) (x : Word) : Orrery := (got (lf s k x) ((), (lo1 s k x).2)).2
def lr (s : State) (k : Core) (x : Word) := linRelease (orreryOf s) 8 (lo1 s k x).1.2.parent (lf1 s k x)
def lr1 (s : State) (k : Core) (x : Word) : Orrery := (got (lr s k x) ((), lf1 s k x)).2
def lt (s : State) (k : Core) (x : Word) := linSet (orreryOf s) { (lo1 s k x).1.2 with st := 3 } (lo1 s k x).2
def lt1 (s : State) (k : Core) (x : Word) : Orrery := (got (lt s k x) ((), (lo1 s k x).2)).2
/-- What every drop asks for. -/
def OpenOk (s : State) (k : Core) (x : Word) : Prop := isOk (lo s k x) = true
    ∧ (lo1 s k x).2.s.rewritten k.sv.ctxid.toNat (lo1 s k x).1.2.ix = false ∧ (lo1 s k x).2.s.cur = s.cur
/-- What the drop of a LIVE node asks for. -/
def DropOk (s : State) (k : Core) (x : Word) : Prop := (lo1 s k x).1.2.st = 1
    ∧ (lo1 s k x).2.s.pinned k.sv.ctxid.toNat (lo1 s k x).1.2.ix = false ∧ isOk (lf s k x) = true ∧ isOk (lr s k x) = true ∧ (lr1 s k x).s.cur = s.cur
theorem drop_of {s : State} {k : Core} {x : Word} (h : OpenOk s k x) (g : DropOk s k x) (a : Source (s.core s.cur) 9 x k ∧ Acked k) :
    ∃ (h : LinHeader) (n : Node) (o o1 o2 o3 : Orrery),
    (Source (s.core s.cur) 9 x k ∧ Acked k) ∧ o = orreryAt s k ∧ linOpen (orreryOf s) x.toNat o = .ok ((h, n), o1) ∧
    o1.s.rewritten k.sv.ctxid.toNat n.ix = false ∧ o1.s.cur = s.cur ∧ n.st = 1 ∧ o1.s.pinned k.sv.ctxid.toNat n.ix = false ∧
    linFree (orreryOf s) n o1 = .ok ((), o2) ∧ linRelease (orreryOf s) 8 n.parent o2 = .ok ((), o3) ∧ o3.s.cur = s.cur :=
  ⟨_, _, _, (lo1 s k x).2, lf1 s k x, lr1 s k x, a, rfl, lo_ok h.1, h.2.1, h.2.2, g.1, g.2.1, got_unit (e := lf s k x) _ g.2.2.1,
    got_unit (e := lr s k x) _ g.2.2.2.1, g.2.2.2.2⟩
theorem drop_ok : OpenOk (lin []) kli 0x100002 ∧ DropOk (lin []) kli 0x100002 := by unfold OpenOk DropOk; decide +kernel
theorem hyp_LineageInstructions_ldrop : ∃ (s : State) (k1 : Core) (x : Word) (h : LinHeader) (n : Node) (o o1 o2 o3 : Orrery),
    (Source (s.core s.cur) 9 x k1 ∧ Acked k1) ∧ o = orreryAt s k1 ∧ linOpen (orreryOf s) x.toNat o = .ok ((h, n), o1) ∧
    o1.s.rewritten k1.sv.ctxid.toNat n.ix = false ∧ o1.s.cur = s.cur ∧ n.st = 1 ∧ o1.s.pinned k1.sv.ctxid.toNat n.ix = false ∧
    linFree (orreryOf s) n o1 = .ok ((), o2) ∧ linRelease (orreryOf s) 8 n.parent o2 = .ok ((), o3) ∧ o3.s.cur = s.cur :=
  ⟨lin [], kli, 0x100002, drop_of drop_ok.1 drop_ok.2 ⟨source_of (by decide) rfl, ⟨rfl, rfl⟩⟩⟩
/-- What the retiring of a FROZEN node asks for. -/
def RetireOk (s : State) (k : Core) (x : Word) : Prop := (lo1 s k x).1.2.st ≠ 1 ∧ isOk (lt s k x) = true ∧ (lt1 s k x).s.cur = s.cur
theorem retire_of {s : State} {k : Core} {x : Word} (h : OpenOk s k x) (g : RetireOk s k x) (a : Source (s.core s.cur) 6 x k ∧ Acked k) :
    ∃ (h : LinHeader) (n : Node) (o o1 o2 : Orrery),
    (Source (s.core s.cur) 6 x k ∧ Acked k) ∧ o = orreryAt s k ∧ linOpen (orreryOf s) x.toNat o = .ok ((h, n), o1) ∧
    o1.s.rewritten k.sv.ctxid.toNat n.ix = false ∧ o1.s.cur = s.cur ∧ ¬ (n.st = 1 ∧ o1.s.pinned k.sv.ctxid.toNat n.ix = false) ∧
    linSet (orreryOf s) { n with st := 3 } o1 = .ok ((), o2) ∧ o2.s.cur = s.cur :=
  ⟨_, _, _, (lo1 s k x).2, lt1 s k x, a, rfl, lo_ok h.1, h.2.1, h.2.2, fun e => g.1 e.1, got_unit (e := lt s k x) _ g.2.1, g.2.2⟩
theorem retire_ok : OpenOk (lin []) kli 0x100001 ∧ RetireOk (lin []) kli 0x100001 := by unfold OpenOk RetireOk; decide +kernel
theorem hyp_LineageInstructions_ldrop_frozen : ∃ (s : State) (k1 : Core) (x : Word) (h : LinHeader) (n : Node) (o o1 o2 : Orrery),
    (Source (s.core s.cur) 6 x k1 ∧ Acked k1) ∧ o = orreryAt s k1 ∧ linOpen (orreryOf s) x.toNat o = .ok ((h, n), o1) ∧
    o1.s.rewritten k1.sv.ctxid.toNat n.ix = false ∧ o1.s.cur = s.cur ∧ ¬ (n.st = 1 ∧ o1.s.pinned k1.sv.ctxid.toNat n.ix = false) ∧
    linSet (orreryOf s) { n with st := 3 } o1 = .ok ((), o2) ∧ o2.s.cur = s.cur :=
  ⟨lin [], kli, 0x100001, retire_of retire_ok.1 retire_ok.2 ⟨source_of (by decide) rfl, ⟨rfl, rfl⟩⟩⟩

def lm (s : State) (k : Core) (x : Word) := linMap (orreryOf s) (lo1 s k x).1.2 (lo1 s k x).2
def lm1 (s : State) (k : Core) (x : Word) : List Delta × Orrery := got (lm s k x) ([], (lo1 s k x).2)
def ls (s : State) (k : Core) (x i v : Word) := linStore (orreryOf s) (lo1 s k x).1.1 (lo1 s k x).1.2
  (deltaPut i.toNat (v.toNat % 2 ^ valBits (lo1 s k x).1.2.fmt) (lm1 s k x).1) (lm1 s k x).2
def ls1 (s : State) (k : Core) (x i v : Word) : Option Node × Orrery := got (ls s k x i v) (none, (lm1 s k x).2)
def lq (s : State) (k : Core) (x i v : Word) := linSet (orreryOf s) ((ls1 s k x i v).1.getD node0) (ls1 s k x i v).2
def lq1 (s : State) (k : Core) (x i v : Word) : Orrery := (got (lq s k x i v) ((), (ls1 s k x i v).2)).2
/-- What every write asks for. -/
def WriteOk (s : State) (k : Core) (x i v : Word) : Prop := i.toNat < (lo1 s k x).1.2.count ∧ valueOk (valBits (lo1 s k x).1.2.fmt) v = true
    ∧ (lo1 s k x).1.2.st ≠ 2
/-- What a write to a node with a parent asks for. -/
def PutOk (s : State) (k : Core) (x i v : Word) : Prop := (lo1 s k x).1.2.isRoot = false ∧ isOk (lm s k x) = true ∧ isOk (ls s k x i v) = true
    ∧ (ls1 s k x i v).1.isSome = true ∧ isOk (lq s k x i v) = true ∧ (lq1 s k x i v).s.cur = s.cur
theorem put_of {s : State} {k : Core} {x i v : Word} (h : OpenOk s k x) (f : WriteOk s k x i v) (g : PutOk s k x i v)
    (a : Source (s.core s.cur) 9 x k ∧ Acked k ∧ Source k 10 i k ∧ Source k 12 v k) :
    ∃ (h : LinHeader) (n m : Node) (l : List Delta) (o o1 o2 o3 o4 : Orrery),
    (Source (s.core s.cur) 9 x k ∧ Acked k ∧ Source k 10 i k ∧ Source k 12 v k) ∧ o = orreryAt s k ∧
    linOpen (orreryOf s) x.toNat o = .ok ((h, n), o1) ∧ i.toNat < n.count ∧ valueOk (valBits n.fmt) v = true ∧
    o1.s.rewritten k.sv.ctxid.toNat n.ix = false ∧ n.st ≠ 2 ∧ n.isRoot = false ∧ linMap (orreryOf s) n o1 = .ok (l, o2) ∧
    linStore (orreryOf s) h n (deltaPut i.toNat (v.toNat % 2 ^ valBits n.fmt) l) o2 = .ok (some m, o3) ∧
    linSet (orreryOf s) m o3 = .ok ((), o4) ∧ o4.s.cur = s.cur := by
  have e : ls s k x i v = .ok (some ((ls1 s k x i v).1.getD node0), (ls1 s k x i v).2) := by
    obtain ⟨y, hy⟩ := Option.isSome_iff_exists.mp g.2.2.2.1
    exact (got_pair (e := ls s k x i v) (none, (lm1 s k x).2) g.2.2.1).trans (by rw [hy]; exact congrArg (fun z => Except.ok (z, (ls1 s k x i v).2)) hy)
  exact ⟨_, _, _, (lm1 s k x).1, _, (lo1 s k x).2, (lm1 s k x).2, (ls1 s k x i v).2, lq1 s k x i v, a, rfl, lo_ok h.1, f.1, f.2.1, h.2.1, f.2.2, g.1,
    got_pair (e := lm s k x) _ g.2.1, e, got_unit (e := lq s k x i v) _ g.2.2.2.2.1, g.2.2.2.2.2⟩
theorem put_ok : OpenOk (lin []) kli 0x100002 ∧ WriteOk (lin []) kli 0x100002 63 0x40000000 ∧ PutOk (lin []) kli 0x100002 63 0x40000000 := by
  unfold OpenOk WriteOk PutOk; decide +kernel
theorem hyp_LineageInstructions_lwr : ∃ (s : State) (k : Core) (x i v : Word) (h : LinHeader) (n m : Node) (l : List Delta) (o o1 o2 o3 o4 : Orrery),
    (Source (s.core s.cur) 9 x k ∧ Acked k ∧ Source k 10 i k ∧ Source k 12 v k) ∧ o = orreryAt s k ∧
    linOpen (orreryOf s) x.toNat o = .ok ((h, n), o1) ∧ i.toNat < n.count ∧ valueOk (valBits n.fmt) v = true ∧
    o1.s.rewritten k.sv.ctxid.toNat n.ix = false ∧ n.st ≠ 2 ∧ n.isRoot = false ∧ linMap (orreryOf s) n o1 = .ok (l, o2) ∧
    linStore (orreryOf s) h n (deltaPut i.toNat (v.toNat % 2 ^ valBits n.fmt) l) o2 = .ok (some m, o3) ∧
    linSet (orreryOf s) m o3 = .ok ((), o4) ∧ o4.s.cur = s.cur :=
  ⟨lin [], kli, 0x100002, 63, 0x40000000, put_of put_ok.1 put_ok.2.1 put_ok.2.2
    ⟨source_of (by decide) rfl, ⟨rfl, rfl⟩, source_of (by decide) rfl, source_of (by decide) rfl⟩⟩
/-- The first element beyond, a value of 33 bits, and a frozen node. -/
theorem hyp_LineageInstructions_lwr_traps : ((lo1 (lin []) kli 0x100002).1.2.count ≤ (64 : Word).toNat ∧
    valueOk (valBits (lo1 (lin []) kli 0x100002).1.2.fmt) 0x100000000 = false ∧ (lo1 (lin []) kli 0x100001).1.2.st = 2) ∧
    Source kli 11 64 kli ∧ Source kli 13 0x100000000 kli := ⟨by decide +kernel, source_of (by decide) rfl, source_of (by decide) rfl⟩
/-- The table with the root alone, LIVE. -/
def alone : State := lin [(0x30040, 1 + 5 * 2 ^ 4 + 2 ^ 16), (0x30080, 0)]
def ldp := linDensePut (orreryOf alone) (lo1 alone kli 0x100001).1.2 (63 : Word).toNat ((0x40000000 : Word).toNat % 2 ^ 32) (lo1 alone kli 0x100001).2
theorem hyp_LineageInstructions_lwr_root : OpenOk alone kli 0x100001 ∧ WriteOk alone kli 0x100001 63 0x40000000 ∧
    (lo1 alone kli 0x100001).1.2.isRoot = true ∧ isPlanes (lo1 alone kli 0x100001).1.2.fmt = false ∧ valBits (lo1 alone kli 0x100001).1.2.fmt = 32 ∧
    (lo1 alone kli 0x100001).2.s.linPage (orreryOf alone).e ((lo1 alone kli 0x100001).1.2.root + 63 * 4) = true ∧
    isOk ldp = true ∧ (got ldp ((), (lo1 alone kli 0x100001).2)).2.s.cur = alone.cur := by unfold OpenOk WriteOk; decide +kernel
def lv (s : State) (k : Core) (x i : Word) := resolve (orreryOf s) i.toNat 8 (lo1 s k x).1.2 (lo1 s k x).2
def lv1 (s : State) (k : Core) (x i : Word) : Nat × Orrery := got (lv s k x i) (0, (lo1 s k x).2)
def ReadOk (s : State) (k : Core) (x i : Word) : Prop := i.toNat < (lo1 s k x).1.2.count ∧ isOk (lv s k x i) = true ∧ (lv1 s k x i).2.s.cur = s.cur
theorem read_of {s : State} {k : Core} {x i : Word} (h : OpenOk s k x) (g : ReadOk s k x i)
    (a : Source (s.core s.cur) 9 x k ∧ Acked k ∧ Source k 10 i k) :
    ∃ (k3 : Core) (h : LinHeader) (n : Node) (o o1 o2 : Orrery) (v : Nat), (Source (s.core s.cur) 9 x k ∧ Acked k ∧ Source k 10 i k) ∧
    o = orreryAt s k ∧ linOpen (orreryOf s) x.toNat o = .ok ((h, n), o1) ∧ i.toNat < n.count ∧ resolve (orreryOf s) i.toNat 8 n o1 = .ok (v, o2) ∧
    o2.s.cur = s.cur ∧ Dest ((o2.s.core s.cur).raisePts o2.p) 3 (valueWord n.fmt v) k3 :=
  ⟨_, _, _, _, (lo1 s k x).2, (lv1 s k x i).2, (lv1 s k x i).1, a, rfl, lo_ok h.1, g.1, got_pair (e := lv s k x i) _ g.2.1, g.2.2, dest_of _ _ (by decide)⟩
theorem read_ok : ReadOk (lin []) kli 0x100002 63 := by unfold ReadOk; decide +kernel
theorem hyp_LineageInstructions_lrd : ∃ (s : State) (k : Core) (x i : Word) (k3 : Core) (h : LinHeader) (n : Node) (o o1 o2 : Orrery) (v : Nat),
    (Source (s.core s.cur) 9 x k ∧ Acked k ∧ Source k 10 i k) ∧
    o = orreryAt s k ∧ linOpen (orreryOf s) x.toNat o = .ok ((h, n), o1) ∧ i.toNat < n.count ∧ resolve (orreryOf s) i.toNat 8 n o1 = .ok (v, o2) ∧
    o2.s.cur = s.cur ∧ Dest ((o2.s.core s.cur).raisePts o2.p) 3 (valueWord n.fmt v) k3 :=
  ⟨lin [], kli, 0x100002, 63, read_of drop_ok.1 read_ok ⟨source_of (by decide) rfl, ⟨rfl, rfl⟩, source_of (by decide) rfl⟩⟩
def lh (s : State) (k : Core) := linHeader (orreryOf s) (orreryAt s k)
def lh1 (s : State) (k : Core) : LinHeader × Orrery := got (lh s k) (⟨0, 0, 0, 0, 0, 0, 0⟩, orreryAt s k)
def lx (s : State) (k : Core) (x : Word) := linHandle (orreryOf s) (lh1 s k).1 x.toNat (lh1 s k).2
def lx1 (s : State) (k : Core) (x : Word) : Option Node × Orrery := got (lx s k x) (none, (lh1 s k).2)
theorem handle_of {s : State} {k : Core} {x : Word} (h : isOk (lh s k) = true ∧ (lh1 s k).1.ok (orreryOf s).tab = true)
    (g : isOk (lx s k x) = true ∧ (lx1 s k x).2.s.cur = s.cur) : ∃ (h : LinHeader) (o o1 o2 : Orrery) (r : Option Node), o = orreryAt s k ∧
      linHeader (orreryOf s) o = .ok (h, o1) ∧ h.ok (orreryOf s).tab = true ∧ linHandle (orreryOf s) h x.toNat o1 = .ok (r, o2) ∧ o2.s.cur = s.cur :=
  ⟨(lh1 s k).1, _, (lh1 s k).2, (lx1 s k x).2, (lx1 s k x).1, rfl, got_pair (e := lh s k) _ h.1, h.2, got_pair (e := lx s k x) _ g.1, g.2⟩
theorem handle_ok : isOk (lh (lin []) kli) = true ∧ (lh1 (lin []) kli).1.ok (orreryOf (lin [])).tab = true := by decide +kernel
theorem handle_first : isOk (lx (lin []) kli 0x100001) = true ∧ (lx1 (lin []) kli 0x100001).2.s.cur = (lin []).cur := by decide +kernel
theorem handle_beyond : isOk (lx (lin []) kli 0x40) = true ∧ (lx1 (lin []) kli 0x40).2.s.cur = (lin []).cur := by decide +kernel
/-- A handle, and the first slot beyond the table. -/
theorem hyp_LineageInstructions_lstat : ∀ x : Word, x = 0x100001 ∨ x = 0x40 → ∃ (s : State) (k : Core) (h : LinHeader) (o o1 o2 : Orrery) (r : Option Node),
    o = orreryAt s k ∧ linHeader (orreryOf s) o = .ok (h, o1) ∧ h.ok (orreryOf s).tab = true ∧ linHandle (orreryOf s) h x.toNat o1 = .ok (r, o2) ∧
    o2.s.cur = s.cur := by
  rintro x (rfl | rfl)
  · exact ⟨lin [], kli, handle_of handle_ok handle_first⟩
  · exact ⟨lin [], kli, handle_of handle_ok handle_beyond⟩
/-- Element 63 is in the map and element 0 is not. -/
theorem hyp_DeltaMaps_form : DeltaMapOk [⟨0, 2 ^ 63, [9]⟩] ∧ DeltaMapOk [] := by unfold DeltaMapOk DeltaOk; decide +kernel
theorem hyp_DeltaMaps_parent : isOk (lm (lin []) kli 0x100002) = true ∧ deltaFind (lm1 (lin []) kli 0x100002).1 63 = none ∧
    (lo1 (lin []) kli 0x100002).1.2.isRoot = false ∧
    isOk (linNode (orreryOf (lin [])) (handleIx (lo1 (lin []) kli 0x100002).1.2.parent) (lm1 (lin []) kli 0x100002).2) = true := by decide +kernel
/-- A child whose map at 0x90000 holds element 63. -/
def mapped : State := lin [(0x300A8, 0x90000), (0x300B0, 1), (0x300B8, 64), (0x90008, 16), (0x90010, 2 ^ 63), (0x90018, 0x40000000)]
theorem hyp_DeltaMaps_own : isOk (lo mapped kli 0x100002) = true ∧ isOk (lm mapped kli 0x100002) = true ∧ (lo1 mapped kli 0x100002).1.2.isRoot = false ∧
    deltaFind (lm1 mapped kli 0x100002).1 63 = some 0x40000000 := by decide +kernel

/-! ### Stash regions, barriers and stage registers -/

/-- A second GiB whose page carries STASH, onto the same DRAM: at 0x10000 of it a region of 64 F32 elements in blocks of 1,024 bits. -/
def stWords (stat : Nat) : List (Nat × Nat) :=
  [(0x201008, 0x20000040000000D7), (0x10000, 15 * 2 ^ 8 + 64 * 2 ^ 32), (0x10008, 200), (0x10010, stat)]
/-- x6 names the region, x9 the data, x10 the record; x11 is misaligned. -/
def kq : Core := kw [(6, 0x40010000), (9, 0x50000), (10, 0x60000), (11, 0x50008)]
def sh : State := world kq (stWords 0)
def so (s : State) (k : Core) (x : Word) := openRegion x (s.setCore s.cur k)
def so1 (s : State) (k : Core) (x : Word) : (StashHeader × Nat) × State :=
  got (so s k x) ((⟨0, 0, 0, 0, ⟨.f32, 0, 0, 0, 0, 0⟩⟩, 0), s)
def flawless (o : Option PageFlaw) : Bool := match o with
  | none => true
  | some _ => false
theorem flawless_none {o : Option PageFlaw} (h : flawless o = true) : o = none := by cases o <;> simp_all [flawless]
def swt (s : State) (k : Core) (x z : Word) :=
  let s1 := (so1 s k x).2
  s1.walkTouch ((s1.core s1.cur).tenv (dieOf s1.cur)) (s1.core s1.cur).user .write .none z.toNat
def swt1 (s : State) (k : Core) (x z : Word) : TlbEntry × Nat × State := got (swt s k x z) (page0, 0, s)
/-- What STASH and RESTORE ask for. -/
def StashOk (s : State) (k : Core) (x z : Word) : Prop :=
  let s1 := (so1 s k x).2
  isOk (so s k x) = true ∧ flawless (s1.regionFlaw ((s1.core s1.cur).tenv (dieOf s1.cur)) (s1.core s1.cur).user (so1 s k x).1.2 x.toNat
    (so1 s k x).1.1.len ((so1 s k x).1.1.len / 4096 + 2)) = true ∧ isOk (swt s k x z) = true ∧ (Acked (s1.core s1.cur) ∧ (s1.core s1.cur).drained = true) ∧
    s1.codecFull (so1 s k x).1.2 = false
theorem stash_of {s : State} {k : Core} {x y z : Word} (h : StashOk s k x z) (a : Source (s.core s.cur) 6 x k ∧ Source k 9 y k ∧ Source k 10 z k)
    (b : y.toNat % 64 = 0 ∧ z.toNat % 16 = 0) : ∃ (h : StashHeader) (die : Nat) (s1 : State) (t : TlbEntry) (p : Nat) (s2 : State),
    (Source (s.core s.cur) 6 x k ∧ Source k 9 y k ∧ Source k 10 z k) ∧ openRegion x (s.setCore s.cur k) = .ok ((h, die), s1) ∧
    s1.regionFlaw ((s1.core s1.cur).tenv (dieOf s1.cur)) (s1.core s1.cur).user die x.toNat h.len (h.len / 4096 + 2) = none ∧
    (y.toNat % 64 = 0 ∧ z.toNat % 16 = 0) ∧
    s1.walkTouch ((s1.core s1.cur).tenv (dieOf s1.cur)) (s1.core s1.cur).user .write .none z.toNat = .ok (t, p, s2) ∧
    (Acked (s1.core s1.cur) ∧ (s1.core s1.cur).drained = true) ∧ s1.codecFull die = false :=
  ⟨(so1 s k x).1.1, (so1 s k x).1.2, (so1 s k x).2, (swt1 s k x z).1, (swt1 s k x z).2.1, (swt1 s k x z).2.2, a, got_ok (e := so s k x) _ h.1, flawless_none h.2.1, b,
    got_triple (e := swt s k x z) _ h.2.2.1, h.2.2.2.1, h.2.2.2.2⟩
theorem stash_ok : StashOk sh kq 0x40010000 0x60000 := by unfold StashOk Acked; decide +kernel
theorem hyp_StashInstructions : ∃ (s : State) (k : Core) (x y z : Word) (h : StashHeader) (die : Nat) (s1 : State) (t : TlbEntry) (p : Nat) (s2 : State),
    (Source (s.core s.cur) 6 x k ∧ Source k 9 y k ∧ Source k 10 z k) ∧ openRegion x (s.setCore s.cur k) = .ok ((h, die), s1) ∧
    s1.regionFlaw ((s1.core s1.cur).tenv (dieOf s1.cur)) (s1.core s1.cur).user die x.toNat h.len (h.len / 4096 + 2) = none ∧
    (y.toNat % 64 = 0 ∧ z.toNat % 16 = 0) ∧
    s1.walkTouch ((s1.core s1.cur).tenv (dieOf s1.cur)) (s1.core s1.cur).user .write .none z.toNat = .ok (t, p, s2) ∧
    (Acked (s1.core s1.cur) ∧ (s1.core s1.cur).drained = true) ∧ s1.codecFull die = false :=
  ⟨sh, kq, 0x40010000, 0x50000, 0x60000, stash_of stash_ok ⟨source_of (by decide) rfl, source_of (by decide) rfl, source_of (by decide) rfl⟩ (by decide)⟩
theorem hyp_StashInstructions_misaligned : Source (sh.core sh.cur) 11 0x50008 kq ∧ (0x50008 : Word).toNat % 4096 ≠ 0 ∧ (0x50008 : Word).toNat % 64 ≠ 0 ∧
    (0x50008 : Word).toNat % 16 ≠ 0 := ⟨source_of (by decide) rfl, by decide⟩
theorem hyp_StashInstructions_sstat : ∀ (s : State) (k : Core) (x : Word), isOk (so s k x) = true → ∃ h die s1 k2,
    openRegion x (s.setCore s.cur k) = .ok ((h, die), s1) ∧ Dest (s1.core s1.cur) 3 (BitVec.ofNat 64 h.stat) k2 :=
  fun s k x h => ⟨(so1 s k x).1.1, (so1 s k x).1.2, (so1 s k x).2, _, got_ok (e := so s k x) _ h, dest_of _ _ (by decide)⟩

/-- Core 0 waits for `p`; x6 names the object at 0x10000, in DRAM at home 0; x9 and x10 are a seen pennant and a value that is none,
x11 and x12 the least and the greatest count, x13 a parent, x14 a count of 0. -/
def sb (p : Pend) : State := State.modDie (st { km false [(6, 0x10000), (9, 1), (10, 2), (11, 0x100000000), (12, 0xFFFFFFFFFFFFFF40), (13, 0xFFFFFFFFFFC0),
  (14, 0x40), (16, 0x10001)] with pend := p }) 0
  fun d => { d with frames := [(0, .mapped 0)] }
theorem sb_at {p : Pend} (h : p = .none ∨ p = .got 1) : BarrierAt (sb p) 0x10000 0 0x4000000000 (sb p) := by
  have n : ∀ a v c, ((sb p).core (sb p).cur).pending ≠ .walked a v c := by rcases h with rfl | rfl <;> exact nofun
  refine ⟨page0, by decide, ⟨n, by decide, tlb_hit ?_, ?_, fun _ => by decide⟩, ?_⟩ <;> rcases h with rfl | rfl <;> decide +kernel
theorem sb_none : BarrierAt (sb .none) 0x10000 0 0x4000000000 (sb .none) := sb_at (.inl rfl)
theorem sb_source (p : Pend) : Source ((sb p).core (sb p).cur) 6 0x10000 ((sb p).core (sb p).cur) := source_of (by decide) rfl
theorem hyp_BarrierInstructions_sends : Source ((sb .none).core (sb .none).cur) 6 0x10000 ((sb .none).core (sb .none).cur) ∧
    ((sb .none).core 0).pending = .none ∧ ((sb .none).core 0).hart.hint = none ∧ BarrierAt (sb .none) 0x10000 0 0x4000000000 (sb .none) ∧
    ((sb .none).core 0).sfault = none ∧ (sb .none).fenceBusy 0 (scopeAt (((sb .none).settle 0x4000000000).barObj 0x4000000000).scope) = false :=
  ⟨sb_source _, rfl, rfl, sb_none, rfl, by decide +kernel⟩
theorem hyp_BarrierInstructions_pending : ∃ k2, ((sb (.got 1)).core 0).pending = .got 1 ∧ Dest ((sb (.got 1)).core 0) 3 1 k2 ∧
    BarrierAt (sb (.got 1)) 0x10000 0 0x4000000000 (sb (.got 1)) ∧ ((sb (.bad 0 1)).core 0).pending = .bad 0 1 ∧ ((sb .sent).core 0).pending = .sent ∧
    ((sb .released).core 0).pending = .released :=
  ⟨_, rfl, dest_of _ _ (by decide), sb_at (.inr rfl), rfl, rfl, rfl⟩
theorem hyp_BarrierInstructions_misaligned : Source ((sb .none).core 0) 16 0x10001 ((sb .none).core 0) ∧ (0x10001 : Word).toNat % 64 ≠ 0 :=
  ⟨source_of (by decide) rfl, by decide⟩
theorem hyp_BarrierInstructions_bwait : Source ((sb .released).core 0) 9 1 ((sb .released).core 0) ∧ Source ((sb .none).core 0) 9 1 ((sb .none).core 0) ∧
    Source ((sb .none).core 0) 10 2 ((sb .none).core 0) ∧ (1 : Word).toNat ≤ 1 ∧ 1 < (2 : Word).toNat :=
  ⟨source_of (by decide) rfl, source_of (by decide) rfl, source_of (by decide) rfl, by decide, by decide⟩
theorem hyp_BarrierInstructions_binit : ∀ c : BitVec 5 × Word, c = (11, 0x100000000) ∨ c = (12, 0xFFFFFFFFFFFFFF40) → ∃ (s : State) (va par : Word) (k : Core) (home pa : Nat)
    (w : State) (r : Nat × State), Source (s.core s.cur) 6 va k ∧ Source k c.1 c.2 k ∧ Source k 13 par k ∧ BarrierAt (s.setCore s.cur k) va home pa w ∧
    countOk c.2 = true ∧ par.toNat % 64 = 0 ∧ par.toNat < 2 ^ 48 ∧ par ≠ va ∧ Acked k ∧ homeDie w home = dieOf s.cur ∧
    r = w.binitAt home pa k.pts k.sv.ctxid.toNat (slice c.2 63 32) (slice c.2 31 8) (slice c.2 6 4) par.toNat ∧ r.2.cur = s.cur := by
  intro c hc
  have g : Source ((sb .none).core (sb .none).cur) c.1 c.2 ((sb .none).core (sb .none).cur) ∧ countOk c.2 = true := by
    rcases hc with rfl | rfl <;> exact ⟨source_of (by decide) rfl, by decide⟩
  exact ⟨sb .none, 0x10000, 0xFFFFFFFFFFC0, (sb .none).core (sb .none).cur, 0, 0x4000000000, sb .none, _, sb_source _, g.1, source_of (by decide) rfl, sb_none, g.2,
    by decide, by decide, by decide, ⟨rfl, rfl⟩, by decide +kernel, rfl, by rcases hc with rfl | rfl <;> decide +kernel⟩
theorem hyp_BarrierInstructions_binit_traps : countOk 0x40 = false ∧ countOk 0x100000000 = true ∧ (0x1000000000000 : Word).toNat ≥ 2 ^ 48 ∧
    (0x10001 : Word).toNat % 64 ≠ 0 := by decide

/-- Core 0 with its stages: `up` and `dn` name core 1. -/
def sg (up : Word) (p : Pend) : State := st { kx [(6, 0x8000000000000001), (9, 0), (10, 1)] with pend := p, u := { USys.reset with stageup := up } }
theorem hyp_StageRegisters : ∃ (s : State) (v : Word) (k : Core), Source (s.core s.cur) 6 v k ∧ s.stageOk s.cur v = true ∧
    (∀ p ∈ s.pushes, p.src ≠ s.cur) ∧ v.getLsbD 63 = true ∧ s.physical (v.toNat % 4096) = some 1 ∧ k.u.stageup.getLsbD 63 = false ∧ k.vqi = [] :=
  ⟨sg 0 .none, 0x8000000000000001, _, source_of (by decide) rfl, by decide +kernel, (fun _ h => nomatch h), by decide, by decide +kernel, by decide +kernel, rfl⟩
theorem hyp_StageRegisters_zero : Source ((sg 0 .none).core 0) 9 0 ((sg 0 .none).core 0) ∧ (sg 0 .none).stageOk 0 0 = true ∧
    Source ((sg 0 .none).core 0) 10 1 ((sg 0 .none).core 0) ∧ (sg 0 .none).stageOk 0 1 = false :=
  ⟨source_of (by decide) rfl, by decide +kernel, source_of (by decide) rfl, by decide +kernel⟩
theorem hyp_StageRegisters_revoke : (sg 0x8000000000000001 .none).stageOk 0 0 = true ∧
    ((sg 0x8000000000000001 .none).core 0).u.stageup.getLsbD 63 = true ∧ ((sg 0x8000000000000001 .none).core 0).revoked = false ∧
    ((sg 0x8000000000000001 .none).core 0).pending = .none ∧
    (sg 0x8000000000000001 .none).physical (((sg 0x8000000000000001 .none).core 0).u.stageup.toNat % 4096) = some 1 := by decide +kernel
/-- The credit is revoked, with one entry in vqi or with none; the answer to STAGEDN has come. -/
theorem hyp_StageRegisters_revoked : ∀ l ∈ [[], [(7 : VWord)]], ((st { (sg 0x8000000000000001 .none).core 0 with revoked := true, vqi := l }).core 0).revoked = true ∧
    (st { (sg 0x8000000000000001 .none).core 0 with revoked := true, vqi := l }).stageOk 0 0x8000000000000001 = true ∧
    ((st { (sg 0x8000000000000001 .none).core 0 with revoked := true, vqi := l }).core 0).pending ≠ .sent ∧
    ((sg 0 .released).core 0).pending = .released ∧ (sg 0 .released).stageOk 0 0x8000000000000001 = true := by decide +kernel

/-! ### Events of a core and its chain -/

def upLink : Link := { Link.reset with st := .active }
/-- The package with the bridge and a link to the host of each die ACTIVE. -/
def up (s : State) : State := { s with links := (((Vector.replicate 17 Link.reset).set 12 upLink).set 13 upLink).set 15 upLink }
/-- A core that runs at 0x1000 with FOLLOW as given. -/
def kf (f : Follow) (h : Option PendingHint) (p : Pend) : Core :=
  { kx [] with act := some ⟨5, 0, true⟩, follow := f, pend := p, s0 := { (kx []).s0 with hint := h } }
/-- Core 0 follows core 1 at a cycle. -/
def sf (cycle : Nat) (f : Follow) (h : Option PendingHint) (p : Pend) : State :=
  { st (kf f h p) with cycle := cycle }.setCore 1 (kf .none h p)
theorem hyp_CoreEvents_follow : (0 < 1152) ∧ ((sf 1023 (.waiting 1 0 none) none .none).core 0).runsUser = true ∧ ((sf 1023 (.waiting 1 0 none) none .none).core 1).runsUser = true
    ∧ ((sf 1023 (.waiting 1 0 none) none .none).core 1).s0.inHint = false ∧ ((sf 1023 (.waiting 1 0 none) none .none).core 1).s0.pc = ((sf 1023 (.waiting 1 0 none) none .none).core 0).s0.pc
    ∧ (sf 1023 (.waiting 1 0 none) none .none).cycle < 0 + 1024 ∧ 0 + 1024 ≤ (sf 1024 (.waiting 1 0 none) none .none).cycle
    ∧ ((sf 1024 (.waiting 1 0 none) none .none).core 0).follow = .waiting 1 0 none ∧
    ((sf 1024 (.waiting 1 0 (some 2)) none .none).core 0).follow = .waiting 1 0 (some 2) := by decide +kernel
theorem hyp_CoreEvents_realign : ∃ (s : State) (a : Word) (t : Nat), (s.core 0).follow.left = some 1 ∧ Holds (s.core 0) a 31 0 t ∧ Holds (s.core 1) a 31 0 t ∧
    (s.core 1).s0.pc = (s.core 0).s0.pc ∧ t + 2 ^ 31 ≤ s.cycle :=
  ⟨sf (2 ^ 31) (.diverged 1) (some ⟨0xFFC, .realign 31, 0⟩) (.realign 0 false), 0xFFC, 0, by decide +kernel, ⟨by decide +kernel, false, by decide +kernel⟩,
    ⟨by decide +kernel, false, by decide +kernel⟩, by decide +kernel, by decide +kernel⟩
theorem hyp_CoreEvents_wfe : ((sf 4096 .none none (.idle 0)).core 0).slot3 = .idle ∧ ((sf 4096 .none none (.idle 0)).core 0).pend = .idle 0 ∧
    0 + 4096 ≤ (sf 4096 .none none (.idle 0)).cycle ∧ ({ kf .none none (.idle 0) with latch := true } : Core).latch = true := by decide +kernel
/-- Streams whose base is in the page of the tables, and whose base translates to nothing. -/
def str (va : Word) : State := world { kw [] with lstream := some ⟨va, 8, 1⟩, sstream := some ⟨va, 8, 2⟩, qs := [7], qi := List.replicate 15 (.data 1) } []
theorem hyp_CoreEvents_streams : ∃ (s : State) (k : Core) (t u : Stream) (v tau w : Nat) (s1 s2 : State), k = s.core 0 ∧ k.lstream = some t ∧ k.inSave = false ∧
    k.qi.length < 16 ∧ (∀ e ∈ k.qi, ∃ w, e = QEntry.data w) ∧ s.vread (k.tenv (dieOf 0)) true .none t.base.toNat 8 k.pts = .ok (v, tau, s1) ∧
    k.sstream = some u ∧ k.qs = [7] ∧ k.sfault = none ∧ k.staken = false ∧ s.streamHeld 0 u.base.toNat = false ∧ s.vwrite (k.tenv (dieOf 0)) true .none u.base.toNat 8 (7 : Word).toNat k.sts = .ok (w, s2) := by
  have h : isOk ((str 0x50000).vread (((str 0x50000).core 0).tenv (dieOf 0)) true .none (0x50000 : Word).toNat 8 0) = true ∧
    isOk ((str 0x50000).vwrite (((str 0x50000).core 0).tenv (dieOf 0)) true .none (0x50000 : Word).toNat 8 (7 : Word).toNat 0) = true := by decide +kernel
  obtain ⟨a, ha⟩ := isOk_exists h.1
  obtain ⟨b, hb⟩ := isOk_exists h.2
  exact ⟨str 0x50000, _, ⟨0x50000, 8, 1⟩, ⟨0x50000, 8, 2⟩, a.1, a.2.1, b.1, a.2.2, b.2, rfl, rfl, rfl, by decide +kernel,
    fun e he => ⟨1, List.eq_of_mem_replicate (n := 15) he⟩, ha, rfl, rfl, rfl, rfl, by decide +kernel, hb⟩
theorem hyp_CoreEvents_streams_fault : ∃ x y : Nat,
    (str 0x50000000).vread (((str 0x50000000).core 0).tenv (dieOf 0)) true .none (0x50000000 : Word).toNat 8 0 = .error x ∧
    (str 0x50000000).vwrite (((str 0x50000000).core 0).tenv (dieOf 0)) true .none (0x50000000 : Word).toNat 8 (7 : Word).toNat 0 = .error y := by
  have h : isOk ((str 0x50000000).vread (((str 0x50000000).core 0).tenv (dieOf 0)) true .none (0x50000000 : Word).toNat 8 0) = false ∧
    isOk ((str 0x50000000).vwrite (((str 0x50000000).core 0).tenv (dieOf 0)) true .none (0x50000000 : Word).toNat 8 (7 : Word).toNat 0) = false := by decide +kernel
  obtain ⟨a, ha⟩ := error_exists h.1
  obtain ⟨b, hb⟩ := error_exists h.2
  exact ⟨a, b, ha, hb⟩
theorem hyp_CoreEvents_matrix : ({ kx [] with mat := some (.mzero 0 .int) } : Core).mat = some (.mzero 0 .int) := rfl
def walk0 (va : Nat) : WalkReq := { bay := 0, core := 0, ctx := 0, va := va, acc := .read, user := true }
def sk (va : Nat) : State := { world (kw []) [] with walks := [walk0 va] }
/-- A walk that finds no leaf, one that the leaf refuses, and one that it allows. -/
theorem hyp_CoreEvents_walk : ∀ va ∈ [0x50000, 0x50000000], (sk va).walks.find? (fun q => q.bay == 0) = some (walk0 va) ∧
    ((sk va).walks.filter fun q => (walk0 va).same q) = [walk0 va] ∧ (walk0 va).core = 0 ∧ ((sk va).core 0).sv.ctxid.toNat = (walk0 va).ctx ∧
    (({ sk va with walks := [] }.walkFrom 0 (((sk va).core 0).tenv (dieOf 0)) va).isSome ↔ va = 0x50000) := by decide +kernel
theorem hyp_CoreEvents_walk_leaf : (({ sk 0x50000 with walks := [] }.walkFrom 0 (((sk 0x50000).core 0).tenv (dieOf 0)) 0x50000).map fun f =>
      (isOk ({ sk 0x50000 with walks := [] }.checkLeaf (((sk 0x50000).core 0).tenv (dieOf 0)) true .read .none 0x50000 f),
       isOk ({ sk 0x50000 with walks := [], dies := Vector.replicate 2 Die.reset }.checkLeaf (((sk 0x50000).core 0).tenv (dieOf 0)) true .read .none 0x50000 f))) =
    some (true, false) := by decide +kernel

/-- Barrier messages to the object at 0x10000 of DRAM with a count of 2: `arr` arrivals, CFG as given. -/
def bar (m : BarMsg) (words : List (Nat × Nat)) (p : Pend) : State := up { world { kx [] with pend := p } words with bars := [m], cycle := 64 }
theorem hyp_CoreEvents_arrival : ∀ w : List (Nat × Nat), ∃ ts v, (∀ r, r = [] → InFlight (bar (.arrival 0 0x4000010000 0x10000 0 0 0) w .sent).bars 0
      (.arrival 0 0x4000010000 0x10000 0 0 0) r) ∧ (bar (.arrival 0 0x4000010000 0x10000 0 0 0) w .sent).bridgeUp = true ∧
    { bar (.arrival 0 0x4000010000 0x10000 0 0 0) w .sent with bars := [] }.homeRead 0 0x4000010000 0 none (some 0) = (ts, v) :=
  fun w => ⟨_, _, fun r h => by rw [h]; rfl, rfl, rfl⟩
/-- The three kinds of object: not initialised, with an arrival to come, and complete. -/
def objAt (w : List (Nat × Nat)) : BarObj := ({ bar (.arrival 0 0x4000010000 0x10000 0 0 0) w .sent with bars := [] }.homeRead 0 0x4000010000 0 none (some 0)).2.barObj 0x4000010000
theorem hyp_CoreEvents_objects : (objAt []).live = false ∧ ((objAt [(0x10000, 2), (0x10010, 2)]).live = true ∧ (objAt [(0x10000, 2), (0x10010, 2)]).pnd = false ∧
    (objAt [(0x10000, 2), (0x10010, 2)]).arr + 1 < (objAt [(0x10000, 2), (0x10010, 2)]).exp) ∧ (objAt [(0x10000, 1), (0x10010, 2)]).live = true ∧
    (objAt [(0x10000, 1), (0x10010, 2)]).pnd = false ∧ (objAt [(0x10000, 1), (0x10010, 2)]).exp ≤ (objAt [(0x10000, 1), (0x10010, 2)]).arr + 1 ∧
    (objAt [(0x10000, 1), (0x10010, 2)]).parent = 0 := by decide +kernel
theorem hyp_CoreEvents_child : ∀ w, InFlight (bar (.child 0 0x4000010000 0x10000 (.core 1) 0 0 0) w .none).bars 0 (.child 0 0x4000010000 0x10000 (.core 1) 0 0 0) [] ∧
    (bar (.child 0 0x4000010000 0x10000 (.core 1) 0 0 0) w .none).bridgeUp = true := fun _ => ⟨rfl, rfl⟩
/-- The release of a parent that travels to core 0's home, for an object that waits for none, and for one that waits for its parent. -/
def freed : NetMsg := ⟨1, { dst := 0, ch := 0, gen := 0, src := 0, len := 0, kind := 0, info := 0, pay := #v[0, 0, 0, 0], pts := 0, ctx := 0, time := 0 }, some 0x4000010000⟩
def freeing (words : List (Nat × Nat)) : State := { up (world (kx []) words) with net := [freed] }
theorem hyp_CoreEvents_release : InFlight (freeing []).net 0 freed [] ∧ freed.child = some 0x4000010000 ∧ (∀ w, w = [] ∨ w = [(0x10000, 2), (0x10010, 6)] →
      (freeing w).physical freed.msg.dst = some 0 ∧ (freeing w).inOrder 0 freed = true ∧ (freeing w).canTravel freed 0 = true) ∧
    ({ freeing [] with net := [] }.barObj 0x4000010000).pending = false ∧
    ({ freeing [(0x10000, 2), (0x10010, 6)] with net := [] }.barObj 0x4000010000).pending = true ∧
    ({ freeing [(0x10000, 2), (0x10010, 6)] with net := [] }.barObj 0x4000010000).arr <
      ({ freeing [(0x10000, 2), (0x10010, 6)] with net := [] }.barObj 0x4000010000).exp := by
  refine ⟨rfl, rfl, ?_, ?_⟩
  · rintro w (rfl | rfl) <;> decide +kernel
  · decide +kernel
def waiting (seen : Bool) : State := bar (.wait 0 0x4000010000 seen (.core 0) 0) [(0x10000, 2), (0x10010, 2)] (.waitOnly false false)
theorem hyp_CoreEvents_wait : ∀ seen : Bool, ∃ ts v, InFlight (waiting seen).bars 0 (.wait 0 0x4000010000 seen (.core 0) 0) [] ∧ (waiting seen).bridgeUp = true ∧
    { waiting seen with bars := [] }.homeRead 0 0x4000010000 0 none (some 0) = (ts, v) ∧ (∃ a b, (v.core 0).pending = .waitOnly a b) ∧
    ((v.barObj 0x4000010000).pen = seen ↔ seen = false) ∧ (v.barWaits.filter fun e => e.home == 0).length < 64 := by
  intro seen
  refine ⟨_, _, rfl, rfl, rfl, ⟨false, false, ?_⟩, ?_, ?_⟩ <;> cases seen <;> decide +kernel
theorem hyp_CoreEvents_retry : ∃ s : State, InFlight s.bars 0 (.retry 0 0x4000010000 false (.core 0) 0 0) [] ∧ 0 + 64 ≤ s.cycle :=
  ⟨bar (.retry 0 0x4000010000 false (.core 0) 0 0) [] .none, rfl, by decide⟩

/-! ### Messages, chains and servers -/

theorem hyp_MessageEvents_acks : ∀ b : Bool, ∃ (s : State) (a : Ack), InFlight s.acks 0 a [] ∧ a.core = 0 ∧ s.reaches a.home 0 = true ∧
    (∀ q ∈ s.acks.take 0, sameWay (s.wayFrom q.home q.core) (s.wayFrom a.home 0) = false) ∧ a.store = b ∧ (s.core 0).stq = [] ∧
    (s.core 0).pend3 ≠ .sent ∧ (s.core 0).pend = .sent :=
  fun b => ⟨{ st { kx [] with pend := .sent, unacked := 1 } with acks := [⟨0, 1, 0, 5, b, 3, 0⟩] }, ⟨0, 1, 0, 5, b, 3, 0⟩, rfl, rfl, by
    cases b <;> decide +kernel, (fun _ h => nomatch h), rfl, by cases b <;> decide +kernel, by cases b <;> decide +kernel, by cases b <;> decide +kernel⟩
/-- Core 0 with core 1 up and down its chain, and what is in flight. -/
def chain (p : List Push) (q : List Credit) : State :=
  { st { kx [] with u := { USys.reset with stageup := 0x8000000000000001, stagedn := 0x8000000000000001 } } with pushes := p, credits := q }.setCore 1
    { kx [] with pend := .staging }
theorem hyp_MessageEvents_push : ∃ (s : State) (p : Push), InFlight s.pushes 0 p [] ∧ p.dst = 0 ∧ (∀ q ∈ s.pushes.take 0, ¬ (q.src = p.src ∧ q.dst = 0)) ∧
    (s.core 0).u.stageup.getLsbD 63 = true ∧ s.physical ((s.core 0).u.stageup.toNat % 4096) = some p.src :=
  ⟨chain [⟨1, 0, 7⟩] [], ⟨1, 0, 7⟩, rfl, rfl, (fun _ h => nomatch h), by decide +kernel, by decide +kernel⟩
/-- Credits of a pop, the grant of 4, an answer and a revocation. -/
theorem hyp_MessageEvents_credit : ∀ q ∈ [(⟨1, 0, 1, .add⟩ : Credit), ⟨1, 0, 4, .grant⟩, ⟨1, 0, 4, .answer⟩, ⟨1, 0, 0, .revoke⟩], InFlight (chain [] [q]).credits 0 q [] ∧ q.dst = 0 ∧
    (∀ o ∈ (chain [] [q]).credits.take 0, ¬ (o.src = q.src ∧ o.dst = 0)) ∧ ((chain [] [q]).core 0).u.stagedn.getLsbD 63 = true ∧
    (chain [] [q]).physical (((chain [] [q]).core 0).u.stagedn.toNat % 4096) = some q.src ∧ q.src ≠ 0 ∧
    ((chain [] [q]).core 0).pend3 ≠ .staging ∧ (∀ o ∈ (chain [] [q]).pushes, ¬ (o.src = 0 ∧ o.dst = q.src)) ∧ ((chain [] [q]).core q.src).pend3 ≠ .staging ∧
    ((chain [] [q]).core q.src).pend = .staging := by
  intro q h
  refine ⟨rfl, ?_, (fun _ h => nomatch h), ?_, ?_, ?_, ?_, (fun _ h => nomatch h), ?_, ?_⟩ <;> fin_cases h <;> decide +kernel
/-- A message of core 1 for channel `ch` of core 0, in the network and held. -/
def msg0 (ch : Nat) (pay : Vector Word 4) (len : Nat) : Msg := { dst := 0, ch := ch, gen := 7, src := 1, len := len, kind := 0, info := 0, pay := pay, pts := 3, ctx := 0, time := 0 }
def kg : Core := { kn with owned := true, act := none, group := some ⟨0, 0, 0, 0, 1, 0⟩ }
def mail : State := { st kg with net := [⟨1, msg0 5 #v[1, 2, 3, 4] 4, none⟩], held := [⟨1, msg0 5 #v[1, 2, 3, 4] 4, none⟩] }
def mailN : State := { mail with held := [] }
theorem hyp_MessageEvents_delivery : InFlight mailN.net 0 ⟨1, msg0 5 #v[1, 2, 3, 4] 4, none⟩ [] ∧
    mailN.inOrder 0 ⟨1, msg0 5 #v[1, 2, 3, 4] 4, none⟩ = true ∧
    mailN.canTravel ⟨1, msg0 5 #v[1, 2, 3, 4] 4, none⟩ 0 = true ∧ (mailN.core 0).arrived ≠ some mailN.time ∧ mailN.ckHolds 0 = false ∧
    mailN.physical 0 = some 0 ∧ mailN.heldFor 0 = false ∧ (mailN.core 0).owned = true ∧ (mailN.core 0).sv.ctxid.toNat = 0 ∧ (mailN.core 0).preempted 0 = false ∧
    (mailN.core 0).tagOk 0 5 7 = true ∧ ((mailN.core 0).entry 5).st ≠ .empty ∧ ((mailN.core 0).entry 5).fifo.length < 4 ∧
    ({ mailN with net := [] }.setCore 0 { (mailN.core 0).raisePts 3 with arrived := some mailN.time }).spilledFor 0 0 0 = [] := by
  refine ⟨rfl, ?_⟩; decide +kernel
theorem hyp_MessageEvents_held : InFlight mail.held 0 ⟨1, msg0 5 #v[1, 2, 3, 4] 4, none⟩ [] ∧
    (∀ o ∈ mail.held.take 0, o.msg.dst ≠ 0) ∧ ({ mail with held := [] }.setCore 0 ((mail.core 0).raisePts 3)).spilledFor 0 0 0 = [] := by
  refine ⟨rfl, ?_⟩; decide +kernel
/-- A core whose channel 5 has a message and may run; channel 60 has one too. -/
def kready : Core :=
  { kg with
    htab := (kg.htab.set 5 { HEntry.reset with st := .bound, en := true, pend := true, code := 0x2000, fifo := [msg0 5 #v[1, 2, 3, 4] 4] }).set 60
      { HEntry.reset with st := .bound, en := true, fifo := [msg0 60 #v[1, 2, 3, 4] 4] } }
theorem hyp_MessageEvents_activation : kready.canActivate = true ∧ kready.selected = some (5, 0) := by decide +kernel
theorem hyp_MessageEvents_system : ∃ (s : State) (k : Core) (u : State) (q : Nat) (t : State), k = s.core 0 ∧ k.canEnter = true ∧ (k.entry 60).fifo = [msg0 60 #v[1, 2, 3, 4] 4] ∧
    (k.entry 60).st = .bound ∧ (k.entry 60).en = true ∧ k.owned = true ∧ s.runs k.sv.ctxid.toNat = true ∧
    u = (((s.cancelWaits 0).setCore 0 (entered k .system (if k.act.isSome then k.s0.epc else 0) 0 (msg0 60 #v[1, 2, 3, 4] 4).header)).detachJoined 0) ∧
    FrameWritten 0 k u q t := by
  let k : Core := { kready with sv := (kw []).sv }
  let s := world k []
  let u := (((s.cancelWaits 0).setCore 0 (entered k .system (if k.act.isSome then k.s0.epc else 0) 0 (msg0 60 #v[1, 2, 3, 4] 4).header)).detachJoined 0)
  have h1 : isOk (u.vwrites (k.tenv (dieOf 0)) false (saveAt k 0x108) k.pts ((k.s0.x.toList.drop 1).take 29)) = true := by decide +kernel
  let v := got (u.vwrites (k.tenv (dieOf 0)) false (saveAt k 0x108) k.pts ((k.s0.x.toList.drop 1).take 29)) (0, u)
  have h2 : isOk (v.2.vwrites (k.tenv (dieOf 0)) false (saveAt k 0x200) v.1 k.s0.f.toList) = true := by decide +kernel
  exact ⟨s, k, u, _, _, rfl, by decide +kernel, rfl, rfl, rfl, rfl, by decide +kernel, rfl, v.1, v.2, got_ok (0, u) h1, got_pair (0, u) h2⟩
/-- Core 0 serves a request to its scratchpad: op, at its last 8 bytes. -/
def served (op : Nat) : Msg := msg0 62 #v[BitVec.ofNat 64 (op + 0x200), 0x3FFF8, 9, 0] 4
def serving (op : Nat) : State := st { kg with htab := kg.htab.set 62 { HEntry.reset with fifo := [served op] } }
theorem hyp_MessageEvents_served : ∀ op : Nat, op = 0 ∨ op = 1 → (serving op).nextAt 0 = .msg (served op) ∧ reqBad (served op) (reqOfMsg (served op)) = false ∧
    (reqOfMsg (served op)).sp = true ∧ (reqOfMsg (served op)).m1.toNat + (reqOfMsg (served op)).n ≤ 262144 ∧ (reqOfMsg (served op)).m1.toNat % (reqOfMsg (served op)).n = 0 ∧
    (reqOfMsg (served op)).op = op ∧ (reqOfMsg (served op)).qual = 0 ∧ ((serving op).serveReq 0 (served op) (reqOfMsg (served op))).isSome = true := by
  rintro op (rfl | rfl) <;> exact ⟨rfl, by decide +kernel⟩
/-- A COPY of 16 bytes and an atomic of memory, which translate to nothing and so end with a status. -/
def served' (op : Nat) : Msg := msg0 62 #v[BitVec.ofNat 64 op, 0x10000, 0x20000, 16] 4
def serving' (op : Nat) : State := st { kg with htab := kg.htab.set 62 { HEntry.reset with fifo := [served' op] } }
theorem hyp_MessageEvents_memory : ∀ op : Nat, op = 2 ∨ op = 3 → (serving' op).nextAt 0 = .msg (served' op) ∧ (reqOfMsg (served' op)).op = op ∧
    ((serving' op).serveReq 0 (served' op) (reqOfMsg (served' op))).isSome = true := by
  rintro op (rfl | rfl) <;> exact ⟨rfl, by decide +kernel⟩
/-- The first partial of two, and the last of one. -/
def part63 (n : Nat) : Core := { kg with u := { kg.u with treen := BitVec.ofNat 64 n }, htab := kg.htab.set 63 { HEntry.reset with fifo := [msg0 63 #v[0, 5, 0, 0] 2] } }
theorem hyp_MessageEvents_partials : ∀ n ∈ [1, 2], (part63 n).nextPartial = some 0 ∧ (((part63 n).entry 63).fifo)[0]? = some (msg0 63 #v[0, 5, 0, 0] 2) ∧ (part63 n).inSave = false ∧
    partialBad (part63 n) (msg0 63 #v[0, 5, 0, 0] 2) = false ∧ (((part63 n).placePartial (msg0 63 #v[0, 5, 0, 0] 2)).slots.length < (part63 n).u.treen.toNat ↔ n = 2) ∧
    (part63 n).u.treeop ≠ 6 := by decide +kernel

/-! ### The protocol -/

/-- A region of one line at 0x10000 of DRAM, home 0, under table 0. -/
def rg (st : Nat) (owner : Option (Nat × Nat)) (sharers : List Nat) : RegionEntry :=
  { home := 0, base := 0x4000010000, size := 64, st := st, sharers := sharers, owner := owner, pending := none, waits := false, timer := none, evr := 0, sel := 0,
    ctx := 0, recalled := false, last := 0, epoch := 0 }
def rq (kind : ReqKind) (agent core : Nat) (retryAt : Option Nat) : Req :=
  { kind := kind, home := 0, pa := 0x4000010000, agent := agent, core := core, p := 5, ctx := 0, sel := 0, retryAt := retryAt }
def asks (kind : ReqKind) (agent core n : Nat) : State :=
  { up (st (kx [])) with regions := [rg n none (if n = 1 then [3] else [])], reqs := [rq kind agent core none] }
theorem nth_same {s t : State} (h : ∀ c, t.enabled c = s.enabled c) : ∀ n i k, t.nthEnabled n i k = s.nthEnabled n i k := by
  intro n
  induction n with
  | zero => intro i k; rfl
  | succ n ih => intro i k; simp only [State.nthEnabled, h, ih]
theorem below_same {s t : State} (h : ∀ c, t.enabled c = s.enabled c) : ∀ n, t.enabledBelow n = s.enabledBelow n := by
  intro n
  induction n with
  | zero => rfl
  | succ n ih => simp only [State.enabledBelow, h, ih]
theorem reaches_same {s t : State} (hp : t.plat = s.plat) (hm : t.mem = s.mem) (ha : t.agents = s.agents) (hl : t.links = s.links) :
    t.reaches 0 0 = s.reaches 0 0 ∧ homeDie t 0 = homeDie s 0 := by
  have h : ∀ c, t.enabled c = s.enabled c := fun c => by simp only [State.enabled, State.harvestWord, hp, hm]
  have e : t.physical 0 = s.physical 0 := by simp only [State.physical, State.logicalCount, nth_same h, below_same h, hp, hm]; split_ifs <;> rfl
  simp only [State.reaches, homeDie, e, State.agent, State.bridgeUp, State.link, ha, hl, and_self]
theorem arriving_of {s : State} {q : Req} (h : s.reaches 0 0 = true) (r : q.retryAt = none ∧ q.home = 0 ∧ q.core = 0) :
    ({ s with reqs := [q] } : State).arriving 0 = some (q, { s with reqs := [] }) := by
  have g : ({ s with reqs := [q] } : State).reaches 0 0 = true := by rw [(reaches_same (s := s) (t := { s with reqs := [q] }) rfl rfl rfl rfl).1, h]
  simp [State.arriving, State.sent, takeAt, g, r, State.hostUp]
theorem reaches_up : (up (st (kx []))).reaches 0 0 = true := by decide +kernel
theorem hyp_ProtocolEvents_arrive : ∀ kind : ReqKind, ∃ (s s1 : State) (q : Req), s.arriving 0 = some (q, s1) ∧ q.kind = kind :=
  fun kind => ⟨_, _, rq kind 0 0 none, arriving_of (s := up (st (kx []))) reaches_up ⟨rfl, rfl, rfl⟩, rfl⟩
/-- A first and a later read, and a store from the other die. -/
theorem hyp_ProtocolEvents_serve : ∀ st : Nat, st = 0 ∨ st = 1 → ∃ (s s1 : State) (q : Req) (r : RegionEntry) (w t : Nat), s.arriving 0 = some (q, s1) ∧
    s1.region? q.home q.pa = some r ∧ r.sel = 0 ∧ r.recalled = false ∧ r.size = 64 ∧ r.owner = none ∧ q.home < 4096 ∧ s1.watches = [] ∧ s1.lineTs q.home (q.pa / 64) = (w, t) ∧
    w < 2 ^ 62 ∧ t < 2 ^ 62 ∧ q.p < 2 ^ 62 ∧ r.st < 2 ∧ r.st = st ∧ q.agent = 144 := by
  rintro n (rfl | rfl)
  · exact ⟨asks .rdx 144 600 0, { asks .rdx 144 600 0 with reqs := [] }, rq .rdx 144 600 none, rg 0 none [], 0, 0, by rfl, by decide +kernel, rfl, rfl, rfl, rfl,
      by decide, rfl, by and_intros <;> first | rfl | decide +kernel⟩
  · exact ⟨asks .rdx 144 600 1, { asks .rdx 144 600 1 with reqs := [] }, rq .rdx 144 600 none, rg 1 none [3], 0, 0, by rfl, by decide +kernel, rfl, rfl, rfl, rfl,
      by decide, rfl, by and_intros <;> first | rfl | decide +kernel⟩
theorem hyp_ProtocolEvents_retry : ∃ (s : State) (q : Req), InFlight s.reqs 0 q [] ∧ q.retryAt = some 64 ∧ 64 ≤ s.cycle :=
  ⟨{ st (kx []) with reqs := [rq .rdx 0 0 (some 64)], cycle := 64 }, _, rfl, rfl, by decide⟩
/-- Core 0 owns the region, or holds a leased copy. -/
def copies (excl : Bool) (r : List RegionEntry) (cycle : Nat) : State :=
  { up (st { kx [] with l1 := [(0x100000400, line0 excl)] }) with regions := r, cycle := cycle }
theorem hyp_ProtocolEvents_wb : ∃ (s : State) (l : L1Line), (0, 0) = (agentOf s 0 0, 0) ∧
    s.regions.find? (fun x => x.owner == some (agentOf s x.home 0, 0) && x.covers x.home (0x100000400 * 64)) = some (rg 2 (some (0, 0)) []) ∧
    s.reaches 0 0 = true ∧ s.takes (rg 2 (some (0, 0)) []) (0x100000400 * 64) 2 (0, 0) = true ∧ (∀ e ∈ s.reqs, e.isRack = false) ∧ (∀ m ∈ s.reps, m.code ≠ 2) ∧
    lookupK (s.core 0).l1 0x100000400 = some l ∧ l.excl = true ∧ l.home = 0 :=
  ⟨copies true [rg 2 (some (0, 0)) []] 0, line0 true, by decide +kernel, by decide +kernel, by decide +kernel, by decide +kernel, (fun _ h => nomatch h), (fun _ h => nomatch h), by decide +kernel, rfl, rfl⟩
theorem hyp_ProtocolEvents_drop : ∃ (s : State) (l : L1Line), lookupK (s.core 0).l1 0x100000400 = some l ∧ l.excl = false ∧ s.region? l.home (0x100000400 * 64) = none :=
  ⟨copies false [] 0, line0 false, by decide +kernel, rfl, by decide +kernel⟩
theorem hyp_ProtocolEvents_timeout : ∃ (s : State) (r : RegionEntry), s.region? 0 0x4000010000 = some r ∧ r.timer = some 9 ∧ 9 ≤ s.cycle ∧ s.transient r.ctx r.sel r.st = true :=
  ⟨copies true [{ rg 4 (some (0, 0)) [] with timer := some 9 }] 9, _, rfl, rfl, by decide, by decide +kernel⟩
theorem hyp_ProtocolEvents_recall : ∃ (s : State) (r : RegionEntry), s.region? 0 0x4000010000 = some r ∧ r.recalled = true ∧ r.st ≠ 0 :=
  ⟨copies true [{ rg 2 (some (0, 0)) [] with recalled := true }] 9, _, rfl, rfl, by decide⟩
/-- The owner's cluster is fenced, has drifted, and neither. -/
theorem hyp_ProtocolEvents_agents : ∃ (s u : State) (r : RegionEntry), s.region? 0 0x4000010000 = some r ∧ u.region? 0 0x4000010000 = some r ∧ r.names 0 = true ∧
    (s.agent (agentAddr (homeDie s 0) 0)).drift = true ∧ u.agentLost 0 0 = false :=
  ⟨{ copies true [rg 2 (some (0, 0)) []] 9 with agents := [(0, ⟨true, true, 0, 0⟩)] }, copies true [rg 2 (some (0, 0)) []] 9, _, rfl, rfl, by decide +kernel,
    by decide +kernel, by decide +kernel⟩
/-- A leased copy whose lease has not ended. -/
theorem hyp_ProtocolEvents_lease : lookupK ((copies false [rg 1 none [0]] 0).core 0).l1 0x100000400 = some (line0 false) ∧ (line0 false).home = 0 ∧
    (rg 1 none [0]).base ≤ 0x100000400 * 64 ∧ 0x100000400 * 64 < (rg 1 none [0]).base + (rg 1 none [0]).size ∧ agentHas (homeDie (copies false [rg 1 none [0]] 0) 0) 0 0 = true ∧
    (copies false [rg 1 none [0]] 0).time < ({ line0 false with lease := 1 } : L1Line).lease := by decide +kernel
theorem hyp_ProtocolEvents_merge : ∃ (s : State) (r q : RegionEntry), s.region? 0 0x4000010000 = some r ∧ s.region? 0 (r.base + r.size) = some q ∧ s.mergeable r q = true :=
  ⟨copies false [rg 1 none [0], { rg 1 none [0] with base := 0x4000010040 }] (2 ^ 20), rg 1 none [0], { rg 1 none [0] with base := 0x4000010040 }, rfl, by decide +kernel, by decide +kernel⟩
def rp (code : Nat) (q : Option Req) : Rep :=
  { code := code, home := 0, pa := 0x4000010000, core := 0, data := 0, wts := 1, rts := 2, tau := 3, old := 4, flags := 0, sent := 0, req := q, epoch := 0 }
theorem reaches_home : homeDie (up (st (kx []))) 0 = dieOf 0 := by decide +kernel
theorem reaches_none : lookupK ((up (st (kx []))).core 0).l1 (0x4000010000 / 64) = none := by decide +kernel
theorem coming_of {s : State} {m : Rep} (h : s.reaches 0 0 = true) (g : (s.core 0).pending = .none) (e : m.home = 0 ∧ m.core = 0) :
    ({ s with reps := [m] } : State).coming 0 = some (m, { s with reps := [] }) := by
  have a : ({ s with reps := [m] } : State).reaches 0 0 = true := by rw [(reaches_same (s := s) (t := { s with reps := [m] }) rfl rfl rfl rfl).1, h]
  have b : ({ s with reps := [m] } : State).usesGrant 0 0 m.pa = false := by
    have c : (({ s with reps := [m] } : State).core 0).pending = .none := g
    simp [State.usesGrant, c]
  simp [State.coming, State.mayCome, takeAt, Rep.via, coreCount, a, b, e]
theorem hyp_ProtocolEvents_coming : ∀ (code : Nat) (q : Option Req), ∃ (s : State) (m : Rep) (s1 : State) (k : Core), s.coming 0 = some (m, s1) ∧ k = s1.core m.core ∧ m.core = 0 ∧
    m.code = code ∧ m.req = q ∧ homeDie s1 m.home = dieOf m.core ∧ lookupK k.l1 (m.pa / 64) = none ∧ k.stq = [] :=
  fun code q => ⟨_, rp code q, { up (st (kx [])) with reps := [] }, _, coming_of (s := up (st (kx []))) (m := rp code q) reaches_up rfl ⟨rfl, rfl⟩, rfl, rfl, rfl, rfl,
    (reaches_same (t := { up (st (kx [])) with reps := [] }) rfl rfl rfl rfl).2.trans reaches_home, reaches_none, rfl⟩
/-- INV of table 0 to the remote-data cache of die 0. -/
def invFar : State := { up (st { kx [] with l1 := [(0x100000400, line0 true)] }) with reps := [{ rp 7 none with core := 1152 }] }
theorem hyp_ProtocolEvents_inv : ∃ u, invFar.coming 0 = some ({ rp 7 none with core := 1152 }, { invFar with reps := [] }) ∧ Happens (.inv 0) invFar u := by
  refine ⟨_, ?_, rfl⟩
  have m : invFar.mayCome { rp 7 none with core := 1152 } = true := by decide +kernel
  simp [State.coming, takeAt, invFar] at m ⊢
  exact m
/-! ### Links -/

/-- Port 0 in a state. -/
def lk (l : Link) (time : Nat) : State := { (st (kx [])).setLink 0 l with time := time }
/-- The lanes that are good and the times where the clauses meet. -/
theorem hyp_LinkEvents_training : ∃ l : Link, l.st = .train ∧ (0 < 17) ∧ 2 * 3 < lanesOf 0 ∧ lanesOf 0 ≤ 2 * 4 ∧ l.bad = [] ∧ l.queue = [] ∧ l.since + 100000 ≤ (lk l 100000).time ∧
    l.rcap ≠ 3 ∧ (lk l 100000).link 0 = l ∧ (lk l 100000).time ≤ l.since + 100000 ∧ l.since + 100000 < (lk l 100001).time := ⟨{ Link.reset with st := .train }, by decide +kernel⟩
theorem hyp_LinkEvents_retraining : ∃ l : Link, l.st = .retrain ∧ (lk l 20000).time ≤ l.since + 20000 ∧ lanesOf 0 ≤ 2 * 4 ∧ l.bad = [] ∧ l.queue = [] ∧ 2 * 3 < lanesOf 0 ∧ l.since + 20000 ≤ (lk l 20000).time :=
  ⟨{ Link.reset with st := .retrain }, by decide +kernel⟩
/-- The last of the links of the boot ends its training, alone and beside link 12. -/
def boots (a : LinkState) : State :=
  { st (kx []) with links := ((Vector.replicate 17 Link.reset).set 16 { Link.reset with st := .train }).set 12 { Link.reset with st := a },
                    time := 100000, plat := { Platform.reset with stage := 3 } }
theorem hyp_LinkEvents_boot : ∀ a : LinkState, ∃ t : State, (boots a).plat.stage = 3 ∧ (boots a).plat.booterr = 0 ∧ ((boots a).link 16).st = .train ∧
    ((boots a).link 16).since + 100000 ≤ (boots a).time ∧ t = (boots a).setLink 16 { (boots a).link 16 with st := .down } ∧
    ((∀ q, q < 17 → 12 ≤ q → (t.link q).st ≠ .train) ↔ a ≠ .train) := fun a =>
  ⟨_, rfl, rfl, rfl, (by decide : 0 + 100000 ≤ 100000), rfl, by cases a <;> decide +kernel⟩
theorem hyp_LinkEvents_states : ∀ x : LinkState, ∃ l : Link, l.st = x ∧ (lk l 0).link 0 = l := fun x => ⟨{ Link.reset with st := x }, rfl, rfl⟩
/-- The least CON above COFF, with a cap that LCTL may write. -/
theorem hyp_LinkEvents_control : slice (0x01000000 : Word) 23 16 < slice (0x01000000 : Word) 31 24 ∧ slice (0x01000000 : Word) 9 8 ≠ 3 ∧
    (Link.reset.rcap ≤ slice (0x01000000 : Word) 9 8) ∧ 0 < 12 ∧
    (st (kx [])).writerReaches .machine = true ∧ ((st (kx [])).setLink 13 { Link.reset with st := .active }).writerReaches .host = true := by decide +kernel
/-- A flit of a type with the SEQ that port 0 expects, and one that is not intact. -/
def flit (type : Nat) : List Byte := makeFlit { seq := 1, ack := 4095, vc := 1, comp := false, type := type, crvc := 0, cred := 0, len := 1 } [7]
theorem hyp_LinkEvents_flits : flitIntact (flit 0) = true ∧ (flitHead (flit 0)).type = 0 ∧ (flitHead (flit 0)).seq = (Link.reset.rxSeq + 1) % 4096 ∧ Link.reset.queue = [] ∧
    Link.reset.hunting = false ∧ ({ Link.reset with hunting := true, rxSeq := 1 } : Link).hunting = true ∧
    (flitHead (flit 0)).seq ≠ (({ Link.reset with hunting := true, rxSeq := 1 } : Link).rxSeq + 1) % 4096 ∧ flitIntact ((flit 0).set 9 1) = false := by decide +kernel
/-- A flit of remote operations, virtual channel 3. -/
def flit3 : List Byte := makeFlit { seq := 1, ack := 4095, vc := 3, comp := false, type := 0, crvc := 0, cred := 0, len := 1 } [7]
theorem hyp_LinkEvents_operations : flitIntact flit3 = true ∧ (flitHead flit3).type = 0 ∧ (flitHead flit3).vc = 3 ∧ (flitHead (flit 0)).vc ≠ 3 ∧
    (flitHead flit3).seq = (Link.reset.rxSeq + 1) % 4096 := by decide +kernel
theorem hyp_LinkEvents_controls : flitIntact (flit 1) = true ∧ (flitHead (flit 1)).type = 1 ∧ flitIntact (flit 2) = true ∧ (flitHead (flit 2)).type = 2 ∧
    flitIntact (flit 3) = true ∧ (flitHead (flit 3)).type = 3 ∧ flitIntact (flit 4) = true ∧ (flitHead (flit 4)).type = 4 := by decide +kernel
/-- Port 0 ACTIVE, in FENCE mode. -/
def beats : State := { lk { Link.reset with st := .active } 50000 with plat := { Platform.reset with livemode := 0 } }
/-- The first times beyond 1,000 ns on each side, and the silences of 150,000 ns. -/
theorem hyp_LinkEvents_liveness : (lk Link.reset 150000).time + 1000 < 151001 ∧ 148999 + 1000 < (lk Link.reset 150000).time ∧ (lk Link.reset 150000).leaseMode 0 = false ∧
    ((lk Link.reset 150000).agent 0).beat + 150000 ≤ (lk Link.reset 150000).time ∧ linksOf 0 = [] ∧ 295 < 296 ∧
    ((lk Link.reset 150000).agent 295).heard + 150000 ≤ (lk Link.reset 150000).time ∧ (lk Link.reset 50000).time ≤ 51000 ∧ 49000 + 1000 ≤ (lk Link.reset 50000).time ∧
    (beats.link 0).st = .active ∧ beats.leaseMode 300 = false ∧ (beats.agent 300).fenced = false ∧ (beats.agent 300).drift = false ∧
    (beats.link 0).beat + 50000 ≤ beats.time := by decide +kernel
/-- A packet of a kind from an agent to cluster 5 with an argument. -/
def body (src kind : Nat) : BitVec 128 := BitVec.ofNat 128 (src + 5 * 2 ^ 10 + kind * 2 ^ 20 + 3 * 2 ^ 24)
def packet (src kind : Nat) (code : Byte) : BitVec 128 := body src kind ||| (code.setWidth 128 <<< 56)
/-- The heartbeats of the last cluster's and of the sixth base agent, and the packets of the firmware controller, 295. -/
def packets : List (Nat × Nat) := [(291, 1), (294, 1), (295, 2), (295, 3), (295, 4)]
theorem packet_fields : ∀ q ∈ packets, ∀ c < 256, pktBody (packet q.1 q.2 (BitVec.ofNat 8 c)) = body q.1 q.2 ∧ pktField (packet q.1 q.2 (BitVec.ofNat 8 c)) 56 8 = c ∧
    pktField (packet q.1 q.2 (BitVec.ofNat 8 c)) 0 10 = q.1 ∧ pktField (packet q.1 q.2 (BitVec.ofNat 8 c)) 10 10 = 5 ∧
    pktField (packet q.1 q.2 (BitVec.ofNat 8 c)) 20 4 = q.2 ∧ pktField (packet q.1 q.2 (BitVec.ofNat 8 c)) 40 16 = 0 := by decide +kernel
/-- Its check code is that of its body, whatever the code is. -/
theorem hyp_LinkEvents_packets : ∀ q ∈ packets, ∃ (k : BitVec 128), pktField k 0 10 = q.1 ∧ pktField k 10 10 = 5 ∧ 5 ≠ 0x3FF ∧ 5 < 288 ∧ pktOk k q.2 = true := by
  intro q h
  have e : BitVec.ofNat 8 (Config.halyardCode (body q.1 q.2)).toNat = Config.halyardCode (body q.1 q.2) := by simp
  obtain ⟨h1, h2, h3, h4, h5, h6⟩ := packet_fields q h _ (Config.halyardCode (body q.1 q.2)).isLt
  refine ⟨_, h3, h4, by decide, by decide, ?_⟩
  unfold pktOk
  rw [h1, h2, h5, h6]
  simp
theorem hyp_LinkEvents_agents : ((lk Link.reset 0).agent 291).fenced = false ∧ ({ lk Link.reset 0 with agents := [(291, ⟨true, false, 0, 0⟩)] }.agent 291).fenced = true ∧ ({ lk Link.reset 0 with agents := [(5, ⟨true, true, 0, 0⟩)] }.agent 5).drift = true := by
  decide +kernel

/-- A message of core 600, of die 1, to core 0, and a report of die 1's units to it, while the bridge is cut. -/
def cutMsg (report : Bool) : NetMsg :=
  ⟨600, { dst := 0, ch := 59, gen := 0, src := 600, len := 4, kind := if report then 4 else 0, info := 4, pay := #v[0, 0, 0, 0], pts := 0, ctx := 0, time := 0 }, none⟩
theorem hyp_LinkEvents_cut : ∀ report : Bool, ∀ x ∈ [LinkState.fenced, .disabled], ∃ s : State, InFlight s.net 0 (cutMsg report) [] ∧ (cutMsg report).child = none ∧
    s.inOrder 0 (cutMsg report) = true ∧ s.ckHolds 0 = false ∧ s.physical 0 = some 0 ∧ dieOf 0 ≠ originDie s (cutMsg report).origin ∧ (s.link 12).st = x ∧
    (cutMsg report).msg.isReport = report := fun report x h => by
  refine ⟨{ (st (kx [])).setLink 12 { Link.reset with st := x } with net := [cutMsg report] }, rfl, rfl, ?_, ?_, ?_, ?_, ?_, ?_⟩ <;> revert report <;> fin_cases h <;> decide +kernel

/-! ### The host and the platform -/

/-- A link to the host ACTIVE. -/
def hosted (s : State) : State := { s with links := (Vector.replicate 17 Link.reset).set 13 { Link.reset with st := .active } }
theorem hyp_HostAndPlatformEvents_snoop : ∃ s : State, s.snoopable (hostBase / 64) = true ∧ paRegion (hostBase / 64 * 64) = some .host ∧ s.away (hostBase / 64) = none ∧ s.holdsHost (hostBase / 64) = true ∧
    s.lines.Pairwise (fun p q => p.1 < q.1) :=
  ⟨{ hosted (st (kx [])) with lines := [(lineKey 4096 (hostBase / 64), 1, 2)] }, by decide +kernel⟩
/-- A line of DRAM that no one or core 3's cluster has read, and the range of the error log locked over it. -/
def hostRegion (n : Nat) : State := { hosted (st (kx [])) with regions := [rg n none (if n = 1 then [3] else [])] }
theorem hyp_HostAndPlatformEvents_memory : ∀ n, n = 0 ∨ n = 1 → ∃ r, (hostRegion n).ucieUp (dramDie 0x4000010000) = true ∧ inDram 0x4000010000 = true ∧
    0x4000010000 % 8 = 0 ∧ (hostRegion n).away (0x4000010000 / 64) = none ∧
    (hostRegion n).region? ((hostRegion n).homeFor 0x4000010000) 0x4000010000 = some r ∧ (hostRegion n).homeFor 0x4000010000 < 4096 ∧ r.sel = 0 ∧ r.st < 2 ∧
    r.owner = none ∧ r.size = 64 ∧ (hostRegion n).reps = [] ∧
    ((hostRegion n).lineTs ((hostRegion n).homeFor 0x4000010000) (0x4000010000 / 64)).1 < 2 ^ 62 ∧
    ((hostRegion n).lineTs ((hostRegion n).homeFor 0x4000010000) (0x4000010000 / 64)).2 < 2 ^ 62 ∧ (hostRegion n).inCel 0x4000010000 = false ∧
    (hostRegion n).inMap 0x4000010000 8 = false := by
  rintro n (rfl | rfl)
  · exact ⟨rg 0 none [], by decide +kernel⟩
  · exact ⟨rg 1 none [3], by decide +kernel⟩
theorem hyp_HostAndPlatformEvents_locked : ∃ s : State, s.inCel 0x4000010000 = true ∧ s.plat.fwlock = true ∧ s.ucieUp (dramDie 0x4000010000) = true :=
  ⟨{ hosted (st (kx [])) with plat := { Platform.reset with celbase := 0x4000010000, celcap := 1, fwlock := true } }, by decide +kernel⟩
theorem hyp_HostAndPlatformEvents_writer : (hosted (st (kx []))).writerReaches .host = true ∧ (st (kx [])).ucieUp 0 = false ∧ (st (kx [])).ucieUp 1 = false := by
  decide +kernel
/-- A queue of the host at 0x50000 that doorbell 1,023 of die 0 names. -/
def door : State := hosted <| world (kw []) [(0x40000 + 8 * 1023, 0x50000), (0x50010, 0xC00)]
theorem hyp_HostAndPlatformEvents_doorbell : door.ucieUp 0 = true ∧ door.doorOf 0 1023 door.ctxs = some (0, 0x50000) ∧ ctlValid ((door.ctxWord 0 0 (0x50000 + 0x10)).getD 0) = true ∧
    ctlHost ((door.ctxWord 0 0 (0x50000 + 0x10)).getD 0) = true ∧ ctlZero ((door.ctxWord 0 0 (0x50000 + 0x10)).getD 0) = true ∧
    ctlDie ((door.ctxWord 0 0 (0x50000 + 0x10)).getD 0) = 0 ∧ door.door 0 0 0x50000 = none ∧ (door.setDoor 0 0 0x50000 7).door 0 0 0x50000 = some 7 := by decide +kernel
theorem hyp_HostAndPlatformEvents_watchdog : ∃ s : State, (s.core 0).hostWait = some (5, 0x10000) ∧ (s.core 0).onSys = false ∧ 5 + 1000000 ≤ s.time :=
  ⟨{ st { kx [] with hostWait := some (5, 0x10000) } with time := 1000005 }, rfl, rfl, by decide⟩
/-- What firmware's boot ends with is the model's constant: one of the two clauses applies. -/
theorem hyp_HostAndPlatformEvents_reset : (bootError = 0 ∨ bootError ≠ 0) ∧ (∀ q ∈ (st (kx [])).reqs, 4096 ≤ q.home → q.copies = []) ∧ ∀ c, hostLines ((st (kx [])).core c) = [] :=
  ⟨Classical.em _, (fun _ h => nomatch h), fun c => by
    by_cases h : c = 0
    · subst h; rfl
    · simp [State.core, st, State.setCore, State.reset, insertK, lookupK, Ne.symm h]; rfl⟩
/-- An entry due, with the log full and with room. -/
theorem hyp_HostAndPlatformEvents_log : ∀ full : Bool, ∃ (s : State) (e : CelDue), s.plat.celDue = [e] ∧ (s.plat.celptr = s.plat.celcap ↔ full = true) ∧
    s.away ((s.plat.celbase.toNat + 64 * s.plat.celptr.toNat) / 64) = none ∧ s.watches = [] ∧ s.ctxs = [] := fun full =>
  ⟨{ st (kx []) with plat := { Platform.reset with celbase := 0x4000010000, celcap := if full then 0 else 1, celDue := [⟨0, 1, 2, 3, 4⟩] } }, ⟨0, 1, 2, 3, 4⟩, rfl,
    by cases full <;> decide, by cases full <;> decide +kernel, rfl, rfl⟩
theorem hyp_HostAndPlatformEvents_errors : (st (kx [])).frame 0x4000010000 = .unmapped ∧ inDram 0x4000010000 = true ∧ (world (kw []) []).frame 0x4000010000 = .mapped 0 ∧
    inDram 0 = false := by decide +kernel
theorem hyp_HostAndPlatformEvents_power : (400 : Word).toNat ≤ 1600 ∧ 400 ≤ (400 : Word).toNat ∧ (1600 : Word).toNat ≤ 1600 ∧ (399 : Word).toNat < 400 ∧ 1600 < (1601 : Word).toNat := by
  decide
theorem hyp_HostAndPlatformEvents_gating : ((st (kx [])).core 1151).idleCore = true ∧ hostLines ((st (kx [])).core 1151) = [] := by decide +kernel
theorem hyp_HostAndPlatformEvents_failure : ∃ s : State, (s.core 0).contexts = [0] ∧ s.ctx? 0 = some ctx0 ∧ ctx0.st = .running ∧ CauseAtHome s ctx0 :=
  ⟨world { kw [] with group := some ⟨0, 0, 0, 0, 1, 0⟩ } [], by unfold CauseAtHome; decide +kernel⟩
/-- A core map at 0x10000 of DRAM in which core 1 is free. -/
def spare : State := { st (kx []) with
  mem := putBytes (putBytes [] 0x4000010000 8 2) 0x4000010090 8 1151, plat := { Platform.reset with l2pbase := 0x4000010000 } }
theorem hyp_HostAndPlatformEvents_spare : (spare.core 0).contexts = [] ∧ spare.plat.l2pbase ≠ 0 ∧ spare.enabled 0 = true ∧ { spare with plat := { spare.plat with failed := insertN spare.plat.failed 0 } }.spareOn (dieOf 0) = some 1 := by decide +kernel

/-! ### Frames and contexts -/

/-- Frame 65,535 of die 1 in a state, and an FCMD for it and context 5. -/
def fr (x : FrameState) : State := { st (kx []) with dies := (Vector.replicate 2 Die.reset).set 1 { Die.reset with frames := if x = .unmapped then [] else [(65535, x)] } }
def fcmd (op : Nat) : Word := BitVec.ofNat 64 (65535 + 5 * 2 ^ 32 + op * 2 ^ 48)
theorem hyp_FrameAndContextEvents_frames : (∀ op ∈ [1, 2, 3], fcmdOk (fcmd op) = true ∧ fcmdOp (fcmd op) = op ∧ fcmdFrame (fcmd op) = 65535 ∧ fcmdCtx (fcmd op) = 5) ∧
    (∀ x ∈ [FrameState.unmapped, .mapped 7, .zeroing none, .zeroing (some 5)], ((fr x).die 1).frameAt 65535 = x ∧ (fr x).rangeBusy (frameBase 1 65535) (2 ^ 21) = false ∧
      ((fr x).die 1).frames.Pairwise (fun a b => a.1 < b.1) ∧ (fr x).guarded (frameBase 1 65535) 1 = false) ∧
    7 ≠ 5 := by decide +kernel
/-- A line of the frame owned, or none. -/
theorem hyp_FrameAndContextEvents_copies : ({ fr (.zeroing none) with regions := [{ lineRegion 600 (frameBase 1 65535) with st := 2 }] } : State).recallsOut
    [(frameBase 1 65535, 2 ^ 21)] = true ∧ (fr (.zeroing none)).recallsOut [(frameBase 1 65535, 2 ^ 21)] = false ∧
    ∀ q ∈ (fr (.zeroing none)).cores, ∀ l ∈ q.2.l1, lineIn [(frameBase 1 65535, 2 ^ 21)] l.1 = true → l.2.wts < 2 ^ 63 ∧ l.2.rts < 2 ^ 63 := by decide +kernel
/-- A descriptor of zeros at the first page of DRAM. -/
def creating : State := { st (kx []) with plat := { Platform.reset with stage := 6, ctxarg := 0x4000000000 } }
theorem hyp_FrameAndContextEvents_create : cmdOp 0x10005 = 1 ∧ cmdCtx 0x10005 = 5 ∧ (0x10005 : Word).toNat < 2 ^ 20 ∧ creating.plat.stage = 6 ∧ creating.ctxSt 5 = .empty ∧
    inDram (slice creating.plat.ctxarg 51 12 * 4096) = true ∧ descOk (creating.words (slice creating.plat.ctxarg 51 12 * 4096) 16) = true ∧
    creating.away ((slice creating.plat.ctxarg 51 12 * 4096 + 0x50) / 64) = none := by decide +kernel
/-- Each command for context 0 in each of its states. -/
theorem hyp_FrameAndContextEvents_commands : (∀ x : CtxState, { world (kw []) [] with ctxs := [(0, { ctx0 with st := x })] }.ctx? 0 = some { ctx0 with st := x }) ∧
    (cmdOp 0x20000 = 2 ∧ cmdOp 0x30000 = 3 ∧ cmdOp 0x40000 = 4 ∧ cmdOp 0x50000 = 5 ∧ cmdCtx 0x50000 = 0) ∧ (∀ p ∈ (world (kw []) []).cores, p.2.group = none) ∧
    (∀ d, ((world (kw []) []).die d).cards = []) ∧ ({ world (kw []) [] with dies := Vector.replicate 2 Die.reset } : State).framesFree 0 = true ∧
    ((world (kw []) []).core 0).owned = true ∧ ((world (kw []) []).core 0).sv.ctxid.toNat = 0 :=
  ⟨fun x => rfl, by decide +kernel, by decide +kernel, fun d => by
    rcases d with _ | _ | d
    · rfl
    · rfl
    · simp [State.die, world, st, State.setCore, State.reset, Die.reset], by decide +kernel, by decide +kernel, by decide +kernel⟩

/-! ### Jobs of the engines -/

/-- A card of context 0. -/
def card (op cls : Nat) (st : CardState) (args : Vector Word 4) : Card :=
  { id := 0, ord := 0, ctx := 0, addr := 0x50000, queue := none, prio := 3, op := op, cls := cls, flags := 0, fin := 0, fout := 0, args := args, doneVa := 0x60000,
    seq := 9, fps := [], preds := [], preds2 := [], partner := none, st := st, status := 0, detail := 0, core := none, user := true, hgen := 0, ts := 0, launch := none, began := none, due := [] }
/-- The card on die 0, beside words of memory. -/
def job (c : Card) (words : List (Nat × Nat)) : State :=
  let s := up (world (kw []) words)
  s.modDie 0 fun d => { d with cards := [c] }
theorem ids_of {w : List (Nat × Nat)} {c : Card} (e : c.id = 0) : ∀ j q, (job c w).card 0 j = some q → q.id = j := by
  intro j q h
  have g : (job c w).card 0 j = [c][j]? := rfl
  rw [g] at h
  rcases j with _ | j
  · simp only [List.getElem?_cons_zero, Option.some.injEq] at h
    rw [← h, e]
  · simp at h
theorem hyp_EngineJobs_start : ∀ cls op : Nat, (cls = 1 ∧ op = 1) ∨ (cls = 2 ∧ op = 0x13) → ∃ (s : State) (c : Card), s.card 0 0 = some c ∧ (s.die 0).cards = [c] ∧ (∀ j q, s.card 0 j = some q → q.id = j) ∧ s.mayStart 0 cls c = true ∧
    c.fin = 0 ∧ c.fout = 0 := by
  rintro cls op (⟨rfl, rfl⟩ | ⟨rfl, rfl⟩)
  · exact ⟨job (card 1 1 .ready #v[0, 0, 0, 0]) [], _, rfl, rfl, ids_of rfl, by decide +kernel, rfl, rfl⟩
  · exact ⟨job (card 0x13 2 .ready #v[0, 0, 0, 0]) [], _, rfl, rfl, ids_of rfl, by decide +kernel, rfl, rfl⟩
/-- COPY of one byte from 0x70000 to 0x70001, of none, and onto itself. -/
def cpy (dst n : Word) : Card := card 1 1 .running #v[0x70000, dst, n, 0]
theorem runs_of {c : Card} {w : List (Nat × Nat)} {op : Nat} (h : c.st = .running) (e : c.op = op) (f : c.fin = 0 ∧ c.fout = 0) : JobRuns (job c w) 0 0 op c :=
  ⟨by decide, rfl, h, e, f.1, f.2, rfl, rfl⟩
def jr (s : State) (c : Card) (va n : Nat) := s.readBlock (s.ctxEnv 0 c.ctx) c.user .none va c.ts n (n + 1)
def jr1 (s : State) (c : Card) (va n : Nat) : List Byte × Nat × State := got (jr s c va n) ([], 0, s)
theorem reads_of {s : State} {c : Card} {va n : Nat} (h : isOk (jr s c va n) = true) : JobReads s 0 c va n (jr1 s c va n).1 (jr1 s c va n).2.1 (jr1 s c va n).2.2 :=
  got_ok (e := jr s c va n) _ h
def jw (s : State) (c : Card) (va ts : Nat) (b : List Byte) := s.writeBlock (s.ctxEnv 0 c.ctx) c.user .none va ts b (b.length + 1)
theorem writes_of {s : State} {c : Card} {va ts : Nat} {b : List Byte} (h : (jw s c va ts b).1 = none) :
    JobWrites s 0 c va ts b (jw s c va ts b).2.1 (jw s c va ts b).2.2 := by
  have e : jw s c va ts b = ((jw s c va ts b).1, (jw s c va ts b).2.1, (jw s c va ts b).2.2) := rfl
  rw [h] at e
  exact e
theorem hyp_EngineJobs_copy : ∃ (s : State) (c : Card) (b : List Byte) (ts t : Nat) (s1 u : State), JobRuns s 0 0 1 c ∧ c.args[3] = 0 ∧ c.args[0].getLsbD 63 = false ∧
    c.args[1].getLsbD 63 = false ∧ Nat.land c.flags fDSP = 0 ∧ c.args[2].toNat = 1 ∧ meets c.args[0].toNat 1 c.args[1].toNat 1 = false ∧
    JobReads s 0 c c.args[0].toNat 1 b ts s1 ∧ JobWrites s1 0 c c.args[1].toNat ts b t u := by
  have h : isOk (jr (job (cpy 0x70001 1) []) (cpy 0x70001 1) 0x70000 1) = true ∧ (jw (jr1 (job (cpy 0x70001 1) []) (cpy 0x70001 1) 0x70000 1).2.2 (cpy 0x70001 1) 0x70001
    (jr1 (job (cpy 0x70001 1) []) (cpy 0x70001 1) 0x70000 1).2.1 (jr1 (job (cpy 0x70001 1) []) (cpy 0x70001 1) 0x70000 1).1).1 = none := by decide +kernel
  exact ⟨job (cpy 0x70001 1) [], cpy 0x70001 1, _, _, _, _, _, runs_of rfl rfl ⟨rfl, rfl⟩, rfl, by decide, by decide, rfl, rfl, by decide, reads_of h.1, writes_of h.2⟩
theorem hyp_EngineJobs_copy_bad : JobRuns (job (cpy 0x70001 0) []) 0 0 1 (cpy 0x70001 0) ∧ (cpy 0x70001 0).args[2].toNat = 0 ∧ JobRuns (job (cpy 0x70000 1) []) 0 0 1 (cpy 0x70000 1) ∧
    meets 0x70000 1 (cpy 0x70000 1).args[1].toNat 1 = true := ⟨runs_of rfl rfl ⟨rfl, rfl⟩, by decide, runs_of rfl rfl ⟨rfl, rfl⟩, by decide⟩
/-- COPY of 16 bytes into the scratchpad of core 0, whose group is the context's. -/
def cpsp : Card := { cpy 0x3FFF0 16 with flags := 1 }
def jsp : State := (job cpsp []).setCore 0 { kw [] with group := some ⟨0, 0, 0, 0, 1, 0⟩ }
theorem hyp_EngineJobs_copy_scratchpad : JobRuns jsp 0 0 1 cpsp ∧ Nat.land cpsp.flags fDSP ≠ 0 ∧ spPlace cpsp.args[1].toNat 16 = some (.sp 0 0x3FFF0) ∧
    jsp.spHolder 0 0 = some 0 ∧ ∃ b ts s1, JobReads jsp 0 cpsp 0x70000 16 b ts s1 ∧ s1.spHolder 0 0 = some 0 := by
  have h : isOk (jr jsp cpsp 0x70000 16) = true ∧ (jr1 jsp cpsp 0x70000 16).2.2.spHolder 0 0 = some 0 := by decide +kernel
  exact ⟨⟨by decide, rfl, rfl, rfl, rfl, rfl, rfl, rfl⟩, by decide, by decide, by decide +kernel, _, _, _, reads_of h.1, h.2⟩
/-- A transposition of 2 rows of 3 elements of 8 bytes, with pitches that are too small and the least. -/
def cpt (pitch : Word) : Card := card 2 1 .running #v[0x70000, 0x71000, 0x300030002, pitch]
theorem hyp_EngineJobs_copyt : JobRuns (job (cpt 0x1000000018) []) 0 0 2 (cpt 0x1000000018) ∧ shapeOf (cpt 0x1000000018).args[2] = some (2, 3, 8) ∧
    3 * 8 ≤ slice (cpt 0x1000000018).args[3] 31 0 ∧ 2 * 8 ≤ slice (cpt 0x1000000018).args[3] 63 32 ∧
    (∀ i < 2, ∀ j < 3, meets (0x70000 + i * 24) (3 * 8) (0x71000 + j * 16) (2 * 8) = false) ∧ slice (cpt 0x0F00000018).args[3] 63 32 < 2 * 8 ∧
    JobRuns (job (cpt 0x0F00000018) []) 0 0 2 (cpt 0x0F00000018) :=
  ⟨runs_of rfl rfl ⟨rfl, rfl⟩, by decide, by decide, by decide, by decide, by decide, runs_of rfl rfl ⟨rfl, rfl⟩⟩
def cfill : Card := card 3 1 .running #v[0x70000, 1, 0x0807060504030201, 0]
theorem hyp_EngineJobs_fill : ∃ (s : State) (c : Card) (t : Nat) (u : State), JobRuns s 0 0 3 c ∧ c.args[1].toNat = 1 ∧ c.args[3] = 0 ∧ Nat.land c.flags fDSP = 0 ∧
    JobWrites s 0 c c.args[0].toNat c.ts ((List.range 1).map fun i => BitVec.ofNat 8 (bitsOf c.args[2].toNat (8 * (i % 8)) 8)) t u := by
  have h : (jw (job cfill []) cfill 0x70000 0 ((List.range 1).map fun i => BitVec.ofNat 8 (bitsOf cfill.args[2].toNat (8 * (i % 8)) 8))).1 = none := by decide +kernel
  exact ⟨job cfill [], cfill, _, _, runs_of rfl rfl ⟨rfl, rfl⟩, by decide, rfl, rfl, writes_of h⟩
def ccrc : Card := card 6 1 .running #v[0x70000, 1, 0xFFFFFFFF, 0x60008]
theorem hyp_EngineJobs_crc : ∃ (s : State) (c : Card) (b : List Byte) (ts t : Nat) (s1 u : State), JobRuns s 0 0 6 c ∧ c.args[1].toNat = 1 ∧ slice c.args[2] 63 32 = 0 ∧
    c.args[3].toNat % 8 = 0 ∧ JobReads s 0 c c.args[0].toNat 1 b ts s1 ∧
    s1.vwrite (s1.ctxEnv 0 c.ctx) c.user .none c.args[3].toNat 8 (crc32c (slice c.args[2] 31 0) b) ts = .ok (t, u) := by
  have h : isOk (jr (job ccrc []) ccrc 0x70000 1) = true ∧ isOk ((jr1 (job ccrc []) ccrc 0x70000 1).2.2.vwrite ((jr1 (job ccrc []) ccrc 0x70000 1).2.2.ctxEnv 0 0) true .none
    ccrc.args[3].toNat 8 (crc32c (slice ccrc.args[2] 31 0) (jr1 (job ccrc []) ccrc 0x70000 1).1) (jr1 (job ccrc []) ccrc 0x70000 1).2.1) = true := by decide +kernel
  obtain ⟨a, ha⟩ := isOk_exists h.2
  exact ⟨job ccrc [], ccrc, _, _, a.1, _, a.2, runs_of rfl rfl ⟨rfl, rfl⟩, by decide, by decide, by decide, reads_of h.1, ha⟩
/-- A stream of one stored byte, expanded; and one byte, compressed. -/
def lzCard (op : Nat) (lens : Word) : Card := card op 1 .running #v[0x70000, 0x71000, lens, 0]
def lzWords : List (Nat × Nat) := [(0x70000, 1 + 2 ^ 31 + 7 * 2 ^ 32)]
theorem hyp_EngineJobs_lz4x : ∃ (s : State) (c : Card) (b d : List Byte) (ts t : Nat) (s1 u : State), JobRuns s 0 0 4 c ∧ Nat.land c.flags (fCRCS + fCRCD + fXPOSE) = 0 ∧
    meets c.args[0].toNat 5 c.args[1].toNat 1 = false ∧ slice c.args[2] 31 0 = 5 ∧ slice c.args[2] 63 32 = 1 ∧ JobReads s 0 c c.args[0].toNat 5 b ts s1 ∧
    JobWrites s1 0 c c.args[1].toNat ts d t u ∧ d.length = 1 ∧ b = leBytes 4 (1 + 2 ^ 31) ++ d := by
  have h : isOk (jr (job (lzCard 4 0x100000005) lzWords) (lzCard 4 0x100000005) 0x70000 5) = true ∧
    (jw (jr1 (job (lzCard 4 0x100000005) lzWords) (lzCard 4 0x100000005) 0x70000 5).2.2 (lzCard 4 0x100000005) 0x71000
      (jr1 (job (lzCard 4 0x100000005) lzWords) (lzCard 4 0x100000005) 0x70000 5).2.1 [7]).1 = none ∧
    (jr1 (job (lzCard 4 0x100000005) lzWords) (lzCard 4 0x100000005) 0x70000 5).1 = leBytes 4 (1 + 2 ^ 31) ++ [7] := by decide +kernel
  exact ⟨job (lzCard 4 0x100000005) lzWords, lzCard 4 0x100000005, _, [7], _, _, _, _, runs_of rfl rfl ⟨rfl, rfl⟩, rfl, by decide, by decide, by decide, reads_of h.1, writes_of h.2.1, rfl, h.2.2⟩
theorem hyp_EngineJobs_lz4c : ∃ (s : State) (c : Card) (b d : List Byte) (ts t : Nat) (s1 u : State), JobRuns s 0 0 5 c ∧ Nat.land c.flags (fCRCS + fCRCD + fXPOSE) = 0 ∧
    meets c.args[0].toNat 1 c.args[1].toNat 6 = false ∧ slice c.args[2] 31 0 = 1 ∧ slice c.args[2] 63 32 = 6 ∧ JobReads s 0 c c.args[0].toNat 1 b ts s1 ∧
    JobWrites s1 0 c c.args[1].toNat ts d t u ∧ b.length = 1 ∧ 1 ≤ 12 ∧ 1 + 5 ≤ 6 ∧ d = leBytes 4 (1 + 1) ++ BitVec.ofNat 8 (16 * 1) :: b := by
  have h : isOk (jr (job (lzCard 5 0x600000001) lzWords) (lzCard 5 0x600000001) 0x70000 1) = true ∧
    (jw (jr1 (job (lzCard 5 0x600000001) lzWords) (lzCard 5 0x600000001) 0x70000 1).2.2 (lzCard 5 0x600000001) 0x71000
      (jr1 (job (lzCard 5 0x600000001) lzWords) (lzCard 5 0x600000001) 0x70000 1).2.1
      (leBytes 4 (1 + 1) ++ BitVec.ofNat 8 (16 * 1) :: (jr1 (job (lzCard 5 0x600000001) lzWords) (lzCard 5 0x600000001) 0x70000 1).1)).1 = none ∧
    (jr1 (job (lzCard 5 0x600000001) lzWords) (lzCard 5 0x600000001) 0x70000 1).1.length = 1 := by decide +kernel
  exact ⟨job (lzCard 5 0x600000001) lzWords, lzCard 5 0x600000001, _, _, _, _, _, _, runs_of rfl rfl ⟨rfl, rfl⟩, rfl, by decide, by decide, by decide, reads_of h.1,
    writes_of h.2.1, h.2.2, by decide, by decide, rfl⟩
/-- A DONE card whose sequence word can be written, and one whose word translates to nothing. -/
def jdone (va : Nat) : Card := { card 1 1 .done #v[0, 0, 0, 0] with doneVa := va }
theorem hyp_EngineJobs_retire : ∀ va ∈ [0x60000, 0x50000000], (job (jdone va) []).card 0 0 = some (jdone va) ∧ (jdone va).st = .done ∧
    (job (jdone va) []).diffInFlight 0 (jdone va) = false ∧ (∀ q ∈ ((job (jdone va) []).die 0).cards, q.sameQueue (jdone va) = true → q.id < (jdone va).id → q.st = .retired) ∧
    (isOk ((job (jdone va) []).vwrite ((job (jdone va) []).ctxEnv 0 0) false .none (jdone va).doneVa 8 (jdone va).seq.toNat (jdone va).ts) = true ↔ va = 0x60000) := by
  intro va h
  refine ⟨rfl, rfl, ?_, fun q _ _ l => absurd l (Nat.not_lt_zero _), ?_⟩ <;> fin_cases h <;> decide +kernel

/-! ### Lineage, checkpoint and codec jobs -/

/-- LRESOLVE of the child's last element into 0x60010, pinned. -/
def clin (op : Nat) : Card := card op 2 .running #v[0x100002, 0, 1, 0x60000]
def jlin (op : Nat) : State := let s := up (lin []); s.modDie 0 fun d => { d with cards := [clin op], pins := [(0, 2, false)] }
def jn (op : Nat) := linNode ((jlin op).linEnv 0 0) (handleIx ((clin op).args[0].toNat % 2 ^ 32)) ⟨jlin op, 0⟩
def jn1 (op : Nat) : Node × Orrery := got (jn op) (node0, ⟨jlin op, 0⟩)
def jf (op : Nat) (f : Nat → LinEnv → Card → Node → LinM (Nat × Nat)) := f 0 ((jlin op).linEnv 0 0) (clin op) (jn1 op).1 (jn1 op).2
theorem lineage_of {op : Nat} {f : Nat → LinEnv → Card → Node → LinM (Nat × Nat)} (h : isOk (jn op) = true) (g : isOk (jf op f) = true) : ∃ n o r o',
    linNode ((jlin op).linEnv 0 0) (handleIx ((clin op).args[0].toNat % 2 ^ 32)) ⟨jlin op, 0⟩ = .ok (n, o) ∧ f 0 ((jlin op).linEnv 0 0) (clin op) n o = .ok (r, o') :=
  ⟨_, _, _, _, got_pair (e := jn op) (node0, ⟨jlin op, 0⟩) h, got_pair (e := jf op f) ((0, 0), (jn1 op).2) g⟩
theorem lineage_ok : isOk (jn 0x10) = true ∧ isOk (jf 0x10 jobFlatten) = true ∧ isOk (jn 0x11) = true ∧ isOk (jf 0x11 fun _ => jobRebase) = true ∧
    isOk (jn 0x12) = true ∧ isOk (jf 0x12 jobDiff) = true ∧ isOk (jn 0x13) = true ∧ isOk (jf 0x13 jobResolve) = true := by decide +kernel
theorem hyp_LineageJobs : ∀ ev op f, LineageJob ev op f → (jlin op).card 0 0 = some (clin op) ∧ (clin op).st = .running ∧ (clin op).op = op ∧
    ((jlin op).die 0).pins.any (fun q => q.1 == 0) = true ∧ ∃ n o r o', linNode ((jlin op).linEnv 0 0) (handleIx ((clin op).args[0].toNat % 2 ^ 32)) ⟨jlin op, 0⟩ = .ok (n, o) ∧
      f 0 ((jlin op).linEnv 0 0) (clin op) n o = .ok (r, o') := by
  rintro ev op f (⟨rfl, rfl, rfl⟩ | ⟨rfl, rfl, rfl⟩ | ⟨rfl, rfl, rfl⟩ | ⟨rfl, rfl, rfl⟩) <;> refine ⟨rfl, rfl, rfl, rfl, ?_⟩
  · exact lineage_of lineage_ok.1 lineage_ok.2.1
  · exact lineage_of lineage_ok.2.2.1 lineage_ok.2.2.2.1
  · exact lineage_of lineage_ok.2.2.2.2.1 lineage_ok.2.2.2.2.2.1
  · exact lineage_of lineage_ok.2.2.2.2.2.2.1 lineage_ok.2.2.2.2.2.2.2
/-- A node of one block of F32: one byte short, an odd word, a misaligned destination, and a block beyond the last. -/
theorem hyp_LineageJobs_bad : ∃ n : Node, n.blocks = 1 ∧ (255 : Word).toNat < n.blocks * blockBytes n.fmt ∧ (64 : Word).toNat % 64 = 0 ∧ (1 : Word) ≠ 0 ∧ (63 : Word).toNat % 64 ≠ 0 ∧
    slice (1 : Word) 62 32 = 0 ∧ slice (1 : Word) 31 0 ≠ 0 ∧ n.blocks < (1 : Word).toNat + slice (1 : Word) 31 0 :=
  ⟨{ node0 with fmt := 5, d01 := 64 + 2 ^ 32, d23 := 1 + 2 ^ 32 }, by decide, by decide, by decide, by decide, by decide, by decide, by decide, by decide⟩
/-- A checkpoint card of context 0 in a state of the context. -/
def ckpt (op : Nat) (x : CtxState) (args : Vector Word 4) : State := { job (card op 3 .running args) [] with ctxs := [(0, { ctx0 with st := x })] }
theorem hyp_CheckpointJobs : ∀ (op : Nat) (x : CtxState) (args : Vector Word 4), (ckpt op x args).card 0 0 = some (card op 3 .running args) ∧
    (card op 3 .running args).st = .running ∧ (card op 3 .running args).op = op ∧ (ckpt op x args).ctx? 0 = some { ctx0 with st := x } := fun _ _ _ => ⟨rfl, rfl, rfl, rfl⟩
theorem hyp_CheckpointJobs_args : saveCheck 0 (card 0x20 3 .running #v[0x80000000, 0, 0, 1]) = none ∧ (0x10001 : Word).toNat % 65536 ≠ 0 ∧ slice (3 : Word) 63 2 = 0 ∧ slice (4 : Word) 63 2 ≠ 0 ∧
    slice (1 : Word) 63 1 = 0 ∧ slice (2 : Word) 63 1 ≠ 0 ∧ ({ ckpt 0x20 .saved #v[0, 0, 0, 0] with regions := [{ lineRegion 0 dramBase with st := 1 }] } : State).ctxRegions 0 = true ∧
    ({ ckpt 0x20 .saved #v[0, 0, 0, 0] with regions := [{ lineRegion 0 dramBase with st := 1 }] } : State).atPeace 0 = true ∧
    (ckpt 0x20 .saved #v[0, 0, 0, 0]).atPeace 0 = true ∧ (ckpt 0x20 .saved #v[0, 0, 0, 0]).ctxRegions 0 = false := by decide +kernel
/-- CKLOAD of an image of 64 bytes of host memory, at virtual 0x40000000, which is no manifest. -/
def hostWords : List (Nat × Nat) := [(0x201008, hostBase + 0xDF)]
def cload : Card := card 0x21 3 .running #v[0x40000000, 64, 0x60000, 0]
def jload : State :=
  let s := job cload hostWords
  { s with ctxs := [(0, { ctx0 with st := .loading })], plat := { s.plat with hwin := Vector.replicate 8 (BitVec.ofNat 64 (hostBase + 1)) } }
theorem hyp_CheckpointJobs_load : ∃ (s : State) (c : Card) (x : Context) (b : List Byte) (ts : Nat) (s1 : State), s.card 0 0 = some c ∧ c.st = .running ∧ c.op = 0x21 ∧ s.ctx? c.ctx = some x ∧
    x.st = .loading ∧ slice c.args[3] 63 2 = 0 ∧ c.args[2].toNat % 8 = 0 ∧ c.args[0].toNat % 65536 = 0 ∧ c.args[1].toNat = 64 ∧
    s.hostRange (s.ctxEnv 0 c.ctx) c.user .read 0 c.args[0].toNat 64 (64 / 4096 + 2) = none ∧ JobReads s 0 c c.args[0].toNat 64 b ts s1 ∧ manifestOf b = none := by
  have h : isOk (jr jload cload 0x40000000 64) = true ∧ manifestOf (jr1 jload cload 0x40000000 64).1 = none := by unfold manifestOf; decide +kernel
  exact ⟨jload, cload, { ctx0 with st := .loading }, _, _, _, rfl, rfl, rfl, rfl, rfl, by decide, by decide, by decide, by decide, by decide +kernel, reads_of h.1, h.2⟩
/-- An operation of the codec of die 0 on the region at 0x40010000, with CFG and LEN as appended. -/
def cst (op : Nat) : Card := card op 0 .ready #v[0x40010000, 0x50000, 0x4000000F00, 200]
def jst (op stat : Nat) : State := job (cst op) (stWords stat)
def bare (o : Option StashHeader) : Bool := o.isNone
theorem hyp_CodecJobs_gone : ∀ op : Nat, op = 0x100 ∨ op = 0x101 → (job (cst op) []).card 0 0 = some (cst op) ∧ (cst op).st = .ready ∧ (cst op).op = op ∧
    (job (cst op) []).stashStart 0 ((job (cst op) []).ctxEnv 0 0) (cst op) = none := by
  have h : ((job (cst 0x100) []).stashStart 0 ((job (cst 0x100) []).ctxEnv 0 0) (cst 0x100)).isNone = true ∧
    ((job (cst 0x101) []).stashStart 0 ((job (cst 0x101) []).ctxEnv 0 0) (cst 0x101)).isNone = true := by decide +kernel
  rintro op (rfl | rfl)
  · exact ⟨rfl, rfl, rfl, Option.isNone_iff_eq_none.mp h.1⟩
  · exact ⟨rfl, rfl, rfl, Option.isNone_iff_eq_none.mp h.2⟩
def js (op stat : Nat) := (jst op stat).stashStart 0 ((jst op stat).ctxEnv 0 0) (cst op)
def js1 (op stat : Nat) : StashHeader := (js op stat).getD ⟨0, 0, 0, 0, ⟨.f32, 0, 0, 0, 0, 0⟩⟩
theorem start_of {op stat : Nat} (h : (js op stat).isSome = true) : (jst op stat).stashStart 0 ((jst op stat).ctxEnv 0 0) (cst op) = some (js1 op stat) := by
  obtain ⟨y, hy⟩ := Option.isSome_iff_exists.mp h
  unfold js1
  rw [hy]
  exact hy
def sr (stat : Nat) : StashRun := stashBlocks ((jst 0x100 stat).ctxEnv 0 0) (js1 0x100 stat).shape (cst 0x100) (js1 0x100 stat).shape.blocks 0 ⟨none, 0, 0, (js1 0x100 stat).stat, 0, jst 0x100 stat⟩
def rr (stat : Nat) : StashRun := restoreBlocks ((jst 0x101 stat).ctxEnv 0 0) (js1 0x101 stat).shape (cst 0x101) (js1 0x101 stat).shape.blocks 0 ⟨none, 0, 0, (js1 0x101 stat).stat, 0, jst 0x101 stat⟩
theorem codec_ok : (js 0x100 0).isSome = true ∧ (sr 0).fail = none ∧ (js 0x101 (2 ^ 32)).isSome = true ∧ (js1 0x101 (2 ^ 32)).stat.testBit 33 = false ∧ (rr (2 ^ 32)).fail = none := by decide +kernel
theorem torn_ok : (js 0x101 (2 ^ 33)).isSome = true ∧ (js1 0x101 (2 ^ 33)).stat.testBit 33 = true := by decide +kernel
theorem hyp_CodecJobs_stash : ∃ h r, (jst 0x100 0).stashStart 0 ((jst 0x100 0).ctxEnv 0 0) (cst 0x100) = some h ∧
    r = stashBlocks ((jst 0x100 0).ctxEnv 0 0) h.shape (cst 0x100) h.shape.blocks 0 ⟨none, 0, 0, h.stat, 0, jst 0x100 0⟩ ∧ r.fail = none :=
  ⟨_, sr 0, start_of codec_ok.1, rfl, codec_ok.2.1⟩
theorem restore_of {stat : Nat} (h : (js 0x101 stat).isSome = true) (g : (js1 0x101 stat).stat.testBit 33 = false) (f : (rr stat).fail = none) : ∃ h r,
    (jst 0x101 stat).stashStart 0 ((jst 0x101 stat).ctxEnv 0 0) (cst 0x101) = some h ∧ h.stat.testBit 33 = false ∧
    r = restoreBlocks ((jst 0x101 stat).ctxEnv 0 0) h.shape (cst 0x101) h.shape.blocks 0 ⟨none, 0, 0, h.stat, 0, jst 0x101 stat⟩ ∧ r.fail = none :=
  ⟨_, rr stat, start_of h, g, rfl, f⟩
theorem hyp_CodecJobs_restore : ∃ stat h r, (jst 0x101 stat).stashStart 0 ((jst 0x101 stat).ctxEnv 0 0) (cst 0x101) = some h ∧ h.stat.testBit 33 = false ∧
    r = restoreBlocks ((jst 0x101 stat).ctxEnv 0 0) h.shape (cst 0x101) h.shape.blocks 0 ⟨none, 0, 0, h.stat, 0, jst 0x101 stat⟩ ∧ r.fail = none :=
  ⟨2 ^ 32, restore_of codec_ok.2.2.1 codec_ok.2.2.2.1 codec_ok.2.2.2.2⟩
theorem hyp_CodecJobs_torn : ∃ h, (jst 0x101 (2 ^ 33)).stashStart 0 ((jst 0x101 (2 ^ 33)).ctxEnv 0 0) (cst 0x101) = some h ∧ h.stat.testBit 33 = true :=
  ⟨_, start_of torn_ok.1, torn_ok.2⟩

/-! ### Launches, groups and pre-emption -/

/-- A record of one level at 0x70000 with domain `dom`: 2 groups of 16 bytes, code at 0x1000, a template at 0x71000 with channel 0 at offset `off`. -/
def rec1 (dom off : Nat) : List (Nat × Nat) :=
  [(0x70000, 0x1000), (0x70008, 8), (0x70010, 0x71000), (0x70018, 16 + 16 * 2 ^ 12), (0x70020, 2), (0x70040, 2 * 2 ^ 32 + 3 * 16 + dom), (0x71000, 1 + 2 ^ 48), (0x71008, off * 2 ^ 32)]
def claunch (st : CardState) (va : Word) (l : Option Launch) : Card := { card 0x80 0 st #v[va, 0, 0, 0] with launch := l }
def jl (dom off : Nat) (va : Word) : State := job (claunch .ready va none) (rec1 dom off)
def lr1' (s : State) (va : Nat) : Record × Nat × State := (s.readRecord 0 0 va 0).getD (⟨0, 0, 0, 0, 0, 0, 0, 0, []⟩, 0, s)
def lt1' (s : State) (va : Nat) : List Word × Nat × State := ((lr1' s va).2.2.readTemplate 0 0 (lr1' s va).1.tmpl (lr1' s va).2.1).getD ([], 0, s)
theorem some_getD {α : Type} {o : Option α} (d : α) (h : o.isSome = true) : o = some (o.getD d) := by cases o <;> simp_all
/-- What a deal reads. -/
def DealReads (s : State) (va : Nat) : Prop := (s.readRecord 0 0 va 0).isSome = true ∧
  ((lr1' s va).2.2.readTemplate 0 0 (lr1' s va).1.tmpl (lr1' s va).2.1).isSome = true ∧ (lr1' s va).1.levels.length = 1
theorem deal_of {s : State} {va : Nat} (h : DealReads s va) : ∃ r p s1 t q s2 l, s.readRecord 0 0 va 0 = some (r, p, s1) ∧
    s1.readTemplate 0 0 r.tmpl p = some (t, q, s2) ∧ r.levels = [l] ∧ r = (lr1' s va).1 ∧ t = (lt1' s va).1 ∧ s2 = (lt1' s va).2.2 := by
  obtain ⟨l, hl⟩ := List.length_eq_one_iff.mp h.2.2
  exact ⟨_, _, (lr1' s va).2.2, _, _, _, l, some_getD (⟨0, 0, 0, 0, 0, 0, 0, 0, []⟩, 0, s) h.1, some_getD ([], 0, s) h.2.1, hl, rfl, rfl, rfl⟩
theorem deal_ok : DealReads (jl 4 4 0x70000) 0x70000 ∧ DealReads (jl 4 8 0x70000) 0x70000 := by unfold DealReads; decide +kernel
theorem hyp_LaunchEvents_deal : ∀ off : Nat, off = 4 ∨ off = 8 → ∃ r p s1 t q s2 l, (jl 4 off 0x70000).readRecord 0 0 0x70000 0 = some (r, p, s1) ∧
    s1.readTemplate 0 0 r.tmpl p = some (t, q, s2) ∧ r.levels = [l] ∧
    r = (lr1' (jl 4 off 0x70000) 0x70000).1 ∧ t = (lt1' (jl 4 off 0x70000) 0x70000).1 ∧ s2 = (lt1' (jl 4 off 0x70000) 0x70000).2.2 := by
  rintro off (rfl | rfl)
  · exact deal_of deal_ok.1
  · exact deal_of deal_ok.2
theorem hyp_LaunchEvents_serves : (jl 4 4 0x70000).card 0 0 = some (claunch .ready 0x70000 none) ∧ (jl 4 4 0x70000).serves 0 0 0x80 = true ∧
    (jl 4 4 0x70000).checkpointAllows (claunch .ready 0x70000 none) = true := by refine ⟨rfl, ?_⟩; decide +kernel
/-- A launch whose record names templates that no page holds. -/
def jt : State := job (claunch .ready 0x70000 none) (rec1 4 4 ++ [(0x70010, 0x50000000)])
/-- A good template, one whose offset is beyond the code, and a level that its scope does not cover. -/
theorem hyp_LaunchEvents_templates : templateOk (lr1' (jl 4 4 0x70000) 0x70000).1.clen (lt1' (jl 4 4 0x70000) 0x70000).1 = true ∧
    templateOk (lr1' (jl 4 8 0x70000) 0x70000).1.clen (lt1' (jl 4 8 0x70000) 0x70000).1 = false ∧
    ((jl 4 4 0x70000).readRecord 0 0 0x50000000 0).isNone = true ∧
    ((lr1' jt 0x70000).2.2.readTemplate 0 0 (lr1' jt 0x70000).1.tmpl (lr1' jt 0x70000).2.1).isNone = true ∧ (0x70001 : Word).toNat % 64 ≠ 0 := by decide +kernel
theorem hyp_LaunchEvents_domain : ∃ x, (lt1' (jl 1 4 0x70000) 0x70000).2.2.level0 0 1 = some x ∧
    ((lr1' (jl 1 4 0x70000) 0x70000).1.levels.map fun l => l.level.domain) = [1] ∧ (lt1' (jl 1 4 0x70000) 0x70000).2.2.recordStatus 0x70000 (lr1' (jl 1 4 0x70000) 0x70000).1 (some x) = 0 := ⟨(0, 576), by decide +kernel⟩
def run1 (retired : Nat) : Launch := { st := .running, code := 0x1000, spb := 16, gang := 1, pin := false, groupn := 2, image := [], arg := 7, levels := [], tmpl := [(0, 3, 4)], retired := retired }
theorem hyp_LaunchEvents_complete : (run1 2).retired = (run1 2).groupn ∧ (run1 1).retired < (run1 1).groupn ∧
    (job (claunch .running 0x70000 (some (run1 2))) []).settledCtx 0 = true := by decide +kernel
/-- A group of a launch dealt to core 0, which its context holds. -/
def dealt1 (core : Option Nat) : Dealt := { die := 0, card := 0, ord := 0, ix := 1, cluster := 0, core := core, levelix := 1, bar := 0, pushed := false, dom := (0, 576), since := 0, ctx := 0 }
def kfree : Core := { kw [] with act := none }
def placing (l : List Dealt) (gang : Nat) (k : Core) : State :=
  let s := (job (claunch .running 0x70000 (some { run1 0 with gang := gang })) []).setCore 0 k
  { s.modDie 0 fun d => { d with dealt := l } with cycle := 2 ^ 40 }
theorem hyp_LaunchEvents_placement : (placing [dealt1 (some 0)] 1 kfree).freeCore 0 = true ∧ (placing [dealt1 (some 0)] 1 kfree).gangAt 0 = none ∧
    (placing [dealt1 (some 0)] 1 kfree).heldByRunner 0 = true ∧ (placing [dealt1 (some 0)] 1 kfree).inReserve 0 = false ∧ ((placing [dealt1 (some 0)] 1 kfree).core 0).saved = [] ∧
    (placing [dealt1 (some 0)] 1 kfree).nextEntry 0 0 = some (dealt1 (some 0)) ∧
    (placing [dealt1 (some 0)] 1 kfree).launchOf 0 0 = some (claunch .running 0x70000 (some { run1 0 with gang := 1 }), { run1 0 with gang := 1 }) ∧
    (placing [] 1 kfree).nextEntry 0 0 = none := by decide +kernel
theorem hyp_LaunchEvents_gang : ∃ a, ((placing [dealt1 none] 36 kfree).die 0).reserve = none ∧ (placing [dealt1 none] 36 kfree).dueGang 0 = some (dealt1 none) ∧
    (placing [dealt1 none] 36 kfree).bayFor (dealt1 none) 36 = some a ∧ (placing [] 36 kfree).dueGang 0 = none := ⟨0, by decide +kernel⟩
theorem hyp_LaunchEvents_balance : ({ Die.reset with balthr := 0 } : Die).balthr = 0 := rfl
def kgroup : Core := { kfree with group := some ⟨0, 0, 1, 0, 1, 0⟩, sliceEnd := 100, owned := true }
theorem hyp_LaunchEvents_preempt : slice (0x00000000 : Word) 63 32 = 0 ∧ slice (0 : Word) 15 12 = 0 ∧ (placing [] 1 kgroup).physical (slice (0 : Word) 11 0) = some 0 ∧ dieOf 0 = 0 ∧
    ((placing [] 1 kgroup).core 0).group = some ⟨0, 0, 1, 0, 1, 0⟩ ∧ ((placing [] 1 kgroup).core 0).preempt = .none := by decide +kernel
/-- A slice that has ended: none waits, and context 1 waits with a group, for a core with a group and for a free one. -/
def expiry (k : Core) (wait : Bool) : State :=
  { placing (if wait then [{ dealt1 (some 5) with ctx := 1 }] else []) 1 k with ctxs := [(0, ctx0), (1, ctx0)] }
def sliced (k : Core) : Core := { k with sliceEnd := 100, sv := { k.sv with slice := 7 } }
theorem hyp_LaunchEvents_slice : ((expiry (sliced kgroup) false).core 0).owned = true ∧ ((expiry (sliced kgroup) false).core 0).sv.slice ≠ 0 ∧
    ((expiry (sliced kgroup) false).core 0).sliceEnd ≠ 0 ∧ ((expiry (sliced kgroup) false).core 0).sliceEnd ≤ (expiry (sliced kgroup) false).cycle ∧
    ((expiry (sliced kgroup) false).core 0).preempt = .none ∧ (expiry (sliced kgroup) false).nextCtx 0 = none ∧ (expiry (sliced kgroup) true).nextCtx 0 = some 1 ∧
    ((expiry (sliced kgroup) true).core 0).group = some ⟨0, 0, 1, 0, 1, 0⟩ ∧ (expiry (sliced kfree) true).nextCtx 0 = some 1 ∧
    (expiry (sliced kfree) true).freeCore 0 = true ∧ (st (kx [])).cycle < (sliced kfree).sliceEnd ∧ kgroup.sv.slice = 0 := by decide +kernel
theorem hyp_LaunchEvents_boundary : ∃ k : Core, k.preempt = .requested ∧ k.atBoundary = true := ⟨{ kgroup with preempt := .requested }, rfl, by decide +kernel⟩

/-! ### Hints, illegal words, steps and frames -/

theorem hyp_HintsAndIllegalWords : HintOf (.himm 5) (.himm 5) ∧ HintOf (.hmod .na) (.hmod .na) ∧ HintOf (.realign 31) (.realign 31) ∧
    (∃ k : Core, k.hart.hint = some ⟨0xFFC, .resume, 2⟩) ∧ (∀ a n, (kx []).hart.hint ≠ some ⟨a, .resume, n⟩) :=
  ⟨.inl ⟨5, rfl, rfl⟩, .inr (.inl ⟨.na, rfl, rfl⟩), .inr (.inr (.inr ⟨31, rfl, rfl⟩)), ⟨{ kx [] with s0 := { (kx []).s0 with hint := some ⟨0xFFC, .resume, 2⟩ } }, rfl⟩,
    fun _ _ h => by cases h⟩
/-- ADD x3, x1, x2 after REP of 64 that steps x2 by 1. -/
theorem hyp_HintsAndIllegalWords_rep : ∃ (h : Hart) (i q : Instr), h.hint = some ⟨0xFFC, .rep 2 0 0 1, 1⟩ ∧ decodeNat 0x04611000 = some i ∧ repTakes 0x04611000 = true ∧
    stepsOk 0x04611000 0 0 1 2 = true ∧ stepInstr 0x04611000 1 0 0 1 = some q ∧ 0 + 1 < 2 ∧ 2 ≤ 1 + 1 := by
  have a : (decodeNat 0x04611000).isSome = true ∧ (stepInstr 0x04611000 1 0 0 1).isSome = true ∧ repTakes 0x04611000 = true ∧ stepsOk 0x04611000 0 0 1 2 = true := by decide +kernel
  exact ⟨{ Hart.reset with hint := some ⟨0xFFC, .rep 2 0 0 1, 1⟩ }, _, _, rfl, Option.some_get a.1 |>.symm, a.2.2.1, a.2.2.2, Option.some_get a.2.1 |>.symm, by decide, by decide⟩
/-- Core 0 runs at 0x10000 of its page, where the word ADD x3, x1, x2 stands. -/
def runs (agenda : List Turn) : State :=
  { st { kx [] with act := some ⟨5, 0, true⟩, tlb := [page0], s0 := { (kx []).s0 with pc := 0x10000 } } with
    mem := putBytes [] 0x4000000000 4 0x04611000
    agenda := agenda
    dies := (Vector.replicate 2 Die.reset).set 0 { Die.reset with frames := [(0, .mapped 0)] } }
/-- The state of a turn of core 0. -/
def turned (agenda : List Turn) (cycles : Nat) : State := { runs [] with agenda := agenda }.pass cycles
theorem runs_may : ((runs []).pass 1).mayIssue 0 = true ∧ ((runs []).pass 1).crew 0 = [0] ∧ (((runs []).pass 1).core 0).tlbFind 0x10000 = some page0 ∧
    ((runs []).pass 1).hitOk (((runs []).pass 1).core 0) .fetch page0 0x10000 = true ∧ ((runs []).pass 1).bytes (page0.pa 0x10000) 4 = 0x04611000 ∧
    (decodeNat 0x04611000).isSome = true ∧ (((runs []).pass 1).core 0).hart.hint = none ∧ (((runs []).pass 1).core 0).hart.pc = 0x10000 := by decide +kernel
theorem runs_fetch : FetchesWord ((runs []).pass 1) 0x04611000 ((runs []).pass 1) := by
  obtain ⟨_, _, h3, h4, h5, _, _, h8⟩ := runs_may
  have c : ((runs []).pass 1).cur = 0 := rfl
  have n : ∀ a v k, (((runs []).pass 1).core 0).pending ≠ .walked a v k := fun _ _ _ => nofun
  refine ⟨page0, ⟨?_, ?_, tlb_hit ?_, ?_, ?_⟩, ?_⟩
  · rw [c]; exact n
  · rw [c, h8]; decide
  · rw [c, h8]; exact h3
  · rw [c, h8]; exact h4
  · exact fun h => by simp at h
  · rw [c, h8]; exact h5.symm
theorem hyp_StepRunsDecoded : ∃ (s u v : State) (i : Instr), s.agenda = [] ∧ u = s.pass 1 ∧ u.mayIssue u.cur = true ∧ u.crew u.cur = [u.cur] ∧
    FetchesWord u 0x04611000 v ∧ (v.core u.cur).hart.hint = none ∧ decodeNat 0x04611000 = some i ∧ decodeNat 0 = none :=
  ⟨runs [], _, _, _, rfl, rfl, runs_may.1, runs_may.2.1, runs_fetch, runs_may.2.2.2.2.2.2.1, Option.some_get runs_may.2.2.2.2.2.1 |>.symm, by decide +kernel⟩
theorem turn_may : (runs [⟨1, .issue 0⟩]).agenda = [⟨1, .issue 0⟩] ∧ { { runs [⟨1, .issue 0⟩] with agenda := [] }.pass 1 with cur := 0 } = (runs []).pass 1 ∧
    ((runs []).pass 1).holdsAt 0 = false ∧ isEventRow .deviceReset = true ∧ State.reset.agenda = [] ∧ (State.reset.pass 1).mayIssue State.reset.cur = false ∧
    (State.reset.pass 1).crew State.reset.cur = [State.reset.cur] := ⟨rfl, rfl, by decide +kernel⟩
/-- Core 1 has joined core 0, and either runs or has still to end an instruction of core 0. -/
def convoy (issued : Nat) : State :=
  let k := { kx [] with act := some ⟨5, 0, true⟩, tlb := [page0], s0 := { (kx []).s0 with pc := 0x10000 } }
  { (st { k with issued := issued }).setCore 1 { k with follow := .joined 0 0 } with
    mem := putBytes [] 0x4000000000 4 0x04611000
    agenda := [⟨1, .issue 0⟩]
    dies := (Vector.replicate 2 Die.reset).set 0 { Die.reset with frames := [(0, .mapped 0)] } }
def gathered (n : Nat) : State := { convoy n with agenda := [] }.pass 1
theorem hyp_StepRunsDecoded_crew : (convoy 0).agenda = [⟨1, .issue 0⟩] ∧ ((gathered 0).core 0).onSys = false ∧ (gathered 0).late 0 = false ∧ (gathered 0).crew 0 = [0, 1] ∧
    (gathered 0).alone 0 = true ∧ (∀ m ∈ (gathered 0).crew 0, (gathered 0).mayRun m = true ∧ (gathered 0).late m = false) ∧
    ((gathered 0).crewAll ((gathered 0).crew 0)).2 = [] ∧ ((gathered 0).core 1).follow = .joined 0 0 := by decide +kernel
theorem hyp_StepRunsDecoded_alone : ((gathered 0).core 1).onSys = false ∧ (gathered 0).late 1 = false ∧ (gathered 0).crew 1 = [1] ∧ (gathered 0).alone 1 = false := by decide +kernel
theorem hyp_DecodeEncode : ∃ i w, Instr.wf i = true ∧ encode i = some w ∧ w < 2 ^ 32 ∧ decodeNat w = some i := ⟨.add 3 1 2, 0x04611000, by decide +kernel⟩
/-- The outcome is a next state. -/
def goes (o : Host.Outcome State Fault Refusal) : Bool := match o with
  | .next _ => true
  | _ => false
theorem goes_next {o : Host.Outcome State Fault Refusal} (h : goes o = true) : ∃ t, o = .next t := by cases o <;> simp_all [goes]
theorem sorted_st (k : Core) : CoresSorted (st k) := by simp [CoresSorted, st, State.setCore, State.reset, insertK]
theorem hyp_RegisterFrames : CoresSorted (st (kx [(6, 8), (9, 3)])) ∧ (∀ p ∈ twoSourceTable, goes (exec (p.1 3 6 9) (st (kx [(6, 8), (9, 3)]))) = true) ∧
    (∀ p ∈ oneSourceTable, goes (exec (p.1 3 6) (st (kx [(6, 8)]))) = true) ∧ goes (exec (.sel 3 6 9 0) (st (kx [(6, 8)]))) = true ∧
    (∀ p ∈ immediateTable, goes (exec (p.1 3 6 1) (st (kx [(6, 8)]))) = true) ∧ (∀ p ∈ shiftTable, goes (exec (p.1 3 6 1) (st (kx [(6, 8)]))) = true) ∧
    goes (exec (.lui 3 1) (st (kx []))) = true ∧ (∀ p ∈ branchTable, goes (exec (p.1 6 9 1) (st (kx [(6, 8)]))) = true) ∧ goes (exec (.jal 1) (st (kx []))) = true ∧
    goes (exec (.jalr 3 6 0) (st (kx [(6, 8)]))) = true := by
  refine ⟨sorted_st _, ?_⟩; decide +kernel
theorem hyp_RegisterFrames_floats : (∀ p ∈ fpBinTable, goes (exec (p.1 1 2 3 .f32) (st (kx []))) = true) ∧ (∀ p ∈ fpCmpTable, goes (exec (p.1 1 2 3 .f32) (st (kx []))) = true) ∧
    (∀ p ∈ signTable, goes (exec (p.1 1 2 3 .f32) (st (kx []))) = true) ∧ (∀ p ∈ fusedTable, goes (exec (p.1 1 2 3 4) (st (kx []))) = true) := by decide +kernel
theorem hyp_RegisterFrames_vectors : (∀ p ∈ laneBinTable, goes (exec (p.1 1 2 3 .i64) (st (kx []))) = true) ∧ (∀ p ∈ laneUnTable, goes (exec (p.1 1 2 .f32) (st (kx []))) = true) ∧
    (∀ p ∈ laneTriTable, goes (exec (p.1 1 2 3 4) (st (kx []))) = true) ∧ (∀ p ∈ reduceTable, goes (exec (p.1 1 2 .i64) (st (kx []))) = true) := by decide +kernel
theorem hyp_MemoryFrames : CoresSorted (sm true) ∧ (∀ e, Held true e → (sm true).xHolder (page0.pa e.toNat / 64) = some (0, line0 true) → page0.pa e.toNat % 4096 = e.toNat % 4096 →
    ∀ acc n, acc ≠ .fetch → OwnsAt (sm true) acc e n (page0.pa e.toNat) (line0 true)) ∧ (sm true).xHolder (page0.pa (0x10038 : Word).toNat / 64) = some (0, line0 true) ∧
    page0.pa (0x10038 : Word).toNat % 4096 = (0x10038 : Word).toNat % 4096 ∧ Held true 0x10038 :=
  ⟨sorted_st _, fun e h x m acc n ha => ⟨page0, _, sm_owns ha n h, rfl, m, x⟩, by decide +kernel, by decide, held_last true⟩
theorem hyp_EveryStepKeepsTheInvariant : Inv State.reset ∧ ∃ t, step State.reset = .next t := by
  refine ⟨⟨?_, ?_⟩, goes_next (by decide +kernel)⟩
  · rfl
  · simp [CoresSorted, State.reset]

/-! ### Saves and restores: the save area of 401,408 bytes is read and written, by induction over its words -/

/-- A state that has of `s` the cores, the settings, and the memory from the page tables up, with nothing in flight. -/
structure Quiet (s t : State) : Prop where
  mem : ∀ a, 0x4000200000 ≤ a → cellGet t.mem a = cellGet s.mem a
  dies : t.dies = s.dies
  plat : t.plat = s.plat
  tables : t.tables = s.tables
  cores : t.cores = s.cores
  ctxs : t.ctxs = s.ctxs
  reqs : t.reqs = []
  reps : t.reps = []
  watches : t.watches = []
  regions : t.regions = []
/-- Such a state in which no line has a timestamp above `n`, and of no more lines. -/
structure Calm (s t : State) (n : Nat) : Prop extends Quiet s t where
  floors : t.floors = []
  times : ∀ k v, lookupK t.lines k = some v → v.1 ≤ n ∧ v.2 ≤ n
  few : t.lines.length ≤ n
/-- A core that a context holds, with a group in saving, and with a saved group. -/
def far : Context := { ctx0 with spillq := 0x1000000000000 }
def ksave : Core := { kgroup with preempt := .saving none, sv := { kgroup.sv with spillq := 0x1000000000000, slice := 1 } }
def krest : Core := { kfree with sv := { kfree.sv with spillq := 0x1000000000000 }, saved := [⟨⟨0, 0, 1, 0, 1, 0⟩, 0, 0x20000, none, 0, none, false, Vector.replicate 8 0, [], []⟩] }
def area (k : Core) : State := { world k [] with ctxs := [(0, far)] }
/-- The translation environment of those cores. -/
def far0 : TEnv := { die := 0, ctx := 0, ptbase := 0x4000200000, hometab := 0x4000202000, protomask := 1 }
theorem word_same {s t : State} {a : Nat} (h : Quiet s t) (r : s.reqs = []) (g : 0x4000200000 ≤ a) : t.word a = s.word a := by
  have p : ∀ b, 0x4000200000 ≤ b → t.byte b = s.byte b := by
    intro b hb
    simp only [State.byte, State.xHolder, State.onWay, h.cores, h.reqs, r, h.mem b hb, List.findSome?_nil]
  have e : ∀ m b, 0x4000200000 ≤ b → t.bytes b m = s.bytes b m := by
    intro m
    induction m with
    | zero => intro b _; rfl
    | succ m ih => intro b hb; simp only [State.bytes, ih b hb, p (b + m) (by omega)]
  simp only [State.word, e 8 a g]
theorem physical_same {s t : State} (h : Quiet s t) (z : s.plat.l2pbase = 0) : t.physical 0 = s.physical 0 := by
  have e : ∀ c, t.enabled c = s.enabled c := fun c => by simp only [State.enabled, State.harvestWord, h.plat, z, if_true]
  simp only [State.physical, h.plat, z, if_true, nth_same e]
/-- What the tables of such a state hold. -/
structure Tables (s : State) : Prop where
  reqs : s.reqs = []
  map : s.plat.l2pbase = 0
  cel : s.plat.celcap = 0
  ctxs : s.ctxs = [(0, far)]
  root : s.word 0x4000200000 = 0x4000201001
  leaf : s.word 0x4000201000 = 0x40000000DF
  home : s.word 0x4000202000 = 0x8000000000000000
  mask : s.word 0x4000202008 = 0
  core : s.physical 0 = some 0
  noX : ∀ l, s.xHolder l = none
  frames : (lookupK (s.die 0).frames 0).getD .unmapped = .mapped 0 ∧ (lookupK (s.die 0).frames 1).getD .unmapped = .mapped 0
/-- The leaf of the page, with the two entries that lead to it. -/
def leaf0 : Leaf := { level := 2, word := 0x40000000DF, addr := 0x4000201000, reads := [0x4000200000, 0x4000201000], ptrs := [(2, 0x4000201000)] }
theorem leaf_calm {s t : State} {va : Nat} (h : Quiet s t) (b : Tables s) (g : va < 0x200000) :
    t.findLeaf 0 va 3 0x4000200000 = some leaf0 := by
  have i3 : bitsOf va (pageBits 3) 9 = 0 := by unfold bitsOf pageBits; omega
  have i2 : bitsOf va (pageBits 2) 9 = 0 := by unfold bitsOf pageBits; omega
  have w1 : t.word 0x4000200000 = 0x4000201001 := (word_same h b.reqs (by decide)).trans b.root
  have w2 : t.word 0x4000201000 = 0x40000000DF := (word_same h b.reqs (by decide)).trans b.leaf
  have d1 : inDram 0x4000200000 = true ∧ inDram 0x4000201000 = true ∧ leafV 0x4000201001 = true ∧ isLeaf 0x4000201001 = false ∧ pointerOk 0x4000201001 = true ∧
      leafPpn 0x4000201001 * 4096 = 0x4000201000 ∧ leafV 0x40000000DF = true ∧ isLeaf 0x40000000DF = true ∧ leafOk 2 0x40000000DF = true := by decide +kernel
  obtain ⟨e1, e2, e3, e4, e5, e6, e7, e8, e9⟩ := d1
  simp only [State.findLeaf, State.entryReadable, Bool.true_or, i3, i2, Nat.mul_zero, Nat.add_zero, e1, w1, e3, e4, e5, e6, e2, w2, e7, e8, e9, if_true, Bool.not_true, Bool.false_eq_true, if_false, Option.map_some, leaf0]
theorem frame_calm {s t : State} {va : Nat} (h : Quiet s t) (b : Tables s) (g : va < 0x400000) : t.frame (0x4000000000 + va) = .mapped 0 := by
  have d : dramDie (0x4000000000 + va) = 0 := by unfold dramDie dramBase dramSize; omega
  have f : frameIx (0x4000000000 + va) = 0 ∨ frameIx (0x4000000000 + va) = 1 := by unfold frameIx dramBase dramSize; omega
  have e : t.die 0 = s.die 0 := by simp only [State.die, h.dies]
  unfold State.frame
  rw [d, e]
  rcases f with f | f <;> rw [f]
  · exact b.frames.1
  · exact b.frames.2
/-- The translation of an address of the page. -/
def wide (va : Nat) : TlbEntry := { ctx := 0, page := va / 2 ^ 30, bits := 30, leaf := 0x40000000DF, base := 0, mask := 0 }
theorem home_calm {s t : State} {va : Nat} (h : Quiet s t) (b : Tables s) (g : va < 0x200000) :
    t.homeEntry 0 0x4000202000 0x40000000DF (0x4000000000 + va) = some (0, 0) := by
  have w1 : t.word 0x4000202000 = 0x8000000000000000 := (word_same h b.reqs (by decide)).trans b.home
  have w2 : t.word 0x4000202008 = 0 := (word_same h b.reqs (by decide)).trans b.mask
  have d : dramDie (0x4000000000 + va) = 0 := by unfold dramDie dramBase dramSize; omega
  have f : t.frame 0x4000202000 = .mapped 0 := frame_calm (va := 0x202000) h b (by decide)
  have o : t.onDie 0 0 = true := by simp only [State.onDie, physical_same h b.map, b.core]; decide
  have c : leafHomeIx 0x40000000DF = 0 ∧ leafHmode 0x40000000DF = false ∧ inDram 0x4000202000 = true ∧ bitAt 0x8000000000000000 63 = true ∧
    slice 0x8000000000000000 62 12 = 0 ∧ slice 0x8000000000000000 11 0 = 0 := by decide +kernel
  obtain ⟨c1, c2, c3, c4, c5, c6⟩ := c
  have a : homeEntryAt 0x4000202000 0x40000000DF = 0x4000202000 := by decide +kernel
  unfold State.homeEntry
  simp only [a, f, c3, w1, w2, c4, c5, c6, c2, d, o]
  rfl
theorem walk_calm {s t : State} {va : Nat} (h : Quiet s t) (b : Tables s) (g : va < 0x200000) {acc : Acc} (ha : acc = .read ∨ acc = .write) :
    t.walk far0 false acc .none va = .ok (wide va, leaf0) := by
  have p : leafPpn 0x40000000DF * 4096 + va % 2 ^ 30 = 0x4000000000 + va := by
    have q : leafPpn 0x40000000DF * 4096 = 0x4000000000 := by decide +kernel
    have m : va % 2 ^ 30 = va := Nat.mod_eq_of_lt (Nat.lt_trans g (by decide))
    rw [q, m]
  have r : paRegion (0x4000000000 + va) = some (.dram 0) := by
    unfold paRegion dramBase dramSize; rw [if_neg (by omega), if_pos (by omega)]
  have i : inDram (0x4000000000 + va) = true := by unfold inDram dramBase dramSize; simp only [Bool.and_eq_true, decide_eq_true_eq]; omega
  have l : leafAllows false acc .none 0x40000000DF = true := by rcases ha with rfl | rfl <;> decide +kernel
  have o : t.protoOk far0 0x40000000DF = true := by
    have q : bitAt far0.protomask (leafProto 0x40000000DF) = true ∧ leafProto 0x40000000DF = 0 := by decide +kernel
    unfold State.protoOk
    simp only [q.2]
    rfl
  have v : ¬ 2 ^ 48 ≤ va := by omega
  have z : far0.ptbase.toNat = 0x4000200000 ∧ far0.ctx = 0 := by decide
  have f := frame_calm h b (va := va) (by omega)
  have m := home_calm h b g
  have x : t.beyondWindows 0 (0x4000000000 + va) = false := by unfold State.beyondWindows; rw [r]; rfl
  unfold State.walk
  rw [if_neg v, z.1, show far0.die = 0 from rfl, leaf_calm h b g]
  simp only [State.checkLeaf, State.frameOk, leaf0, pageBits, p, i, f, l, o, z.2, x, show far0.die = 0 from rfl, show far0.hometab = 0x4000202000 from rfl, m]
  rfl
theorem away_calm {s t : State} {l : Nat} (h : Quiet s t) (b : ∀ l, s.xHolder l = none) : t.away l = none := by
  have x : t.xHolder l = none := by simpa only [State.xHolder, h.cores] using b l
  simp only [State.away, x, h.reqs, h.reps, List.find?_nil, Option.map_none]
theorem settle_calm {s t : State} {a : Nat} (h : Quiet s t) (b : ∀ l, s.xHolder l = none) : t.settle a = t := by
  simp only [State.settle, away_calm h b]
theorem lineTs_calm {s t : State} {n : Nat} (h : Calm s t n) (home l : Nat) : (t.lineTs home l).1 ≤ n ∧ (t.lineTs home l).2 ≤ n := by
  unfold State.lineTs State.region?
  rw [h.regions, h.floors]
  cases e : lookupK t.lines (lineKey home l) with
  | none => exact ⟨Nat.zero_le _, Nat.zero_le _⟩
  | some v => exact h.times _ v e
theorem insertK_few {α : Type} (k : Nat) (v : α) : ∀ l : List (Nat × α), (insertK l k v).length ≤ l.length + 1
  | [] => Nat.le_refl _
  | (j, w) :: r => by
    unfold insertK
    split_ifs
    · exact Nat.le_refl _
    · simp
    · simpa using insertK_few k v r
theorem setTs_calm {s t : State} {n m a b : Nat} (h : Calm s t n) (home l : Nat) (w : n < m) (ha : a ≤ m) (hb : b ≤ m) : Calm s (t.setTs home l a b) m := by
  refine ⟨⟨h.mem, h.dies, h.plat, h.tables, h.cores, h.ctxs, h.reqs, h.reps, h.watches, h.regions⟩, h.floors, fun k v e => ?_, Nat.le_trans (insertK_few _ _ _) (Nat.le_trans (Nat.succ_le_succ h.few) w)⟩
  by_cases q : k = lineKey home l
  · subst q
    rw [show (t.setTs home l a b).lines = insertK t.lines (lineKey home l) (a, b) from rfl, lookupK_insertK_self, Option.some.injEq] at e
    exact e ▸ ⟨ha, hb⟩
  · rw [show (t.setTs home l a b).lines = insertK t.lines (lineKey home l) (a, b) from rfl, lookupK_insertK_ne _ _ q] at e
    exact ⟨Nat.le_trans (h.times k v e).1 (Nat.le_of_lt w), Nat.le_trans (h.times k v e).2 (Nat.le_of_lt w)⟩
theorem gain_near (t : State) (l : Nat) (w : Bool) : t.gain 0 l w = t := by
  unfold State.gain
  exact if_pos (by decide)
theorem ts_near (t : State) (l : Nat) : t.tsAt 0 l = t.lineTs 0 l := by
  unfold State.tsAt
  exact if_neg (by omega)
/-- A read at a home of such a state keeps it so. -/
theorem home_read_calm {s t : State} {n a p x : Nat} (h : Calm s t n) (b : ∀ l, s.xHolder l = none) (w : p ≤ n) (o : n < 2 ^ 63) :
    ∃ tau u, t.homeRead 0 a p none (some x) = (tau, u) ∧ tau ≤ n + 1 ∧ Calm s u (n + 1) := by
  have l := lineTs_calm h 0 (a / 64)
  have m := Nat.max_le.2 ⟨w, l.1⟩
  have x := Nat.max_le.2 ⟨l.2, m⟩
  refine ⟨_, _, ?_, Nat.le_succ_of_le m, setTs_calm h 0 (a / 64) (Nat.lt_succ_self n) (Nat.le_succ_of_le l.1) (Nat.le_succ_of_le x)⟩
  unfold State.homeRead
  rw [settle_calm h.toQuiet b, gain_near]
  dsimp only
  rw [ts_near]
  exact if_neg (by unfold tsLimit; omega)
theorem entry_home_calm {s t : State} {a : Nat} (h : Quiet s t) (b : ∀ l, s.xHolder l = none) (g : inDram a = true ∧ dramDie a = 0) : t.entryHome 0 a = 0 := by
  unfold State.entryHome
  simp only [g.1, g.2, away_calm h b, h.regions, List.find?_nil, Bool.not_true, Bool.false_eq_true, if_false, if_true]
theorem entries_calm {s : State} {x : Nat} (b : ∀ l, s.xHolder l = none) : ∀ (l : List Nat) (t : State) (p n : Nat), Calm s t n → p ≤ n → n + l.length < 2 ^ 63 →
    (∀ a ∈ l, inDram a = true ∧ dramDie a = 0) → ∃ tau u, t.readEntries 0 x p l = (tau, u) ∧ tau ≤ n + l.length ∧ Calm s u (n + l.length)
  | [], t, p, _, h, w, _, _ => ⟨p, t, rfl, w, h⟩
  | a :: l, t, p, n, h, w, o, g => by
    rw [List.length_cons, show n + (l.length + 1) = n + 1 + l.length from by omega] at o ⊢
    obtain ⟨q, u, e, hq, hu⟩ := home_read_calm (a := a) (x := x) h b w (by omega)
    have z := entry_home_calm h.toQuiet b (g a (by simp))
    obtain ⟨q2, u2, e2, h2, h3⟩ := entries_calm (x := x) b l u q (n + 1) hu hq o (fun x hx => g x (by simp [hx]))
    exact ⟨q2, u2, by simp only [State.readEntries, z, e, e2], h2, h3⟩
theorem touch_calm {s t : State} {va n : Nat} (h : Calm s t n) (b : Tables s) (g : va < 0x200000) (o : n + 3 < 2 ^ 63) {acc : Acc} (ha : acc = .read ∨ acc = .write) :
    ∃ q u, t.walkTouch far0 false acc .none va = .ok (wide va, q, u) ∧ q ≤ n + 3 ∧ Calm s u (n + 3) := by
  have w : leafTouched acc (wide va).leaf = leaf0.word := by rcases ha with rfl | rfl <;> (show leafTouched _ 0x40000000DF = 0x40000000DF) <;> decide +kernel
  have z : far0.ctx = 0 := rfl
  have l : entriesOf far0 (wide va) leaf0 = [0x4000200000, 0x4000201000, 0x4000202000] := by
    have q : inDram (leafPpn 0x40000000DF * 4096) = true ∧ homeEntryAt far0.hometab 0x40000000DF = 0x4000202000 := by decide +kernel
    unfold entriesOf
    simp only [show (wide va).leaf = 0x40000000DF from rfl, q.1, q.2, if_true]
    rfl
  obtain ⟨q, u, e, hq, hu⟩ := entries_calm (x := 0) b.noX (entriesOf far0 (wide va) leaf0) t 0 n h (Nat.zero_le _) (by rw [l]; exact o) (by rw [l]; decide +kernel)
  rw [l] at hq hu
  refine ⟨q, u, ?_, hq, hu⟩
  unfold State.walkTouch
  rw [walk_calm h.toQuiet b g ha]
  simp only [w, State.touchLeaf, if_true, show far0.die = 0 from rfl, z, e]
  rfl
theorem home_of (va : Nat) (g : va < 0x200000) : (wide va).pa va = 0x4000000000 + va ∧ (wide va).home 0 (0x4000000000 + va) = 0 := by
  have q : leafPpn 0x40000000DF * 4096 = 0x4000000000 ∧ leafHmode 0x40000000DF = false := by decide +kernel
  have m : va % 2 ^ 30 = va := Nat.mod_eq_of_lt (Nat.lt_trans g (by decide))
  refine ⟨?_, ?_⟩
  · show leafPpn 0x40000000DF * 4096 + va % 2 ^ 30 = _
    rw [q.1, m]
  · have i : inDram (0x4000000000 + va) = true := by unfold inDram dramBase dramSize; simp only [Bool.and_eq_true, decide_eq_true_eq]; omega
    show (if inDram (0x4000000000 + va) then homeOf (leafHmode 0x40000000DF) 0 0 (0x4000000000 + va) else 4096) = 0
    rw [i, q.2]; rfl
theorem read_calm {s t : State} {n va p : Nat} (h : Calm s t n) (b : Tables s) (g : va < 0x200000) (w : p ≤ n) (o : n + 4 < 2 ^ 63) :
    ∃ v tau u, t.vread far0 false .none va 8 p = .ok (v, tau, u) ∧ tau ≤ n + 4 ∧ Calm s u (n + 4) := by
  have q := home_of va g
  have d : ¬ 0x4000000000 + va < dramBase := by unfold dramBase; omega
  obtain ⟨r, u, e, hr, hu⟩ := touch_calm h b g (by omega) (.inl rfl)
  obtain ⟨tau, u2, e2, h2, h3⟩ := home_read_calm (a := 0x4000000000 + va) (x := far0.ctx) hu b.noX (Nat.max_le.2 ⟨(by omega : p ≤ _), hr⟩) (by omega)
  refine ⟨u.bytes (0x4000000000 + va) 8, tau, u2, ?_, h2, h3⟩
  unfold State.vread
  simp only [e, q.1, q.2, show far0.die = 0 from rfl, d, if_false, e2]
theorem fire_calm {t : State} {a n tau : Nat} (h : t.ctxs = [(0, far)]) (w : t.watches = []) : t.fireWatches a n tau = t := by
  have e : t.noteWrite a n = t := by
    unfold State.noteWrite
    rw [h]
    exact if_neg (by simp [Context.lostIn, far, ctx0])
  unfold State.fireWatches
  rw [e, w]
  rfl
theorem told_calm {t : State} {home a n tau : Nat} (r : t.regions = []) (h : t.ctxs = [(0, far)]) (w : t.watches = []) :
    (t.tellHost home a).fireWatches a n tau = t := by
  have e : t.tellHost home a = t := by
    unfold State.tellHost State.region?
    rw [r]
    rfl
  rw [e, fire_calm h w]
theorem home_write_calm {s t : State} {n va v p ctx : Nat} (h : Calm s t n) (b : Tables s) (g : va + 8 ≤ 0x200000) (w : p ≤ n) (o : n + 1 < 2 ^ 63) :
    ∃ tau u, t.homeWrite 0 (0x4000000000 + va) 8 v p ctx = (tau, u) ∧ tau ≤ n + 1 ∧ Calm s u (n + 1) := by
  have m : max p ((t.lineTs 0 ((0x4000000000 + va) / 64)).2 + 1) ≤ n + 1 := Nat.max_le.2 ⟨by omega, Nat.succ_le_succ (lineTs_calm h _ _).2⟩
  let m1 := putBytes t.mem (0x4000000000 + va) 8 v
  have c : Calm s { t with mem := m1 } n := ⟨⟨fun a ha => (cellGet_putBytes_out _ _ _ _ (.inr (by omega))).trans (h.mem a ha), h.dies, h.plat, h.tables,
    h.cores, h.ctxs, h.reqs, h.reps, h.watches, h.regions⟩, h.floors, h.times, h.few⟩
  refine ⟨_, _, ?_, m, setTs_calm c 0 ((0x4000000000 + va) / 64) (Nat.lt_succ_self n) m m⟩
  unfold State.homeWrite
  rw [settle_calm h.toQuiet b.noX, gain_near]
  dsimp only
  rw [ts_near]
  exact (if_neg (by unfold tsLimit; omega)).trans (Prod.ext rfl (told_calm h.regions (h.ctxs.trans b.ctxs) h.watches))
theorem write_calm {s t : State} {n va v p : Nat} (h : Calm s t n) (b : Tables s) (g : va + 8 ≤ 0x200000) (w : p ≤ n) (o : n + 4 < 2 ^ 63) :
    ∃ tau u, t.vwrite far0 false .none va 8 v p = .ok (tau, u) ∧ tau ≤ n + 4 ∧ Calm s u (n + 4) := by
  have k : va < 0x200000 := by omega
  have q := home_of va k
  have d : ¬ 0x4000000000 + va < dramBase := by unfold dramBase; omega
  obtain ⟨r, u, e, hr, hu⟩ := touch_calm h b k (by omega) (.inr rfl)
  have z : t.guarded (0x4000000000 + va) 8 = false := by
    unfold State.guarded State.inMap
    rw [h.plat, b.map, b.cel]
    rfl
  obtain ⟨tau, x, e2, ht, hx⟩ := home_write_calm (v := v) (ctx := far0.ctx) hu b g (Nat.max_le.2 ⟨(by omega : p ≤ _), hr⟩) (by omega)
  refine ⟨tau, x, ?_, ht, hx⟩
  unfold State.vwrite
  simp only [e, q.1, q.2, show far0.die = 0 from rfl, d, z, Bool.false_eq_true, or_self, if_false, e2]
theorem reads_calm {s : State} (b : Tables s) : ∀ (m : Nat) (t : State) (va p n : Nat), p ≤ n → Calm s t n → va + 8 * m ≤ 0x200000 → n + 4 * m < 2 ^ 63 →
    ∃ l q u, t.vreads far0 false va p m = .ok (l, q, u) ∧ Calm s u (n + 4 * m)
  | 0, t, _, p, _, _, h, _, _ => ⟨[], p, t, rfl, h⟩
  | m + 1, t, va, p, n, w, h, g, o => by
    obtain ⟨v, tau, u, e, ht, hu⟩ := read_calm (va := va) (p := p) h b (by omega) w (by omega)
    obtain ⟨l, q, u2, e2, h2⟩ := reads_calm b m u (va + 8) tau (n + 4) ht hu (by omega) (by omega)
    rw [show n + 4 * (m + 1) = n + 4 + 4 * m from by omega]
    exact ⟨BitVec.ofNat 64 v :: l, q, u2, by simp only [State.vreads, e, e2], h2⟩
theorem stores_calm {s : State} (b : Tables s) : ∀ (l : List Word) (t : State) (va p n : Nat), p ≤ n → Calm s t n → va + 8 * l.length ≤ 0x200000 →
    n + 4 * l.length < 2 ^ 63 → ∃ q u, t.storeWords far0 false va p l = (none, q, u)
  | [], t, _, p, n, _, _, _, _ => ⟨p, t, rfl⟩
  | x :: l, t, va, p, n, w, h, g, o => by
    have q : (x :: l).length = l.length + 1 := rfl
    rw [q] at g o
    obtain ⟨tau, u, e, ht, hu⟩ := write_calm (va := va) (v := x.toNat) (p := p) h b (by omega) w (by omega)
    obtain ⟨q2, u2, e2⟩ := stores_calm b l u (va + 8) tau (n + 4) ht hu (by omega) (by omega)
    exact ⟨q2, u2, by simp only [State.storeWords, e, e2]⟩
theorem area_noX (k : Core) (h : k.l1 = []) (l : Nat) : (area k).xHolder l = none := by
  simp only [State.xHolder, show (area k).cores = [(0, k)] from rfl, xHolderIn, h, lookupK]
theorem save_tables : Tables (area ksave) :=
  ⟨rfl, rfl, rfl, rfl, by decide +kernel, by decide +kernel, by decide +kernel, by decide +kernel, by decide +kernel, area_noX _ rfl, by decide +kernel⟩
theorem rest_tables : Tables (area krest) :=
  ⟨rfl, rfl, rfl, rfl, by decide +kernel, by decide +kernel, by decide +kernel, by decide +kernel, by decide +kernel, area_noX _ rfl, by decide +kernel⟩
theorem area_calm (k : Core) : Calm (area k) (area k) 0 :=
  ⟨⟨fun _ _ => rfl, rfl, rfl, rfl, rfl, rfl, rfl, rfl, rfl, rfl⟩, rfl, fun _ _ e => (by cases e), Nat.le_refl 0⟩
theorem save_len : (ksave.saveWords (ksave.resumePc none) 100 []).length = 50176 := by decide +kernel
theorem save_env : ksave.tenv (dieOf 0) = far0 ∧ krest.tenv (dieOf 0) = far0 ∧ ksave.saveArea.toNat = 0x20000 ∧ ksave.pts = 0 ∧ krest.pts = 0 := by decide +kernel
/-- SPILLQ of the context names no page: nothing is spilled. -/
theorem no_spill {s : State} {l : Nat} (k : Core) (h : s.ctxs = [(0, far)]) (e : s.core 0 = k) (c : k.sv.ctxid = 0 ∧ (k.sv.spillq = 0x1000000000000 ∨ (s.core 0).serves 0 = false)) :
    s.spilledFor 0 0 l = [] := by
  have w : ∀ (e : TEnv) (user : Bool) (acc : Acc) (sp : Special), s.walk e user acc sp 0x1000000000000 = .error causeNotPresent := fun e user acc sp => by
    unfold State.walk; exact if_pos (by decide)
  have v : s.ctxWord (dieOf 0) 0 0x1000000000000 = none := by
    unfold State.ctxWord State.vread State.walkTouch
    rw [w]
  have k : s.ctx? 0 = some far := by simp only [State.ctx?, h, lookupK, if_true]
  have a : s.spillVa 0 0 = some 0x1000000000000 := by
    unfold State.spillVa
    rcases c.2 with q | q
    · rw [e, q, k]; split <;> rfl
    · rw [q, k]; rfl
  have q : s.spillQ 0 0 = none := by
    simp only [State.spillQ, a, Option.bind_some, State.qdesc, show (0x1000000000000 : Word).toNat = 0x1000000000000 from rfl, v]
  simp only [State.spilledFor, q]
theorem save_of {s t : State} {g : GroupRef} {x q : Nat} {l : List Word} (k : Core) (e : s.core 0 = k) (he : k.tenv (dieOf 0) = far0) (ha : k.saveArea.toNat = 0x20000)
    (hp : k.pts = 0) (hg : g.ctx = x) (hl : (if k.passing || k.sliceEnd = 0 || k.sv.slice = 0 then 0 else k.sliceEnd - s.cycle) = 100)
    (hs : s.spilledFor 0 x (s.logical 0) = []) (hw : k.saveWords (k.resumePc none) 100 [] = l) (h : s.storeWords far0 false 0x20000 0 l = (none, q, t)) :
    SaveWritten s 0 g none q t := by
  unfold SaveWritten
  simp only [e, he, ha, hp, hg, hl, hs, List.map_nil, hw, h]
theorem hyp_LaunchEvents_save : ∃ q s1, (ksave.preempt = .saving none ∧ ksave.group = some ⟨0, 0, 1, 0, 1, 0⟩ ∧ (area ksave).accessesDone 0 = true ∧
    ksave.passing = false ∧ ksave.queued = []) ∧ (area ksave).core 0 = ksave ∧ SaveWritten (area ksave) 0 ⟨0, 0, 1, 0, 1, 0⟩ none q s1 := by
  obtain ⟨e, _, a, p, _⟩ := save_env
  obtain ⟨q, u, hu⟩ := stores_calm save_tables (ksave.saveWords (ksave.resumePc none) 100 []) (area ksave) 0x20000 0 0 (by decide) (area_calm _)
    (by rw [save_len]; decide) (by rw [save_len]; decide)
  exact ⟨q, u, by decide +kernel, rfl, save_of ksave rfl e a p rfl (by decide +kernel) (no_spill ksave rfl rfl ⟨rfl, .inl (by decide +kernel)⟩) rfl hu⟩
theorem hyp_LaunchEvents_resume : ∃ g w p s1, ((area krest).freeCore 0 = true ∧ (area krest).gangAt 0 = none ∧ (area krest).heldByRunner 0 = true ∧
      (area krest).inReserve 0 = false) ∧ krest.saved.find? (fun g => g.grp.ctx == 0) = some g ∧
    (area krest).vreads (krest.tenv (dieOf 0)) false g.area krest.pts 50176 = .ok (w, p, s1) ∧
    ∀ s2, s2 = s1.modCore 0 (fun q => (q.restored g w s1.cycle).raisePts p) → s2.spilledFor 0 0 (s2.logical 0) = [] := by
  obtain ⟨_, e, _, _, p⟩ := save_env
  obtain ⟨w, q, u, hu, hc⟩ := reads_calm rest_tables 50176 (area krest) 0x20000 0 0 (Nat.le_refl 0) (area_calm _) (by decide) (by decide)
  refine ⟨_, w, q, u, by decide +kernel, rfl, by rw [e, p]; exact hu, ?_⟩
  rintro s2 rfl
  have k : u.core 0 = krest := congrArg (fun l => (lookupK l 0).getD Core.reset) hc.cores
  refine no_spill _ hc.ctxs (State.core_setCore_self _ _ _) ⟨?_, .inl ?_⟩
  · rw [k]; show krest.sv.ctxid = 0
    decide +kernel
  · rw [k]; show krest.sv.spillq = 0x1000000000000
    decide +kernel

/-! ### CKLOAD of a whole image of 65,536 bytes, read by induction over its lines -/

/-- A manifest of no shards and an empty control section, signed (k = 3) by the key of secret 2; the words are those of R326. -/
def ckImage : List Byte := beBytes 240 0x5838434b50543031000000000000000000000000000000000000000000000000000000000000000000000000000000002a63697620cbdc1ebc41cb3c41d17eb3fa5fcf5e0c5daf041a840b11cdf5a46a8f07afa32c9ef48de9affebba45c63a40000000000000000000000000000000000000000000000000000000000000000000000000000000000000000000000007b63205bf00ddae73b17452b6a27ebf53df581348c6949f83ee1b6fcc7463bbe3c11ef6596a3b8897d7cc85b3035f11f1383b2b3653e0f846fae9e4d4198cfe7762c6186609b891dc50d10de79c5328f11cc861b02c297257aee568aef0aede6
def ckKey : List Byte := beBytes 97 0x042282bc382a2f4dfcb95c3495d7b4fd590ad520b3eb6be4d6ec2f80c4e0f70df87c4ba74a09b553ebb427b58df9d59fca0edda83773ac68735768d14a24f37a57ce9bedbc170921ce4d89dd051728fc3eb4b4ea69ab64fc288f1b29502b6e1d30
def ckLong : List Byte := ckImage ++ List.replicate 65296 0
def cwhole : Card := card 0x21 3 .running #v[0x40000000, 0x10000, 0x40010000, 0]
/-- The image at virtual 0x40000000 in host memory; the key, trusted by the platform, at 0x40010000. -/
def jwhole (key : List Byte) : State :=
  let s := job cwhole hostWords
  { s with
    ctxs := [(0, { ctx0 with st := .loading })]
    plat := { s.plat with hwin := Vector.replicate 8 (BitVec.ofNat 64 (hostBase + 1)), signers := [BitVec.ofNat 384 (beNat ((ckImage.drop 0x30).take 48))] }
    mem := cellSets (cellSets s.mem hostBase ckImage) (hostBase + 0x10000) key }
structure HostTables (s : State) : Prop where
  reqs : s.reqs = []
  root : s.word 0x4000200000 = 0x4000201001
  leaf : s.word 0x4000201008 = 0x80000000000DF
  noX : ∀ l, s.xHolder l = none
  rdc : (s.die 0).rdc = []
  window : s.plat.hwin = Vector.replicate 8 (BitVec.ofNat 64 (hostBase + 1))
def whole (x : Nat) : TlbEntry := { ctx := 0, page := (0x40000000 + x) / 2 ^ 30, bits := 30, leaf := 0x80000000000DF, base := 0, mask := 0 }
/-- The leaf of that page. -/
def leafH : Leaf := { level := 2, word := 0x80000000000DF, addr := 0x4000201008, reads := [0x4000200000, 0x4000201008], ptrs := [(2, 0x4000201000)] }
theorem leaf_host {s t : State} {x : Nat} (h : Quiet s t) (b : HostTables s) (g : x < 0x200000) :
    t.findLeaf 0 (0x40000000 + x) 3 0x4000200000 = some leafH := by
  have i3 : bitsOf (0x40000000 + x) (pageBits 3) 9 = 0 := by unfold bitsOf pageBits; omega
  have i2 : bitsOf (0x40000000 + x) (pageBits 2) 9 = 1 := by unfold bitsOf pageBits; omega
  have w1 : t.word 0x4000200000 = 0x4000201001 := (word_same h b.reqs (by decide)).trans b.root
  have w2 : t.word 0x4000201008 = 0x80000000000DF := (word_same h b.reqs (by decide)).trans b.leaf
  have d1 : inDram 0x4000200000 = true ∧ inDram 0x4000201008 = true ∧ leafV 0x4000201001 = true ∧ isLeaf 0x4000201001 = false ∧ pointerOk 0x4000201001 = true ∧
      leafPpn 0x4000201001 * 4096 + 8 * 1 = 0x4000201008 ∧ leafV 0x80000000000DF = true ∧ isLeaf 0x80000000000DF = true ∧ leafOk 2 0x80000000000DF = true := by decide +kernel
  obtain ⟨e1, e2, e3, e4, e5, e6, e7, e8, e9⟩ := d1
  have e0 : leafPpn 0x4000201001 * 4096 = 0x4000201000 := by decide +kernel
  simp only [State.findLeaf, State.entryReadable, Bool.true_or, i3, i2, Nat.mul_zero, Nat.add_zero, e1, w1, e3, e4, e5, e2, w2, e7, e8, e9, if_true, Bool.not_true,
    Bool.false_eq_true, if_false, Option.map_some, leafH, e0]
theorem pa_host {x : Nat} (g : x < 0x200000) : leafPpn 0x80000000000DF * 4096 + (0x40000000 + x) % 2 ^ 30 = 0x8000000000000 + x := by
  have q : leafPpn 0x80000000000DF * 4096 = 0x8000000000000 := by decide +kernel
  have m : (0x40000000 + x) % 2 ^ 30 = x := by omega
  rw [q, m]
theorem walk_host {s t : State} {x : Nat} (h : Quiet s t) (b : HostTables s) (g : x < 0x200000) :
    t.walk far0 true .read .none (0x40000000 + x) = .ok (whole x, leafH) := by
  have r : paRegion (0x8000000000000 + x) = some .host := by
    unfold paRegion dramBase dramSize hostBase; rw [if_neg (by omega), if_neg (by omega), if_neg (by omega), if_pos (by omega)]
  have i : inDram (0x8000000000000 + x) = false := by unfold inDram dramBase dramSize; simp only [Bool.and_eq_false_iff, decide_eq_false_iff_not]; omega
  have l : leafAllows true .read .none 0x80000000000DF = true := by decide +kernel
  have o : t.protoOk far0 0x80000000000DF = true := by
    have q : leafProto 0x80000000000DF = 0 := by decide +kernel
    unfold State.protoOk
    simp only [q]
    rfl
  have w : t.inWindow 0 (0x8000000000000 + x) = true := by
    have q : (t.plat.hwin[4 * 0 + 0]?.getD 0) = BitVec.ofNat 64 (hostBase + 1) := by rw [h.plat, b.window]; rfl
    have f : slice (BitVec.ofNat 64 (hostBase + 1)) 51 21 * 2 ^ 21 = 0x8000000000000 ∧ slice (BitVec.ofNat 64 (hostBase + 1)) 20 0 * 2 ^ 21 = 0x200000 := by decide +kernel
    unfold State.inWindow
    refine List.any_eq_true.mpr ⟨0, by decide, ?_⟩
    simp only [q, f.1, f.2, Bool.and_eq_true, decide_eq_true_eq]
    omega
  have v : ¬ 2 ^ 48 ≤ 0x40000000 + x := by omega
  have z : far0.ptbase.toNat = 0x4000200000 ∧ far0.ctx = 0 ∧ far0.die = 0 := by decide
  have y : t.beyondWindows 0 (0x8000000000000 + x) = false := by unfold State.beyondWindows; rw [r, w]; rfl
  unfold State.walk
  rw [if_neg v, z.1, z.2.2, leaf_host h b g]
  simp only [State.checkLeaf, State.frameOk, leafH, pageBits, pa_host g, i, l, o, z.2.1, z.2.2, y]
  rfl
theorem bytes_host {s t : State} {a : Nat} (h : Quiet s t) (r : s.reqs = []) (g : 0x4000200000 ≤ a) : t.byte a = s.byte a := by
  simp only [State.byte, State.xHolder, State.onWay, h.cores, h.reqs, r, h.mem a g, List.findSome?_nil]
theorem more_calm {s t : State} {n m : Nat} (h : Calm s t n) (w : n ≤ m) : Calm s t m :=
  ⟨h.toQuiet, h.floors, fun k v e => ⟨Nat.le_trans (h.times k v e).1 w, Nat.le_trans (h.times k v e).2 w⟩, Nat.le_trans h.few w⟩
theorem touch_host {s t : State} {x n : Nat} (h : Calm s t n) (b : HostTables s) (g : x < 0x200000) (o : n + 2 < 2 ^ 63) :
    ∃ q u, t.walkTouch far0 true .read .none (0x40000000 + x) = .ok (whole x, q, u) ∧ q ≤ n + 2 ∧ Calm s u (n + 2) := by
  have w : leafTouched .read (whole x).leaf = leafH.word := by show leafTouched _ 0x80000000000DF = 0x80000000000DF; decide +kernel
  have l : entriesOf far0 (whole x) leafH = [0x4000200000, 0x4000201008] := by
    have q : inDram (leafPpn 0x80000000000DF * 4096) = false := by decide +kernel
    unfold entriesOf
    simp only [show (whole x).leaf = 0x80000000000DF from rfl, q, Bool.false_eq_true, if_false]
    rfl
  obtain ⟨q, u, e, hq, hu⟩ := entries_calm (x := far0.ctx) b.noX (entriesOf far0 (whole x) leafH) t 0 n h (Nat.zero_le _) (by rw [l]; exact o) (by rw [l]; decide +kernel)
  rw [l] at hq hu
  refine ⟨q, u, ?_, hq, hu⟩
  unfold State.walkTouch
  rw [walk_host h.toQuiet b g]
  simp only [w, State.touchLeaf, if_true, show far0.die = 0 from rfl, e]
  rfl
theorem room_calm {s t : State} {n : Nat} (h : Calm s t n) (z : (s.die 0).rdc = []) (o : n < 2 ^ 20) : t.rdcRoom 4096 = t := by
  have d : t.die (4096 - 4096) = s.die 0 := by simp only [Nat.sub_self, State.die, h.dies]
  have f : (t.hostLinesOf 4096).length ≤ t.lines.length := by unfold State.hostLinesOf; rw [List.length_map]; exact List.length_filter_le _ _
  have := h.few
  unfold State.rdcRoom
  rw [d, z]
  exact if_pos (by simp only [List.length_nil, rdcLines]; omega)
/-- A read of a host line, which the cache gains if it lacks it. -/
theorem far_read_calm {s t : State} {n a p x : Nat} (h : Calm s t n) (b : ∀ l, s.xHolder l = none) (z : (s.die 0).rdc = []) (w : p ≤ n) (o : n < 2 ^ 20) :
    ∃ tau u, t.homeRead 4096 a p none (some x) = (tau, u) ∧ tau ≤ n + 2 ∧ Calm s u (n + 2) := by
  have g : Calm s (t.gain 4096 (a / 64) false) (n + 1) := by
    have m : 1 + max (t.lineTs 4096 (a / 64)).2 (t.lineTs 4097 (a / 64)).2 ≤ n + 1 := by
      have := Nat.max_le.2 ⟨(lineTs_calm h 4096 (a / 64)).2, (lineTs_calm h 4097 (a / 64)).2⟩; omega
    unfold State.gain
    rw [if_neg (by decide)]
    simp only [if_true, Bool.false_eq_true, if_false, room_calm h z o]
    split
    · exact more_calm h (Nat.le_succ n)
    · rw [if_neg (by unfold tsLimit; omega)]
      exact setTs_calm h _ _ (Nat.lt_succ_self n) m m
  have l : ((t.gain 4096 (a / 64) false).tsAt 4096 (a / 64)).1 ≤ n + 2 ∧ ((t.gain 4096 (a / 64) false).tsAt 4096 (a / 64)).2 ≤ n + 2 := by
    unfold State.tsAt
    have := Nat.max_le.2 ⟨(lineTs_calm g 4096 (a / 64)).2, (lineTs_calm g 4097 (a / 64)).2⟩
    have := lineTs_calm g 4096 (a / 64)
    split <;> (try simp only [if_true]) <;> omega
  have m := Nat.max_le.2 ⟨Nat.le_trans w (Nat.le_add_right n 2), l.1⟩
  have y := Nat.max_le.2 ⟨l.2, m⟩
  refine ⟨_, _, ?_, m, setTs_calm g 4096 (a / 64) (by omega) l.1 y⟩
  unfold State.homeRead
  rw [settle_calm h.toQuiet b]
  exact if_neg (by unfold tsLimit; omega)
/-- The bytes of a range of the host page. -/
def hostBytes (s : State) (x n : Nat) : List Byte := (List.range n).map fun i => s.byte (0x8000000000000 + x + i)
theorem hostBytes_add (s : State) (x a b : Nat) : hostBytes s x (a + b) = hostBytes s x a ++ hostBytes s (x + a) b := by
  unfold hostBytes
  rw [List.range_add, List.map_append, List.map_map]
  congr 1
  refine List.map_congr_left fun i _ => ?_
  show s.byte (0x8000000000000 + x + (a + i)) = s.byte (0x8000000000000 + (x + a) + i)
  congr 1; omega
theorem read_host {s : State} (b : HostTables s) : ∀ (fuel n x p m : Nat) (t : State), Calm s t m → p ≤ m → m + 4 * fuel < 2 ^ 20 → n < fuel → x + n ≤ 0x200000 →
    ∃ q u, t.readBlock far0 true .none (0x40000000 + x) p n fuel = .ok (hostBytes s x n, q, u) ∧ Calm s u (m + 4 * fuel)
  | 0, _, _, _, _, _, _, _, _, f, _ => absurd f (Nat.not_lt_zero _)
  | fuel + 1, n, x, p, m, t, h, hp, o, f, g => by
    by_cases z : n = 0
    · subst z; exact ⟨p, t, by unfold State.readBlock; rw [if_pos rfl]; rfl, more_calm h (by omega)⟩
    · obtain ⟨k, ek⟩ : ∃ k, k = min n (64 - (0x40000000 + x) % 64) := ⟨_, rfl⟩
      have k0 : 0 < k ∧ k ≤ n := by omega
      obtain ⟨r, v, w, hr, hv⟩ := touch_host h b (show x < 0x200000 by omega) (by omega)
      have e : (whole x).pa (0x40000000 + x) = 0x8000000000000 + x := pa_host (by omega)
      have l : v.byteList (0x8000000000000 + x) k = hostBytes s x k :=
        List.map_congr_left fun i _ => bytes_host hv.toQuiet b.reqs (by omega)
      have d : ¬ 0x8000000000000 + x < dramBase := by unfold dramBase; omega
      obtain ⟨q0, u0, e0, h0, hu0⟩ := far_read_calm (a := 0x8000000000000 + x) (p := max p r) (x := far0.ctx) hv b.noX b.rdc (Nat.max_le.2 ⟨(by omega : p ≤ _), hr⟩)
        (by omega)
      have hh : (whole x).home 0 (0x8000000000000 + x) = 4096 := by
        have i : inDram (0x8000000000000 + x) = false := by unfold inDram dramBase dramSize; simp only [Bool.and_eq_false_iff, decide_eq_false_iff_not]; omega
        unfold TlbEntry.home
        rw [if_neg (by rw [i]; decide)]
      obtain ⟨q, u, e2, hu⟩ := read_host b fuel (n - k) (x + k) q0 (m + 4) u0 hu0 h0 (by omega) (by omega) (by omega)
      refine ⟨q, u, ?_, more_calm hu (by omega)⟩
      unfold State.readBlock
      rw [if_neg z, w]
      simp only [e, d, if_false, ← ek, show far0.die = 0 from rfl, hh, e0, show 0x40000000 + x + k = 0x40000000 + (x + k) from by omega, e2, l]
      rw [← hostBytes_add, show k + (n - k) = n from by omega]
theorem whole_noX (key : List Byte) (l : Nat) : (jwhole key).xHolder l = none := by
  simp only [State.xHolder, show (jwhole key).cores = [(0, kw [])] from rfl, xHolderIn, show (kw []).l1 = [] from rfl, lookupK]
theorem whole_calm (key : List Byte) : Calm (jwhole key) (jwhole key) 0 := ⟨⟨fun _ _ => rfl, rfl, rfl, rfl, rfl, rfl, rfl, rfl, rfl, rfl⟩, rfl, fun _ _ e => (by cases e), Nat.le_refl 0⟩
theorem whole_words : ((jwhole ckKey).word 0x4000200000 = 0x4000201001 ∧ (jwhole ckKey).word 0x4000201008 = 0x80000000000DF) ∧
    ((jwhole []).word 0x4000200000 = 0x4000201001 ∧ (jwhole []).word 0x4000201008 = 0x80000000000DF) := by decide +kernel
theorem key_tables : HostTables (jwhole ckKey) := ⟨rfl, whole_words.1.1, whole_words.1.2, whole_noX _, rfl, rfl⟩
theorem bare_tables : HostTables (jwhole []) := ⟨rfl, whole_words.2.1, whole_words.2.2, whole_noX _, rfl, rfl⟩
theorem cell_zero {m : List Host.Cell} {a b : Nat} (h : m.all (fun p => p.1 < a || b ≤ p.1) = true) {q : Nat} (l : a ≤ q) (r : q < b) : cellGet m q = 0 := by
  have e : lookupK m q = none := by
    induction m with
    | nil => rfl
    | cons p m ih =>
      rw [List.all_cons, Bool.and_eq_true, Bool.or_eq_true, decide_eq_true_eq, decide_eq_true_eq] at h
      show (if p.1 = q then _ else _) = none
      rw [if_neg (by omega)]
      exact ih h.2
  simp only [cellGet, e, Option.getD_none]
theorem long_of {s : State} (z : s.reqs = []) (x : ∀ l, s.xHolder l = none) (h : hostBytes s 0 240 = ckImage)
    (g : s.mem.all (fun p => p.1 < 0x80000000000F0 || 0x8000000010000 ≤ p.1) = true) : hostBytes s 0 65536 = ckLong := by
  suffices e : hostBytes s (0 + 240) 65296 = List.replicate 65296 0 by
    rw [show 65536 = 240 + 65296 from rfl, hostBytes_add, h, e, ckLong]
  refine List.eq_replicate_iff.mpr ⟨by simp only [hostBytes, List.length_map, List.length_range], fun b hb => ?_⟩
  obtain ⟨i, hi, rfl⟩ := List.mem_map.mp hb
  have hi := List.mem_range.mp hi
  simp only [State.byte, x, State.onWay, z, List.findSome?_nil]
  exact cell_zero g (by omega) (by omega)
theorem whole_bytes : (hostBytes (jwhole ckKey) 0 240 = ckImage ∧ (jwhole ckKey).mem.all (fun p => p.1 < 0x80000000000F0 || 0x8000000010000 ≤ p.1) = true) ∧
    (hostBytes (jwhole []) 0 240 = ckImage ∧ (jwhole []).mem.all (fun p => p.1 < 0x80000000000F0 || 0x8000000010000 ≤ p.1) = true) := by decide +kernel
theorem key_bytes : hostBytes (jwhole ckKey) 0x10000 97 = ckKey ∧ hostBytes (jwhole []) 0x10000 97 = List.replicate 97 0 := by decide +kernel
theorem key_bad : digestBytes (sha384 (List.replicate 97 0)) ≠ imgBytes ckLong 0x30 48 := by decide +kernel
theorem long_manifest : (manifestOf ckLong).isSome = true := by decide +kernel
theorem range_host {s : State} (b : HostTables s) (h : Quiet s s) : ∀ (fuel n x : Nat), x + n ≤ 0x200000 →
    s.hostRange far0 true .read 0 (0x40000000 + x) n fuel = none
  | 0, _, _, _ => rfl
  | fuel + 1, n, x, g => by
    unfold State.hostRange
    by_cases z : n = 0
    · rw [if_pos z]
    · have d : ¬ 0x8000000000000 + x < hostBase := by unfold hostBase; omega
      rw [if_neg z, walk_host h b (by omega)]
      simp only [show (whole x).pa (0x40000000 + x) = 0x8000000000000 + x from pa_host (by omega), d, if_false,
        show ∀ k, 0x40000000 + x + k = 0x40000000 + (x + k) from fun k => by omega]
      exact range_host b h fuel _ _ (by omega)
theorem whole_env (key : List Byte) : (jwhole key).ctxEnv 0 cwhole.ctx = far0 := rfl
/-- The whole image, with its own key or with 97 bytes of zeros as the key. -/
theorem whole_reads (key k : List Byte) (b : HostTables (jwhole key)) (h : hostBytes (jwhole key) 0 240 = ckImage)
    (g : (jwhole key).mem.all (fun p => p.1 < 0x80000000000F0 || 0x8000000010000 ≤ p.1) = true) (e : hostBytes (jwhole key) 0x10000 97 = k) :
    ∃ ts s1 t s2, (jwhole key).hostRange ((jwhole key).ctxEnv 0 cwhole.ctx) cwhole.user .read 0 cwhole.args[0].toNat 65536 (65536 / 4096 + 2) = none ∧
      JobReads (jwhole key) 0 cwhole cwhole.args[0].toNat 65536 ckLong ts s1 ∧
      s1.readBlock ((jwhole key).ctxEnv 0 cwhole.ctx) cwhole.user .none cwhole.args[2].toNat cwhole.ts 97 98 = .ok (k, t, s2) ∧ s2.plat = (jwhole key).plat := by
  have q := whole_calm key
  obtain ⟨ts, s1, h1, q1⟩ := read_host b 65537 65536 0 0 0 _ q (by omega) (by omega) (by omega) (by omega)
  obtain ⟨t, s2, h2, q2⟩ := read_host b 98 97 0x10000 0 _ s1 q1 (by omega) (by omega) (by omega) (by omega)
  rw [long_of b.reqs b.noX h g] at h1
  rw [e] at h2
  exact ⟨ts, s1, t, s2, range_host b q.toQuiet _ _ 0 (by omega), h1, h2, q2.plat⟩
theorem hyp_CheckpointJobs_manifest (key : List Byte) : (jwhole key).card 0 0 = some cwhole ∧ cwhole.st = .running ∧ cwhole.op = 0x21 ∧
    (jwhole key).ctx? cwhole.ctx = some { ctx0 with st := .loading } ∧ slice cwhole.args[3] 63 2 = 0 ∧ cwhole.args[2].toNat % 8 = 0 ∧ cwhole.args[0].toNat % 65536 = 0 ∧
    cwhole.args[1].toNat = 65536 := ⟨rfl, rfl, rfl, rfl, by decide, by decide, by decide, by decide⟩
theorem hyp_CheckpointJobs_wrongKey : ∃ ts s1 m key t s2, JobReads (jwhole []) 0 cwhole cwhole.args[0].toNat 65536 ckLong ts s1 ∧ manifestOf ckLong = some m ∧
    s1.readBlock ((jwhole []).ctxEnv 0 cwhole.ctx) cwhole.user .none cwhole.args[2].toNat cwhole.ts 97 98 = .ok (key, t, s2) ∧
    digestBytes (sha384 key) ≠ imgBytes ckLong 0x30 48 := by
  obtain ⟨ts, s1, t, s2, _, a, b, _⟩ := whole_reads [] _ bare_tables whole_bytes.2.1 whole_bytes.2.2 key_bytes.2
  obtain ⟨m, hm⟩ := Option.isSome_iff_exists.mp long_manifest
  exact ⟨ts, s1, m, _, t, s2, a, hm, b, key_bad⟩
def ckFields : Manifest := (manifestOf ckLong).getD ⟨0, 0, 0, 0⟩
theorem signed_same {s t : State} (c : Card) (x : Context) (b key : List Byte) (m : Manifest) (h : t.plat = s.plat) : t.signedBad c x b key m = s.signedBad c x b key m := by
  simp only [State.signedBad, h]
theorem whole_trusted : digestBytes (sha384 ckKey) = imgBytes ckLong 0x30 48 ∧ (jwhole ckKey).plat.signers.any (fun d => d.toNat == sha384 ckKey) = true ∧
    manifestLen ckFields.shards - 96 = 144 ∧ ckFields.seq = 0 := by decide +kernel
/-! The two products of points that the signature needs, each in four pieces of 96 bits -/

/-- m doublings. -/
def dbl : Nat → Point → Point
  | 0, p => p
  | m + 1, p => dbl m (pointAdd p p)
/-- The lowest m bits of k times a point, onto the sum of the bits above. -/
def mulOnto : Nat → Nat → Point → Point → Point
  | 0, _, _, t => t
  | m + 1, k, p, t => pointAdd (if k % 2 = 1 then p else none) (mulOnto m (k / 2) (pointAdd p p) t)
theorem mul_cut (n : Nat) : ∀ (m k : Nat) (p : Point), pointMul (m + n) k p = mulOnto m k p (pointMul n (k / 2 ^ m) (dbl m p))
  | 0, k, p => by simp only [Nat.zero_add, mulOnto, dbl, Nat.pow_zero, Nat.div_one]
  | m + 1, k, p => by
    rw [show m + 1 + n = (m + n) + 1 from by omega]
    show pointAdd _ (pointMul (m + n) (k / 2) (pointAdd p p)) = pointAdd _ (mulOnto m (k / 2) (pointAdd p p) _)
    rw [mul_cut n m, Nat.div_div_eq_div_mul, ← Nat.pow_succ', dbl]
def ckAP1 : Point := some (0x6805a4e591bc5e5d736464f23410302ecb949f8557176d8bea59b702b3968c2fe49b964240963b623eabb6097b13de62, 0x683ada314da2f247d58e253a999e3daf3dcfa9129df187b983f6b281ad438f1feb1a73ba6ee3308e74b19767a3f51e56)
def ckAP2 : Point := some (0x2369dbb6397c99f18974b5688e81af98df4ddaccbb1fdc04e18a5d2d02c7f72702a353bc5345a9466bf550b04d994b04, 0x6f47b11daa3b124f93b08775925ff0a8127368f10742fa8fcd41cae93334ce6643f143e6500cb2c10ee188bb14504c85)
def ckAP3 : Point := some (0x58207c45666a81e537359504199c8fb691d3a45300d2a7454f9411ba82df2bcc4f8fe27277fa6410372031b7c12fe5e5, 0x64024c6dd08b6e18ec88c58885d84dd3e2652a05dbe0778c2cc1a19feff89e71da97004db76d268ec6c911e27fbec12a)
def ckAR0 : Point := some (0x4be7020d1b01ecaa910c17ad46f3616e1670635b651a0ab9658c1bfe5468645b29df1efc2a6c78e196deb067f49399a9, 0x1642e2a34a7dace7bdc34a0599699d6e2a298896c95d110f81cefa8c18d9d97f72b0d91a2c4482c86b258cf7559574db)
def ckAR1 : Point := some (0x1fc433c82521e035304ec70c4bde1f13117c1c6626fb75a787604c90007a3fee769fb07ffea372ace9091aeb58f1ddac, 0x45ca85ed900f59d664dda39007f5a11c848e954c49e2f6bd7131eb34d8e3acee2683519c0745bac71af78aa217d1714d)
def ckAR2 : Point := some (0x1fd042f23d7e8eda09cb81dfb9ccdd6c062af4d2f8dd1b90314c9e7f4f0eea0e26d40b3967ab29b96ebc9a85cce7cb49, 0x202ab8f0fa9127f43a659d4d6a3587d5c76c0825b65725c3658a1063a1ed27d2cdb97dca374ba0885b49d407f40b63fc)
def ckAR3 : Point := some (0x14d651c91f8e2a5c84ad3750a3a03d7c244233582939e1194ad4579ff4bafbe56c715803d598508ccb6855d5c8a8b45a, 0x77ef82e2f9518a2f9ecd21747c3d6ce4b20026a2fa1d2f012d2c0f15ec169b414efd832675e3946d01f18c1449bdb4b0)
def ckBP1 : Point := some (0x81a4c98568500281a92de1d73712338846620f6b5ec865bb1303f137012c898447edf8069f6cfd02f683ba739af4972e, 0x6e1eac80b7bda1d1803afccd2abb6085867c96ed8af78285dff174b7baf6ee0527d19b194320b75bde619782acd126af)
def ckBP2 : Point := some (0x1a9d6bcc354ab66aefb8d283024d841753e4e8bff345a910f26dbb0dd8ee04e982b735dd82677f2d405471743cc2a64a, 0x32c0df487e5344a39e8a0ce27d421174c69e12c01ffbae9ec9f3b3c4b6be24b178bc850484c05c4c80b47c4613cc1af4)
def ckBP3 : Point := some (0x89fd11e716b4195c90933fa2b1804e7087133014b08642c7f49c5e3b3be5c35436673cc6d8775ff9819bbb8d817479e7, 0x734b5f1e096b18aaf36fb3b3b96a48bbb353e739735b398f4c5152ee69390bfcf25291de7ace8f853c5c718480e75f76)
def ckBR0 : Point := some (0x87bbd135b51411d741886b6020ccc7590034c4fbbc0384f820f9e2309b547fd58025ff50cace4bf8e0abc7dc86ae864a, 0x178cbfe48f6c787a881ce501fc8b9da191e603d5be714da6a5d9bab415abf34e27a76a1e5b2049bf490f82304ffa9cc9)
def ckBR1 : Point := some (0x7e26b206be188f2413f2a30e88d821d8e25af245239d0f89f83b0968c5a6919f8cdf35473cf041b2586cccf4a349ef8b, 0x72010df6ec751474c5e2d8d9796957c6797ae4768f6bc196ccf5921f3e66cbaadcbd12c5fb36661c00d79b6d9497508c)
def ckBR2 : Point := some (0x2bfa3e18016bbe89b2a3b1b07d3bcafabe1503409ae1452088d33b8af2e3bb824427a6a732d367c8c2863650a32135f3, 0x2669f69fbcd219f6ceab6ae77cee80e3773c67117efd7b4ddb70f05962abe42820bd137020f521926ac02ca246e14112)
def ckBR3 : Point := some (0x5ea9877933d1073da90027b569cb7628c90a790920d17d8c081d2d013cadcbf0d30bbe92eda851655953fc640f32af3e, 0x65d0d6f26f58352bf55f9e8a089d8af4552aa4fc80bf3f2a8b02e8ef76bcac9aeef7b9bfcb2f78e74e674ea388aee785)
def ckU : Nat := 0x5674babd6ccd692a14f8b749351b314f2fb398be14443aa54ac4f44d9a4215e0356669ba5f9ea370fc8e5b79ee0968ed
def ckV : Nat := 0x617ec123ecd1b89304e113d9b658a9377d55a4aae332396079b3f445dee31ab7b48781d23bb07157bd410445f1ffb0f0
def ckQ : Point := some (0x2282bc382a2f4dfcb95c3495d7b4fd590ad520b3eb6be4d6ec2f80c4e0f70df87c4ba74a09b553ebb427b58df9d59fca, 0xedda83773ac68735768d14a24f37a57ce9bedbc170921ce4d89dd051728fc3eb4b4ea69ab64fc288f1b29502b6e1d30)
theorem pieceA_0 : dbl 96 basePoint = ckAP1 ∧ mulOnto 96 ckU basePoint ckAR1 = ckAR0 := by decide +kernel
theorem pieceA_1 : dbl 96 ckAP1 = ckAP2 ∧ mulOnto 96 (ckU / 2 ^ 96) ckAP1 ckAR2 = ckAR1 := by decide +kernel
theorem pieceA_2 : dbl 96 ckAP2 = ckAP3 ∧ mulOnto 96 ((ckU / 2 ^ 96) / 2 ^ 96) ckAP2 ckAR3 = ckAR2 := by decide +kernel
theorem pieceA_3 : pointMul 96 (((ckU / 2 ^ 96) / 2 ^ 96) / 2 ^ 96) ckAP3 = ckAR3 := by decide +kernel
theorem pieceA : pointMul 384 ckU basePoint = ckAR0 := by
  rw [show 384 = 96 + 288 from rfl, mul_cut, pieceA_0.1, show 288 = 96 + 192 from rfl, mul_cut, pieceA_1.1, show 192 = 96 + 96 from rfl, mul_cut, pieceA_2.1, pieceA_3, pieceA_2.2, pieceA_1.2, pieceA_0.2]
theorem pieceB_0 : dbl 96 ckQ = ckBP1 ∧ mulOnto 96 ckV ckQ ckBR1 = ckBR0 := by decide +kernel
theorem pieceB_1 : dbl 96 ckBP1 = ckBP2 ∧ mulOnto 96 (ckV / 2 ^ 96) ckBP1 ckBR2 = ckBR1 := by decide +kernel
theorem pieceB_2 : dbl 96 ckBP2 = ckBP3 ∧ mulOnto 96 ((ckV / 2 ^ 96) / 2 ^ 96) ckBP2 ckBR3 = ckBR2 := by decide +kernel
theorem pieceB_3 : pointMul 96 (((ckV / 2 ^ 96) / 2 ^ 96) / 2 ^ 96) ckBP3 = ckBR3 := by decide +kernel
theorem pieceB : pointMul 384 ckV ckQ = ckBR0 := by
  rw [show 384 = 96 + 288 from rfl, mul_cut, pieceB_0.1, show 288 = 96 + 192 from rfl, mul_cut, pieceB_1.1, show 192 = 96 + 96 from rfl, mul_cut, pieceB_2.1, pieceB_3, pieceB_2.2, pieceB_1.2, pieceB_0.2]
theorem signature_of {key msg sig : List Byte} {x y r s z u v : Nat} {a b : Point} (hx : beNat ((key.drop 1).take 48) = x) (hy : beNat ((key.drop 49).take 48) = y)
    (hr : beNat (sig.take 48) = r) (hs : beNat ((sig.drop 48).take 48) = s)
    (g : key.length = 97 ∧ key.head? = some 4 ∧ onCurve x y ∧ 0 < r ∧ r < curveN ∧ 0 < s ∧ s < curveN) (hz : sha384 msg = z)
    (hu : z * invMod s curveN % curveN = u) (hv : r * invMod s curveN % curveN = v) (ha : pointMul 384 u basePoint = a) (hb : pointMul 384 v (some (x, y)) = b)
    (e : (match pointAdd a b with | some (q, _) => q % curveN == r | none => false) = true) : ecdsaVerify key msg sig = true := by
  unfold ecdsaVerify
  simp only [hx, hy, hr, hs, hz, hu, hv, ha, hb]
  rw [if_pos g]
  exact e
theorem whole_scalars : sha384 (ckLong.take 144) * invMod (beNat (((imgBytes ckLong 144 96).drop 48).take 48)) curveN % curveN = ckU ∧
    beNat ((imgBytes ckLong 144 96).take 48) * invMod (beNat (((imgBytes ckLong 144 96).drop 48).take 48)) curveN % curveN = ckV ∧
    some (beNat ((ckKey.drop 1).take 48), beNat ((ckKey.drop 49).take 48)) = ckQ := by decide +kernel
theorem whole_signature : ecdsaVerify ckKey (ckLong.take 144) (imgBytes ckLong 144 96) = true :=
  signature_of rfl rfl rfl rfl (by decide +kernel) rfl whole_scalars.1 whole_scalars.2.1 pieceA ((congrArg (pointMul 384 ckV) whole_scalars.2.2).trans pieceB) (by decide +kernel)
theorem whole_signed : (jwhole ckKey).signedBad cwhole { ctx0 with st := .loading } ckLong ckKey ckFields = none := by
  obtain ⟨a, b, n, q⟩ := whole_trusted
  unfold State.signedBad
  simp only [n, a, b, whole_signature, q, Bool.or_true, Bool.not_true, ne_eq, not_true_eq_false, or_self, Bool.false_eq_true, if_false]
  rfl
theorem hyp_CheckpointJobs_signed : ∃ ts s1 m t s2, JobReads (jwhole ckKey) 0 cwhole cwhole.args[0].toNat 65536 ckLong ts s1 ∧ manifestOf ckLong = some m ∧
    s1.readBlock ((jwhole ckKey).ctxEnv 0 cwhole.ctx) cwhole.user .none cwhole.args[2].toNat cwhole.ts 97 98 = .ok (ckKey, t, s2) ∧
    s2.signedBad cwhole { ctx0 with st := .loading } ckLong ckKey m = none := by
  obtain ⟨ts, s1, t, s2, _, a, b, p⟩ := whole_reads ckKey _ key_tables whole_bytes.1.1 whole_bytes.1.2 key_bytes.1
  refine ⟨ts, s1, ckFields, t, s2, a, ?_, b, (signed_same _ _ _ _ _ p).trans whole_signed⟩
  obtain ⟨m, hm⟩ := Option.isSome_iff_exists.mp long_manifest
  rw [ckFields, hm, Option.getD_some]

/-! ### Further hypotheses of the same statements -/

theorem hyp_SystemRegisterReads_pts : Acked ((st (atPriv 3 Core.reset)).core 0) ∧ ¬ Acked ((st { kx [] with unacked := 1 }).core 0) := by
  unfold Acked; decide +kernel
/-- Addresses of 0x10001: as a sum with an immediate, and as x6 + x10. -/
theorem hyp_MisalignedTraps_floats : ∃ (va wa : Word) (k1 k2 : Core), AddrI ((sm true).core (sm true).cur) 6 1 va k1 ∧ va.toNat % 8 ≠ 0 ∧
    AddrX ((sm true).core (sm true).cur) 6 10 wa k2 ∧ wa.toNat % 4 ≠ 0 := ⟨_, _, _, _, sm_at true 1, by decide, addrX_of (by decide) rfl (by decide) rfl, by decide⟩
theorem hyp_MisalignedTraps_atomics : ∀ w : Width, ∃ (va c v : Word) (k1 k2 k3 : Core), Source ((sm true).core (sm true).cur) 10 va k1 ∧
    va.toNat % (amoBits w / 8) ≠ 0 ∧ Source k1 6 c k2 ∧ Source k2 9 v k3 ∧ AsksNothing k3 ∧ AsksNothing k1 := fun w =>
  ⟨1, 0x10000, 0x38, _, _, _, source_of (by decide) rfl, by cases w <;> decide, source_of (by decide) rfl, source_of (by decide) rfl, asks_nothing rfl, asks_nothing rfl⟩
/-- A core in a mode, with an address that no size of 2 bytes or more divides. -/
def kodd (long : Bool) : Core := { kx [(6, 0x10001)] with u := { USys.reset with long := long } }
theorem hyp_MisalignedTraps_vectors : ∀ (long : Bool) (z : Size), z ≠ .s8 → ∃ (va : Word) (v : Nat) (k1 k2 : Core), OneMode ((st (kodd long)).core 0) long [1] ∧
    AddrX ((st (kodd long)).core 0) 6 0 va k1 ∧ va.toNat % vecBytes long ≠ 0 ∧ VSource k1 long 1 v k2 ∧ va.toNat % bytesOf z ≠ 0 := by
  intro long z h
  refine ⟨0x10001, 0, kodd long, kodd long, ?_, ⟨0x10001, 0, kodd long, source_of (by decide) rfl, source_zero _, by decide⟩, by cases long <;> decide, ?_,
    by cases z <;> simp_all [bytesOf]⟩
  · intro r hr
    have : r = 1 := by simpa using hr
    subst this; cases long <;> rfl
  · cases long
    · exact .inr (.inl ⟨rfl, ⟨0, rfl, rfl⟩, rfl⟩)
    · exact .inl ⟨rfl, ⟨0, rfl, by decide +kernel⟩, rfl⟩
/-- A page of host memory beyond the windows of the die. -/
theorem hyp_TranslationTraps_window : ∃ (t : TlbEntry) (u : State), (st (kp 0x80000000000DF)).tlbHit 0 0x10000 = some (t, u) ∧
    (st (kp 0x80000000000DF)).beyondWindows (dieOf 0) (t.pa 0x10000) = true ∧ (st (kp 0x80000000000DF)).hitOk ((st (kp 0x80000000000DF)).core 0) .read t 0x10000 = false :=
  ⟨{ page0 with leaf := 0x80000000000DF }, _, tlb_hit (s := st (kp 0x80000000000DF)) (by decide +kernel), by decide +kernel, by decide +kernel⟩
/-- The matrix unit stores a tile over the end of the scratchpad; long-mode cores with the first line of granules. -/
def kbusy : Core := { ksp false with mat := some (.mstore 0 0x3F000 64 .i8 true) }
def kfirst (full : Bool) : Core := { kx [(6, 5)] with u := { USys.reset with long := true }, fe := if full then List.range 16 else [] }
theorem hyp_ScratchpadAccess_stops : (∀ b, kbusy.matBusy 0x3FFF8 8 b = true ∧ kbusy.matBusy 0x3FFE0 32 b = true) ∧
    Source kbusy 6 0x3FFF8 kbusy ∧ Source kbusy 10 5 kbusy ∧ AddrX kbusy 9 0 0x3FFE0 kbusy ∧ VSource kbusy false 1 0 kbusy ∧
    (0x3FFF8 : Word).toNat + 8 ≤ 262144 ∧ (0x3FFF8 : Word).toNat % 8 = 0 ∧ (0x3FFE0 : Word).toNat + 32 ≤ 262144 ∧ (0x3FFE0 : Word).toNat % 32 = 0 ∧
    ((0x3FFF8 : Word) + (0x3FFF : BitVec 14).signExtend 64).toNat + 8 ≤ 262144 ∧ ((0x3FFF8 : Word) + (0x3FFF : BitVec 14).signExtend 64).toNat % 8 ≠ 0 ∧
    AddrX kbusy 10 0 5 kbusy ∧ (5 : Word).toNat + 32 ≤ 262144 ∧ (5 : Word).toNat % 32 ≠ 0 ∧ AddrX kbusy 9 6 0x7FFD8 kbusy ∧ 262144 < (0x7FFD8 : Word).toNat + 32 := by
  refine ⟨by decide +kernel, source_of (by decide) rfl, source_of (by decide) rfl, ⟨0x3FFE0, 0, _, source_of (by decide) rfl, source_zero _, by decide⟩,
    .inr (.inl ⟨rfl, ⟨0, rfl, rfl⟩, rfl⟩), by decide, by decide, by decide, by decide, by decide +kernel, by decide +kernel,
    ⟨5, 0, _, source_of (by decide) rfl, source_zero _, by decide⟩, by decide, by decide, addrX_of (x := 0x3FFE0) (y := 0x3FFF8) (by decide) rfl (by decide) rfl, by decide⟩
theorem not_all {k : Core} {off n : Nat} {f : Bool} (g : Nat) (h : off / 16 ≤ g ∧ g < off / 16 + (n + 15) / 16 ∧ k.full g = !f) : ¬ AllGranules k off n f :=
  fun a => by have := a g h.1 h.2.1; rw [h.2.2] at this; cases f <;> cases this
theorem hyp_ScratchpadAccess_granules : (InScratch (ksp true) 0x3FFF8 8 true ∧ ¬ AllGranules (ksp true) (0x3FFF8 : Word).toNat 8 false) ∧
    (∀ long, InScratch (if long then kfirst false else ksp false) (if long then 0 else 0x3FFE0) (vecBytes long) false ∧
      ¬ AllGranules (if long then kfirst false else ksp false) (if long then 0 else 0x3FFE0 : Word).toNat (vecBytes long) true ∧
      InScratch (if long then kfirst true else ksp true) (if long then 0 else 0x3FFE0) (vecBytes long) true ∧
      ¬ AllGranules (if long then kfirst true else ksp true) (if long then 0 else 0x3FFE0 : Word).toNat (vecBytes long) false) ∧
    (∀ b, OneMode (kfirst b) true [1] ∧ AddrX (kfirst b) 0 0 0 (kfirst b) ∧ VSource (kfirst b) true 1 0 (kfirst b)) := by
  refine ⟨⟨⟨by decide, by decide, rfl⟩, not_all 16383 (by decide +kernel)⟩, fun long => ?_, fun b => ⟨?_, ⟨0, 0, _, source_zero _, source_zero _, rfl⟩, .inl ⟨rfl, ⟨0, rfl, by decide +kernel⟩, rfl⟩⟩⟩
  · cases long
    · exact ⟨⟨by decide, by decide, rfl⟩, not_all 16382 (by decide +kernel), ⟨by decide, by decide, rfl⟩, not_all 16382 (by decide +kernel)⟩
    · exact ⟨⟨by decide, by decide, rfl⟩, not_all 0 (by decide +kernel), ⟨by decide, by decide, rfl⟩, not_all 0 (by decide +kernel)⟩
  · intro r hr
    have : r = 1 := by simpa using hr
    subst this; rfl
/-- The region of the page's first line, owned by core 0 under a table, and a package in which its cluster is fenced. -/
def reg0 (sel : Nat) : RegionEntry := { rg 2 (some (0, 0)) [] with base := 0x4000000000, sel := sel }
def flush0 (sel : Nat) : State := { sm true with regions := [reg0 sel], tables := [(0, 4, [])] }
theorem flush0_translates (sel : Nat) (h : ((flush0 sel).core 0).tlbFind 0x10000 = some page0 ∧ (flush0 sel).hitOk ((flush0 sel).core 0) .read page0 0x10000 = true) :
    Translates (flush0 sel) .read 0x10000 page0 (flush0 sel) := ⟨nofun, by decide, tlb_hit h.1, h.2, fun _ => by decide⟩
/-- The owner's copies go home, under table 0 and under a table that takes nothing. -/
theorem hyp_CacheHints_owned : ∀ sel : Nat, sel = 0 ∨ sel = 4 → Translates ((flush0 sel).setCore 0 ((flush0 sel).core 0)) .read 0x10000 page0 (flush0 sel) ∧
    (flush0 sel).reaches 0 0 = true ∧ (flush0 sel).owned 0 (page0.pa 0x10000 / 64) = some (reg0 sel) ∧ (0, 0) = (agentOf (flush0 sel) 0 0, 0) ∧
    (flush0 sel).takes (reg0 sel) (page0.pa 0x10000 / 64 * 64) 2 (0, 0) = decide (sel = 0) ∧
    (∀ q ∈ (flush0 sel).reqs, q.isRack = false) ∧ (∀ m ∈ (flush0 sel).reps, m.code ≠ 2) ∧
    ((flush0 sel).core 0).copiesOf (reg0 sel) = [(page0.pa 0x10000 / 64, (line0 true).data, 3, 5)] ∧
    BelowLimit (flush0 sel) 0 (page0.pa 0x10000 / 64) 3 := by
  unfold BelowLimit
  rintro sel (rfl | rfl)
  · exact ⟨flush0_translates 0 (by decide +kernel), by decide +kernel⟩
  · exact ⟨flush0_translates 4 (by decide +kernel), by decide +kernel⟩
/-- A leased copy of a region with sharers and of none; a fenced cluster; a home beyond a bridge that is not ACTIVE; and a line that no copy is held of. -/
def far600 : State := st { km true [(6, 0x10000)] with l1 := [(0x100000000, { line0 true with home := 600 })] }
theorem hyp_CacheHints_other : (sm false).region? 0 (page0.pa 0x10000 / 64 * 64) = none ∧
    (∀ r, ({ sm false with regions := [{ reg0 0 with st := 1, owner := none, sharers := [0] }] } : State).region? 0 (page0.pa 0x10000 / 64 * 64) = some r → r.sel = 0 ∧ r.st < 3) ∧
    ({ sm true with agents := [(0, ⟨true, false, 0, 0⟩)] } : State).reaches 0 0 = false ∧
    ({ sm true with agents := [(0, ⟨true, false, 0, 0⟩)] } : State).silenced 0 0 = true ∧
    far600.reaches 600 0 = false ∧ far600.silenced 600 0 = false ∧ lookupK (far600.core 0).l1 (page0.pa 0x10000 / 64) = some { line0 true with home := 600 } ∧
    lookupK ((sm true).core 0).l1 (page0.pa 0x10100 / 64) = none := by
  refine ⟨by decide +kernel, fun r h => ?_, by decide +kernel, by decide +kernel, by decide +kernel, by decide +kernel, by decide +kernel, by decide +kernel⟩
  have e : ({ sm false with regions := [{ reg0 0 with st := 1, owner := none, sharers := [0] }] } : State).region? 0 (page0.pa 0x10000 / 64 * 64) =
    some { reg0 0 with st := 1, owner := none, sharers := [0] } := by decide +kernel
  rw [e, Option.some.injEq] at h
  subst h
  exact ⟨rfl, by decide⟩
/-- A pending fault of the store stream for slot 0 and while slot 3 runs, and a store that a fence of the package waits for. -/
theorem hyp_FencesAndWfe_waits : ({ kx [] with sfault := some (13, 0x50000) } : Core).slot3 = .idle ∧ (atPriv 1 { kx [] with sfault := some (13, 0x50000) }).slot3 ≠ .idle ∧
    ({ st (kx []) with acks := [⟨0, 0, 0, 5, true, 0, 0⟩] } : State).fenceBusy 0 .package = true := by decide +kernel
/-- Messages on the unbound channel 7: one in its FIFO, and one in the spill queue, for it or for channel 8. -/
def khq : Core := { kg with
  htab := kg.htab.set 7 { HEntry.reset with st := .bound, en := true, fifo := [msg0 7 #v[1, 2, 3, 4] 4] }
  sv := { (kw []).sv with orphq := 0x24000, spillq := 0x26000 } }
def unbinding (ch : Nat) : State := world khq [(0x24000, 0x25000), (0x24008, 4), (0x26000, 0x27000), (0x26008, 4), (0x26018, 1), (0x27000, (msg0 ch #v[0, 0, 0, 0] 0).header.toNat)]
def unbound (ch : Nat) : State := (unbinding ch).setCore 0 (withEntry khq 7 { HEntry.reset with st := .empty, en := true })
theorem hyp_ChannelBindingAndControl_orphan : ∃ q, (unbound 7).ctx? 0 = some ctx0 ∧
    (unbound 7).qdesc 0 0 ((unbound 7).orphQ 0 0 ctx0).toNat = some q ∧ q.full = false := by
  have h : (match (unbound 7).qdesc 0 0 ((unbound 7).orphQ 0 0 ctx0).toNat with
    | some q => !q.full
    | none => false) = true := by decide +kernel
  match g : (unbound 7).qdesc 0 0 ((unbound 7).orphQ 0 0 ctx0).toNat with
  | some q => rw [g] at h; exact ⟨q, rfl, rfl, by simpa using h⟩
  | none => rw [g] at h; cases h
theorem spilled_one {s : State} {c x l ch : Nat} (h : (s.spilledFor c x l).map (fun r => r.msg.ch) = [ch]) :
    ∃ r q, s.spilledFor c x l = [r] ∧ s.spillQ c x = some q ∧ r.msg.ch = ch := by
  cases q : s.spillQ c x with
  | none => simp [State.spilledFor, q] at h
  | some d =>
    generalize s.spilledFor c x l = m at h
    match m, h with
    | [r], h => exact ⟨r, d, rfl, rfl, by simpa using h⟩
theorem unbound_spilled : ((unbound 7).spilledFor 0 0 0).map (fun r => r.msg.ch) = [7] ∧ ((unbound 8).spilledFor 0 0 0).map (fun r => r.msg.ch) = [8] := by
  decide +kernel
theorem hyp_ChannelBindingAndControl_spilled : ∀ ch : Nat, ch = 7 ∨ ch = 8 → ∃ r q, (unbound ch).spilledFor 0 0 0 = [r] ∧ (unbound ch).spillQ 0 0 = some q ∧
    r.msg.ch = ch := by
  rintro ch (rfl | rfl)
  · exact spilled_one unbound_spilled.1
  · exact spilled_one unbound_spilled.2
/-- Core 1 owns the watched line. -/
def watching : State := { (sw 0).setCore 1 { kx [] with l1 := [(0x100000000, line0 true)] } with regions := [{ reg0 0 with owner := some (0, 1) }] }
theorem hyp_WatchArms_recall : watching.xHolder (page0.pa 0x10000 / 64) = some (1, line0 true) ∧
    watching.region? (line0 true).home (page0.pa 0x10000) = some { reg0 0 with owner := some (0, 1) } ∧
    ({ reg0 0 with owner := some (0, 1) } : RegionEntry).owner.filter (watching.ownerLost 0) = none ∧
    (watching.cores.flatMap fun p => heldIn p.2 0 0x4000000000 64) = [(page0.pa 0x10000 / 64, line0 true)] ∧ watching.reqs = [] ∧
    (watching.lineTs 0 (page0.pa 0x10000 / 64)).1 ≤ (line0 true).wts ∧ max (line0 true).wts (line0 true).rts < 2 ^ 63 ∧
    BelowLimit (watching.settle (page0.pa 0x10000)) 0 (page0.pa 0x10000 / 64) (watching.core 0).pts := by
  unfold BelowLimit; decide +kernel
theorem hyp_RegisterFrames_moves : goes (exec (.fsqrt 1 2 .f64) (st (kx []))) = true ∧ goes (exec (.fclass 3 1 .f32) (st (kx []))) = true ∧
    goes (exec (.fmvxf 3 1 .f16) (st (kx []))) = true ∧ goes (exec (.fcvtf 1 2 .f64 .f32) (st (kx []))) = true ∧
    (∃ z, goes (exec (.fcvtfi 3 1 z .f64) (st (kx []))) = true) ∧ (∃ z, goes (exec (.fcvtif 1 6 z .f64) (st (kx [(6, 8)]))) = true) ∧
    goes (exec (.fmvfx 1 6 .f64) (st (kx [(6, 8)]))) = true := by
  refine ⟨by decide +kernel, by decide +kernel, by decide +kernel, by decide +kernel, ⟨.i64, by decide +kernel⟩, ⟨.i64, by decide +kernel⟩, by decide +kernel⟩
theorem hyp_RegisterFrames_lanes : goes (exec (.vcvt 1 2 .bf16 .f32) (st (kx []))) = true ∧ goes (exec (.vsel 1 2 3 .i32) (st (kx []))) = true ∧
    goes (exec (.vperm 1 2 3 .i32) (st (kx []))) = true ∧ goes (exec (.vbcl 1 2 6 .i32) (st (kx [(6, 7)]))) = true ∧ goes (exec (.vextx 3 1 6 .i32) (st (kx [(6, 7)]))) = true ∧
    goes (exec (.vinsx 1 6 9 .i32) (st (kx [(6, 7), (9, 1)]))) = true ∧ goes (exec (.vmov 1 2) (st (kx []))) = true ∧ goes (exec (.vzero 1) (st (kx []))) = true ∧
    goes (exec (.vrand 1 .f32) (st (kx []))) = true := by decide +kernel
/-- The loads and stores of f and v registers in private mode. -/
theorem hyp_MemoryFrames_forms : ∃ (v w z : Nat) (t u y : State), Loads (sm true) 0x10038 8 v t ∧ Loads (sm true) 0x10000 4 w u ∧ Loads (sm true) 0x10000 32 z y ∧
    VDest (y.core 0) false 1 z (y.core 0 |> fun k => { k with v := k.v.setIfInBounds 1 (BitVec.ofNat 256 z) }) ∧ FSource ((sm true).core 0) 1 0 ∧
    (∀ acc n, acc ≠ .fetch → OwnsAt (sm true) acc 0x10000 n (page0.pa 0x10000) (line0 true)) := by
  obtain ⟨v, t, a⟩ := sm_loads true 8 (held_last _)
  obtain ⟨w, u, b⟩ := sm_loads true 4 (held_first _)
  obtain ⟨z, y, c⟩ := sm_loads true 32 (held_first _)
  exact ⟨v, w, z, t, u, y, a, b, c, .inr (.inl ⟨rfl, by decide, rfl⟩), rfl,
    fun acc n h => ⟨page0, _, sm_owns h n (held_first true), rfl, by decide, by decide +kernel⟩⟩
/-- The four lines of a long store, at addresses of the page. -/
theorem hyp_MemoryFrames_long : ∀ i < 4, OwnsAt sl .write (0x10000 + BitVec.ofNat 64 (64 * i)) 64 (0x4000000000 + 64 * i) (line0 true) := by
  have h : ∀ i < 4, ((0x10000 + BitVec.ofNat 64 (64 * i) : Word).toNat < 2 ^ 48 ∧ (sl.core 0).tlbFind (0x10000 + BitVec.ofNat 64 (64 * i) : Word).toNat = some page0 ∧
      sl.hitOk (sl.core 0) .write page0 (0x10000 + BitVec.ofNat 64 (64 * i) : Word).toNat = true) ∧
    page0.pa (0x10000 + BitVec.ofNat 64 (64 * i) : Word).toNat = 0x4000000000 + 64 * i ∧ sl.guarded (0x4000000000 + 64 * i) 64 = false ∧
    sl.target page0 (0x4000000000 + 64 * i) = .near 0 ∧ sl.watched ((0x4000000000 + 64 * i) / 64) = false ∧
    lookupK (sl.core 0).l1 ((0x4000000000 + 64 * i) / 64) = some (line0 true) ∧ (0x4000000000 + 64 * i) % 4096 = (0x10000 + BitVec.ofNat 64 (64 * i) : Word).toNat % 4096 ∧
    sl.xHolder ((0x4000000000 + 64 * i) / 64) = some (0, line0 true) := by decide +kernel
  have g : sl.owns (sl.core 0).sv.ctxid.toNat (leafProto page0.leaf) = true ∧ sl.copyUsable 0 (line0 true) = true := by decide +kernel
  intro i hi
  obtain ⟨⟨a, b, c⟩, e, f, t, w, l, m, x⟩ := h i hi
  exact ⟨page0, sl, ⟨⟨nofun, a, tlb_hit b, c, fun _ => by decide⟩, by rw [e]; exact f, by rw [e]; exact t, g.1, ⟨rfl, rfl⟩, asks_nothing rfl, by rw [e]; exact w, by rw [e]; exact l,
    rfl, g.2⟩, e.symm, m, x⟩

end Sys2Proof.Tests
end

/-! ## The registers of the issuing slot, and where a core's copies of lines stand -/

namespace Sys2Proof.Machine
open Sys2Proof.Safety

/-- Slot 3 issues as before. -/
@[simp] theorem Core.onSys_setHart (k : Core) (h : Hart) : (k.setHart h).onSys = k.onSys := by
  simp only [Core.onSys, Core.setHart_slot3]

@[simp] theorem Core.onSys_setPending (k : Core) (p : Pend) : (k.setPending p).onSys = k.onSys := by
  simp only [Core.onSys, Core.setPending_slot3]

/-- The issuing slot has the registers that it was given. -/
@[simp] theorem Core.hart_setHart (k : Core) (h : Hart) : (k.setHart h).hart = h := by
  rw [Core.hart, Core.onSys_setHart, Core.setHart]
  split <;> rfl

@[simp] theorem Core.hart_setPending (k : Core) (p : Pend) : (k.setPending p).hart = k.hart := by
  simp only [Core.hart, Core.onSys_setPending, Core.setPending_s0, Core.setPending_s3]

/-- Going on after an instruction keeps the x and f registers, whether a REP repeats or not. -/
@[simp] theorem Hart.x_advance (h : Hart) : h.advance.x = h.x := by
  unfold Hart.advance; split
  · split <;> rfl
  · rfl

@[simp] theorem Hart.f_advance (h : Hart) : h.advance.f = h.f := by
  unfold Hart.advance; split
  · split <;> rfl
  · rfl

/-- A rising list holds nothing at a key below its first. -/
theorem lookupK_eq_none_of_lt {α : Type} {l : List (Nat × α)} {c : Nat} (h : ∀ p ∈ l, c < p.1) : lookupK l c = none := by
  induction l with
  | nil => rfl
  | cons p r ih =>
    rw [lookupK, if_neg (Nat.ne_of_gt (h p (List.mem_cons_self ..)))]
    exact ih fun q hq => h q (List.mem_cons_of_mem p hq)

/-- A core that holds no line is passed over in the search for an exclusive copy. -/
theorem xHolderIn_cons_of_l1_nil {k : Core} (c : Nat) (r : List (Nat × Core)) (line : Nat) (h : k.l1 = []) :
    xHolderIn ((c, k) :: r) line = xHolderIn r line := by
  simp only [xHolderIn, h, lookupK]

/-- The exclusive copy of a line stands where it stood when a core is replaced by one with the same L1. -/
theorem xHolderIn_insertK {l : List (Nat × Core)} {c : Nat} {k : Core} (line : Nat) (hs : l.Pairwise fun a b => a.1 < b.1)
    (hk : k.l1 = ((lookupK l c).getD Core.reset).l1) : xHolderIn (insertK l c k) line = xHolderIn l line := by
  induction l with
  | nil => exact xHolderIn_cons_of_l1_nil c [] line hk
  | cons p r ih =>
    obtain ⟨j, w⟩ := p
    obtain ⟨hj, hr⟩ := List.pairwise_cons.1 hs
    rcases lt_trichotomy c j with h | h | h
    · have hnone : lookupK ((j, w) :: r) c = none := lookupK_eq_none_of_lt fun p hp => by
        rcases List.mem_cons.1 hp with rfl | hp
        · exact h
        · exact h.trans (hj p hp)
      rw [hnone] at hk
      rw [insertK, if_pos h]
      exact xHolderIn_cons_of_l1_nil c _ line hk
    · subst h
      rw [lookupK, if_pos rfl, Option.getD_some] at hk
      simp only [insertK, lt_irrefl, if_false, if_true, xHolderIn, hk]
    · rw [lookupK, if_neg (Nat.ne_of_lt h)] at hk
      simp only [insertK, if_neg (Nat.lt_asymm h), if_neg (Nat.ne_of_lt h), xHolderIn, ih hr hk]

/-- Replacing a core by one with the same L1 leaves every byte of memory. -/
theorem State.byte_setCore {s : State} {c : Nat} {k : Core} (hs : CoresSorted s) (hk : k.l1 = (s.core c).l1) (a : Nat) :
    (s.setCore c k).byte a = s.byte a := by
  have hx : (s.setCore c k).xHolder (a / 64) = s.xHolder (a / 64) := xHolderIn_insertK (a / 64) hs hk
  simp only [State.byte, hx, State.onWay, State.setCore_reqs, State.setCore_mem]

end Sys2Proof.Machine

/-! ## What the operands of an instruction change of the issuing core

`Touch` lists what an instruction names. Every operand form and every form of instruction keeps to its list (`Keeps`), and a list is
closed under sequencing (`Keeps.bind`), so the frame of an instruction is that of its operands. -/

namespace Sys2Proof.Frames
open Sys2Proof.Machine Sys2Proof.Safety

/-- What an instruction on registers names: the x, f and v registers it writes, the x and v registers it reads, and whether it raises
flags or draws random numbers. -/
structure Touch where
  xd : List Reg := []
  fd : List Reg := []
  vd : List Reg := []
  xs : List Reg := []
  vs : List Reg := []
  flags : Bool := false
  rng : Bool := false

/-- Core `k` with what `q` has of all that instructions on registers write: registers, queues and counters, and how the slot goes on. -/
def withRegsOf (k q : Core) : Core :=
  { k with
    s0 := q.s0, s3 := q.s3, pend := q.pend, pend3 := q.pend3, hostWait := q.hostWait, issued := q.issued, follow := q.follow
    v := q.v, lv := q.lv, qi := q.qi, qs := q.qs, vqi := q.vqi, popped := q.popped, pushed := q.pushed
    u := { k.u with fflags := q.u.fflags, window := q.u.window, rngclo := q.u.rngclo, rngchi := q.u.rngchi } }

/-- From `k` to `q` nothing has changed but what `p` names, and how the slot goes on. What is kept for the chain changes only where `p`
names a v register. -/
structure Touch.Frame (p : Touch) (k q : Core) : Prop where
  rest : q = withRegsOf k q
  slot : if k.onSys then q.s0 = k.s0 else q.s3 = k.s3
  x : ∀ r : Reg, r ∉ p.xd → q.hart.x[r.toNat]? = k.hart.x[r.toNat]?
  f : ∀ r : Reg, r ∉ p.fd → q.hart.f[r.toNat]? = k.hart.f[r.toNat]?
  v : ∀ r : Reg, r ∉ p.vd → q.v[r.toNat]? = k.v[r.toNat]? ∧ q.lv[r.toNat]? = k.lv[r.toNat]?
  qi : 30 ∉ p.xs → q.qi = k.qi
  qs : 31 ∉ p.xd → q.qs = k.qs
  vqi : 14 ∉ p.vs → q.vqi = k.vqi
  window : 15 ∉ p.vd → q.u.window = k.u.window
  chain : p.vd = [] → p.vs = [] → q.popped = k.popped ∧ q.pushed = k.pushed
  fflags : p.flags = false → q.u.fflags = k.u.fflags
  rng : p.rng = false → q.u.rngclo = k.u.rngclo ∧ q.u.rngchi = k.u.rngchi

variable {p : Touch} {k : Core}

theorem Touch.Frame.refl (p : Touch) (k : Core) : p.Frame k k where
  rest := rfl
  slot := by split <;> rfl
  x _ _ := rfl
  f _ _ := rfl
  v _ _ := ⟨rfl, rfl⟩
  qi _ := rfl
  qs _ := rfl
  vqi _ := rfl
  window _ := rfl
  chain _ _ := ⟨rfl, rfl⟩
  fflags _ := rfl
  rng _ := ⟨rfl, rfl⟩

/-- The slot that issues is the same after it. -/
theorem Touch.Frame.onSys {q : Core} (h : p.Frame k q) : q.onSys = k.onSys :=
  (congrArg Core.onSys h.rest : q.onSys = (withRegsOf k q).onSys)

/-- The L1 is no part of it. -/
theorem Touch.Frame.l1 {q : Core} (h : p.Frame k q) : q.l1 = k.l1 := (congrArg Core.l1 h.rest : q.l1 = (withRegsOf k q).l1)

theorem Touch.Frame.trans {q t : Core} (h : p.Frame k q) (g : p.Frame q t) : p.Frame k t where
  rest := g.rest.trans (congrArg (withRegsOf · t) h.rest : withRegsOf q t = withRegsOf (withRegsOf k q) t)
  slot := by
    have hs := h.slot
    have gs := g.slot
    rw [h.onSys] at gs
    split at hs
    · rw [if_pos (by assumption)] at gs ⊢
      exact gs.trans hs
    · rw [if_neg (by assumption)] at gs ⊢
      exact gs.trans hs
  x r hr := (g.x r hr).trans (h.x r hr)
  f r hr := (g.f r hr).trans (h.f r hr)
  v r hr := ⟨(g.v r hr).1.trans (h.v r hr).1, (g.v r hr).2.trans (h.v r hr).2⟩
  qi hq := (g.qi hq).trans (h.qi hq)
  qs hq := (g.qs hq).trans (h.qs hq)
  vqi hq := (g.vqi hq).trans (h.vqi hq)
  window hq := (g.window hq).trans (h.window hq)
  chain hd hs := ⟨(g.chain hd hs).1.trans (h.chain hd hs).1, (g.chain hd hs).2.trans (h.chain hd hs).2⟩
  fflags hf := (g.fflags hf).trans (h.fflags hf)
  rng hr := ⟨(g.rng hr).1.trans (h.rng hr).1, (g.rng hr).2.trans (h.rng hr).2⟩

/-- New registers of the issuing slot, the same but for the x and f registers of `p`. -/
theorem Touch.Frame.setHart {h : Hart} (hx : ∀ r : Reg, r ∉ p.xd → h.x[r.toNat]? = k.hart.x[r.toNat]?)
    (hf : ∀ r : Reg, r ∉ p.fd → h.f[r.toNat]? = k.hart.f[r.toNat]?) : p.Frame k (k.setHart h) where
  rest := by unfold Core.setHart; split <;> rfl
  slot := by unfold Core.setHart; split <;> rfl
  x r hr := by rw [Core.hart_setHart]; exact hx r hr
  f r hr := by rw [Core.hart_setHart]; exact hf r hr
  v _ _ := by simp
  qi _ := by simp
  qs _ := by simp
  vqi _ := by simp
  window _ := by simp
  chain _ _ := by simp
  fflags _ := by simp
  rng _ := by simp

theorem Touch.Frame.setPending (w : Pend) : p.Frame k (k.setPending w) where
  rest := by unfold Core.setPending; split <;> rfl
  slot := by simp
  x _ _ := by simp
  f _ _ := by simp
  v _ _ := by simp
  qi _ := by simp
  qs _ := by simp
  vqi _ := by simp
  window _ := by simp
  chain _ _ := by simp
  fflags _ := by simp
  rng _ := by simp

theorem Touch.Frame.clearHostWait : p.Frame k { k with hostWait := none } := { Touch.Frame.refl p k with rest := rfl }

theorem Touch.Frame.countIssue (u : State) : p.Frame k (u.countIssue k) := by
  unfold State.countIssue
  split
  · exact .refl p k
  · exact { Touch.Frame.refl p k with rest := rfl }

/-- The slot goes on with the same x and f registers. -/
theorem Touch.Frame.goesOn (u : State) {h : Hart} (hx : h.x = k.hart.x) (hf : h.f = k.hart.f) :
    p.Frame k (u.countIssue { (k.setHart h).setPending .none with hostWait := none }) :=
  have hh : p.Frame k (k.setHart h) := .setHart (fun _ _ => by rw [hx]) fun _ _ => by rw [hf]
  ((hh.trans (.setPending .none)).trans .clearHostWait).trans (.countIssue u)

theorem Touch.Frame.advance (u : State) : p.Frame k (u.countIssue k.advance) :=
  .goesOn u (Hart.x_advance _) (Hart.f_advance _)

theorem Touch.Frame.jump (u : State) (pc : Word) : p.Frame k (u.countIssue (k.jump pc)) := .goesOn u rfl rfl

/-- The pops and pushes of an instruction that names a v register leave the core. -/
theorem Touch.Frame.flush (hp : p.vd ≠ [] ∨ p.vs ≠ []) (n : Nat) (l : List VWord) : p.Frame k { k with popped := n, pushed := l } :=
  { Touch.Frame.refl p k with
    rest := rfl
    chain := fun hd hs => absurd hs (hp.resolve_left (not_not_intro hd)) }

/-- An element set leaves the elements at the numbers of other registers. -/
theorem getElem?_set_of_not_mem {α : Type} {n : Nat} {l : List Reg} {d r : Reg} (v : Vector α n) (y : α) (h : d.toNat < n) (hd : d ∈ l)
    (hr : r ∉ l) : (v.set d.toNat y h)[r.toNat]? = v[r.toNat]? :=
  Vector.getElem?_set_ne h fun e => hr (BitVec.eq_of_toNat_eq e ▸ hd)

/-- A stop that leaves the package as it was, but for the mark of a queue's fault or of a stall. -/
inductive StopsClean : Stop → Prop
  | trap (c : Nat) (v : Word) : StopsClean (.trap c v)
  | queue (g : Core → Core) (c : Nat) (v : Word)
      (hg : ∀ k, g k = { k with qi := (g k).qi, sfault := (g k).sfault, staken := (g k).staken }) : StopsClean (queueTrap g c v)
  | wait : StopsClean (.wait id)
  | stall : StopsClean (.wait fun s => pendingAs s .stalled)

/-- What a computation on core `k` may answer: a core that differs from `k` only in what `p` names, or a clean stop. -/
inductive Touch.Answers (p : Touch) (k : Core) {α : Type} : Except Stop (α × Core) → Prop
  | ok {a : α} {q : Core} (h : p.Frame k q) : p.Answers k (.ok (a, q))
  | error {e : Stop} (h : StopsClean e) : p.Answers k (.error e)

/-- The computation changes only what `p` names, on every core. -/
def Keeps {α : Type} (p : Touch) (m : CpuM α) : Prop := ∀ k, p.Answers k (m k)

theorem Keeps.bind {α β : Type} {m : CpuM α} {f : α → CpuM β} (hm : Keeps p m) (hf : ∀ a, Keeps p (f a)) : Keeps p (m >>= f) := by
  intro k
  have h := hm k
  cases hr : m k with
  | error e =>
    rw [hr] at h
    rw [bind_err hr]
    cases h with
    | error he => exact .error he
  | ok r =>
    obtain ⟨a, q⟩ := r
    rw [hr] at h
    rw [bind_ok hr]
    cases h with
    | ok hq =>
      have g := hf a q
      generalize f a q = o at g
      cases g with
      | ok ht => exact .ok (hq.trans ht)
      | error he => exact .error he

/-- A computation that answers and leaves the core. -/
theorem Keeps.read {α : Type} (g : Core → α) : Keeps p (fun k => .ok (g k, k)) := fun k => .ok (.refl p k)

theorem keeps_pure {α : Type} {a : α} : Keeps p (pure a) := .read fun _ => a

theorem keeps_rd : Keeps p rd := .read id

theorem keeps_getModes : Keeps p getModes := .read modesOf

theorem keeps_getImm {i : BitVec 16} : Keeps p (getImm i) := .read (immOf · i)

theorem keeps_getF {r : Reg} : Keeps p (getF r) := .read fun k => k.hart.f[r.toNat]'r.isLt

theorem keeps_trapIf {c : Bool} {cause : Nat} {v : Word} : Keeps p (trapIf c cause v) := by
  intro k
  unfold trapIf
  split
  · exact .error (.trap ..)
  · exact .ok (.refl p k)

theorem keeps_vecMode {l : List Reg} : Keeps p (vecMode l) := by
  intro k
  unfold vecMode
  split
  · exact .ok (.refl p k)
  · dsimp only
    split
    · exact .error (.trap ..)
    · exact .ok (.refl p k)

theorem keeps_popQi (h : 30 ∈ p.xs) : Keeps p popQi := by
  intro k
  unfold popQi
  split
  · split
    · exact .error .stall
    · exact .error (.trap ..)
  · exact .ok { Touch.Frame.refl p k with rest := rfl, qi := fun hn => absurd h hn }
  · split
    · exact .error .stall
    · exact .error (.queue _ _ _ fun _ => rfl)

theorem keeps_pushQs {v : Word} (h : 31 ∈ p.xd) : Keeps p (pushQs v) := by
  intro k
  unfold pushQs
  split
  · exact .error (.queue _ _ _ fun _ => rfl)
  · split
    · exact .ok { Touch.Frame.refl p k with rest := rfl, qs := fun hn => absurd h hn }
    · split
      · exact .error .stall
      · exact .error (.trap ..)

theorem keeps_getX {r : Reg} (h : r ∈ p.xs := by simp) : Keeps p (getX r) := by
  intro k
  unfold getX
  split
  · rename_i hr
    exact keeps_popQi (hr ▸ h) k
  · split
    · exact .error (.trap ..)
    · split <;> exact .ok (.refl p k)

theorem keeps_setX {d : Reg} {v : Word} (h : d ∈ p.xd := by simp) : Keeps p (setX d v) := by
  intro k
  unfold setX
  split
  · rename_i hd
    exact keeps_pushQs (hd ▸ h) k
  · split
    · exact .error (.trap ..)
    · split
      · exact .ok (.refl p k)
      · exact .ok (.setHart (fun r hr => getElem?_set_of_not_mem _ _ d.isLt h hr) fun _ _ => rfl)

theorem keeps_setF {d : Reg} {v : Word} (h : d ∈ p.fd := by simp) : Keeps p (setF d v) := fun _ =>
  .ok (.setHart (fun _ _ => rfl) fun _ hr => getElem?_set_of_not_mem _ _ d.isLt h hr)

theorem keeps_setFn {d : Reg} {v : Nat} (h : d ∈ p.fd := by simp) : Keeps p (setFn d v) := keeps_setF h

theorem keeps_addFlags {fl : FFlags} (h : p.flags = true := by rfl) : Keeps p (addFlags fl) := fun k =>
  .ok { Touch.Frame.refl p k with rest := rfl, fflags := fun hn => absurd (hn.symm.trans h) Bool.false_ne_true }

/-- VRAND's counter. -/
theorem keeps_setRng {lo hi : Word} (h : p.rng = true := by rfl) :
    Keeps p (wr fun q : Core => { q with u := { q.u with rngclo := lo, rngchi := hi } }) := fun k =>
  .ok { Touch.Frame.refl p k with rest := rfl, rng := fun hn => absurd (hn.symm.trans h) Bool.false_ne_true }

theorem keeps_popVqi (h : 14 ∈ p.vs) : Keeps p popVqi := by
  intro k
  unfold popVqi
  split
  · split
    · exact .error .stall
    · exact .error (.trap ..)
  · exact .ok { Touch.Frame.refl p k with
      rest := rfl
      vqi := fun hn => absurd h hn
      chain := fun _ hs => absurd (hs ▸ h) List.not_mem_nil }

theorem keeps_pushVqo {v : VWord} (h : 15 ∈ p.vd) : Keeps p (pushVqo v) := by
  intro k
  unfold pushVqo
  split
  · exact .error (.trap ..)
  · split
    · exact .error .stall
    · exact .ok { Touch.Frame.refl p k with
        rest := rfl
        window := fun hn => absurd h hn
        chain := fun hd _ => absurd (hd ▸ h) List.not_mem_nil }

theorem keeps_getV {r : Reg} (h : r ∈ p.vs) : Keeps p (getV r) := by
  intro k
  unfold getV
  split
  · exact .ok (.refl p k)
  · split
    · rename_i hr
      exact keeps_popVqi (hr ▸ h) k
    · exact .error (.trap ..)

theorem keeps_setV {d : Reg} {v : VWord} (h : d ∈ p.vd) : Keeps p (setV d v) := by
  intro k
  unfold setV
  split
  · exact .ok { Touch.Frame.refl p k with rest := rfl, v := fun r hr => ⟨getElem?_set_of_not_mem _ _ (by assumption) h hr, rfl⟩ }
  · split
    · rename_i hd
      exact keeps_pushVqo (hd ▸ h) k
    · exact .error (.trap ..)

theorem keeps_getVN {long : Bool} {r : Reg} (h : r ∈ p.vs := by simp) : Keeps p (getVN long r) := by
  intro k
  have hv := keeps_getV h k
  unfold getVN
  split
  · exact .ok (.refl p k)
  · generalize getV r k = o at hv
    cases hv with
    | ok hq => exact .ok hq
    | error he => exact .error he

theorem keeps_setVN {long : Bool} {d : Reg} {v : Nat} (h : d ∈ p.vd := by simp) : Keeps p (setVN long d v) := by
  intro k
  unfold setVN
  split
  · refine .ok { Touch.Frame.refl p k with rest := rfl, v := fun r hr => ⟨rfl, ?_⟩ }
    exact Vector.getElem?_setIfInBounds_ne fun e => hr (BitVec.eq_of_toNat_eq e ▸ h)
  · exact keeps_setV h k

theorem keeps_laneIndex {b : Reg} {n : Nat} (h : b ∈ p.xs := by simp) : Keeps p (laneIndex b n) :=
  .bind (keeps_getX h) fun _ => .bind keeps_trapIf fun _ => keeps_pure

/-! ## Forms of instructions -/

section
variable {d a b e : Reg}

theorem keeps_opXX {f : Word → Word → Word} (hd : d ∈ p.xd := by simp) (ha : a ∈ p.xs := by simp)
    (hb : b ∈ p.xs := by simp) : Keeps p (opXX f d a b) :=
  .bind (keeps_getX ha) fun _ => .bind (keeps_getX hb) fun _ => keeps_setX hd

theorem keeps_opX {f : Word → Word} (hd : d ∈ p.xd := by simp) (ha : a ∈ p.xs := by simp) : Keeps p (opX f d a) :=
  .bind (keeps_getX ha) fun _ => keeps_setX hd

theorem keeps_opXI {f : Word → Word → Word} {i : BitVec 16} (hd : d ∈ p.xd := by simp) (ha : a ∈ p.xs := by simp) :
    Keeps p (opXI f d a i) :=
  .bind (keeps_getX ha) fun _ => .bind keeps_getImm fun _ => keeps_setX hd

theorem keeps_fpaBin {op : FOp} {t : Ty} (hd : d ∈ p.fd := by simp) (hf : p.flags = true := by rfl) :
    Keeps p (fpaBin op d a b t) :=
  .bind keeps_getModes fun _ => .bind keeps_getF fun _ => .bind keeps_getF fun _ => .bind (keeps_addFlags hf) fun _ => keeps_setFn hd

theorem keeps_fpaCmp {c : FCmp} {t : Ty} (hd : d ∈ p.xd := by simp) (hf : p.flags = true := by rfl) :
    Keeps p (fpaCmp c d a b t) :=
  .bind keeps_getModes fun _ => .bind keeps_getF fun _ => .bind keeps_getF fun _ => .bind (keeps_addFlags hf) fun _ => keeps_setX hd

theorem keeps_fpaSgn {o : SgnOp} {t : Ty} (hd : d ∈ p.fd := by simp) : Keeps p (fpaSgn o d a b t) :=
  .bind keeps_getF fun _ => .bind keeps_getF fun _ => keeps_setFn hd

theorem keeps_fmaOp {t : Ty} {np ns : Bool} (hd : d ∈ p.fd := by simp) (hf : p.flags = true := by rfl) :
    Keeps p (fmaOp t np ns d a b e) :=
  .bind keeps_getModes fun _ => .bind keeps_getF fun _ => .bind keeps_getF fun _ => .bind keeps_getF fun _ =>
    .bind (keeps_addFlags hf) fun _ => keeps_setFn hd

theorem keeps_vecBin {f : Modes → Nat → Nat → Nat × FFlags} {t : Ty} (hd : d ∈ p.vd := by simp) (ha : a ∈ p.vs := by simp)
    (hb : b ∈ p.vs := by simp) (hf : p.flags = true := by rfl) : Keeps p (vecBin f d a b t) :=
  .bind keeps_vecMode fun _ => .bind keeps_getModes fun _ => .bind (keeps_getVN ha) fun _ => .bind (keeps_getVN hb) fun _ =>
    .bind (keeps_addFlags hf) fun _ => keeps_setVN hd

theorem keeps_vecUn {f : Modes → Nat → Nat × FFlags} {t : Ty} (hd : d ∈ p.vd := by simp) (ha : a ∈ p.vs := by simp)
    (hf : p.flags = true := by rfl) : Keeps p (vecUn f d a t) :=
  .bind keeps_vecMode fun _ => .bind keeps_getModes fun _ => .bind (keeps_getVN ha) fun _ =>
    .bind (keeps_addFlags hf) fun _ => keeps_setVN hd

theorem keeps_vecTri {f : Modes → Nat → Nat → Nat → Nat × FFlags} {t : Ty} (hd : d ∈ p.vd := by simp) (ha : a ∈ p.vs := by simp)
    (hb : b ∈ p.vs := by simp) (he : e ∈ p.vs := by simp) (hf : p.flags = true := by rfl) : Keeps p (vecTri f d a b e t) :=
  .bind keeps_vecMode fun _ => .bind keeps_getModes fun _ => .bind (keeps_getVN ha) fun _ => .bind (keeps_getVN hb) fun _ =>
    .bind (keeps_getVN he) fun _ => .bind (keeps_addFlags hf) fun _ => keeps_setVN hd

theorem keeps_vecRed {op : FOp} {t : Ty} (hd : d ∈ p.vd := by simp) (ha : a ∈ p.vs := by simp)
    (hf : p.flags = true := by rfl) : Keeps p (vecRed op d a t) :=
  .bind keeps_vecMode fun _ => .bind keeps_getModes fun _ => .bind (keeps_getVN ha) fun _ =>
    .bind (keeps_addFlags hf) fun _ => keeps_setVN hd

end

/-! ## Ways of running -/

section
variable {s t : State} {α : Type}

/-- An instruction that stops clean has not completed. -/
theorem StopsClean.stopped {m : DevM Unit} {e : Stop} (he : StopsClean e) (hm : m s = .error e) (h : runDev m s = .next t) :
    Stopped s t := by
  simp only [runDev, hm] at h
  cases he with
  | trap c v => exact .inr (.inr (.inl ⟨c, v, (Host.Outcome.next.inj h).symm⟩))
  | queue g c v hg => exact .inr (.inr (.inr ⟨_, c, v, hg _, (Host.Outcome.next.inj h).symm⟩))
  | wait => exact .inl (Host.Outcome.next.inj h).symm
  | stall => exact .inr (.inl (Host.Outcome.next.inj h).symm)

/-- A computation of the core that is finished by `fin` either stops the instruction clean, or hands `fin` a core that keeps to `p`. -/
theorem Keeps.completes {m : CpuM α} {fin : α → State → State} (hm : Keeps p m)
    (h : runDev (onCore m >>= fun a => wr (fin a)) s = .next t) :
    Stopped s t ∨ ∃ a q, p.Frame (s.core s.cur) q ∧ t = fin a (s.setCore s.cur q) := by
  have hk := hm (s.core s.cur)
  cases hr : m (s.core s.cur) with
  | error e =>
    rw [hr] at hk
    cases hk with
    | error he => exact .inl (he.stopped (bind_err (onCore_err hr)) h)
  | ok r =>
    obtain ⟨a, q⟩ := r
    rw [hr] at hk
    simp only [runDev, bind_ok (onCore_ok hr), wr] at h
    cases hk with
    | ok hq => exact .inr ⟨a, q, hq, (Host.Outcome.next.inj h).symm⟩

/-- Retiring after a core has been put puts the core that has gone on. -/
theorem retire_setCore (s : State) (k : Core) :
    (s.setCore s.cur k).retire = s.setCore s.cur ((s.setCore s.cur k).countIssue k.advance) := by
  simp only [State.retire, State.setCore_cur, State.core_setCore_self, State.setCore_setCore]

theorem retireTo_setCore (s : State) (k : Core) (pc : Word) :
    (s.setCore s.cur k).retireTo pc = s.setCore s.cur ((s.setCore s.cur k).countIssue (k.jump pc)) := by
  simp only [State.retireTo, State.setCore_cur, State.core_setCore_self, State.setCore_setCore]

/-- The package with other credits and pushes on their way. -/
def withTraffic (s : State) (cr : List Credit) (ps : List Push) : State := { s with credits := cr, pushes := ps }

/-- Retiring does not look at the traffic of chains. -/
theorem retire_withTraffic (s : State) (cr : List Credit) (ps : List Push) : (withTraffic s cr ps).retire = withTraffic s.retire cr ps := rfl

/-- The pops and pushes of the core become traffic. -/
theorem flushChain_setCore (s : State) (k : Core) : ∃ n l cr ps,
    (s.setCore s.cur k).flushChain = withTraffic (s.setCore s.cur { k with popped := n, pushed := l }) cr ps := by
  simp only [State.flushChain, State.setCore_cur, State.core_setCore_self, State.setCore_setCore]
  split
  · exact ⟨k.popped, k.pushed, s.credits, s.pushes, rfl⟩
  · exact ⟨_, _, _, _, rfl⟩

/-- An instruction of the core that completes changes the issuing core alone, and of it what `p` names. -/
theorem Keeps.completes_core {m : CpuM Unit} (hm : Keeps p m) (h : runCore m s = .next t) :
    Stopped s t ∨ ∃ q, p.Frame (s.core s.cur) q ∧ t = s.setCore s.cur q :=
  (hm.completes h).imp_right fun ⟨_, q, hq, ht⟩ => ⟨_, hq.trans (.advance (s.setCore s.cur q)), ht.trans (retire_setCore s q)⟩

theorem Keeps.completes_jump {m : CpuM Word} (hm : Keeps p m) (h : runJump (onCore m) s = .next t) :
    Stopped s t ∨ ∃ q, p.Frame (s.core s.cur) q ∧ t = s.setCore s.cur q :=
  (hm.completes h).imp_right fun ⟨pc, q, hq, ht⟩ => ⟨_, hq.trans (.jump (s.setCore s.cur q) pc), ht.trans (retireTo_setCore s q pc)⟩

theorem Keeps.completes_vec {m : CpuM Unit} (hm : Keeps p m) (hp : p.vd ≠ [] ∨ p.vs ≠ []) (h : runVec m s = .next t) :
    Stopped s t ∨ ∃ q cr ps, p.Frame (s.core s.cur) q ∧ t = withTraffic (s.setCore s.cur q) cr ps := by
  unfold runVec runInstr at h
  rw [bind_assoc] at h
  refine (hm.completes (fin := fun _ u => u.flushChain.retire) h).imp_right fun ⟨_, q, hq, ht⟩ => ?_
  obtain ⟨n, l, cr, ps, hf⟩ := flushChain_setCore s q
  rw [hf, retire_withTraffic, retire_setCore] at ht
  exact ⟨_, cr, ps, (hq.trans (.flush hp n l)).trans (.advance _), ht⟩

end

/-! ## The frames of the statement -/

section
variable {s t : State} {q : Core}

/-- Vectors that agree at the number of every register agree. -/
theorem vector_ext_reg {α : Type} {n : Nat} {v w : Vector α n} (hn : n ≤ 32) (h : ∀ r : Reg, v[r.toNat]? = w[r.toNat]?) : v = w := by
  ext i hi
  have hr := h (BitVec.ofNat 5 i)
  rw [BitVec.toNat_ofNat, Nat.mod_eq_of_lt (by omega), Vector.getElem?_eq_getElem hi, Vector.getElem?_eq_getElem hi] at hr
  exact Option.some.inj hr

/-- Where no x register is named, the x registers and their queues stay. -/
theorem Touch.Frame.scalars (h : p.Frame k q) (hd : p.xd = []) (hs : p.xs = []) : q.hart.x = k.hart.x ∧ q.qi = k.qi ∧ q.qs = k.qs :=
  ⟨vector_ext_reg (by simp) fun r => h.x r (by simp [hd]), h.qi (by simp [hs]), h.qs (by simp [hd])⟩

/-- Where no f register is named, the f registers stay. -/
theorem Touch.Frame.floats (h : p.Frame k q) (hd : p.fd = []) : q.hart.f = k.hart.f :=
  vector_ext_reg (by simp) fun r => h.f r (by simp [hd])

/-- Where no v register is named, the v registers, their queue and what is kept for the chain stay. -/
theorem Touch.Frame.vectors (h : p.Frame k q) (hd : p.vd = []) (hs : p.vs = []) :
    q.v = k.v ∧ q.lv = k.lv ∧ q.vqi = k.vqi ∧ q.u.window = k.u.window ∧ q.popped = k.popped ∧ q.pushed = k.pushed :=
  ⟨vector_ext_reg (by simp) fun r => (h.v r (by simp [hd])).1, vector_ext_reg (by simp) fun r => (h.v r (by simp [hd])).2,
    h.vqi (by simp [hs]), h.window (by simp [hd]), h.chain hd hs⟩

theorem Touch.Frame.sameBytes (hs : CoresSorted s) (h : p.Frame (s.core s.cur) q) : SameBytes s (s.setCore s.cur q) :=
  State.byte_setCore hs h.l1

/-- The lists of an instruction on x and f registers. -/
@[simps] def scalarTouch (xd fd xs : List Reg) (flags : Bool) : Touch := { xd := xd, fd := fd, xs := xs, flags := flags }

/-- The lists of an arithmetic instruction on v registers. -/
@[simps] def vectorTouch (vd vs : List Reg) : Touch := { vd := vd, vs := vs, flags := true }

/-- The lists of an instruction on lanes. -/
@[simps] def laneTouch (vd vs xd xs : List Reg) (rng : Bool) : Touch := { vd := vd, vs := vs, xd := xd, xs := xs, rng := rng }

theorem regFrame_setCore {xd fd xs : List Reg} {flags : Bool} (hs : CoresSorted s)
    (h : (scalarTouch xd fd xs flags).Frame (s.core s.cur) q) : RegFrame xd fd xs flags s (s.setCore s.cur q) := by
  obtain ⟨ev, elv, evqi, ewin, epop, epush⟩ := h.vectors rfl rfl
  obtain ⟨elo, ehi⟩ := h.rng rfl
  have hrest := h.rest
  rw [withRegsOf, ev, elv, evqi, ewin, epop, epush, elo, ehi] at hrest
  simp only [RegFrame, State.core_setCore_self]
  exact ⟨trivial, hrest, h.fflags, h.slot, h.x, h.f, h.qi, h.qs, h.sameBytes hs⟩

/-- The issuing core and the others of a package with a core put and other traffic. -/
theorem core_withTraffic (s : State) (q : Core) (cr : List Credit) (ps : List Push) :
    (withTraffic (s.setCore s.cur q) cr ps).core s.cur = q := State.core_setCore_self s s.cur q

theorem otherCores_withTraffic (s : State) (q : Core) (cr : List Credit) (ps : List Push) :
    OtherCoresSame s.cur s (withTraffic (s.setCore s.cur q) cr ps) := fun _ hd => State.core_setCore_ne s q hd

theorem vecFrame_withTraffic {vd vs : List Reg} (cr : List Credit) (ps : List Push) (hs : CoresSorted s)
    (h : (vectorTouch vd vs).Frame (s.core s.cur) q) : VecFrame vd vs s (withTraffic (s.setCore s.cur q) cr ps) := by
  obtain ⟨ex, eqi, eqs⟩ := h.scalars rfl rfl
  obtain ⟨elo, ehi⟩ := h.rng rfl
  have hrest := h.rest
  rw [withRegsOf, eqi, eqs, elo, ehi] at hrest
  simp only [VecFrame, core_withTraffic]
  exact ⟨rfl, otherCores_withTraffic s q cr ps, hrest, h.slot, ex, h.floats rfl, h.v, h.vqi, h.window, h.sameBytes hs⟩

theorem laneFrame_withTraffic {vd vs xd xs : List Reg} {rng : Bool} (cr : List Credit) (ps : List Push) (hs : CoresSorted s)
    (h : (laneTouch vd vs xd xs rng).Frame (s.core s.cur) q) :
    LaneFrame vd vs xd xs rng s (withTraffic (s.setCore s.cur q) cr ps) := by
  have hrest := h.rest
  rw [withRegsOf, h.fflags rfl] at hrest
  simp only [LaneFrame, core_withTraffic]
  exact ⟨rfl, otherCores_withTraffic s q cr ps, hrest, h.rng, h.slot, h.floats rfl, h.x, h.v, h.vqi, h.window, h.qi, h.qs,
    h.sameBytes hs⟩

theorem Keeps.regFrame {xd fd xs : List Reg} {flags : Bool} {m : CpuM Unit} (hm : Keeps (scalarTouch xd fd xs flags) m)
    (hs : CoresSorted s) (h : runCore m s = .next t) : Stopped s t ∨ RegFrame xd fd xs flags s t :=
  (hm.completes_core h).imp_right fun ⟨_, hq, ht⟩ => ht ▸ regFrame_setCore hs hq

theorem Keeps.regFrame_jump {xd fd xs : List Reg} {flags : Bool} {m : CpuM Word} (hm : Keeps (scalarTouch xd fd xs flags) m)
    (hs : CoresSorted s) (h : runJump (onCore m) s = .next t) : Stopped s t ∨ RegFrame xd fd xs flags s t :=
  (hm.completes_jump h).imp_right fun ⟨_, hq, ht⟩ => ht ▸ regFrame_setCore hs hq

theorem Keeps.vecFrame {d : Reg} {vd vs : List Reg} {m : CpuM Unit} (hm : Keeps (vectorTouch (d :: vd) vs) m)
    (hs : CoresSorted s) (h : runVec m s = .next t) : Stopped s t ∨ VecFrame (d :: vd) vs s t :=
  (hm.completes_vec (.inl (List.cons_ne_nil _ _)) h).imp_right fun ⟨_, cr, ps, hq, ht⟩ => ht ▸ vecFrame_withTraffic cr ps hs hq

theorem Keeps.laneFrame {vd vs xd xs : List Reg} {rng : Bool} {m : CpuM Unit} (hm : Keeps (laneTouch vd vs xd xs rng) m)
    (hs : CoresSorted s) (h : runVec m s = .next t) (hv : vd ≠ [] ∨ vs ≠ [] := by simp) :
    Stopped s t ∨ LaneFrame vd vs xd xs rng s t :=
  (hm.completes_vec hv h).imp_right fun ⟨_, cr, ps, hq, ht⟩ => ht ▸ laneFrame_withTraffic cr ps hs hq

end

/-! ## The tables of instructions: every row runs the form of its table -/

theorem exec_twoSource : ∀ r ∈ twoSourceTable, ∃ f, ∀ d a b s, exec (r.1 d a b) s = runCore (opXX f d a b) s := by
  unfold twoSourceTable
  repeat' (refine List.forall_mem_cons.2 ⟨⟨_, fun _ _ _ _ => rfl⟩, ?_⟩)
  exact List.forall_mem_nil _

theorem exec_oneSource : ∀ r ∈ oneSourceTable, ∃ f, ∀ d a s, exec (r.1 d a) s = runCore (opX f d a) s := by
  unfold oneSourceTable
  repeat' (refine List.forall_mem_cons.2 ⟨⟨_, fun _ _ _ => rfl⟩, ?_⟩)
  exact List.forall_mem_nil _

theorem exec_immediate : ∀ r ∈ immediateTable, ∃ f, ∀ d a i s, exec (r.1 d a i) s = runCore (opXI f d a i) s := by
  unfold immediateTable
  repeat' (refine List.forall_mem_cons.2 ⟨⟨_, fun _ _ _ _ => rfl⟩, ?_⟩)
  exact List.forall_mem_nil _

theorem exec_shift : ∀ r ∈ shiftTable, ∀ n, ∃ f, ∀ d a s, exec (r.1 d a n) s = runCore (opX f d a) s := by
  unfold shiftTable
  repeat' (refine List.forall_mem_cons.2 ⟨fun _ => ⟨_, fun _ _ _ => rfl⟩, ?_⟩)
  exact List.forall_mem_nil _

theorem exec_branch : ∀ r ∈ branchTable, ∃ f, ∀ a b i s, exec (r.1 a b i) s = runJump (branch f a b i) s := by
  unfold branchTable
  repeat' (refine List.forall_mem_cons.2 ⟨⟨_, fun _ _ _ _ => rfl⟩, ?_⟩)
  exact List.forall_mem_nil _

theorem exec_fpBin : ∀ r ∈ fpBinTable, ∃ op, ∀ d a b t s, exec (r.1 d a b t) s = runCore (fpaBin op d a b t) s := by
  unfold fpBinTable
  repeat' (refine List.forall_mem_cons.2 ⟨⟨_, fun _ _ _ _ _ => rfl⟩, ?_⟩)
  exact List.forall_mem_nil _

theorem exec_fpCmp : ∀ r ∈ fpCmpTable, ∃ c, ∀ d a b t s, exec (r.1 d a b t) s = runCore (fpaCmp c d a b t) s := by
  unfold fpCmpTable
  repeat' (refine List.forall_mem_cons.2 ⟨⟨_, fun _ _ _ _ _ => rfl⟩, ?_⟩)
  exact List.forall_mem_nil _

theorem exec_sign : ∀ r ∈ signTable, ∃ o, ∀ d a b t s, exec (r.1 d a b t) s = runCore (fpaSgn o d a b t) s := by
  unfold signTable
  repeat' (refine List.forall_mem_cons.2 ⟨⟨_, fun _ _ _ _ _ => rfl⟩, ?_⟩)
  exact List.forall_mem_nil _

theorem exec_fused : ∀ r ∈ fusedTable, ∃ t np ns, ∀ d a b e s, exec (r.1 d a b e) s = runCore (fmaOp t np ns d a b e) s := by
  unfold fusedTable
  repeat' (refine List.forall_mem_cons.2 ⟨⟨_, _, _, fun _ _ _ _ _ => rfl⟩, ?_⟩)
  exact List.forall_mem_nil _

theorem exec_laneBin : ∀ r ∈ laneBinTable, ∀ t, ∃ f, ∀ d a b s, exec (r.1 d a b t) s = runVec (vecBin f d a b t) s := by
  unfold laneBinTable
  repeat' (refine List.forall_mem_cons.2 ⟨fun _ => ⟨_, fun _ _ _ _ => rfl⟩, ?_⟩)
  exact List.forall_mem_nil _

theorem exec_laneUn : ∀ r ∈ laneUnTable, ∀ t, ∃ f, ∀ d a s, exec (r.1 d a t) s = runVec (vecUn f d a t) s := by
  unfold laneUnTable
  repeat' (refine List.forall_mem_cons.2 ⟨fun _ => ⟨_, fun _ _ _ => rfl⟩, ?_⟩)
  exact List.forall_mem_nil _

theorem exec_laneTri : ∀ r ∈ laneTriTable, ∃ f t, ∀ d a b e s, exec (r.1 d a b e) s = runVec (vecTri f d a b e t) s := by
  unfold laneTriTable
  repeat' (refine List.forall_mem_cons.2 ⟨⟨_, _, fun _ _ _ _ _ => rfl⟩, ?_⟩)
  exact List.forall_mem_nil _

theorem exec_reduce : ∀ r ∈ reduceTable, ∃ op, ∀ d a t s, exec (r.1 d a t) s = runVec (vecRed op d a t) s := by
  unfold reduceTable
  repeat' (refine List.forall_mem_cons.2 ⟨⟨_, fun _ _ _ _ => rfl⟩, ?_⟩)
  exact List.forall_mem_nil _

/-! ## The obligation -/

/-- Settles O57: every operand form keeps to the lists of its instruction, so every form of instruction does, and the frame of a run is
that of its form. The clauses stand in the order of the statement. -/
theorem registerFrames : Obligations.RegisterFrames := by
  intro s t d a b e hs
  -- Integer instructions, branches and jumps (R88 to R95).
  refine ⟨fun r hr h => ?_, fun r hr h => ?_, fun h => ?_, fun r hr i h => ?_, fun r hr n h => ?_, fun i h => ?_, fun r hr i h => ?_,
    fun off h => ?_, fun i h => ?_, ?_⟩
  · obtain ⟨f, hf⟩ := exec_twoSource r hr
    exact Keeps.regFrame keeps_opXX hs (hf .. ▸ h)
  · obtain ⟨f, hf⟩ := exec_oneSource r hr
    exact Keeps.regFrame keeps_opX hs (hf .. ▸ h)
  · refine Keeps.regFrame ?_ hs (show execSel d a b e s = .next t from h)
    exact .bind keeps_getX fun _ => .bind keeps_getX fun _ => .bind keeps_getX fun _ => keeps_setX
  · obtain ⟨f, hf⟩ := exec_immediate r hr
    exact Keeps.regFrame keeps_opXI hs (hf .. ▸ h)
  · obtain ⟨f, hf⟩ := exec_shift r hr n
    exact Keeps.regFrame keeps_opX hs (hf .. ▸ h)
  · rcases h with h | h
    · refine Keeps.regFrame ?_ hs (show execLui d i s = .next t from h)
      exact .bind keeps_getImm fun _ => keeps_setX
    · refine Keeps.regFrame ?_ hs (show execAuipc d i s = .next t from h)
      exact .bind keeps_getImm fun _ => .bind keeps_rd fun _ => keeps_setX
  · obtain ⟨f, hf⟩ := exec_branch r hr
    refine Keeps.regFrame_jump ?_ hs (hf .. ▸ h)
    exact .bind keeps_getX fun _ => .bind keeps_getX fun _ => .bind keeps_getImm fun _ => .bind keeps_rd fun _ => keeps_pure
  · refine Keeps.regFrame_jump ?_ hs (show execJal off s = .next t from h)
    exact .bind keeps_rd fun _ => .bind keeps_setX fun _ => keeps_pure
  · refine Keeps.regFrame_jump ?_ hs (show execJalr d a i s = .next t from h)
    exact .bind keeps_getX fun _ => .bind keeps_getImm fun _ => .bind keeps_rd fun _ => .bind keeps_trapIf fun _ =>
      .bind keeps_setX fun _ => keeps_pure
  -- The families of floating and of lanewise instructions (R127, R128, R130, R134; R135, R137, R139, R142 to R145).
  refine ⟨fun r hr ty h => ?_, fun r hr ty h => ?_, fun r hr ty h => ?_, fun r hr h => ?_, fun r hr ty h => ?_, fun r hr ty h => ?_,
    fun r hr h => ?_, fun r hr ty h => ?_, ?_⟩
  · obtain ⟨op, hop⟩ := exec_fpBin r hr
    exact Keeps.regFrame keeps_fpaBin hs (hop .. ▸ h)
  · obtain ⟨c, hc⟩ := exec_fpCmp r hr
    exact Keeps.regFrame keeps_fpaCmp hs (hc .. ▸ h)
  · obtain ⟨o, ho⟩ := exec_sign r hr
    exact Keeps.regFrame keeps_fpaSgn hs (ho .. ▸ h)
  · obtain ⟨ty, np, ns, hf⟩ := exec_fused r hr
    exact Keeps.regFrame keeps_fmaOp hs (hf .. ▸ h)
  · obtain ⟨f, hf⟩ := exec_laneBin r hr ty
    exact Keeps.vecFrame keeps_vecBin hs (hf .. ▸ h)
  · obtain ⟨f, hf⟩ := exec_laneUn r hr ty
    exact Keeps.vecFrame keeps_vecUn hs (hf .. ▸ h)
  · obtain ⟨f, ty, hf⟩ := exec_laneTri r hr
    exact Keeps.vecFrame keeps_vecTri hs (hf .. ▸ h)
  · obtain ⟨op, hop⟩ := exec_reduce r hr
    exact Keeps.vecFrame keeps_vecRed hs (hop .. ▸ h)
  -- The other floating instructions and conversions (R127, R129, R131 to R133, R138).
  refine ⟨fun ty h => ?_, fun ty h => ?_, fun x y h => ?_, fun z ty h => ?_, fun z ty h => ?_, fun ty h => ?_, fun x y h => ?_, ?_⟩
  · refine Keeps.regFrame ?_ hs (show execFsqrt d a ty s = .next t from h)
    exact .bind keeps_getModes fun _ => .bind keeps_getF fun _ => .bind keeps_addFlags fun _ => keeps_setFn
  · rcases h with h | h
    · refine Keeps.regFrame ?_ hs (show execFclass d a ty s = .next t from h)
      exact .bind keeps_getF fun _ => keeps_setX
    · refine Keeps.regFrame ?_ hs (show execFmvxf d a ty s = .next t from h)
      exact .bind keeps_getF fun _ => keeps_setX
  · refine Keeps.regFrame ?_ hs (show execFcvtf d a x y s = .next t from h)
    exact .bind keeps_getModes fun _ => .bind keeps_getF fun _ => .bind keeps_addFlags fun _ => keeps_setFn
  · refine Keeps.regFrame ?_ hs (show execFcvtfi d a z ty s = .next t from h)
    exact .bind keeps_getModes fun _ => .bind keeps_getF fun _ => .bind keeps_addFlags fun _ => keeps_setX
  · refine Keeps.regFrame ?_ hs (show execFcvtif d a z ty s = .next t from h)
    exact .bind keeps_getModes fun _ => .bind keeps_getX fun _ => .bind keeps_addFlags fun _ => keeps_setFn
  · refine Keeps.regFrame ?_ hs (show execFmvfx d a ty s = .next t from h)
    exact .bind keeps_getX fun _ => keeps_setF
  · refine Keeps.vecFrame ?_ hs (show execVcvt d a x y s = .next t from h)
    exact .bind keeps_vecMode fun _ => .bind keeps_getModes fun _ => .bind keeps_getVN fun _ => .bind keeps_addFlags fun _ => keeps_setVN
  -- Moves of lanes and random numbers (R136, R140 to R142, R146).
  refine ⟨fun ty h => ?_, fun ty h => ?_, fun ty h => ?_, fun ty h => ?_, fun ty h => ?_, fun h => ?_, fun h => ?_, fun ty h => ?_⟩
  · refine Keeps.laneFrame ?_ hs (show execVsel d a b ty s = .next t from h)
    exact .bind keeps_vecMode fun _ => .bind keeps_getVN fun _ => .bind keeps_getVN fun _ => .bind keeps_getVN fun _ => keeps_setVN
  · refine Keeps.laneFrame ?_ hs (show execVperm d a b ty s = .next t from h)
    exact .bind keeps_vecMode fun _ => .bind keeps_getVN fun _ => .bind keeps_getVN fun _ => keeps_setVN
  · refine Keeps.laneFrame ?_ hs (show execVbcl d a b ty s = .next t from h)
    exact .bind keeps_vecMode fun _ => .bind keeps_getVN fun _ => .bind keeps_laneIndex fun _ => keeps_setVN
  · refine Keeps.laneFrame ?_ hs (show execVextx d a b ty s = .next t from h)
    exact .bind keeps_vecMode fun _ => .bind keeps_getVN fun _ => .bind keeps_laneIndex fun _ => keeps_setX
  · refine Keeps.laneFrame ?_ hs (show execVinsx d a b ty s = .next t from h)
    exact .bind keeps_vecMode fun _ => .bind keeps_getX fun _ => .bind keeps_laneIndex fun _ => .bind keeps_getVN fun _ => keeps_setVN
  · refine Keeps.laneFrame ?_ hs (show execVmov d a s = .next t from h)
    exact .bind keeps_vecMode fun _ => .bind keeps_getVN fun _ => keeps_setVN
  · refine Keeps.laneFrame ?_ hs (show execVzero d s = .next t from h)
    exact .bind keeps_vecMode fun _ => keeps_setVN
  · refine Keeps.laneFrame ?_ hs (show execVrand d ty s = .next t from h)
    exact .bind keeps_vecMode fun _ => .bind keeps_rd fun _ => .bind keeps_setRng fun _ => keeps_setVN

end Sys2Proof.Frames

/-! ## System registers (02, R34, R35; 05, R92): the checks in their order, and the model against the rows of R35 -/

namespace Sys2Proof.Machine
open Sys2Proof.Safety

/-- Reading the state answers with it. -/
theorem rd_bind {σ α : Type} (f : σ → M σ α) (s : σ) : (rd >>= f) s = f s s := rfl

theorem trapIf_trap {σ : Type} {c : Bool} (cause : Nat) (tval : Word) (s : σ) (h : c = true) :
    trapIf c cause tval s = .error (.trap cause tval) := by
  simp [trapIf, h]

theorem waitIf_ok {σ : Type} {c : Bool} (s : σ) (h : c = false) : waitIf c s = .ok ((), s) := by
  simp [waitIf, h]

theorem waitIf_wait {σ : Type} {c : Bool} (s : σ) (h : c = true) : waitIf c s = .error (.wait id) := by
  simp [waitIf, h]

/-- Every earlier store of the core is acknowledged, as the model and as the statements say it. -/
theorem storesDone_iff {k : Core} : k.storesDone = true ↔ Acked k := by
  simp [Core.storesDone, Acked]

/-- A popped source leaves everything of the core but qi. -/
theorem source_rest {k k' : Core} {r : Reg} {v : Word} (h : Source k r v k') : k' = { k with qi := k'.qi } := by
  rcases h with ⟨-, -, rfl⟩ | ⟨-, -, -, -, rfl⟩ | ⟨-, _, -, rfl⟩ <;> rfl

/-! ### The rows -/

/-- The rows of R35, HMAP0 to HMAP17 among them. -/
def sysRows : List SysRow := sysTable ++ hmapTable

theorem id_lt_of_row : ∀ r ∈ sysRows, r.id < 4096 := by decide

theorem sysPriv_of_row : ∀ r ∈ sysRows, sysPriv r.id = some r.priv := by decide

theorem sysRO_of_row : ∀ r ∈ sysRows, sysRO r.id = r.ro := by decide

theorem sysZeroBits_of_row : ∀ r ∈ sysRows, r.ro = false → sysZeroBits r.id = r.zero := by decide


theorem sysRead_of_row : ∀ r ∈ sysRows, ∀ s : State, s.sysRead r.id = r.read s (s.core s.cur) := by
  unfold sysRows sysTable
  repeat' (refine List.forall_mem_cons.2 ⟨fun _ => rfl, ?_⟩)
  exact List.forall_mem_nil _

/-- An identifier with a privilege is that of a row. -/
theorem row_of_sysPriv {n p : Nat} (h : sysPriv n = some p) : ∃ r ∈ sysRows, r.id = n := by
  have hids : n ∈ sysRows.map SysRow.id := by
    unfold sysPriv at h
    split at h
    · rename_i hr
      rcases hr with ⟨_, _⟩ | ⟨_, _⟩ | ⟨_, _⟩ | ⟨_, _⟩ | ⟨_, _⟩ <;> interval_cases n <;> decide
    · split at h
      · rename_i hr
        obtain ⟨_, _⟩ := hr
        interval_cases n <;> decide
      · split at h
        · rename_i hr
          rcases hr with ⟨_, _⟩ | ⟨_, _⟩ | ⟨_, _⟩ <;> interval_cases n <;> decide
        · cases h
  exact List.mem_map.1 hids

/-! ### The checks -/

section
variable {s : State} {id p : Nat} {write : Bool} {word : Word}

theorem sysChecks_unknown (h : sysPriv id = none) : sysChecks id write word s = .error (.trap causeIllegal word) := by
  simp only [sysChecks, rd_bind, h, trapM]

theorem sysChecks_priv (h : sysPriv id = some p) (hp : (s.core s.cur).priv < p) :
    sysChecks id write word s = .error (.trap causePriv word) := by
  simp only [sysChecks, rd_bind, h]
  exact bind_err (trapIf_trap _ _ _ (decide_eq_true hp))

theorem sysChecks_privileged (h : sysPriv id = some p) (hp : p ≤ (s.core s.cur).priv) :
    sysChecks id write word s = trapIf (write && sysRO id) causeIllegal word s := by
  simp only [sysChecks, rd_bind, h]
  exact bind_ok (trapIf_ok _ _ _ (decide_eq_false (Nat.not_lt.2 hp)))

end

/-! ### SYSRD -/

/-- A first part that answers and leaves the package does not show. -/
theorem runInstr_bind {α : Type} {m : DevM α} {f : α → DevM Unit} {s : State} {a : α} (h : m s = .ok (a, s)) :
    runInstr (m >>= f) s = runInstr (f a) s := by
  simp only [runInstr, runDev, bind_assoc, bind_ok h]

section
variable {s : State} {d : Reg} {id : BitVec 12} {p : Nat}

/-- Past its checks and its waits, SYSRD writes what the register reads. -/
theorem execSysrd_completes {k : Core} (hp : sysPriv id.toNat = some p) (hpriv : p ≤ (s.core s.cur).priv)
    (hmat : sysWaitsMat id.toNat = true → (s.core s.cur).mat = none) (hack : id.toNat = 0x022 → Acked (s.core s.cur))
    (hd : Dest (s.core s.cur) d (s.sysRead id.toNat) k) : Completes (.sysrd d id) s k := by
  have hm : (sysWaitsMat id.toNat && (s.core s.cur).mat.isSome) = false :=
    Bool.and_eq_false_imp.2 fun h => by rw [hmat h]; rfl
  have ha : (id.toNat == 0x022 && !(s.core s.cur).storesDone) = false :=
    Bool.and_eq_false_imp.2 fun h => by rw [storesDone_iff.2 (hack (eq_of_beq h))]; rfl
  calc exec (.sysrd d id) s
    _ = runInstr (do
          waitIf (sysWaitsMat id.toNat && (s.core s.cur).mat.isSome)
          waitIf (id.toNat == 0x022 && !(s.core s.cur).storesDone)
          onCore (setX d (s.sysRead id.toNat))) s :=
        (runInstr_bind (sysChecks_privileged hp hpriv)).trans (runInstr_bind rfl)
    _ = runCore (setX d (s.sysRead id.toNat)) s := (runInstr_bind (waitIf_ok _ hm)).trans (runInstr_bind (waitIf_ok _ ha))
    _ = .next (s.setCore s.cur k).retire := runCore_ok (setX_of_dest hd)

theorem execSysrd_trap {cause : Nat} {v : Word}
    (h : sysChecks id.toNat false (BitVec.ofNat 64 ((encode (.sysrd d id)).getD 0)) s = .error (.trap cause v)) :
    Traps (.sysrd d id) s cause v :=
  runInstr_trap (bind_err h)

/-- PTS is read once every earlier store has its timestamp (R272). -/
theorem execSysrd_waitsPts (h : ¬ Acked (s.core s.cur)) : Waits (.sysrd d 0x022) s := by
  have ha : ((0x022 : BitVec 12).toNat == 0x022 && !(s.core s.cur).storesDone) = true := by
    rw [Bool.eq_false_iff.2 (mt storesDone_iff.1 h)]
    rfl
  calc exec (.sysrd d 0x022) s
    _ = runInstr (do
          waitIf (sysWaitsMat (0x022 : BitVec 12).toNat && (s.core s.cur).mat.isSome)
          waitIf ((0x022 : BitVec 12).toNat == 0x022 && !(s.core s.cur).storesDone)
          onCore (setX d (s.sysRead (0x022 : BitVec 12).toNat))) s :=
        (runInstr_bind (sysChecks_privileged (p := 0) rfl (Nat.zero_le _))).trans (runInstr_bind rfl)
    _ = runInstr (do
          waitIf ((0x022 : BitVec 12).toNat == 0x022 && !(s.core s.cur).storesDone)
          onCore (setX d (s.sysRead (0x022 : BitVec 12).toNat))) s := runInstr_bind (waitIf_ok _ rfl)
    _ = .next s := runInstr_wait (bind_err (waitIf_wait _ ha))

end

/-- Settles O7: the model's privileges and reads are those of the rows of R35, and an identifier with a privilege is that of a row. -/
theorem systemRegisterReads : Obligations.SystemRegisterReads := by
  refine ⟨fun r hr s d k => ?_, fun s d h => execSysrd_waitsPts h, fun s d id hid => ?_⟩
  · have hid : (BitVec.ofNat 12 r.id).toNat = r.id := by
      rw [BitVec.toNat_ofNat, Nat.mod_eq_of_lt (id_lt_of_row r hr)]
    have hp : sysPriv (BitVec.ofNat 12 r.id).toNat = some r.priv := by rw [hid, sysPriv_of_row r hr]
    refine ⟨fun hpriv hmat hack hd => ?_, fun hpriv => execSysrd_trap (sysChecks_priv hp hpriv)⟩
    refine execSysrd_completes hp hpriv (fun h => hmat ?_) (fun h => hack (hid ▸ h)) ?_
    · simpa [sysWaitsMat, hid] using h
    · rw [hid, sysRead_of_row r hr]
      exact hd
  · refine execSysrd_trap (sysChecks_unknown (Option.eq_none_iff_forall_ne_some.2 fun p hp => ?_))
    obtain ⟨r, hr, hrid⟩ := row_of_sysPriv hp
    exact hid r hr hrid

end Sys2Proof.Machine

namespace Sys2Proof.Machine
open Sys2Proof.Safety

/-! ## The core map: what it is read from (R238, R239) -/

section
variable {s t : State} (hb : t.plat.l2pbase = s.plat.l2pbase) (hh : t.plat.hmap = s.plat.hmap) (hm : t.mem = s.mem)
include hb hh hm

theorem State.enabled_congr : t.enabled = s.enabled := by
  funext c
  simp only [State.enabled, State.harvestWord, hb, hh, hm]

theorem State.enabledBelow_congr : ∀ n, t.enabledBelow n = s.enabledBelow n
  | 0 => rfl
  | n + 1 => by rw [State.enabledBelow, State.enabledBelow, State.enabledBelow_congr n, State.enabled_congr hb hh hm]

theorem State.logicalCount_congr : t.logicalCount = s.logicalCount := by
  simp only [State.logicalCount, hb, hm, State.enabledBelow_congr hb hh hm]

theorem State.nthEnabled_congr : ∀ fuel c n, t.nthEnabled fuel c n = s.nthEnabled fuel c n
  | 0, _, _ => rfl
  | fuel + 1, c, 0 => by
    rw [State.nthEnabled, State.nthEnabled, State.enabled_congr hb hh hm, State.nthEnabled_congr fuel]
  | fuel + 1, c, n + 1 => by
    rw [State.nthEnabled, State.nthEnabled, State.enabled_congr hb hh hm, State.nthEnabled_congr fuel, State.nthEnabled_congr fuel]

theorem State.physical_congr : t.physical = s.physical := by
  funext l
  simp only [State.physical, hb, hm, State.logicalCount_congr hb hh hm, State.nthEnabled_congr hb hh hm]

theorem State.logicalFrom_congr (c : Nat) : ∀ fuel l, t.logicalFrom c fuel l = s.logicalFrom c fuel l
  | 0, _ => rfl
  | fuel + 1, l => by
    rw [State.logicalFrom, State.logicalFrom, State.physical_congr hb hh hm, State.logicalFrom_congr c fuel]

theorem State.logical_congr : t.logical = s.logical := by
  funext c
  simp only [State.logical, hb, State.enabledBelow_congr hb hh hm, State.logicalCount_congr hb hh hm, State.logicalFrom_congr hb hh hm]

theorem State.clusterWord_congr : t.clusterWord = s.clusterWord := by
  funext c
  simp only [State.clusterWord, State.enabled_congr hb hh hm]

end

@[simp] theorem State.logical_setCore (s : State) (c : Nat) (k : Core) : (s.setCore c k).logical = s.logical :=
  State.logical_congr rfl rfl rfl

@[simp] theorem State.clusterWord_setCore (s : State) (c : Nat) (k : Core) : (s.setCore c k).clusterWord = s.clusterWord :=
  State.clusterWord_congr rfl rfl rfl

end Sys2Proof.Machine

namespace Sys2Proof.Machine
open Sys2Proof.Safety

/-! ### SYSWR: the value that a row allows -/

/-- Check 4 of R34 in the model allows no more than the row; the stage registers' further check is R148's. -/
theorem allows_of_sysValueOk {r : SysRow} (hr : r ∈ sysRows) (hro : r.ro = false) {s : State} {v : Word}
    (h : s.sysValueOk r.id v = true) : r.allows v := by
  simp only [State.sysValueOk, sysZeroBits_of_row r hr hro, Bool.and_eq_true, beq_iff_eq] at h
  obtain ⟨hz, hv⟩ := h
  refine ⟨hz, fun e => ?_, fun e => ?_⟩
  · simpa [e] using hv
  · simpa [e, bitsOf] using hv

theorem sysValueOk_of_allows {r : SysRow} (hr : r ∈ sysRows) (hro : r.ro = false) (hup : r.id ≠ 0x030) (hdn : r.id ≠ 0x031)
    {s : State} {v : Word} (h : r.allows v) : s.sysValueOk r.id v = true := by
  obtain ⟨hz, hop, hpl⟩ := h
  simp only [State.sysValueOk, sysZeroBits_of_row r hr hro, Bool.and_eq_true, beq_iff_eq]
  refine ⟨hz, ?_⟩
  split
  · simpa using hop (by assumption)
  · simpa [bitsOf] using hpl (by assumption)
  · contradiction
  · contradiction
  · rfl

/-! ### SYSWR: its outcomes -/

section
variable {s : State} {a : Reg} {id : BitVec 12} {p : Nat} {v : Word} {k : Core}

theorem execSyswr_trap {cause : Nat} {w : Word}
    (h : sysChecks id.toNat true (BitVec.ofNat 64 ((encode (.syswr a id)).getD 0)) s = .error (.trap cause w)) :
    Traps (.syswr a id) s cause w :=
  runInstr_trap (bind_err h)

theorem sysChecks_writable (hp : sysPriv id.toNat = some p) (hpriv : p ≤ (s.core s.cur).priv) (hro : sysRO id.toNat = false)
    (word : Word) : sysChecks id.toNat true word s = .ok ((), s) := by
  rw [sysChecks_privileged hp hpriv]
  exact trapIf_ok _ _ _ (by rw [hro]; rfl)

/-- Check 4 of R34. -/
theorem execSyswr_badValue (hp : sysPriv id.toNat = some p) (hpriv : p ≤ (s.core s.cur).priv) (hro : sysRO id.toNat = false)
    (ha : Source (s.core s.cur) a v k) (hv : (s.setCore s.cur k).sysValueOk id.toNat v = false) :
    Traps (.syswr a id) s causeBadOp v := by
  refine runInstr_trap ?_
  rw [bind_ok (sysChecks_writable hp hpriv hro _), bind_ok (onCore_ok (getX_of_source ha)), rd_bind]
  exact bind_err (trapIf_trap _ _ _ (by rw [hv]; rfl))

/-- Past its checks and its waits, SYSWR of a register that is no stage register writes it. -/
theorem execSyswr_completes (hp : sysPriv id.toNat = some p) (hpriv : p ≤ (s.core s.cur).priv) (hro : sysRO id.toNat = false)
    (ha : Source (s.core s.cur) a v k) (hv : (s.setCore s.cur k).sysValueOk id.toNat v = true)
    (hmat : sysWaitsMat id.toNat = true → k.mat = none) (hred : 0x040 ≤ id.toNat → id.toNat ≤ 0x043 → k.red.slots = [])
    (hup : id.toNat ≠ 0x030) (hdn : id.toNat ≠ 0x031) :
    CompletesAt (.syswr a id) s ((s.setCore s.cur k).sysPut id.toNat v) := by
  refine runInstr_ok ?_
  rw [bind_ok (sysChecks_writable hp hpriv hro _), bind_ok (onCore_ok (getX_of_source ha)), rd_bind,
    bind_ok (trapIf_ok _ _ _ (by rw [hv]; rfl)), State.setCore_cur, State.core_setCore_self, bind_ok (waitIf_ok _ ?mat),
    bind_ok (waitIf_ok _ ?red), if_neg hup, if_neg hdn]
  · rfl
  case mat => exact Bool.and_eq_false_imp.2 fun h => by rw [hmat h]; rfl
  case red =>
    refine Bool.and_eq_false_imp.2 fun h => ?_
    obtain ⟨hlo, hhi⟩ := (Bool.and_eq_true _ _).mp h
    rw [hred (of_decide_eq_true hlo) (of_decide_eq_true hhi)]
    rfl

end

/-- Settles O9: the checks of R34 stand in their order before anything is written, and the value's is that of the row. -/
theorem systemRegisterChecks : Obligations.SystemRegisterChecks := by
  intro r hr s a
  have hid : (BitVec.ofNat 12 r.id).toNat = r.id := by
    rw [BitVec.toNat_ofNat, Nat.mod_eq_of_lt (id_lt_of_row r hr)]
  have hp : sysPriv (BitVec.ofNat 12 r.id).toNat = some r.priv := by rw [hid, sysPriv_of_row r hr]
  have hRO : sysRO (BitVec.ofNat 12 r.id).toNat = r.ro := by rw [hid, sysRO_of_row r hr]
  refine ⟨fun hpriv => execSyswr_trap (sysChecks_priv hp hpriv), fun hpriv hro => execSyswr_trap ?_,
    fun v k ha hpriv hro hv => execSyswr_badValue hp hpriv (hRO.trans hro) ha ?_⟩
  · rw [sysChecks_privileged hp hpriv]
    exact trapIf_trap _ _ _ (by rw [hRO, hro]; rfl)
  · rw [hid]
    exact Bool.eq_false_iff.2 (mt (allows_of_sysValueOk hr hro) hv)

/-! ### SYSWR: what a write changes of the registers of R35 -/

/-- A row is read from its core, and of the package from what is outside the cores. -/
theorem read_setCore : ∀ q ∈ sysRows, ∀ (s : State) (c : Nat) (k k' : Core), q.read (s.setCore c k) k' = q.read s k' := by
  unfold sysRows sysTable
  repeat' (refine List.forall_mem_cons.2 ⟨fun _ _ _ _ => rfl, ?_⟩)
  refine List.forall_mem_cons.2 ⟨fun s c k _ => ?_, List.forall_mem_cons.2 ⟨fun s c k _ => ?_, ?_⟩⟩
  · exact congrArg (fun l => BitVec.ofNat 64 (l s.cur % 4096)) (State.logical_setCore s c k)
  · exact congrFun (State.clusterWord_setCore s c k) s.cur
  repeat' (refine List.forall_mem_cons.2 ⟨fun _ _ _ _ => rfl, ?_⟩)
  exact List.forall_mem_nil _

theorem read_withQi : ∀ q ∈ sysRows, ∀ (s : State) (k : Core) (l : List QEntry), q.read s { k with qi := l } = q.read s k := by
  unfold sysRows sysTable
  repeat' (refine List.forall_mem_cons.2 ⟨fun _ _ _ => rfl, ?_⟩)
  exact List.forall_mem_nil _

/-- The writable rows of a core but for the stage registers. -/
def coreRows : List SysRow := sysTable.filter fun r => !r.ro && decide (r.id < 0x200) && r.id ∉ [0x030, 0x031]

/-- A write of a register of the core makes of the core `put k v`: the row reads what R35 says, and the others as before. -/
structure PutsCore (r : SysRow) (put : Core → Word → Core) : Prop where
  sysPut : ∀ (s : State) v, s.sysPut r.id v = s.modCore s.cur (put · v)
  own : ∀ s k v, r.read s (put k v) = r.after s k v
  others : ∀ s k v, (sysRows.filter (·.id ≠ r.id)).map (·.read s (put k v)) = (sysRows.filter (·.id ≠ r.id)).map (·.read s k)
  hart : ∀ k v, (put k v).hart = k.hart

theorem puts_of_coreRow : ∀ r ∈ coreRows, ∃ put, PutsCore r put := by
  unfold coreRows sysTable
  repeat' (refine List.forall_mem_cons.2 ⟨⟨_, ⟨fun _ _ => by unfold State.sysPut; exact rfl, fun _ _ _ => by rfl, fun _ _ _ => by rfl,
    fun _ _ => by rfl⟩⟩, ?_⟩)
  exact List.forall_mem_nil _

/-- The writable rows of the platform. -/
def platRows : List SysRow := sysTable.filter fun r => !r.ro && decide (0x200 ≤ r.id)

/-- A write of a register of the platform makes of the platform `put p v`: the row reads what R35 says, and the others as before, but for
CID and CLUSTER, which are read from the core map that L2PBASE names. -/
structure PutsPlat (r : SysRow) (put : Platform → Word → Platform) : Prop where
  sysPut : ∀ (s : State) v, s.sysPut r.id v = { s with plat := put s.plat v }
  own : ∀ s k v, r.allows v → r.read { s with plat := put s.plat v } k = r.after s k v
  others : ∀ s k v, (sysRows.filter (·.id ∉ [r.id, 0x010, 0x011])).map (·.read { s with plat := put s.plat v } k)
    = (sysRows.filter (·.id ∉ [r.id, 0x010, 0x011])).map (·.read s k)
  l2pbase : r.id ≠ 0x201 → ∀ p v, (put p v).l2pbase = p.l2pbase
  hmap : ∀ p v, (put p v).hmap = p.hmap

/-- A word whose bits above bit 0 are zero is the truth of bit 0. -/
theorem eq_truth_of_and_eq_zero {v : Word} (h : v &&& BitVec.ofNat 64 (2 ^ 64 - 2) = 0) : v = truth (bitAt v 0) := by
  refine BitVec.eq_of_getLsbD_eq fun i hi => ?_
  rcases Nat.eq_zero_or_pos i with rfl | hpos
  · show bitAt v 0 = (truth (bitAt v 0)).getLsbD 0
    cases bitAt v 0 <;> rfl
  · have hmask : (BitVec.ofNat 64 (2 ^ 64 - 2)).getLsbD i = true ∧ ∀ b, (truth b).getLsbD i = false := by
      interval_cases i <;> decide
    have hbit : (v &&& BitVec.ofNat 64 (2 ^ 64 - 2)).getLsbD i = false := by rw [h, BitVec.ofNat_eq_ofNat, BitVec.getLsbD_zero]
    rw [BitVec.getLsbD_and, hmask.1, Bool.and_true] at hbit
    rw [hbit, hmask.2]

/-- FWLOCK's bit is set only. -/
theorem truth_or (b : Bool) {v : Word} (h : v &&& BitVec.ofNat 64 (2 ^ 64 - 2) = 0) : truth (b || bitAt v 0) = truth b ||| v := by
  rw [eq_truth_of_and_eq_zero h]
  cases b <;> cases bitAt v 0 <;> decide

theorem puts_of_platRow : ∀ r ∈ platRows, ∃ put, PutsPlat r put := by
  unfold platRows sysTable
  refine List.forall_mem_cons.2 ⟨⟨fun p v => { p with l2pbase := v }, fun _ _ => rfl, fun _ _ _ _ => rfl, fun _ _ _ => rfl,
    fun h => absurd rfl h, fun _ _ => rfl⟩, ?_⟩
  refine List.forall_mem_cons.2 ⟨⟨fun p v => { p with l2pn := v }, fun _ _ => rfl, fun _ _ _ _ => rfl, fun _ _ _ => rfl,
    fun _ _ _ => rfl, fun _ _ => rfl⟩, ?_⟩
  refine List.forall_mem_cons.2 ⟨⟨fun p v => { p with livemode := v }, fun _ _ => rfl, fun _ _ _ _ => rfl, fun _ _ _ => rfl,
    fun _ _ _ => rfl, fun _ _ => rfl⟩, ?_⟩
  refine List.forall_mem_cons.2 ⟨⟨fun p v => { p with celbase := if p.fwlock then p.celbase else v }, fun s v => ?_, fun _ _ _ _ => rfl,
    fun _ _ _ => rfl, fun _ _ _ => rfl, fun _ _ => rfl⟩, ?_⟩
  · show (if s.plat.fwlock then s else _) = _
    cases h : s.plat.fwlock
    · simp only [h, Bool.false_eq_true, if_false]
    · simp only [h, if_true]
      rw [← h]
  refine List.forall_mem_cons.2 ⟨⟨fun p v => { p with fwlock := p.fwlock || bitAt v 0 }, fun _ _ => rfl, fun _ _ _ h => truth_or _ h.1,
    fun _ _ _ => rfl, fun _ _ _ => rfl, fun _ _ => rfl⟩, ?_⟩
  exact List.forall_mem_nil _

/-- What a write of `v` to the row `r` makes of the issuing core `k` of `s`: the row reads what R35 says, every other row reads as before,
the issuing slot's registers, memory and the other cores are as before. -/
structure Wrote (r : SysRow) (s : State) (k : Core) (v : Word) (t : State) : Prop where
  own : r.read t (t.core t.cur) = r.after s k v
  others : ∀ q ∈ sysRows, q.id ≠ r.id → (r.id = 0x201 → q.id ≠ 0x010 ∧ q.id ≠ 0x011) → q.read t (t.core t.cur) = q.read s k
  hart : (t.core t.cur).hart = k.hart
  mem : t.mem = s.mem
  cores : OtherCoresSame s.cur s t

theorem wrote_coreRow {r : SysRow} (hr : r ∈ coreRows) (s : State) (k : Core) (v : Word) :
    Wrote r s k v ((s.setCore s.cur k).sysPut r.id v) := by
  obtain ⟨put, hput⟩ := puts_of_coreRow r hr
  have ht : (s.setCore s.cur k).sysPut r.id v = s.setCore s.cur (put k v) := by
    rw [hput.sysPut, State.modCore, State.setCore_cur, State.core_setCore_self, State.setCore_setCore]
  have hrow : r ∈ sysRows := List.mem_append_left _ (List.mem_filter.1 hr).1
  rw [ht]
  refine ⟨?_, fun q hq hne _ => ?_, ?_, rfl, fun d hd => State.core_setCore_ne s _ hd⟩
  · rw [State.setCore_cur, State.core_setCore_self, read_setCore r hrow, hput.own]
  · rw [State.setCore_cur, State.core_setCore_self, read_setCore q hq]
    exact List.map_inj_left.1 (hput.others s k v) q (List.mem_filter.2 ⟨hq, decide_eq_true hne⟩)
  · rw [State.setCore_cur, State.core_setCore_self, hput.hart]

/-- CID and CLUSTER read as before while the platform has the same core map. -/
theorem read_coreMap {s : State} {p : Platform} {k : Core} (hb : p.l2pbase = s.plat.l2pbase) (hh : p.hmap = s.plat.hmap) :
    ∀ q ∈ sysRows, q.id = 0x010 ∨ q.id = 0x011 → q.read { s with plat := p } k = q.read s k := by
  unfold sysRows sysTable
  repeat' (refine List.forall_mem_cons.2 ⟨fun h => absurd h (of_decide_eq_false rfl), ?_⟩)
  refine List.forall_mem_cons.2 ⟨fun _ => ?_, List.forall_mem_cons.2 ⟨fun _ => ?_, ?_⟩⟩
  · have hl : ({ s with plat := p } : State).logical = s.logical := State.logical_congr hb hh rfl
    exact congrArg (fun l => BitVec.ofNat 64 (l s.cur % 4096)) hl
  · have hc : ({ s with plat := p } : State).clusterWord = s.clusterWord := State.clusterWord_congr hb hh rfl
    exact congrFun hc s.cur
  repeat' (refine List.forall_mem_cons.2 ⟨fun h => absurd h (of_decide_eq_false rfl), ?_⟩)
  exact List.forall_mem_nil _

theorem wrote_platRow {r : SysRow} (hr : r ∈ platRows) {s : State} {k : Core} {v : Word} (hv : r.allows v) :
    Wrote r s k v ((s.setCore s.cur k).sysPut r.id v) := by
  obtain ⟨put, hput⟩ := puts_of_platRow r hr
  have ht : (s.setCore s.cur k).sysPut r.id v = ({ s with plat := put s.plat v }).setCore s.cur k := hput.sysPut _ _
  have hrow : r ∈ sysRows := List.mem_append_left _ (List.mem_filter.1 hr).1
  rw [ht]
  refine ⟨?_, fun q hq hne h201 => ?_, ?_, rfl, fun d hd => State.core_setCore_ne _ _ hd⟩
  · rw [State.setCore_cur, State.core_setCore_self, read_setCore r hrow, hput.own s k v hv]
  · rw [State.setCore_cur, State.core_setCore_self, read_setCore q hq]
    by_cases hmap : q.id = 0x010 ∨ q.id = 0x011
    · have hne201 : r.id ≠ 0x201 := fun h => hmap.elim (h201 h).1 (h201 h).2
      exact read_coreMap (hput.l2pbase hne201 _ _) (hput.hmap _ _) q hq hmap
    · refine List.map_inj_left.1 (hput.others s k v) q (List.mem_filter.2 ⟨hq, decide_eq_true ?_⟩)
      simp only [List.mem_cons, List.not_mem_nil, or_false, not_or]
      exact ⟨hne, not_or.1 hmap⟩
  · rw [State.setCore_cur, State.core_setCore_self]

/-- Settles O8: a write of a row of a core changes that row's field of the core alone, and one of a row of the platform that of the
platform. -/
theorem systemRegisterWrites : Obligations.SystemRegisterWrites := by
  intro r hr hro hup hdn s a v k hpriv ha hv hmat hred
  have hrow : r ∈ sysRows := List.mem_append_left _ hr
  have hid : (BitVec.ofNat 12 r.id).toNat = r.id := by
    rw [BitVec.toNat_ofNat, Nat.mod_eq_of_lt (id_lt_of_row r hrow)]
  have hwrote : Wrote r s k v ((s.setCore s.cur k).sysPut r.id v) := by
    by_cases hcore : r.id < 0x200
    · exact wrote_coreRow (List.mem_filter.2 ⟨hr, by simp [hro, hcore, hup, hdn]⟩) s k v
    · exact wrote_platRow (List.mem_filter.2 ⟨hr, by simp [hro, Nat.le_of_not_lt hcore]⟩) hv
  refine ⟨(s.setCore s.cur k).sysPut r.id v, ?_, hwrote.own, fun q hq hne h201 => ?_, hwrote.hart, hwrote.mem, hwrote.cores⟩
  · have h := execSyswr_completes (s := s) (a := a) (id := BitVec.ofNat 12 r.id) (p := r.priv) (v := v) (k := k)
    rw [hid] at h
    refine h (sysPriv_of_row r hrow) hpriv ((sysRO_of_row r hrow).trans hro) ha (sysValueOk_of_allows hrow hro hup hdn hv) (fun hm => ?_)
      (fun hlo hhi => hred ⟨hlo, hhi⟩) hup hdn
    exact hmat (by simpa [sysWaitsMat] using hm)
  · rw [hwrote.others q hq hne h201, source_rest ha, read_withQi q hq]

end Sys2Proof.Machine

/-! ## The state that reset leaves (R35, R379) -/

namespace Sys2Proof.Machine
open Sys2Proof.Safety

theorem core_reset (c : Nat) : State.reset.core c = Core.reset := rfl

theorem byte_reset (a : Nat) : State.reset.byte a = 0 := rfl

theorem link_reset {p : Nat} (h : p < 17) : State.reset.link p = Link.reset := by
  show (Vector.replicate 17 Link.reset)[p]?.getD Link.reset = Link.reset
  rw [Vector.getElem?_eq_getElem h, Vector.getElem_replicate, Option.getD_some]

theorem die_reset {d : Nat} : State.reset.die d = Die.reset := by
  unfold State.die
  split <;> rfl

theorem mem_htab_reset {e : HEntry} (h : e ∈ Core.reset.htab.toList) : e = HEntry.reset :=
  List.eq_of_mem_replicate (n := 64) h

/-- Settles O53: the registers, lists and entries of `State.reset` as R35 and R379 give them. -/
theorem resetState : Obligations.ResetState := by
  refine ⟨⟨rfl, .nil⟩, byte_reset, core_reset, rfl, rfl, rfl, rfl, rfl, rfl, rfl, by decide, fun e he => ?_, fun d _ => ?_,
    fun p hp => ?_, rfl, rfl, rfl⟩
  · rw [mem_htab_reset he]
    exact ⟨rfl, rfl⟩
  · rw [die_reset]
    exact ⟨rfl, rfl, rfl, fun _ => rfl⟩
  · rw [link_reset hp]
    rfl

end Sys2Proof.Machine

/-! ## What accesses performed at the homes change of the cores (15, R292 to R301; 14, R286, R287; log 7)

A home's access may take lines from L1s, and may make a context FAULTED, which asks its cores to stop. Of a core it changes nothing
else. -/

namespace Sys2Proof.Machine

/-! ### Cores behind a map of the list of cores -/

theorem lookupK_map {α : Type} {g : Nat × α → Nat × α} (hg : ∀ p, (g p).1 = p.1) (l : List (Nat × α)) (c : Nat) :
    lookupK (l.map g) c = (lookupK l c).map fun k => (g (c, k)).2 := by
  induction l with
  | nil => rfl
  | cons p r ih =>
    obtain ⟨j, k⟩ := p
    have hj : (g (j, k)).1 = j := hg (j, k)
    rw [List.map_cons, ← Prod.mk.eta (p := g (j, k)), hj, lookupK, lookupK]
    split
    · rename_i h
      rw [h, Option.map_some]
    · exact ih

/-- Core `k` with what `q` has of all that a home's access changes. -/
def withCachesOf (k q : Core) : Core := { k with l1 := q.l1, preempt := q.preempt, wake := q.wake }

/-- From `s` to `t` each core keeps all but its lines and the request to stop, and the issuing core is the same. -/
structure HomeFrame (s t : State) : Prop where
  cur : t.cur = s.cur
  core : ∀ c, t.core c = withCachesOf (s.core c) (t.core c)

namespace HomeFrame
variable {s t u : State}

theorem refl (s : State) : HomeFrame s s := ⟨rfl, fun _ => rfl⟩

theorem trans (h : HomeFrame s t) (g : HomeFrame t u) : HomeFrame s u :=
  ⟨g.cur.trans h.cur, fun c =>
    (g.core c).trans (congrArg (withCachesOf · (u.core c)) (h.core c) : withCachesOf (t.core c) (u.core c) = _)⟩

/-- A change outside the cores. -/
theorem same (h : HomeFrame s t) (hcores : u.cores = t.cores) (hcur : u.cur = t.cur) : HomeFrame s u :=
  h.trans ⟨hcur, fun c => by rw [State.core, State.core, hcores]; rfl⟩

/-- A change of every core. -/
theorem map (h : HomeFrame s t) {g : Nat × Core → Nat × Core} (hcores : u.cores = t.cores.map g) (hcur : u.cur = t.cur)
    (hkey : ∀ p, (g p).1 = p.1) (hg : ∀ p, (g p).2 = withCachesOf p.2 (g p).2) : HomeFrame s u := by
  refine h.trans ⟨hcur, fun c => ?_⟩
  rw [State.core, State.core, hcores, lookupK_map hkey]
  cases lookupK t.cores c with
  | none => rfl
  | some k => exact hg (c, k)

/-- A change of one core. -/
theorem modCore (h : HomeFrame s t) {c : Nat} {f : Core → Core} (hf : ∀ k, f k = withCachesOf k (f k)) : HomeFrame s (t.modCore c f) := by
  refine h.trans ⟨rfl, fun d => ?_⟩
  by_cases hd : d = c
  · subst hd
    rw [State.modCore, State.core_setCore_self]
    exact hf _
  · rw [State.modCore, State.core_setCore_ne t _ hd]
    rfl

/-- A choice between two states. -/
theorem ite {c : Prop} [Decidable c] (h : HomeFrame s t) (g : HomeFrame s u) : HomeFrame s (if c then t else u) := by
  split
  · exact h
  · exact g

section
variable {home line base size pa n v p tau x code cause core ctx agent c : Nat} {who : Option Nat} {l : List Byte} {w : Word}
  {data : Line} {ow or : Nat} {r : RegionEntry} {e : TEnv} {acc : Acc} {sp : Special} {user : Bool}

/-! ### Writes of home storage, watches, the lease-loss log -/

theorem noteWrite (h : HomeFrame s t) : HomeFrame s (t.noteWrite pa n) := by
  unfold State.noteWrite
  split
  · exact h.same rfl rfl
  · exact h

theorem fireList (h : HomeFrame s t) (ws : List Watch) : HomeFrame s (t.fireList tau ws) := by
  induction ws generalizing t with
  | nil => exact h
  | cons w r ih =>
    rw [State.fireList]
    split
    · exact ih (h.same rfl rfl)
    · exact ih h

theorem fireWatches (h : HomeFrame s t) : HomeFrame s (t.fireWatches pa n tau) := h.noteWrite.fireList _

theorem putMem (h : HomeFrame s t) : HomeFrame s (t.putMem pa n v tau) := fireWatches (h.same rfl rfl)

theorem putList (h : HomeFrame s t) : HomeFrame s (t.putList pa l tau) := fireWatches (h.same rfl rfl)

theorem post (h : HomeFrame s t) {m : Msg} : HomeFrame s (t.post x m) := h.same rfl rfl

theorem setTs (h : HomeFrame s t) {a b : Nat} : HomeFrame s (t.setTs home line a b) := h.same rfl rfl

theorem leaseLog (h : HomeFrame s t) : HomeFrame s (t.leaseLog home base size ctx agent code) := by
  unfold State.leaseLog
  dsimp only
  split
  all_goals
    refine post (ite ?_ h)
    exact h.putMem.putMem.putMem.putMem.same rfl rfl

/-! ### Contexts that fault (R318) -/

theorem faultNow (h : HomeFrame s t) : HomeFrame s (t.faultNow x code cause core) := by
  unfold State.faultNow
  split
  · exact h
  · split
    · refine HomeFrame.map (putMem (h.same (State.setCtx_cores ..) rfl)) rfl rfl (fun _ => rfl) fun p => ?_
      dsimp only
      split
      · split <;> rfl
      · rfl
    · exact h

theorem copyFault (h : HomeFrame s t) : HomeFrame s (t.copyFault home line agent) := h.leaseLog.faultNow

/-! ### Copies that come home (R301) -/

theorem writeBack (h : HomeFrame s t) : HomeFrame s (t.writeBack home line data ow or) := by
  unfold State.writeBack
  split
  · exact h.copyFault
  · dsimp only
    split <;> exact h.same rfl rfl

theorem writeBacks (h : HomeFrame s t) (ls : List (Nat × L1Line)) : HomeFrame s (t.writeBacks home ls) := by
  induction ls generalizing t with
  | nil => exact h
  | cons q r ih =>
    rw [State.writeBacks]
    split
    · exact ih h.writeBack
    · exact ih h

theorem dropCopies (h : HomeFrame s t) : HomeFrame s (t.dropCopies home base size) := by
  refine h.map rfl rfl (fun p => ?_) fun p => ?_
  · split <;> rfl
  · split <;> rfl

theorem takeBack (h : HomeFrame s t) (cs : List (Nat × Line × Nat × Nat)) : HomeFrame s (t.takeBack home cs) := by
  induction cs generalizing t with
  | nil => exact h
  | cons q r ih => exact ih h.writeBack

theorem absorb (h : HomeFrame s t) (qs : List Req) : HomeFrame s (t.absorb r qs) := by
  induction qs generalizing t with
  | nil => exact h
  | cons q rest ih =>
    rw [State.absorb]
    split
    · exact ih (h.takeBack _)
    · exact ih h

theorem absorbRegion (h : HomeFrame s t) : HomeFrame s (t.absorbRegion r) := (h.absorb t.reqs).same rfl rfl

/-! ### Recall and loss (R298, R307, R309) -/

theorem revert (h : HomeFrame s t) : HomeFrame s (t.revert r) := by
  unfold State.revert
  split
  · exact h
  · dsimp only
    refine HomeFrame.modCore ?_ fun _ => rfl
    exact h.same rfl rfl

theorem loseRegion (h : HomeFrame s t) {o : Nat × Nat} : HomeFrame s (t.loseRegion r o) := h.revert.leaseLog.same rfl rfl

theorem recallRegion (h : HomeFrame s t) : HomeFrame s (t.recallRegion r) := by
  unfold State.recallRegion
  split
  · exact h.loseRegion
  · exact ((h.writeBacks _).dropCopies.absorbRegion).same rfl rfl

theorem backInvalidate (h : HomeFrame s t) : HomeFrame s (t.backInvalidate r) := by
  unfold State.backInvalidate
  split
  · exact h.same rfl rfl
  · exact h

theorem tellHost (h : HomeFrame s t) : HomeFrame s (t.tellHost home pa) := by
  unfold State.tellHost
  split
  · exact h.backInvalidate
  · exact h

theorem settle (h : HomeFrame s t) : HomeFrame s (t.settle pa) := by
  unfold State.settle
  split
  · exact h
  · split
    · exact h.recallRegion
    · exact h

theorem faultCtx (h : HomeFrame s t) : HomeFrame s (t.faultCtx x code cause core) := by
  unfold State.faultCtx
  split
  · exact h
  · exact h.settle.faultNow

/-! ### Host lines (R294) -/

theorem loseHost (h : HomeFrame s t) : HomeFrame s (t.loseHost home line) := by
  unfold State.loseHost
  split
  · exact h
  · dsimp only
    split <;> exact h.dropCopies.same rfl rfl

theorem rdcRoom (h : HomeFrame s t) : HomeFrame s (t.rdcRoom home) := by
  unfold State.rdcRoom
  dsimp only
  split
  · exact h
  · split
    · split
      · exact h.recallRegion.loseHost
      · exact h.loseHost
    · exact h

theorem gain (h : HomeFrame s t) {write : Bool} : HomeFrame s (t.gain home line write) := by
  unfold State.gain
  refine ite h ?_
  dsimp only
  exact ite h (ite h (ite h.loseHost h).rdcRoom.setTs)

/-! ### Accesses performed at the home -/

theorem tsFault (h : HomeFrame s t) : HomeFrame s (t.tsFault home pa ctx agent) := h.leaseLog.faultCtx

theorem homeRead (h : HomeFrame s t) {o : Option Nat} : HomeFrame s (t.homeRead home pa p who o).2 := by
  unfold State.homeRead
  dsimp only
  split
  · exact h.settle.gain.tsFault
  · exact h.settle.gain.same rfl rfl

theorem homeWrite (h : HomeFrame s t) : HomeFrame s (t.homeWrite home pa n v p ctx who).2 := by
  unfold State.homeWrite
  dsimp only
  split
  · exact h.settle.gain.tsFault
  · exact fireWatches (tellHost (h.settle.gain.same rfl rfl))

/-! ### Accesses through a translation (R283 to R287) -/

theorem readEntries (h : HomeFrame s t) {die : Nat} (es : List Nat) : HomeFrame s (t.readEntries die ctx p es).2 := by
  induction es generalizing t p with
  | nil => exact h
  | cons ea rest ih => exact ih h.homeRead

theorem touchLeaf (h : HomeFrame s t) {f : Leaf} : HomeFrame s (t.touchLeaf e f w p).2 := by
  unfold State.touchLeaf
  split
  · exact h
  · exact h.homeWrite

theorem walkTouch (h : HomeFrame s t) {o : TlbEntry × Nat × State} (hw : t.walkTouch e user acc sp v = .ok o) : HomeFrame s o.2.2 := by
  unfold State.walkTouch at hw
  split at hw
  · cases hw
  · cases hw
    exact (h.readEntries _).touchLeaf

theorem vwrite (h : HomeFrame s t) {va : Nat} {o : Nat × State} (hw : t.vwrite e user sp va n v p = .ok o) : HomeFrame s o.2 := by
  unfold State.vwrite at hw
  split at hw
  · cases hw
  · rename_i ho
    dsimp only at hw
    split at hw
    · cases hw
    · cases hw
      exact (h.walkTouch ho).homeWrite

theorem vwrites (h : HomeFrame s t) {va : Nat} {ws : List Word} {o : Nat × State} (hw : t.vwrites e user va p ws = .ok o) :
    HomeFrame s o.2 := by
  induction ws generalizing t va p with
  | nil =>
    cases hw
    exact h
  | cons w r ih =>
    rw [State.vwrites] at hw
    split at hw
    · cases hw
    · rename_i ho
      exact ih (h.vwrite ho) hw

/-! ### The corrected-error log, and time (R10, R383) -/

theorem celWrite (h : HomeFrame s t) {d : CelDue} : HomeFrame s (t.celWrite d) := by
  unfold State.celWrite
  dsimp only
  split
  · exact h.same rfl rfl
  · exact h.settle.putList.same rfl rfl

theorem celWrites (h : HomeFrame s t) (ds : List CelDue) : HomeFrame s (t.celWrites ds) := by
  induction ds generalizing t with
  | nil => exact h
  | cons d r ih => exact ih h.celWrite

theorem celFlush (h : HomeFrame s t) : HomeFrame s t.celFlush := by
  unfold State.celFlush
  split
  · exact h
  · refine celWrites ?_ _
    exact h.same rfl rfl

theorem pass (h : HomeFrame s t) : HomeFrame s (t.pass n) := by
  unfold State.pass
  dsimp only
  split
  · exact h.same rfl rfl
  · exact h.celFlush.same rfl rfl

end

end HomeFrame

end Sys2Proof.Machine

/-! ## A step: the turn, and the word that the slot issues (R33, R52, R65, R97) -/

namespace Sys2Proof.Machine
open Sys2Proof.Safety

theorem pass_cur (s : State) (n : Nat) : (s.pass n).cur = s.cur := (HomeFrame.refl s).pass.cur

section
variable {s v : State} {c w : Nat}

/-- The word at a PC that is translated, may be fetched, and for which no walk has failed. -/
theorem fetch_of_fetchesWord (h : FetchesWord s w v) : s.fetch = .word w v := by
  obtain ⟨t, ⟨hwalked, hva, htlb, hok, -⟩, rfl⟩ := h
  unfold State.fetch
  dsimp only
  split
  · rename_i hp
    exact absurd hp (hwalked _ _ _)
  · rw [if_neg (Nat.not_le.2 hva), htlb]
    dsimp only
    rw [if_pos hok]

/-- A core that may issue and holds before no REALIGN target runs the instruction of its word. -/
theorem issue_run (hcur : s.cur = c) (hmay : s.mayIssue c = true) (hw : FetchesWord s w v) (hh : v.holdsAt c = false) {i : Instr}
    (hi : (v.core c).hart.instr w = .ok i) : s.issue c = .run i v := by
  subst hcur
  show (if s.mayIssue s.cur then s.issueOf s.cur else .none s) = _
  rw [if_pos hmay, State.issueOf, fetch_of_fetchesWord hw]
  simp only [hi, hh, Bool.false_eq_true, if_false]

theorem issue_illegal (hcur : s.cur = c) (hmay : s.mayIssue c = true) (hw : FetchesWord s w v) {bad : Nat}
    (hi : (v.core c).hart.instr w = .error bad) : s.issue c = .run (.illegalWord (BitVec.ofNat 32 bad)) v.dropResume := by
  subst hcur
  show (if s.mayIssue s.cur then s.issueOf s.cur else .none s) = _
  rw [if_pos hmay, State.issueOf, fetch_of_fetchesWord hw]
  simp only [hi]

theorem issue_none (hcur : s.cur = c) (hmay : s.mayIssue c = false) : s.issue c = .none s := by
  subst hcur
  exact if_neg (Bool.eq_false_iff.1 hmay)

/-- With no hint before it the word decides: an instruction. -/
theorem instr_of_noHint {h : Hart} {i : Instr} (hh : h.hint = none) (hi : decodeNat w = some i) : h.instr w = .ok i := by
  simp only [Hart.instr, hh, hi]

/-- With no hint before it the word decides: no instruction. -/
theorem noInstr_of_noHint {h : Hart} (hh : h.hint = none) (hi : decodeNat w = none) : h.instr w = .error w := by
  simp only [Hart.instr, hh, hi]

/-- A slot without a hint does not hold. -/
theorem holdsAt_of_noHint (hh : (v.core c).hart.hint = none) : v.holdsAt c = false := by
  unfold State.holdsAt
  dsimp only
  cases hs : (v.core c).onSys
  · rw [Core.hart, hs] at hh
    simp only [Bool.false_eq_true, if_false] at hh
    rw [hh]
    rfl
  · rfl

/-! ### Turns -/

/-- Slot 3, a core that follows and leads nobody, and one that is late issue alone. -/
theorem turn_alone (h : (s.core c).onSys = true ∨ s.late c = true ∨ s.crew c = [c]) : s.turn c = runIssue (s.issue c) := by
  unfold State.turn
  rw [if_pos]
  simpa [or_assoc] using h

theorem turn_crew (hsys : (s.core c).onSys = false) (hlate : s.late c = false) (hcrew : s.crew c ≠ [c]) :
    s.turn c = if s.alone c && (s.crew c).all fun m => s.mayRun m && !s.late m then s.crewIssue c else .next { s with cur := c } := by
  unfold State.turn
  rw [if_neg]
  simp [hsys, hlate, hcrew]

/-- The group of a core, whichever core is the issuing one. -/
theorem crewOf_withCur (s : State) (d : Nat) : ∀ n c, ({ s with cur := d } : State).crewOf n c = s.crewOf n c
  | 0, _ => rfl
  | n + 1, c => congrArg (c :: ·) (congrArg List.flatten (List.map_congr_left fun m _ => crewOf_withCur s d n m))

end

/-- Settles O54: a turn is the issue of one core or of its group, and an issue is the word at the PC. -/
theorem stepRunsDecoded : Obligations.StepRunsDecoded := by
  refine ⟨fun s u v w hag hu hmay hcrew hw hhint => ?_, fun s u v t rest c w hag hact hu hmay hgroup hw hh i hi => ?_,
    fun s t rest c hag hact u hu hsys hlate hcrew => ?_, fun s t c h => ?_, fun s t rest i hag hact hi => ?_, fun s hag hmay hcrew => ?_⟩
  · have hstep : step s = runIssue (u.issue u.cur) := by
      have hcur : u.cur = s.cur := hu ▸ pass_cur s 1
      rw [step, hag]
      dsimp only
      rw [← hu, ← hcur]
      exact turn_alone (.inr (.inr hcrew))
    rw [hstep]
    refine ⟨fun i hi => ?_, fun hi => ?_⟩
    · rw [issue_run rfl hmay hw (holdsAt_of_noHint hhint) (instr_of_noHint hhint hi)]
      rfl
    · rw [issue_illegal rfl hmay hw (noInstr_of_noHint hhint hi)]
      rfl
  · have hstep : step s = runIssue (({ s with agenda := rest } : State).pass t.cycles |>.issue c) := by
      rw [step, hag]
      dsimp only
      rw [hact]
      refine turn_alone (hgroup.imp (fun h => ?_) (.imp (fun h => ?_) fun h => ?_))
      · rw [hu] at h
        exact h
      · rw [hu] at h
        exact h
      · rw [hu] at h
        exact (crewOf_withCur _ c 3 c).symm.trans h
    have hissue : (({ s with agenda := rest } : State).pass t.cycles).issue c = u.issue c := by rw [hu]; rfl
    rw [hstep, hissue, issue_run (by rw [hu]) hmay hw hh hi]
    rfl
  · have hstep : step s = u.turn c := by
      rw [step, hag]
      dsimp only
      rw [hact, ← hu]
    rw [hstep, turn_crew hsys hlate hcrew]
    refine ⟨fun halone hall => if_pos ?_, fun halone => if_neg ?_⟩
    · rw [halone, Bool.true_and, List.all_eq_true]
      intro m hm
      obtain ⟨hrun, hnot⟩ := hall m hm
      rw [hrun, hnot]
      rfl
    · rw [halone, Bool.false_and]
      exact Bool.false_ne_true
  · rw [State.crewIssue, h]
  · rw [step, hag]
    dsimp only
    rw [hact]
    exact if_pos hi
  · have hcur := pass_cur s 1
    rw [step, hag]
    dsimp only
    rw [turn_alone (.inr (.inr hcrew)), issue_none hcur hmay]
    rfl

end Sys2Proof.Machine

/-! ## Long mode (R45, R46), and the end of an activation (R194, R248) -/

namespace Sys2Proof.Machine
open Sys2Proof.Safety

/-! ### What the matrix unit's retirement changes of a core (R155) -/

/-- Core `k` with what `q` has of all that a matrix instruction writes. -/
def withMatrixOf (k q : Core) : Core :=
  { k with acc := q.acc, sp := q.sp, mat := q.mat, u := { k.u with fflags := q.u.fflags, accflags := q.u.accflags } }

theorem withMatrixOf_orOvf {k q : Core} (h : q = withMatrixOf k q) (o : Bool) : q.orOvf o = withMatrixOf k (q.orOvf o) := by
  unfold Core.orOvf
  split
  · rw [h]
    rfl
  · exact h

theorem withMatrixOf_orFlags {k q : Core} (h : q = withMatrixOf k q) (f : FFlags) : q.orFlags f = withMatrixOf k (q.orFlags f) := by
  rw [h]
  rfl

theorem matProduct_rest (k : Core) (zero : Bool) (t : Nat) (fa : MatFmt) (a b : List (List Int) × Bool) :
    matProduct k zero t fa a b = withMatrixOf k (matProduct k zero t fa a b) :=
  withMatrixOf_orOvf (q := k.setTile _ _) rfl _

theorem matEffect_rest (k : Core) (op : MatOp) : matEffect k op = withMatrixOf k (matEffect k op) := by
  cases op with
  | mmul | mmulAcc => exact matProduct_rest ..
  | mzero | mcopy => rfl
  | mload | mstore => exact withMatrixOf_orFlags (withMatrixOf_orOvf rfl _) _
  | mscacc => exact withMatrixOf_orFlags rfl _
  | mcvt t c =>
    unfold matEffect
    dsimp only
    split
    · rfl
    · exact withMatrixOf_orFlags (withMatrixOf_orOvf rfl _) _

theorem retireMatrix_rest (k : Core) : k.retireMatrix = withMatrixOf k k.retireMatrix := by
  unfold Core.retireMatrix
  split
  · rfl
  · rw [matEffect_rest k]
    rfl

theorem retireMatrix_long (k : Core) : k.retireMatrix.u.long = k.u.long := by rw [retireMatrix_rest]; rfl

/-! ### Cores behind changes of the list of cores -/

theorem core_modCore (s : State) (c d : Nat) (f : Core → Core) :
    (s.modCore c f).core d = if d = c then f (s.core c) else s.core d := by
  split
  · rename_i h
    rw [h, State.modCore, State.core_setCore_self]
  · rename_i h
    rw [State.modCore, State.core_setCore_ne s _ h]

/-- A core after each core `c` with the registers `k` became `(g (c, k)).2`. -/
theorem core_of_map {s t : State} {g : Nat × Core → Nat × Core} (hcores : t.cores = s.cores.map g) (hkey : ∀ p, (g p).1 = p.1)
    (hreset : ∀ c, (g (c, Core.reset)).2 = Core.reset) (c : Nat) : t.core c = (g (c, s.core c)).2 := by
  rw [State.core, State.core, hcores, lookupK_map hkey]
  cases lookupK s.cores c with
  | none => exact (hreset c).symm
  | some k => rfl

theorem core_endLeading (s : State) (c d : Nat) :
    (s.endLeading c).core d = { s.core d with follow := (s.core d).follow.without c } :=
  core_of_map (g := fun p => (p.1, { p.2 with follow := p.2.follow.without c })) rfl (fun _ => rfl) (fun _ => rfl) d

/-! ### A group that retires leaves every core in its mode (R248) -/

section
variable {s : State} {c d : Nat}

theorem long_modCore {f : Core → Core} (hf : ∀ k, (f k).u.long = k.u.long) : ((s.modCore c f).core d).u.long = (s.core d).u.long := by
  rw [core_modCore]
  split
  · rename_i h
    rw [hf, h]
  · rfl

theorem long_foldl_modCore {f : Core → Core} (hf : ∀ k, (f k).u.long = k.u.long) (l : List Nat) :
    ((l.foldl (fun u q => u.modCore q f) s).core d).u.long = (s.core d).u.long := by
  induction l generalizing s with
  | nil => rfl
  | cons q r ih => exact ih.trans (long_modCore hf)

theorem freeGroup_long (k : Core) : k.freeGroup.u.long = k.u.long := retireMatrix_long k

theorem cores_settleCtx (x : Nat) : (s.settleCtx x).cores = s.cores := by
  unfold State.settleCtx
  split
  · rfl
  · split <;> rfl

theorem cores_settleStop (x : Nat) : (s.settleStop x).cores = s.cores := by
  unfold State.settleStop
  split
  · rfl
  · split <;> rfl

theorem core_of_cores {t : State} (h : t.cores = s.cores) : t.core d = s.core d := by rw [State.core, State.core, h]

theorem long_tryRetire : ((s.tryRetire c).core d).u.long = (s.core d).u.long := by
  unfold State.tryRetire
  split
  · rfl
  · dsimp only
    split
    · rw [core_of_cores (cores_settleStop _), core_of_cores (cores_settleCtx _), State.countRetired, State.modDie,
        core_of_cores (State.setDie_cores ..), long_foldl_modCore (f := (Core.dropSaved · _)) fun _ => rfl, long_foldl_modCore freeGroup_long]
    · rfl

end

/-! ### HRET and HYIELD (R46, R194) -/

section
variable {s : State} {k : Core} {a : Activation} {e : HEntry}

theorem entry_of_hasEntry {ch : Nat} (h : HasEntry k ch e) : k.entry ch = e := by rw [Core.entry, h, Option.getD_some]

theorem takeStreamFault_ok (h : k.sfault = none) : takeStreamFault k = .ok ((), k) := by
  simp only [takeStreamFault, h]

/-- Slot 0 without a pending fault of its store stream ends its activation. -/
theorem runDev_endsActivation {f : State → State} (hsys : (s.core s.cur).onSys = false) (hf : (s.core s.cur).sfault = none) :
    runDev (do
      let k ← onCore rd
      trapIf k.onSys causeMsg 5
      onCore takeStreamFault
      wr f) s = .next (f (s.setCore s.cur (s.core s.cur))) := by
  have hrd : onCore rd s = .ok (s.core s.cur, s.setCore s.cur (s.core s.cur)) := rfl
  have hfault : onCore takeStreamFault (s.setCore s.cur (s.core s.cur)) = .ok ((), s.setCore s.cur (s.core s.cur)) := by
    rw [onCore_ok (k := s.core s.cur) (a := ()), State.setCore_cur, State.setCore_setCore]
    rw [State.setCore_cur, State.core_setCore_self]
    exact takeStreamFault_ok hf
  unfold runDev
  rw [bind_ok hrd, bind_ok (trapIf_ok _ _ _ hsys), bind_ok hfault]
  rfl

/-- Slot 0's count of the ending instruction, on a core that has been read. -/
theorem ended_setCore_core (s : State) : (s.setCore s.cur (s.core s.cur)).ended = s.ended := by
  rw [State.ended, State.ended, State.modCore, State.modCore, State.setCore_cur, State.core_setCore_self, State.setCore_setCore]

theorem execHyield_eq (hsys : (s.core s.cur).onSys = false) (hf : (s.core s.cur).sfault = none) :
    exec .hyield s = .next (s.ended.yieldActivation s.cur) := by
  rw [← ended_setCore_core]
  exact runDev_endsActivation hsys hf

theorem execHret_eq (hsys : (s.core s.cur).onSys = false) (hf : (s.core s.cur).sfault = none) :
    exec .hret s = .next (s.ended.endActivation s.cur) := by
  rw [← ended_setCore_core]
  exact runDev_endsActivation hsys hf

theorem core_ended (s : State) : s.ended.core s.cur = { s.core s.cur with issued := (s.core s.cur).issued + 1, hostWait := none } := by
  rw [State.ended, core_modCore, if_pos rfl]

/-- After HYIELD of an entry that is not EMPTY only the group's retirement is left. -/
theorem yieldActivation_eq (hact : (s.core s.cur).act = some a) (he : HasEntry (s.core s.cur) a.ch e) (hst : e.st ≠ .empty) :
    s.ended.yieldActivation s.cur
      = ((s.setCore s.cur (ended (s.core s.cur) a.ch (rebound e))).endLeading s.cur).tryRetire s.cur := by
  have hk := core_ended s
  have hentry : (s.ended.core s.cur).entry a.ch = e := by rw [hk]; exact entry_of_hasEntry he
  have hs1 : s.ended.setCore s.cur (((s.ended.core s.cur).setEntry a.ch e.commit).freeSlot)
      = s.setCore s.cur (ended (s.core s.cur) a.ch (rebound e)) := by
    rw [hk, State.ended, State.modCore, State.setCore_setCore]
    rfl
  unfold State.yieldActivation
  dsimp only
  rw [show (s.ended.core s.cur).act = some a by rw [hk]; exact hact]
  dsimp only
  rw [hentry, if_neg hst, hs1]

/-- After HRET of an entry that is not EMPTY, with no message spilled for the core, PEND is computed and the group's retirement is left. -/
theorem endActivation_eq (hact : (s.core s.cur).act = some a) (he : HasEntry (s.core s.cur) a.ch e) (hst : e.st ≠ .empty) {t : State}
    (ht : t = (s.setCore s.cur (ended (s.core s.cur) a.ch (rebound (headGone a e)))).endLeading s.cur)
    (hspill : t.spilledFor s.cur (s.core s.cur).sv.ctxid.toNat (t.logical s.cur) = []) :
    s.ended.endActivation s.cur = (t.modCore s.cur fun q => q.setEntry a.ch { q.entry a.ch with pend := t.waits s.cur a.ch }).tryRetire s.cur := by
  have hk := core_ended s
  have hentry : (s.ended.core s.cur).entry a.ch = e := by rw [hk]; exact entry_of_hasEntry he
  have hhead : ({ e with fifo := if a.hasMsg then e.fifo.drop 1 else e.fifo } : HEntry) = headGone a e := by
    unfold headGone
    split <;> rfl
  have hs1 : (s.ended.setCore s.cur (((s.ended.core s.cur).setEntry a.ch (headGone a e).commit).freeSlot)).endLeading s.cur = t := by
    rw [ht, hk, State.ended, State.modCore, State.setCore_setCore]
    rfl
  have hctx : (t.core s.cur).sv.ctxid = (s.core s.cur).sv.ctxid := by
    rw [ht, core_endLeading, State.core_setCore_self]
    rfl
  have hrefill : t.refill s.cur a.ch = t := by
    unfold State.refill
    dsimp only
    rw [hctx, hspill]
    split <;> rfl
  unfold State.endActivation
  dsimp only
  rw [show (s.ended.core s.cur).act = some a by rw [hk]; exact hact]
  dsimp only
  rw [hentry, if_neg hst, hhead, hs1, hrefill]

end

/-! ### The instructions of long mode -/

section
variable {s : State}

theorem execLvon_private (h : (s.core s.cur).u.long = false) :
    Completes .lvon s { s.core s.cur with u := { (s.core s.cur).u with long := true }, lv := Vector.replicate 8 0 } := by
  show execLvon s = _
  refine runCore_ok ?_
  simp only [wr, h, Bool.false_eq_true, if_false]

theorem execLvon_long (h : (s.core s.cur).u.long = true) : Completes .lvon s (s.core s.cur) := by
  show execLvon s = _
  refine runCore_ok ?_
  simp only [wr, h, if_true]

theorem execLvoff_completes : Completes .lvoff s { s.core s.cur with u := { (s.core s.cur).u with long := false } } := by
  show execLvoff s = _
  exact runCore_ok rfl

theorem execLvqry_completes {d : Reg} {k : Core} (h : Dest (s.core s.cur) d (truth (s.core s.cur).u.long) k) :
    Completes (.lvqry d) s k := by
  show execLvqry d s = _
  exact runCore_ok (setX_of_dest h)

end

/-- In private mode VMOV reads and writes the private registers. -/
theorem execVmov_private {s : State} {d a : Reg} {x : VWord} (hlong : (s.core s.cur).u.long = false) (hd : d.toNat < 14)
    (hx : (s.core s.cur).v[a.toNat]? = some x) :
    CompletesVec (.vmov d a) s { s.core s.cur with v := (s.core s.cur).v.setIfInBounds d.toNat x } := by
  obtain ⟨ha, hget⟩ := Vector.getElem?_eq_some_iff.1 hx
  have hmode : vecMode [d, a] (s.core s.cur) = .ok (false, s.core s.cur) := by
    simp [vecMode, isLong, hlong]
  have hread : getVN false a (s.core s.cur) = .ok (x.toNat, s.core s.cur) := by
    simp [getVN, getV, ha, hget]
  have hwrite : setVN false d x.toNat (s.core s.cur)
      = .ok ((), { s.core s.cur with v := (s.core s.cur).v.setIfInBounds d.toNat x }) := by
    simp [setVN, setV, hd, vset_eq]
  show execVmov d a s = _
  refine runVec_ok ?_
  rw [bind_ok hmode, bind_ok hread, hwrite]

/-- Settles O30: each of LVON, LVOFF and LVQRY is one change of the core, and the core that ends its activation goes to private mode,
which the retirement of its group leaves. -/
theorem longMode : Obligations.LongMode := by
  rintro s k rfl
  refine ⟨execLvon_private, execLvon_long, execLvoff_completes, fun d k' => execLvqry_completes, fun h d a x hd hx => execVmov_private h hd hx,
    fun a e hidle hf hact he hst => ?_⟩
  have hsys : (s.core s.cur).onSys = false := by rw [Core.onSys, hidle]; rfl
  refine ⟨⟨_, execHyield_eq hsys hf, ?_⟩, fun hspill => ⟨_, execHret_eq hsys hf, ?_⟩⟩
  · rw [yieldActivation_eq hact he hst, long_tryRetire, core_endLeading, State.core_setCore_self]
    rfl
  · rw [endActivation_eq hact he hst rfl (hspill _ rfl), long_tryRetire, core_modCore, if_pos rfl, core_endLeading,
      State.core_setCore_self]
    rfl

end Sys2Proof.Machine

/-! ## Acknowledgements, pushes and credits (R107, R117, R149, R150) -/

namespace Sys2Proof.Machine
open Sys2Proof.Safety

theorem firstOf_iff {α : Type} {l : List α} {n : Nat} {p : α → Bool} : firstOf l n p = true ↔ ∀ q ∈ l.take n, p q = false := by
  simp [firstOf]

/-- No earlier one has the same source and destination. -/
theorem firstOf_pair {α : Type} {l : List α} {n src dst : Nat} {f g : α → Nat} (h : ∀ q ∈ l.take n, ¬ (f q = src ∧ g q = dst)) :
    firstOf l n (fun q => f q == src && g q == dst) = true :=
  firstOf_iff.2 fun q hq => by simpa using h q hq

/-- A core without waiting stores has none that go on. -/
theorem drainStores_nil {s : State} {c : Nat} {fresh : Option Nat} (h : (s.core c).stq = []) : s.drainStores c fresh = s := by
  unfold State.drainStores
  exact if_neg fun hn => hn.2 h

theorem answered_slot0 {k : Core} {p : Pend} (h3 : k.pend3 ≠ .sent) (h : k.pend = .sent) : k.answered p = { k with pend := p } := by
  unfold Core.answered
  split
  · contradiction
  · rfl
  · contradiction

theorem released_slot0 {k : Core} (h3 : k.pend3 ≠ .staging) :
    k.released = { k with pend := if k.pend = Pend.staging then .released else k.pend } := by
  unfold Core.released
  split
  · contradiction
  · rw [if_pos (by assumption)]
  · rename_i hp
    rw [if_neg hp]

theorem core_raiseLaunches (s : State) (x p c : Nat) : (s.raiseLaunches x p).core c = s.core c := rfl

section
variable {s : State} {n c : Nat} {k : Core}

theorem execRemoteStoreAck_eq {a : Ack} {r : List Ack} (ha : InFlight s.acks n a r) (hc : a.core = c) (hreach : s.reaches a.home c = true)
    (hfirst : ∀ q ∈ s.acks.take n, sameWay (s.wayFrom q.home q.core) (s.wayFrom a.home c) = false) :
    exec (.remoteStoreAck n) s = .next (if a.store then ({ s with acks := r } : State).storeAcked c a.ctx a.tau
      else ({ s with acks := r } : State).modCore c fun q => ((q.raisePts a.tau).orFlags (BitVec.ofNat 5 a.flags)).answered (.got a.old)) := by
  subst hc
  show execRemoteStoreAck n s = _
  unfold execRemoteStoreAck runEvent
  dsimp only
  rw [ha]
  dsimp only
  rw [hreach, firstOf_iff.2 hfirst]
  rfl

theorem storeAck_happens {a : Ack} {r : List Ack} (hk : k = s.core c) (ha : InFlight s.acks n a r) (hc : a.core = c)
    (hreach : s.reaches a.home c = true)
    (hfirst : ∀ q ∈ s.acks.take n, sameWay (s.wayFrom q.home q.core) (s.wayFrom a.home c) = false) (hst : a.store = true)
    (hstq : k.stq = []) :
    Happens (.remoteStoreAck n) s
      (({ s with acks := r }.setCore c { k with pts := max k.pts a.tau, unacked := k.unacked - 1 }).raiseLaunches a.ctx a.tau) := by
  subst hk
  rw [Happens, execRemoteStoreAck_eq ha hc hreach hfirst, if_pos hst, State.storeAcked, drainStores_nil]
  · rfl
  · rw [core_raiseLaunches, core_modCore, if_pos rfl]
    exact hstq

theorem atomicAck_happens {a : Ack} {r : List Ack} (hk : k = s.core c) (ha : InFlight s.acks n a r) (hc : a.core = c)
    (hreach : s.reaches a.home c = true)
    (hfirst : ∀ q ∈ s.acks.take n, sameWay (s.wayFrom q.home q.core) (s.wayFrom a.home c) = false) (hst : a.store = false)
    (h3 : k.pend3 ≠ .sent) (hp : k.pend = .sent) :
    Happens (.remoteStoreAck n) s ({ s with acks := r }.setCore c
      { ((ptsFrom a.tau k).orFlags (BitVec.ofNat 5 a.flags)) with pend := .got a.old }) := by
  subst hk
  rw [Happens, execRemoteStoreAck_eq ha hc hreach hfirst, if_neg (Bool.eq_false_iff.1 hst), State.modCore]
  exact congrArg (fun q => Host.Outcome.next (State.setCore _ c q)) (answered_slot0 h3 hp)

/-! ### The two ends of a chain -/

/-- The core that a STAGE register with V set names is the physical core of its logical id. -/
theorem stageCore_eq {v : Word} {q : Nat} (hv : v.getLsbD 63 = true) (hq : s.physical (v.toNat % 4096) = some q) :
    s.stageCore v = some q := by
  have hid : bitsOf v.toNat 0 12 = v.toNat % 4096 := by simp [bitsOf]
  rw [State.stageCore, bitAt, if_pos hv, hid, hq]

/-- WINDOW of a live core that names the other. -/
theorem setWindow_live {o : Nat} {f : Nat → Nat} (hv : (s.core c).u.stagedn.getLsbD 63 = true)
    (hq : s.physical ((s.core c).u.stagedn.toNat % 4096) = some o) :
    s.setWindow c o f = s.setCore c { s.core c with u := { (s.core c).u with window := f (s.core c).u.window } } := by
  unfold State.setWindow
  dsimp only
  rw [if_pos]
  rw [stageCore_eq hv hq]
  exact beq_self_eq_true _

/-- A push is placed at the live core whose STAGEUP names its source. -/
theorem push_happens {p : Push} {r : List Push} (hk : k = s.core c) (hp : InFlight s.pushes n p r) (hc : p.dst = c)
    (hfirst : ∀ q ∈ s.pushes.take n, ¬ (q.src = p.src ∧ q.dst = c)) (hv : k.u.stageup.getLsbD 63 = true)
    (hup : s.physical (k.u.stageup.toNat % 4096) = some p.src) :
    Happens (.vqoPushArrival n) s ({ s with pushes := r }.setCore c ({ k with vqi := k.vqi ++ [p.val] }.event)) := by
  subst hk hc
  have hphys : ({ s with pushes := r } : State).physical = s.physical := State.physical_congr rfl rfl rfl
  have hstage : ({ s with pushes := r } : State).stageCore (({ s with pushes := r } : State).core p.dst).u.stageup = some p.src :=
    stageCore_eq hv (by rw [hphys]; exact hup)
  show execVqoPushArrival n s = _
  unfold execVqoPushArrival runEvent
  dsimp only
  rw [hp]
  dsimp only
  rw [firstOf_pair hfirst, if_neg (by simp), hstage, if_pos (beq_self_eq_true _)]
  rfl

/-- A credit sets WINDOW of the live core whose STAGEDN names its source; an answer ends the SYSWR that waits for it. -/
theorem execStageCreditArrival_eq {q : Credit} {r : List Credit} (hq : InFlight s.credits n q r) (hc : q.dst = c)
    (hfirst : ∀ o ∈ s.credits.take n, ¬ (o.src = q.src ∧ o.dst = c)) (hv : (s.core c).u.stagedn.getLsbD 63 = true)
    (hdn : s.physical ((s.core c).u.stagedn.toNat % 4096) = some q.src) (hkind : q.kind ≠ .revoke) :
    exec (.stageCreditArrival n) s = .next (
      let t := ({ s with credits := r } : State).setCore c
        { s.core c with u := { (s.core c).u with window := q.window (s.core c).u.window } }
      if q.kind == .answer then t.modCore c Core.released else t) := by
  subst hc
  have hphys : ({ s with credits := r } : State).physical = s.physical := State.physical_congr rfl rfl rfl
  have hwin := setWindow_live (s := { s with credits := r }) (c := q.dst) (o := q.src) (f := q.window) hv (by rw [hphys]; exact hdn)
  show execStageCreditArrival n s = _
  unfold execStageCreditArrival runEvent
  dsimp only
  rw [hq]
  dsimp only
  rw [firstOf_pair hfirst, if_neg (by simp [hkind]), hwin]
  rfl

/-- The core whose STAGEDN names the source of a credit keeps all but WINDOW, unless the credit is an answer. -/
theorem credit_happens {q : Credit} {r : List Credit} {w : Nat} (hk : k = s.core c) (hq : InFlight s.credits n q r) (hc : q.dst = c)
    (hfirst : ∀ o ∈ s.credits.take n, ¬ (o.src = q.src ∧ o.dst = c)) (hv : k.u.stagedn.getLsbD 63 = true)
    (hdn : s.physical (k.u.stagedn.toNat % 4096) = some q.src) (hkind : q.kind = .add ∨ q.kind = .grant)
    (hw : q.window k.u.window = w) :
    Happens (.stageCreditArrival n) s ({ s with credits := r }.setCore c { k with u := { k.u with window := w } }) := by
  subst hk hw
  have hrevoke : q.kind ≠ .revoke := by rcases hkind with h | h <;> rw [h] <;> exact CreditKind.noConfusion
  have hanswer : (q.kind == .answer) = false := by rcases hkind with h | h <;> rw [h] <;> rfl
  rw [Happens, execStageCreditArrival_eq hq hc hfirst hv hdn hrevoke, hanswer]
  rfl

/-- An answer sets WINDOW and ends the SYSWR of slot 0 that waits for it. -/
theorem answer_happens {q : Credit} {r : List Credit} (hk : k = s.core c) (hq : InFlight s.credits n q r) (hc : q.dst = c)
    (hfirst : ∀ o ∈ s.credits.take n, ¬ (o.src = q.src ∧ o.dst = c)) (hv : k.u.stagedn.getLsbD 63 = true)
    (hdn : s.physical (k.u.stagedn.toNat % 4096) = some q.src) (hkind : q.kind = .answer) (h3 : k.pend3 ≠ .staging) :
    Happens (.stageCreditArrival n) s ({ s with credits := r }.setCore c
      { k with u := { k.u with window := q.amount }, pend := if k.pend = Pend.staging then .released else k.pend }) := by
  subst hk
  have hwin : q.window (s.core c).u.window = q.amount := by rw [Credit.window, hkind]
  rw [Happens, execStageCreditArrival_eq hq hc hfirst hv hdn (by rw [hkind]; exact CreditKind.noConfusion), hkind, hwin]
  show Host.Outcome.next (State.modCore _ c Core.released) = _
  rw [State.modCore, State.core_setCore_self, released_slot0 (by exact h3), State.setCore_setCore]

/-- STAGE_CREDIT_REVOKE clears WINDOW of the live core whose STAGEDN names the revoking core, whose SYSWR goes on. -/
theorem revoke_happens {q : Credit} {r : List Credit} (hk : k = s.core c) (hq : InFlight s.credits n q r) (hc : q.dst = c)
    (hfirst : ∀ o ∈ s.credits.take n, ¬ (o.src = q.src ∧ o.dst = c)) (hv : k.u.stagedn.getLsbD 63 = true)
    (hdn : s.physical (k.u.stagedn.toNat % 4096) = some q.src) (hkind : q.kind = .revoke) (hne : q.src ≠ c)
    (hpush : ∀ o ∈ s.pushes, ¬ (o.src = c ∧ o.dst = q.src)) (h3 : (s.core q.src).pend3 ≠ .staging)
    (hp : (s.core q.src).pend = .staging) :
    Happens (.stageCreditRevoke n) s (({ s with credits := r }.setCore c { k with u := { k.u with window := 0 } }).setCore q.src
      { s.core q.src with pend := .released }) := by
  subst hk hc
  have hphys : ({ s with credits := r } : State).physical = s.physical := State.physical_congr rfl rfl rfl
  have hwin := setWindow_live (s := { s with credits := r }) (c := q.dst) (o := q.src) (f := fun _ => 0) hv (by rw [hphys]; exact hdn)
  have hnone : (s.pushes.any fun p => p.src == q.dst && p.dst == q.src) = false := by
    rw [List.any_eq_false]
    exact fun o ho => by simpa using hpush o ho
  show execStageCreditRevoke n s = _
  unfold execStageCreditRevoke runEvent
  dsimp only
  rw [hq]
  dsimp only
  rw [firstOf_pair hfirst, hnone, if_neg (by simp [hkind]), hwin, State.modCore, State.core_setCore_ne _ _ hne]
  show Host.Outcome.next (State.setCore _ q.src (s.core q.src).released) = _
  rw [released_slot0 h3, if_pos hp]
  rfl

end

end Sys2Proof.Machine

/-! ## Delivery (R179, R180) -/

namespace Sys2Proof.Machine
open Sys2Proof.Safety

/-- A message that can travel to its core meets no cut bridge. -/
theorem not_lost_of_canTravel {s : State} {m : NetMsg} {c : Nat} (hdst : s.physical m.msg.dst = some c) (h : s.canTravel m c = true) :
    (s.cut 12 && crosses s m) = false := by
  rw [State.canTravel, Bool.or_eq_true] at h
  rcases h with h | h
  · rw [crosses, hdst, eq_of_beq h, Bool.and_eq_false_iff]
    exact .inr (bne_self_eq_false _)
  · rw [State.cut, eq_of_beq h]
    rfl

/-- Step 3 of R179: a message for a group that is on the core and not stopped, whose channel takes it, enters the channel's FIFO, and PTS
reaches the message's. -/
theorem deliver_enqueues {s : State} {c : Nat} {k : Core} {n : NetMsg} (hk : k = s.core c) (hctx : k.sv.ctxid.toNat = n.msg.ctx)
    (hpre : k.preempted n.msg.ctx = false) (htag : k.tagOk n.msg.ctx n.msg.ch n.msg.gen = true)
    (hentry : (k.entry n.msg.ch).st ≠ .empty ∨ n.msg.ch = 62 ∨ n.msg.ch = 63) (hroom : (k.entry n.msg.ch).fifo.length < 4)
    (hspill : (((s.setCore c (ptsFrom n.msg.pts k)).spilledFor c n.msg.ctx n.msg.dst).any fun x => x.msg.ch == n.msg.ch) = false) :
    s.deliver c n = s.setCore c ((ptsFrom n.msg.pts k).enqueue n.msg) := by
  subst hk
  have hs0 : (s.modCore c fun k => k.raisePts n.msg.pts) = s.setCore c (ptsFrom n.msg.pts (s.core c)) := rfl
  have hother : ((ptsFrom n.msg.pts (s.core c)).owned && (ptsFrom n.msg.pts (s.core c)).sv.ctxid.toNat != n.msg.ctx) = false :=
    Bool.and_eq_false_iff.2 (.inr (bne_eq_false_iff_eq.2 hctx))
  have hpre' : (ptsFrom n.msg.pts (s.core c)).preempted n.msg.ctx = false := hpre
  have htag' : (ptsFrom n.msg.pts (s.core c)).tagOk n.msg.ctx n.msg.ch n.msg.gen = true := htag
  have hnot : ¬ (((ptsFrom n.msg.pts (s.core c)).entry n.msg.ch).st = .empty ∧ n.msg.ch ≠ 62 ∧ n.msg.ch ≠ 63) := fun h =>
    hentry.elim (absurd h.1) fun hch => hch.elim h.2.1 h.2.2
  unfold State.deliver
  dsimp only
  rw [hs0, State.core_setCore_self, hother, hpre', if_neg (by simp), htag', if_neg (by simp), if_neg hnot, if_pos ⟨hroom, hspill⟩,
    State.setCore_setCore]

section
variable {s : State} {n c : Nat} {k : Core} {m : NetMsg} {r : List NetMsg}

/-- A message that arrives while none is held for its core is delivered, with the time of its arrival. -/
theorem arrive_eq (hheld : s.heldFor m.msg.dst = false) :
    s.arrive c m = (s.setCore c { s.core c with arrived := some s.time }).deliver c { m with msg := { m.msg with time := s.time } } := by
  unfold State.arrive
  dsimp only
  exact if_neg (Bool.eq_false_iff.1 hheld)

/-- An arriving message that its group takes enters the FIFO with the time of its arrival. -/
theorem arrive_enqueues {a q : Core} (ha : a = { s.core c with arrived := some s.time }) (hq : q = ptsFrom m.msg.pts a)
    (hheld : s.heldFor m.msg.dst = false) (hctx : a.sv.ctxid.toNat = m.msg.ctx) (hpre : a.preempted m.msg.ctx = false)
    (htag : a.tagOk m.msg.ctx m.msg.ch m.msg.gen = true) (hentry : (a.entry m.msg.ch).st ≠ .empty ∨ m.msg.ch = 62 ∨ m.msg.ch = 63)
    (hroom : (a.entry m.msg.ch).fifo.length < 4)
    (hspill : (((s.setCore c q).spilledFor c m.msg.ctx m.msg.dst).any fun x => x.msg.ch == m.msg.ch) = false) :
    s.arrive c m = s.setCore c (q.enqueue { m.msg with time := s.time }) := by
  have hdeliver := deliver_enqueues (s := s.setCore c a) (c := c) (k := a) (n := { m with msg := { m.msg with time := s.time } })
    (State.core_setCore_self ..).symm hctx hpre htag hentry hroom
  rw [State.setCore_setCore, State.setCore_setCore] at hdeliver
  rw [arrive_eq hheld, ← ha, hq]
  rw [hq] at hspill
  exact hdeliver hspill

theorem execMessageDelivery_eq (hm : InFlight s.net n m r) (hchild : m.child = none) (horder : s.inOrder n m = true)
    (htravel : s.canTravel m c = true) (harrived : (s.core c).arrived ≠ some s.time) (hck : s.ckHolds m.msg.ctx = false)
    (hdst : s.physical m.msg.dst = some c) :
    exec (.messageDelivery n) s = .next (({ s with net := r } : State).arrive c m) := by
  show execMessageDelivery n s = _
  unfold execMessageDelivery runEvent
  dsimp only
  rw [hm]
  dsimp only
  rw [horder, hchild, hck, if_neg (by simp), hdst]
  dsimp only
  rw [not_lost_of_canTravel hdst htravel, if_neg Bool.false_ne_true, htravel, if_pos (by simpa using harrived)]

theorem messageDelivery_happens (hk : k = s.core c) (hm : InFlight s.net n m r) (hchild : m.child = none) (horder : s.inOrder n m = true)
    (htravel : s.canTravel m c = true) (harrived : k.arrived ≠ some s.time) (hck : s.ckHolds m.msg.ctx = false)
    (hdst : s.physical m.msg.dst = some c) (hheld : s.heldFor m.msg.dst = false) (hctx : k.sv.ctxid.toNat = m.msg.ctx)
    (hpre : k.preempted m.msg.ctx = false) (htag : k.tagOk m.msg.ctx m.msg.ch m.msg.gen = true)
    (hentry : (k.entry m.msg.ch).st ≠ .empty ∨ m.msg.ch = 62 ∨ m.msg.ch = 63) (hroom : (k.entry m.msg.ch).fifo.length < 4)
    {u : State} {q : Core} (hq : q = ptsFrom m.msg.pts { k with arrived := some s.time }) (hu : u = { s with net := r }.setCore c q)
    (hspill : ((u.spilledFor c m.msg.ctx m.msg.dst).any fun x => x.msg.ch == m.msg.ch) = false) :
    Happens (.messageDelivery n) s (u.setCore c (q.enqueue { m.msg with time := s.time })) := by
  subst hk
  subst hu
  have harrive := arrive_enqueues (s := { s with net := r }) (c := c) (m := m) rfl hq hheld hctx hpre htag hentry hroom hspill
  rw [Happens, execMessageDelivery_eq hm hchild horder htravel harrived hck hdst, harrive, State.setCore_setCore]

theorem execSpillHoldRelease_eq {t : State} (hm : InFlight s.held n m r) (hfirst : ∀ o ∈ s.held.take n, o.msg.dst ≠ m.msg.dst)
    (hck : s.ckHolds m.msg.ctx = false) (hdst : s.physical m.msg.dst = some c) (ht : ({ s with held := r } : State).deliver c m = t)
    (hheld : t.held = r) : exec (.spillHoldRelease n) s = .next t := by
  have hfirst' : firstOf s.held n (fun q => q.msg.dst == m.msg.dst) = true :=
    firstOf_iff.2 fun q hq => by simpa using hfirst q hq
  show execSpillHoldRelease n s = _
  unfold execSpillHoldRelease runEvent
  dsimp only
  rw [hm]
  dsimp only
  rw [hfirst', hck, if_neg (by simp), hdst]
  dsimp only
  rw [ht, if_pos (congrArg List.length hheld)]

theorem spillHoldRelease_happens (hk : k = s.core c) (hm : InFlight s.held n m r) (hfirst : ∀ o ∈ s.held.take n, o.msg.dst ≠ m.msg.dst)
    (hck : s.ckHolds m.msg.ctx = false) (hdst : s.physical m.msg.dst = some c) (hctx : k.sv.ctxid.toNat = m.msg.ctx)
    (hpre : k.preempted m.msg.ctx = false) (htag : k.tagOk m.msg.ctx m.msg.ch m.msg.gen = true)
    (hentry : (k.entry m.msg.ch).st ≠ .empty ∨ m.msg.ch = 62 ∨ m.msg.ch = 63) (hroom : (k.entry m.msg.ch).fifo.length < 4)
    {u : State} (hu : u = { s with held := r }.setCore c (ptsFrom m.msg.pts k))
    (hspill : ((u.spilledFor c m.msg.ctx m.msg.dst).any fun x => x.msg.ch == m.msg.ch) = false) :
    Happens (.spillHoldRelease n) s (u.setCore c ((ptsFrom m.msg.pts k).enqueue m.msg)) := by
  subst hu
  rw [State.setCore_setCore]
  exact execSpillHoldRelease_eq hm hfirst hck hdst
    (deliver_enqueues (s := { s with held := r }) hk hctx hpre htag hentry hroom hspill) rfl

end

end Sys2Proof.Machine

/-! ## The start of an activation (R184, R185, R49) -/

namespace Sys2Proof.Machine
open Sys2Proof.Safety

theorem not_coreCount_le {c : Nat} (hc : c < 1152) : ¬ coreCount ≤ c := Nat.not_le.2 hc

/-- The greater of a priority and the greatest so far. -/
def joinMax (b : Option Nat) (p : Nat) : Option Nat := some (max (b.getD 0) p)

theorem topPrio_eq (k : Core) : k.topPrio
    = (((List.range 64).filter fun ch => selectable ch && (k.entry ch).runnable).map fun ch => (k.entry ch).prio).foldl joinMax none := by
  unfold Core.topPrio
  congr 1
  funext b p
  cases b with
  | none => exact congrArg some (Nat.zero_max p).symm
  | some q => rfl

theorem le_foldl_joinMax {p : Nat} : ∀ {l : List Nat} {b : Option Nat}, l.foldl joinMax b = some p → ∀ q, q ∈ l ∨ b = some q → q ≤ p
  | [], b, h, q, hq => by
    rw [List.foldl_nil] at h
    rcases hq with hq | hq
    · simp at hq
    · rw [hq] at h
      exact (Option.some.inj h).le
  | a :: l, b, h, q, hq => by
    have hjoin : max (b.getD 0) a ≤ p := le_foldl_joinMax (b := joinMax b a) h _ (.inr rfl)
    rcases hq with hq | rfl
    · rcases List.mem_cons.1 hq with rfl | hq
      · exact (Nat.le_max_right _ _).trans hjoin
      · exact le_foldl_joinMax (b := joinMax b a) h q (.inl hq)
    · exact (Nat.le_max_left _ _).trans hjoin

/-- Selection picks a runnable channel below 60 of the highest priority. -/
theorem selected_highest {k : Core} {ch p : Nat} (h : k.selected = some (ch, p)) :
    ch < 60 ∧ (k.entry ch).runnable = true ∧ (k.entry ch).prio = p
      ∧ ∀ o, o < 60 → (k.entry o).runnable = true → (k.entry o).prio ≤ p := by
  rw [Core.selected] at h
  cases htop : k.topPrio with
  | none => rw [htop] at h; simp at h
  | some q =>
    rw [htop, Option.map_eq_some_iff] at h
    obtain ⟨d, hfind, hpair⟩ := h
    obtain ⟨rfl, rfl⟩ := Prod.mk.inj hpair
    have hd := List.find?_some hfind
    rw [Bool.and_eq_true, Bool.and_eq_true] at hd
    obtain ⟨⟨hsel, hrun⟩, hprio⟩ := hd
    refine ⟨of_decide_eq_true hsel, hrun, eq_of_beq hprio, fun o ho hro => ?_⟩
    refine le_foldl_joinMax ((topPrio_eq k).symm.trans htop) _ (.inl (List.mem_map_of_mem (List.mem_filter.2 ⟨?_, ?_⟩)))
    · exact List.mem_range.2 (by omega)
    · rw [hro, Bool.and_true]
      exact decide_eq_true ho

/-! ### The registers at entry -/

theorem entryX_stack (sb : Nat) (m : Option Msg) : (entryX sb m)[2] = BitVec.ofNat 64 sb := by
  cases m <;> simp [entryX]

theorem entryX_message (sb : Nat) (m : Msg) : (entryX sb (some m))[9] = m.header ∧ (entryX sb (some m))[10] = m.pay[0]
    ∧ (entryX sb (some m))[11] = m.pay[1] ∧ (entryX sb (some m))[12] = m.pay[2] ∧ (entryX sb (some m))[13] = m.pay[3] := by
  simp [entryX]

theorem entryX_other (sb : Nat) (m : Option Msg) {i : Nat} (hi : i < 32) (h2 : i ≠ 2) (hi' : i < 9 ∨ 13 < i) : (entryX sb m)[i]? = some 0 := by
  have hne : 9 ≠ i ∧ 10 ≠ i ∧ 11 ≠ i ∧ 12 ≠ i ∧ 13 ≠ i := by omega
  obtain ⟨h9, h10, h11, h12, h13⟩ := hne
  cases m <;> simp [entryX, hi, h2.symm, h9, h10, h11, h12, h13]

theorem activationStart_happens {s : State} {c ch p : Nat} {k : Core} (hk : k = s.core c) (hc : c < 1152) (hcan : k.canActivate = true)
    (hsel : k.selected = some (ch, p)) : Happens (.activationStart c) s (s.setCore c (k.activate ch p)) := by
  subst hk
  show execActivationStart c s = _
  unfold execActivationStart runEvent
  dsimp only
  rw [if_neg (not_or.2 ⟨not_coreCount_le hc, by simp [hcan]⟩), hsel]

/-- What R49 gives a core whose activation begins. -/
theorem activate_entry (k : Core) (ch p : Nat) (q : Core) (hq : q = k.activate ch p) :
    q.s0.pc = (k.entry ch).code ∧ q.s0.f = Vector.replicate 32 0
      ∧ q.v = Vector.replicate 14 0 ∧ q.u.long = false ∧ q.s0.x[2] = (k.rgns[(k.entry ch).rgn]?.getD ⟨0, 0⟩).base
      ∧ (∃ a, q.act = some a ∧ a.ch = ch)
      ∧ (∀ m l, (k.entry ch).fifo = m :: l → q.s0.x[9] = m.header ∧ q.s0.x[10] = m.pay[0] ∧ q.s0.x[11] = m.pay[1]
          ∧ q.s0.x[12] = m.pay[2] ∧ q.s0.x[13] = m.pay[3])
      ∧ (∀ i, i < 32 → i ≠ 2 → (i < 9 ∨ 13 < i) → q.s0.x[i]? = some 0) := by
  subst hq
  refine ⟨rfl, rfl, rfl, rfl, entryX_stack _ _, ⟨_, rfl, rfl⟩, fun m l hfifo => ?_, fun i hi h2 hi' => entryX_other _ _ hi h2 hi'⟩
  have hx : (k.activate ch p).s0.x = entryX (k.rgns[(k.entry ch).rgn]?.getD ⟨0, 0⟩).base (some m) := by
    rw [Core.activate, hfifo, List.head?_cons]
  rw [hx]
  exact entryX_message _ m

end Sys2Proof.Machine

/-! ## The system channel (R317, R319) -/

namespace Sys2Proof.Machine
open Sys2Proof.Safety

/-- The bits of STATUS at entry stand apart, so that their union is their sum. -/
theorem entryStatus_eq (k : Core) : entryStatus k
    = BitVec.ofNat 64 (4 + (if k.u.long then 16 else 0) + (if k.follow.following then 32 else 0)) := by
  unfold entryStatus
  cases k.u.long <;> cases k.follow.following <;> rfl

theorem enterSys_eq (k : Core) (how : Slot3) (epc : Word) (cause : Nat) (tval : Word) :
    k.enterSys how epc cause tval = entered k how epc cause tval := by
  have hrest := retireMatrix_rest k
  have hsv : k.retireMatrix.sv = k.sv := by rw [hrest]; rfl
  have hs3 : k.retireMatrix.s3 = k.s3 := by rw [hrest]; rfl
  have hs0 : k.retireMatrix.s0 = k.s0 := by rw [hrest]; rfl
  unfold Core.enterSys entered
  dsimp only
  rw [hsv, hs3, hs0, entryStatus_eq]

/-- The part of a core that slot 3's entry leaves: what the trap frame holds and where it stands. -/
theorem entered_frame (k : Core) (c : Nat) (how : Slot3) (epc : Word) (cause : Nat) (tval : Word) :
    (entered k how epc cause tval).tenv (dieOf c) = k.tenv (dieOf c) ∧ (entered k how epc cause tval).saveArea = k.saveArea
      ∧ (entered k how epc cause tval).pts = k.pts ∧ (entered k how epc cause tval).s0.x = k.s0.x
      ∧ (entered k how epc cause tval).s0.f = k.s0.f := by
  unfold entered
  rw [retireMatrix_rest k]
  exact ⟨rfl, rfl, rfl, rfl, rfl⟩

section
variable {s : State} {c : Nat}

/-- A core's entry after the cores joined to `c` detach. -/
def unjoined (c : Nat) (p : Nat × Core) : Nat × Core :=
  match p.2.follow with
  | .joined l _ => if l = c then (p.1, { p.2 with follow := .none }) else p
  | _ => p

theorem unjoined_fst (p : Nat × Core) : (unjoined c p).1 = p.1 := by
  unfold unjoined
  split
  · split <;> rfl
  · rfl

/-- A core that follows no leader stays as it is when the cores joined to one detach. -/
theorem core_detachJoined {d : Nat} (h : (s.core d).follow = .none) : (s.detachJoined c).core d = s.core d := by
  refine (core_of_map (g := unjoined c) rfl unjoined_fst (fun _ => rfl) d).trans ?_
  rw [unjoined, h]

/-- Where the frame of the entered core can be written, the entry is complete. -/
theorem enterSys_state {k : Core} {u t : State} {q : Nat} (hk : k = s.core c) {how : Slot3} {epc : Word} {cause : Nat} {tval : Word}
    (hu : u = ((s.setCore c (entered k how epc cause tval)).detachJoined c)) (hframe : FrameWritten c k u q t) :
    s.enterSys c how epc cause tval = t.modCore c (ptsFrom q) ∧ (t.core c).slot3 = how := by
  subst hk
  have hcore : u.core c = entered (s.core c) how epc cause tval := by
    rw [hu, core_detachJoined, State.core_setCore_self]
    rw [State.core_setCore_self]
    rfl
  obtain ⟨p, v, hx, hf⟩ := hframe
  obtain ⟨htenv, harea, hpts, hsx, hsf⟩ := entered_frame (s.core c) c how epc cause tval
  have hwrite : u.writeFrame c = .ok (q, t) := by
    unfold State.writeFrame
    dsimp only
    rw [hcore, htenv, harea, hpts, hsx, hsf]
    change u.vwrites _ false ((s.core c).saveArea.toNat + 0x108) _ _ = _ at hx
    rw [hx]
    exact hf
  constructor
  · unfold State.enterSys
    dsimp only
    rw [State.modCore, enterSys_eq, ← hu, hwrite]
    rfl
  · have hkeep : HomeFrame u t := ((HomeFrame.refl u).vwrites hx).vwrites hf
    rw [hkeep.core c, hcore]
    rfl

theorem systemChannelEntry_happens {k : Core} {m : Msg} {l : List Msg} {u t : State} {q : Nat} (hk : k = s.core c) (hc : c < 1152)
    (hcan : k.canEnter = true) (hfifo : (k.entry 60).fifo = m :: l) (hst : (k.entry 60).st = .bound) (hen : (k.entry 60).en = true)
    (howned : k.owned = true) (hruns : s.runs k.sv.ctxid.toNat = true)
    (hu : u = ((s.cancelWaits c).setCore c (entered k .system (if k.act.isSome then k.s0.epc else 0) 0 m.header)).detachJoined c)
    (hframe : FrameWritten c k u q t) :
    Happens (.systemChannelEntry c) s (t.setCore c ((ptsFrom q (t.core c)).withMessage m)) := by
  have hcancel : k = (s.cancelWaits c).core c := hk
  obtain ⟨henter, hslot⟩ := enterSys_state hcancel hu hframe
  have hpass : ¬ (coreCount ≤ c ∨ (!k.canEnter) = true ∨ (k.entry 60).st ≠ .bound ∨ (!(k.entry 60).en) = true ∨ (!k.owned) = true
      ∨ (!s.runs k.sv.ctxid.toNat) = true) := by
    simp [not_coreCount_le hc, hcan, hst, hen, howned, hruns]
  have hsystem : ((t.modCore c (ptsFrom q)).core c).slot3 = .system := by
    rw [core_modCore, if_pos rfl]
    exact hslot
  subst hk
  show execSystemChannelEntry c s = _
  unfold execSystemChannelEntry runEvent
  dsimp only
  rw [hfifo]
  dsimp only
  rw [if_neg hpass, henter, hsystem, if_pos (by rfl), State.modCore, core_modCore, if_pos rfl, State.modCore, State.setCore_setCore]

end

end Sys2Proof.Machine

/-! ## The servers of slot 1 (R185 to R190), and the events of messages -/

namespace Sys2Proof.Machine
open Sys2Proof.Safety

section
variable {s : State} {c : Nat}

/-! ### Requests of channel 62 (R186, R187) -/

theorem runReq_eq {m : Msg} {q : RemoteReq} {st v p : Nat} {s1 s2 : State} (hq : q = reqOfMsg m)
    (hserve : s.serveReq c m q = some (st, v, p, s1)) (hs2 : s2 = s1.setCore c (ptsFrom p (s1.core c))) :
    s.runReq c m = (s2.replyTo c m q st v (s2.core c).pts).dropHead c 62 0 := by
  subst hq hs2
  unfold State.runReq
  dsimp only
  rw [hserve]
  rfl

/-- The message that has waited longest is served by the event of its op. -/
theorem remoteOps_happen {m : Msg} {u : State} (hnext : s.nextAt c = .msg m) (hu : s.runReq c m = u) :
    ((reqOfMsg m).op = 0 → Happens (.remoteLoad c) s u) ∧ ((reqOfMsg m).op = 1 → Happens (.remoteStore c) s u)
      ∧ ((reqOfMsg m).op = 2 → Happens (.remoteCopy c) s u) ∧ ((reqOfMsg m).op = 3 → Happens (.remoteAtomic c) s u) := by
  subst hu
  refine ⟨fun hop => ?_, fun hop => ?_, fun hop => ?_, fun hop => ?_⟩
  · show execRemoteLoad c s = _
    unfold execRemoteLoad runEvent
    dsimp only
    rw [hnext]
    exact congrArg _ (if_pos (.inl hop))
  · show execRemoteStore c s = _
    unfold execRemoteStore runEvent
    dsimp only
    rw [hnext]
    exact congrArg _ (if_pos hop)
  · show execRemoteCopy c s = _
    unfold execRemoteCopy runEvent
    dsimp only
    rw [hnext]
    exact congrArg _ (if_pos hop)
  · show execRemoteAtomic c s = _
    unfold execRemoteAtomic runEvent
    dsimp only
    rw [hnext]
    exact congrArg _ (if_pos hop)

/-- A well-formed request for the scratchpad, inside it and aligned, goes to the scratchpad. -/
theorem serveReq_scratchpad {m : Msg} {q : RemoteReq} (hbad : reqBad m q = false) (hsp : q.sp = true) (hrange : q.m1.toNat + q.n ≤ 262144)
    (halign : q.m1.toNat % q.n = 0) {k : Core} (hk : k = s.core c) (hqual : q.qual = 0) :
    (q.op = 0 → s.serveReq c m q = some (0, k.spRead q.m1.toNat q.n, k.pts, s))
      ∧ (q.op = 1 → s.serveReq c m q = some (0, 0, k.pts, s.setCore c (k.spWrite q.m1.toNat q.n (q.m2.toNat % 2 ^ (8 * q.n))))) := by
  subst hk
  have hin : ¬ spSize < q.m1.toNat + q.n := Nat.not_lt.2 hrange
  have hserve : s.serveReq c m q = s.serveSp c q := by
    rw [State.serveReq, hbad, if_neg Bool.false_ne_true, if_pos hsp]
  rw [hserve]
  unfold State.serveSp
  dsimp only
  rw [if_neg hin, if_neg (not_not.2 halign)]
  constructor
  · intro hop
    rw [if_pos hop, if_neg (by simp [hqual]), if_neg (by simp [hqual])]
  · intro hop
    rw [if_neg (by simp [hop]), if_neg (by simp [hqual]), if_pos hqual]

/-! ### Partials of channel 63 (R188 to R190) -/

theorem execReductionPartial_eq {k : Core} {ix : Nat} {m : Msg} (hk : k = s.core c) (hc : c < 1152) (hnext : k.nextPartial = some ix)
    (hm : (k.entry 63).fifo[ix]? = some m) (hsave : k.inSave = false) :
    exec (.reductionPartial c) s = .next (s.runPartial c ix m) := by
  subst hk
  show execReductionPartial c s = _
  unfold execReductionPartial runEvent
  dsimp only
  rw [hnext]
  dsimp only
  rw [hm]
  dsimp only
  rw [hsave, Bool.or_false, if_neg (by simp [not_coreCount_le hc])]

/-- A partial that leaves slots empty is placed. -/
theorem runPartial_placed {k : Core} {ix : Nat} {m : Msg} {red : Reduction} (hk : k = s.core c) (hbad : partialBad k m = false)
    (hred : red = k.placePartial m) (hlt : red.slots.length < k.u.treen.toNat) :
    s.runPartial c ix m = (s.setCore c { k with red := red }).dropHead c 63 ix := by
  subst hk hred
  unfold State.runPartial
  dsimp only
  rw [hbad, if_neg Bool.false_ne_true, if_pos hlt]

/-- The partial that fills the last slot ends the round with the fold of the slots. -/
theorem runPartial_ends {k : Core} {ix : Nat} {m : Msg} {red : Reduction} (hk : k = s.core c) (hbad : partialBad k m = false)
    (hred : red = k.placePartial m) (hle : k.u.treen.toNat ≤ red.slots.length) (hop : k.u.treeop ≠ 6) :
    s.runPartial c ix m = ((((s.setCore c { k with red := red }).endRound c
      (BitVec.ofNat 64 (treeResult k.u.treeop.toNat (treeFold k.u.treeop.toNat red.slots k.u.treen.toNat)))).modCore c
        fun q => { q with red := ⟨[], 0⟩ }).dropHead c 63 ix) := by
  subst hk hred
  unfold State.runPartial
  dsimp only
  rw [hbad, if_neg Bool.false_ne_true, if_neg (Nat.not_lt.2 hle), if_neg hop]
  rfl

end

/-- Settles O44: each event takes its message, push, credit or request from its list, whose place decides that the model's guard
holds, and then is the operation on the core that the statement names; the entry of the system channel keeps slot 3 through the
frame's writes, since a home's access changes no register. -/
theorem messageEvents : Obligations.MessageEvents := by
  intro s c k hk hc
  refine ⟨fun n a r ha hac hreach hfirst => ⟨storeAck_happens hk ha hac hreach hfirst, atomicAck_happens hk ha hac hreach hfirst⟩,
    fun n p r hp hpc hfirst hv hup => push_happens hk hp hpc hfirst hv hup,
    fun n q r hq hqc hfirst hv hdn => ⟨fun hkind => ?add, fun hkind => ?grant,
      answer_happens hk hq hqc hfirst hv hdn, revoke_happens hk hq hqc hfirst hv hdn⟩,
    fun n m r hm hchild horder htravel harrived hck hdst hheld _ hctx hpre htag hentry hroom u q hq hu hspill =>
      messageDelivery_happens hk hm hchild horder htravel harrived hck hdst hheld hctx hpre htag hentry hroom hq hu hspill,
    fun n m r hm hfirst hck hdst _ hctx hpre htag hentry hroom u hu hspill =>
      spillHoldRelease_happens hk hm hfirst hck hdst hctx hpre htag hentry hroom hu hspill,
    fun ch p hcan hsel => ⟨selected_highest hsel, _, activationStart_happens hk hc hcan hsel, activate_entry k ch p _ rfl⟩,
    fun m l u q t hcan hfifo hst hen howned hruns hu hframe =>
      systemChannelEntry_happens hk hc hcan hfifo hst hen howned hruns hu hframe,
    fun m q st v p s1 s2 u hnext hq hserve hs2 hu => ?requests,
    fun m q _ hbad hsp hrange halign => ?scratchpad,
    fun ix m hnext hm hsave hbad red hred => ⟨fun hlt => ?placed, fun hle hop => ?ends⟩⟩
  case add => exact credit_happens hk hq hqc hfirst hv hdn (.inl hkind) (by rw [Credit.window, hkind])
  case grant => exact credit_happens hk hq hqc hfirst hv hdn (.inr hkind) (by rw [Credit.window, hkind])
  case requests =>
    subst hq
    exact remoteOps_happen hnext ((runReq_eq rfl hserve hs2).trans hu.symm)
  case scratchpad =>
    exact ⟨fun hop hqual => (serveReq_scratchpad hbad hsp hrange halign hk hqual).1 hop,
      fun hop hqual => (serveReq_scratchpad hbad hsp hrange halign hk hqual).2 hop⟩
  case placed =>
    rw [Happens, execReductionPartial_eq hk hc hnext hm hsave, runPartial_placed hk hbad hred hlt]
  case ends =>
    rw [Happens, execReductionPartial_eq hk hc hnext hm hsave, runPartial_ends hk hbad hred hle hop]

end Sys2Proof.Machine

/-! ## Decoding and encoding agree (03, R53 to R68)

Each format makes a word of its fields. `encode_of_decodeRaw`: what a word decodes to is encoded by the word that its format makes of the
word's fields, which is the word itself. `decodesTo_of_encode`: the fields of the word that a format makes are those it was made of. -/

namespace Sys2Proof
open Sys2Proof.Laws.Fits (packCC_lt packI_lt packQ_lt packM_lt packH_lt matFmt_code_lt ty_code_lt hmod_payload_lt)

/-! ### Codes carried in fields (R62, R63) -/

theorem tyOf_eq_some {n : Nat} {t : Ty} (h : tyOf n = some t) : n = t.code := by
  unfold tyOf at h
  split at h <;> cases h <;> rfl

theorem scopeOf_eq_some {n : Nat} {c : Scope} (h : scopeOf n = some c) : n = c.code := by
  unfold scopeOf at h
  split at h <;> cases h <;> rfl

theorem sizeOf?_eq_some {n : Nat} {c : Size} (h : sizeOf? n = some c) : n = c.code := by
  unfold sizeOf? at h
  split at h <;> cases h <;> rfl

theorem widthOf_eq_some {n : Nat} {c : Width} (h : widthOf n = some c) : n = c.code := by
  unfold widthOf at h
  split at h <;> cases h <;> rfl

theorem loadQOf_eq_some {n : Nat} {c : LoadQ} (h : loadQOf n = some c) : n = c.code := by
  unfold loadQOf at h
  split at h <;> cases h <;> rfl

theorem storeQOf_eq_some {n : Nat} {c : StoreQ} (h : storeQOf n = some c) : n = c.code := by
  unfold storeQOf at h
  split at h <;> cases h <;> rfl

theorem classOf_eq_some {n : Nat} {c : TileClass} (h : classOf n = some c) : n = c.code := by
  unfold classOf at h
  split at h <;> cases h <;> rfl

theorem tlbKindOf_eq_some {n : Nat} {c : TlbKind} (h : tlbKindOf n = some c) : n = c.code := by
  unfold tlbKindOf at h
  split at h <;> cases h <;> rfl

theorem code_kindOf {n : Nat} (h : n < 4) : (kindOf n).code = n := by
  interval_cases n <;> rfl

theorem code_matFmtOf {n : Nat} (h : n < 8) : (matFmtOf n).code = n := by
  interval_cases n <;> rfl

theorem tyOf_code (t : Ty) : tyOf t.code = some t := by cases t <;> rfl
theorem matFmtOf_code (f : MatFmt) : matFmtOf f.code = f := by cases f <;> rfl

/-! ### Fields of a word (R53) -/

theorem bitsOf_lt (w lo len : Nat) : bitsOf w lo len < 2 ^ len := Nat.mod_lt _ (Nat.two_pow_pos len)

/-- A field as a bit vector of its length. -/
theorem toNat_ofNat_bitsOf (w lo len : Nat) : (BitVec.ofNat len (bitsOf w lo len)).toNat = bitsOf w lo len := by
  rw [BitVec.toNat_ofNat, Nat.mod_eq_of_lt (bitsOf_lt w lo len)]

/-- A field of one bit as a truth value. -/
theorem toNat_bit (w lo : Nat) : (bitsOf w lo 1 == 1).toNat = bitsOf w lo 1 := by
  rcases Nat.mod_two_eq_zero_or_one (w / 2 ^ lo) with h | h <;> simp [bitsOf, h]

theorem beq_one_toNat (b : Bool) : (b.toNat == 1) = b := by cases b <;> rfl

/-- The two low bits of a register field, and the three above them. -/
theorem bitsOf_regAt_low (w lo : Nat) : bitsOf w lo 2 = (regAt w lo).toNat % 4 := by
  rw [regAt, toNat_ofNat_bitsOf, bitsOf, bitsOf]
  omega

theorem bitsOf_regAt_high (w lo : Nat) : bitsOf w (lo + 2) 3 = (regAt w lo).toNat / 4 := by
  rw [regAt, toNat_ofNat_bitsOf, bitsOf, bitsOf, pow_add, ← Nat.div_div_eq_div_mul]
  omega

theorem bitsOf_fE_low (w : Nat) : bitsOf w 6 2 = (fE w).toNat % 4 := bitsOf_regAt_low w 6
theorem bitsOf_fE_high (w : Nat) : bitsOf w 8 3 = (fE w).toNat / 4 := bitsOf_regAt_high w 6
theorem bitsOf_fB_low (w : Nat) : bitsOf w 11 2 = (fB w).toNat % 4 := bitsOf_regAt_low w 11
theorem bitsOf_fB_high (w : Nat) : bitsOf w 13 3 = (fB w).toNat / 4 := bitsOf_regAt_high w 11

section
variable {w : Nat}

/-- Field e, or b, whose three high bits are zero. -/
theorem fE_of_high_zero (h : bitsOf w 8 3 = 0) : (fE w).toNat = bitsOf w 6 2 := by
  rw [bitsOf_fE_high] at h
  rw [bitsOf_fE_low]
  omega

theorem fB_of_high_zero (h : bitsOf w 13 3 = 0) : (fB w).toNat = bitsOf w 11 2 := by
  rw [bitsOf_fB_high] at h
  rw [bitsOf_fB_low]
  omega

/-- An immediate whose four high bits are zero. -/
theorem imm_of_high_zero (h : bitsOf w 12 4 = 0) : bitsOf w 0 16 = (BitVec.ofNat 12 (bitsOf w 0 12)).toNat := by
  rw [toNat_ofNat_bitsOf]
  simp only [bitsOf] at h ⊢
  omega

/-! ### The words that the formats make of the fields of a word (R53) -/

/-- Format A, under a major. -/
def formA (maj w : Nat) : Nat := packA maj (bitsOf w 0 6) (fD w) (fA w) (fB w) (fE w)
/-- Formats I and B, under a major. -/
def formI (maj w : Nat) : Nat := packI maj (fD w) (fA w) (bitsOf w 0 16)
/-- Format Q. -/
def formQ (w : Nat) : Nat := packQ (bitsOf w 0 6) (fD w) (fA w) (fCh w).toNat (fQE w).toNat
/-- Format M. -/
def formM (w : Nat) : Nat :=
  packM (bitsOf w 0 4) (BitVec.ofNat 2 (bitsOf w 24 2)) (matFmtOf (bitsOf w 21 3)) (fA w) (fB w) (matFmtOf (bitsOf w 8 3)) (bitsOf w 6 2)
    (BitVec.ofNat 2 (bitsOf w 4 2))
/-- Format H. -/
def formH (w : Nat) : Nat := packH (bitsOf w 23 3) (bitsOf w 0 23)

/-- A word of 32 bits is the one that its format makes of its fields. -/
theorem formA_eq {maj : Nat} (hw : w < 2 ^ 32) (hm : bitsOf w 26 6 = maj) : formA maj w = w := by
  subst hm
  simp only [formA, packA, fD, fA, fB, fE, regAt, toNat_ofNat_bitsOf]
  simp only [bitsOf]
  omega

theorem formI_eq {maj : Nat} (hw : w < 2 ^ 32) (hm : bitsOf w 26 6 = maj) : formI maj w = w := by
  subst hm
  simp only [formI, packI, fD, fA, regAt, bitsOf, BitVec.toNat_ofNat]
  omega

theorem formQ_eq (hw : w < 2 ^ 32) (hm : bitsOf w 26 6 = 0x2A) : formQ w = w := by
  simp only [formQ, packQ, fD, fA, fCh, fQE, regAt, bitsOf, BitVec.toNat_ofNat] at hm ⊢
  omega

theorem formM_eq (hw : w < 2 ^ 32) (hm : bitsOf w 26 6 = 0x38) : formM w = w := by
  rw [formM, packM, code_matFmtOf (bitsOf_lt w 21 3), code_matFmtOf (bitsOf_lt w 8 3)]
  simp only [fA, fB, regAt, toNat_ofNat_bitsOf]
  simp only [bitsOf] at hm ⊢
  omega

theorem formH_eq (hw : w < 2 ^ 32) (hm : bitsOf w 26 6 = 0x3F) : formH w = w := by
  simp only [formH, packH, bitsOf] at hm ⊢
  omega

theorem formA_op {maj op : Nat} (hop : bitsOf w 0 6 = op) : formA maj w = packA maj op (fD w) (fA w) (fB w) (fE w) := by
  rw [formA, hop]

/-- Format A with a code in field e, and with codes in fields b and e. -/
theorem formA_code {maj op n : Nat} (hop : bitsOf w 0 6 = op) (he : (fE w).toNat = n) :
    formA maj w = packC maj op (fD w) (fA w) (fB w) n := by
  rw [formA, hop, ← he]
  rfl

theorem formA_codes {maj op m n : Nat} (hop : bitsOf w 0 6 = op) (hb : (fB w).toNat = m) (he : (fE w).toNat = n) :
    formA maj w = packCC maj op (fD w) (fA w) m n := by
  rw [formA, hop, ← hb, ← he]
  rfl

theorem formI_imm (maj : Nat) : formI maj w = packI maj (fD w) (fA w) (fImm w).toNat := by
  rw [fImm, toNat_ofNat_bitsOf, formI]

end

/-! ### What a major decodes is encoded by its format (R55 to R61, R67, R68)

`h_n` is the n-th arm of the decoder, that of op n - 1 where the ops are the arms. -/

section
variable {w : Nat} {i : Instr}

theorem guardI_eq_some {ok : Bool} {i j : Instr} : guardI ok i = some j ↔ ok = true ∧ i = j := by
  cases ok <;> simp [guardI]

theorem encode_of_decInta (h : decInta w = some i) : encode i = some (formA 0x01 w) := by
  simp only [decInta] at h
  split at h <;> rename_i hop
  case h_32 => cases h; rw [formA_op hop]; rfl
  case h_33 => cases h
  all_goals
    simp only [guardI_eq_some, Bool.and_eq_true, beq_iff_eq] at h
    obtain ⟨hz, rfl⟩ := h
    simp only [formA_op hop, hz]
    rfl

theorem encode_of_decCtl (h : decCtl w = some i) : encode i = some (formA 0x0B w) := by
  simp only [decCtl] at h
  split at h <;> rename_i hop
  · simp only [guardI_eq_some, Bool.and_eq_true, beq_iff_eq] at h
    obtain ⟨⟨⟨⟨hd, ha⟩, hb⟩, he⟩, rfl⟩ := h
    have hl : (fE w).toNat = (BitVec.ofNat 2 (bitsOf w 6 2)).toNat := by rw [toNat_ofNat_bitsOf, fE_of_high_zero he]
    rw [formA_code hop hl, hd, ha, hb]
    rfl
  · simp only [guardI_eq_some, Bool.and_eq_true, beq_iff_eq] at h
    obtain ⟨hz, rfl⟩ := h
    simp only [formA_op hop, hz]
    rfl
  · cases h

theorem encode_of_decVmem (h : decVmem w = some i) : encode i = some (formA 0x27 w) := by
  simp only [decVmem] at h
  split at h <;> rename_i hop
  case h_3 =>
    split at h <;> rename_i hz
    · obtain ⟨q, hq, rfl⟩ := Option.map_eq_some_iff.1 h
      rw [formA_code hop ((fE_of_high_zero (beq_iff_eq.1 hz)).trans (loadQOf_eq_some hq))]
      rfl
    · cases h
  case h_4 =>
    split at h <;> rename_i hz
    · obtain ⟨q, hq, rfl⟩ := Option.map_eq_some_iff.1 h
      rw [formA_code hop ((fE_of_high_zero (beq_iff_eq.1 hz)).trans (storeQOf_eq_some hq))]
      rfl
    · cases h
  case h_5 =>
    obtain ⟨q, hq, rfl⟩ := Option.map_eq_some_iff.1 h
    rw [formA_code hop (sizeOf?_eq_some hq)]
    rfl
  case h_12 => cases h
  all_goals
    simp only [guardI_eq_some, Bool.and_eq_true, beq_iff_eq] at h
    obtain ⟨hz, rfl⟩ := h
    simp only [formA_op hop, hz]
    rfl

theorem encode_of_decAmo (h : decAmo w = some i) : encode i = some (formA 0x28 w) := by
  obtain ⟨c, hc, h⟩ := Option.bind_eq_some_iff.1 h
  split at h <;> rename_i hop <;> cases h <;> rw [formA_code hop (widthOf_eq_some hc)] <;> rfl

theorem encode_of_decSync (h : decSync w = some i) : encode i = some (formA 0x29 w) := by
  simp only [decSync] at h
  split at h <;> rename_i hz
  · simp only [Bool.and_eq_true, beq_iff_eq] at hz
    split at h <;> rename_i hop
    case h_3 =>
      obtain ⟨he, rfl⟩ := guardI_eq_some.1 h
      simp only [formA_op hop, hz, beq_iff_eq.1 he]
      rfl
    case h_4 => cases h
    all_goals
      obtain ⟨c, hc, rfl⟩ := Option.map_eq_some_iff.1 h
      simp only [formA_code hop (scopeOf_eq_some hc), hz]
      rfl
  · cases h

theorem encode_of_decJob (h : decJob w = some i) : encode i = some (formA 0x2B w) := by
  simp only [decJob] at h
  split at h <;> rename_i he
  · rw [beq_iff_eq] at he
    split at h <;> rename_i hop
    case h_7 => cases h
    all_goals
      simp only [guardI_eq_some, Bool.and_eq_true, beq_iff_eq] at h
      obtain ⟨hz, rfl⟩ := h
      simp only [formA_op hop, hz, he]
      rfl
  · cases h

theorem encode_of_decLin (h : decLin w = some i) : encode i = some (formA 0x2C w) := by
  simp only [decLin] at h
  split at h <;> rename_i hop
  case h_6 => cases h
  all_goals
    simp only [guardI_eq_some, Bool.and_eq_true, beq_iff_eq] at h
    obtain ⟨hz, rfl⟩ := h
    simp only [formA_op hop, hz]
    rfl

theorem encode_of_decStsh (h : decStsh w = some i) : encode i = some (formA 0x2D w) := by
  simp only [decStsh] at h
  split at h <;> rename_i hop
  case h_4 => cases h
  all_goals
    simp only [guardI_eq_some, Bool.and_eq_true, beq_iff_eq] at h
    obtain ⟨hz, rfl⟩ := h
    simp only [formA_op hop, hz]
    rfl

theorem encode_of_decBar (h : decBar w = some i) : encode i = some (formA 0x2E w) := by
  simp only [decBar] at h
  split at h <;> rename_i hop
  case h_5 => cases h
  all_goals
    simp only [guardI_eq_some, Bool.and_eq_true, beq_iff_eq] at h
    obtain ⟨hz, rfl⟩ := h
    simp only [formA_op hop, hz]
    rfl

theorem encode_of_decFpa (h : decFpa w = some i) : encode i = some (formA 0x30 w) := by
  obtain ⟨t, ht, h⟩ := Option.bind_eq_some_iff.1 h
  split at h <;> rename_i hop
  case h_5 | h_11 | h_18 | h_19 =>
    obtain ⟨hb, rfl⟩ := guardI_eq_some.1 h
    rw [formA_code hop (tyOf_eq_some ht), beq_iff_eq.1 hb]
    rfl
  case h_15 =>
    obtain ⟨c, hc, rfl⟩ := Option.map_eq_some_iff.1 h
    rw [formA_codes hop (tyOf_eq_some hc) (tyOf_eq_some ht)]
    rfl
  case h_16 | h_17 =>
    obtain ⟨hb, rfl⟩ := guardI_eq_some.1 h
    rw [formA_codes hop ((fB_of_high_zero (beq_iff_eq.1 hb)).trans (code_kindOf (bitsOf_lt w 11 2)).symm) (tyOf_eq_some ht)]
    rfl
  all_goals cases h
  all_goals
    rw [formA_code hop (tyOf_eq_some ht)]
    rfl

theorem encode_of_decFma (h : decFma w = some i) : encode i = some (formA 0x31 w) := by
  simp only [decFma] at h
  split at h <;> rename_i hop <;> cases h <;> rw [formA_op hop] <;> rfl

theorem encode_of_decVeca (h : decVeca w = some i) : encode i = some (formA 0x32 w) := by
  obtain ⟨t, ht, h⟩ := Option.bind_eq_some_iff.1 h
  split at h <;> rename_i hop
  case h_16 | h_17 | h_19 | h_20 | h_21 | h_27 =>
    obtain ⟨hb, rfl⟩ := guardI_eq_some.1 h
    rw [formA_code hop (tyOf_eq_some ht), beq_iff_eq.1 hb]
    rfl
  case h_18 =>
    obtain ⟨c, hc, rfl⟩ := Option.map_eq_some_iff.1 h
    rw [formA_codes hop (tyOf_eq_some hc) (tyOf_eq_some ht)]
    rfl
  case h_26 | h_28 =>
    simp only [guardI_eq_some, Bool.and_eq_true, beq_iff_eq] at h
    obtain ⟨hz, rfl⟩ := h
    simp only [formA_code hop (tyOf_eq_some ht), hz]
    rfl
  all_goals cases h
  all_goals
    rw [formA_code hop (tyOf_eq_some ht)]
    rfl

theorem encode_of_decVfma (h : decVfma w = some i) : encode i = some (formA 0x33 w) := by
  simp only [decVfma] at h
  split at h <;> rename_i hop <;> cases h <;> rw [formA_op hop] <;> rfl

theorem encode_of_decVsf (h : decVsf w = some i) : encode i = some (formA 0x34 w) := by
  simp only [decVsf] at h
  split at h <;> rename_i hb
  · obtain ⟨t, ht, h⟩ := Option.bind_eq_some_iff.1 h
    split at h <;> rename_i hop
    case h_8 =>
      obtain ⟨ha, rfl⟩ := guardI_eq_some.1 h
      rw [formA_code hop (tyOf_eq_some ht), beq_iff_eq.1 ha, beq_iff_eq.1 hb]
      rfl
    all_goals cases h
    all_goals
      rw [formA_code hop (tyOf_eq_some ht), beq_iff_eq.1 hb]
      rfl
  · cases h

theorem encode_of_decVmode (h : decVmode w = some i) : encode i = some (formA 0x35 w) := by
  simp only [decVmode] at h
  split at h <;> rename_i hz
  · simp only [Bool.and_eq_true, beq_iff_eq] at hz
    split at h <;> rename_i hop
    case h_1 | h_2 =>
      obtain ⟨hd, rfl⟩ := guardI_eq_some.1 h
      simp only [formA_op hop, hz, beq_iff_eq.1 hd]
      rfl
    all_goals cases h
    simp only [formA_op hop, hz]
    rfl
  · cases h

theorem encode_of_decMatx (h : decMatx w = some i) : encode i = some (formA 0x39 w) := by
  simp only [decMatx] at h
  split at h <;> rename_i hop
  case h_1 | h_5 =>
    split at h <;> rename_i hz
    · simp only [Bool.and_eq_true, beq_iff_eq] at hz
      obtain ⟨c, hc, rfl⟩ := Option.map_eq_some_iff.1 h
      simp only [formA_code hop (classOf_eq_some hc), hz]
      rfl
    · cases h
  case h_2 | h_3 =>
    obtain ⟨t, ht, rfl⟩ := Option.map_eq_some_iff.1 h
    rw [formA_code hop (tyOf_eq_some ht)]
    rfl
  case h_4 =>
    cases h
    rw [formA_op hop]
    rfl
  case h_8 => cases h
  all_goals
    simp only [guardI_eq_some, Bool.and_eq_true, beq_iff_eq] at h
    obtain ⟨hz, rfl⟩ := h
    simp only [formA_op hop, hz]
    rfl

theorem encode_of_decBpl (h : decBpl w = some i) : encode i = some (formA 0x3A w) := by
  simp only [decBpl] at h
  split at h <;> rename_i hop
  case h_3 | h_4 | h_5 =>
    simp only [guardI_eq_some, Bool.and_eq_true, beq_iff_eq] at h
    obtain ⟨hz, rfl⟩ := h
    simp only [formA_op hop, hz]
    rfl
  all_goals cases h
  all_goals
    rw [formA_op hop]
    rfl

theorem encode_of_decSys (h : decSys w = some i) : encode i = some (formA 0x3C w) := by
  simp only [decSys] at h
  split at h <;> rename_i hop
  case h_5 =>
    split at h <;> rename_i hd
    · obtain ⟨c, hc, rfl⟩ := Option.map_eq_some_iff.1 h
      rw [formA_code hop (tlbKindOf_eq_some hc), beq_iff_eq.1 hd]
      rfl
    · cases h
  case h_8 => cases h
  all_goals
    simp only [guardI_eq_some, Bool.and_eq_true, beq_iff_eq] at h
    obtain ⟨hz, rfl⟩ := h
    simp only [formA_op hop, hz]
    rfl

theorem encode_of_decShift (h : decShift w = some i) : encode i = some (formI 0x08 w) := by
  have himm : bitsOf w 0 16 = bitsOf w 14 2 * 2 ^ 14 + bitsOf w 6 8 * 2 ^ 6 + bitsOf w 0 6 := by
    simp only [bitsOf]
    omega
  simp only [decShift] at h
  split at h <;> rename_i hop
  case h_4 => cases h
  all_goals
    obtain ⟨hz, rfl⟩ := guardI_eq_some.1 h
    rw [formI, himm, hop, beq_iff_eq.1 hz]
    refine congrArg some (congrArg (packI 8 (fD w) (fA w)) ?_)
    rw [toNat_ofNat_bitsOf]
    omega

theorem encode_of_decSp {store : Bool} (h : decSp store w = some i) : encode i = some (formI (if store then 0x26 else 0x25) w) := by
  have himm : bitsOf w 0 16 = bitsOf w 14 2 * 2 ^ 14 + bitsOf w 0 14 := by
    simp only [bitsOf]
    omega
  cases store
  case false =>
    obtain ⟨q, hq, rfl⟩ := Option.map_eq_some_iff.1 h
    rw [formI, himm, loadQOf_eq_some hq]
    exact congrArg (fun n => some (packI 0x25 (fD w) (fA w) (q.code * 2 ^ 14 + n))) (toNat_ofNat_bitsOf w 0 14)
  case true =>
    obtain ⟨q, hq, rfl⟩ := Option.map_eq_some_iff.1 h
    rw [formI, himm, storeQOf_eq_some hq]
    exact congrArg (fun n => some (packI 0x26 (fD w) (fA w) (q.code * 2 ^ 14 + n))) (toNat_ofNat_bitsOf w 0 14)

theorem encode_of_decMsg (h : decMsg w = some i) : encode i = some (formQ w) := by
  simp only [decMsg] at h
  split at h <;> rename_i hop
  case h_1 =>
    cases h
    rw [formQ, hop]
    rfl
  case h_3 =>
    obtain ⟨t, ht, rfl⟩ := Option.map_eq_some_iff.1 h
    rw [formQ, hop, tyOf_eq_some ht]
    rfl
  case h_12 =>
    obtain ⟨t, ht, rfl⟩ := Option.map_eq_some_iff.1 h
    rw [formQ, hop, widthOf_eq_some ht]
    rfl
  case h_14 => cases h
  all_goals
    simp only [guardI_eq_some, Bool.and_eq_true, beq_iff_eq] at h
    obtain ⟨hz, rfl⟩ := h
    simp only [formQ, hop, hz]
    rfl

theorem encode_of_decMat (h : decMat w = some i) : encode i = some (formM w) := by
  simp only [decMat] at h
  split at h <;> rename_i hop hsrc
  case h_1 | h_3 =>
    obtain ⟨hz, rfl⟩ := guardI_eq_some.1 h
    rw [formM, hop, hsrc, beq_iff_eq.1 hz]
    rfl
  all_goals cases h
  all_goals
    rw [formM, hop, hsrc]
    rfl

theorem encode_of_decHint (h : decHint w = some i) : encode i = some (formH w) := by
  simp only [decHint] at h
  split at h <;> rename_i hk
  case h_1 =>
    cases h
    rw [formH, hk]
    exact congrArg (fun n => some (packH 0 n)) (toNat_ofNat_bitsOf w 0 23)
  case h_2 =>
    split at h <;> rename_i hm
    case h_5 => cases h
    all_goals
      obtain ⟨hz, rfl⟩ := guardI_eq_some.1 h
      rw [formH, hk]
      refine congrArg some (congrArg (packH 1) ?_)
      simp only [HMod.payload, toNat_ofNat_bitsOf, toNat_bit]
      simp only [beq_iff_eq, bitsOf] at hz hm ⊢
      omega
  case h_3 =>
    obtain ⟨hz, rfl⟩ := guardI_eq_some.1 h
    rw [formH, hk]
    refine congrArg some (congrArg (packH 2) ?_)
    rw [toNat_bit]
    simp only [beq_iff_eq, bitsOf] at hz ⊢
    omega
  case h_4 =>
    obtain ⟨hz, rfl⟩ := guardI_eq_some.1 h
    rw [formH, hk]
    refine congrArg some (congrArg (packH 3) ?_)
    simp only [toNat_ofNat_bitsOf]
    simp only [beq_iff_eq, bitsOf] at hz ⊢
    omega
  case h_5 =>
    obtain ⟨hz, rfl⟩ := guardI_eq_some.1 h
    rw [formH, hk]
    refine congrArg some (congrArg (packH 4) ?_)
    rw [toNat_ofNat_bitsOf]
    simp only [beq_iff_eq, bitsOf] at hz ⊢
    omega
  case h_6 => cases h

/-- A word that decodes is the encoding of what it decodes to. -/
theorem encode_of_decodeRaw (hw : w < 2 ^ 32) (h : decodeRaw w = some i) : encode i = some w := by
  simp only [decodeRaw] at h
  split at h <;> rename_i hm
  case h_1 => rw [encode_of_decInta h, formA_eq hw hm]
  case h_8 => rw [encode_of_decShift h, formI_eq hw hm]
  case h_9 | h_10 =>
    obtain ⟨ha, rfl⟩ := guardI_eq_some.1 h
    rw [← congrArg some (formI_eq hw hm), formI_imm, beq_iff_eq.1 ha]
    rfl
  case h_11 => rw [encode_of_decCtl h, formA_eq hw hm]
  case h_12 =>
    simp only [guardI_eq_some, Bool.and_eq_true, beq_iff_eq] at h
    obtain ⟨⟨ha, hz⟩, rfl⟩ := h
    rw [← congrArg some (formI_eq hw hm), formI, ha, imm_of_high_zero hz]
    rfl
  case h_13 =>
    simp only [guardI_eq_some, Bool.and_eq_true, beq_iff_eq] at h
    obtain ⟨⟨hd, hz⟩, rfl⟩ := h
    rw [← congrArg some (formI_eq hw hm), formI, hd, imm_of_high_zero hz]
    rfl
  case h_20 =>
    cases h
    refine congrArg some ?_
    rw [toNat_ofNat_bitsOf]
    simp only [bitsOf] at hm ⊢
    omega
  case h_35 | h_36 => rw [encode_of_decSp h]; exact congrArg some (formI_eq hw hm)
  case h_37 => rw [encode_of_decVmem h, formA_eq hw hm]
  case h_38 => rw [encode_of_decAmo h, formA_eq hw hm]
  case h_39 => rw [encode_of_decSync h, formA_eq hw hm]
  case h_40 => rw [encode_of_decMsg h, formQ_eq hw hm]
  case h_41 => rw [encode_of_decJob h, formA_eq hw hm]
  case h_42 => rw [encode_of_decLin h, formA_eq hw hm]
  case h_43 => rw [encode_of_decStsh h, formA_eq hw hm]
  case h_44 => rw [encode_of_decBar h, formA_eq hw hm]
  case h_45 => rw [encode_of_decFpa h, formA_eq hw hm]
  case h_46 => rw [encode_of_decFma h, formA_eq hw hm]
  case h_47 => rw [encode_of_decVeca h, formA_eq hw hm]
  case h_48 => rw [encode_of_decVfma h, formA_eq hw hm]
  case h_49 => rw [encode_of_decVsf h, formA_eq hw hm]
  case h_50 => rw [encode_of_decVmode h, formA_eq hw hm]
  case h_51 => rw [encode_of_decMat h, formM_eq hw hm]
  case h_52 => rw [encode_of_decMatx h, formA_eq hw hm]
  case h_53 => rw [encode_of_decBpl h, formA_eq hw hm]
  case h_54 => rw [encode_of_decSys h, formA_eq hw hm]
  case h_55 => rw [encode_of_decHint h, formH_eq hw hm]
  case h_56 => cases h
  all_goals
    cases h
    rw [← congrArg some (formI_eq hw hm), formI_imm]
    rfl

end

/-! ### The fields of the word that each format makes (R53) -/

/-- Fields of format A; what fields b and e hold, as numbers. -/
structure FieldsA (w maj op : Nat) (d a : Reg) (b e : Nat) : Prop where
  maj : bitsOf w 26 6 = maj
  op : bitsOf w 0 6 = op
  d : fD w = d
  a : fA w = a
  b : (fB w).toNat = b
  e : (fE w).toNat = e

/-- Fields of format I. -/
structure FieldsI (w maj : Nat) (d a : Reg) (imm : Nat) : Prop where
  maj : bitsOf w 26 6 = maj
  d : fD w = d
  a : fA w = a
  imm : bitsOf w 0 16 = imm

/-- Fields of format Q. -/
structure FieldsQ (w op : Nat) (d a : Reg) (ch : BitVec 6) (e : Nat) : Prop where
  maj : bitsOf w 26 6 = 0x2A
  op : bitsOf w 0 6 = op
  d : fD w = d
  a : fA w = a
  ch : fCh w = ch
  e : (fQE w).toNat = e

/-- Fields of format M. -/
structure FieldsM (w op : Nat) (t : BitVec 2) (fa : MatFmt) (a b : Reg) (fb : MatFmt) (src : Nat) (ta : BitVec 2) : Prop where
  maj : bitsOf w 26 6 = 0x38
  op : bitsOf w 0 4 = op
  t : BitVec.ofNat 2 (bitsOf w 24 2) = t
  fa : bitsOf w 21 3 = fa.code
  a : fA w = a
  b : fB w = b
  fb : bitsOf w 8 3 = fb.code
  src : bitsOf w 6 2 = src
  ta : BitVec.ofNat 2 (bitsOf w 4 2) = ta

/-- Fields of format H. -/
structure FieldsH (w kind payload : Nat) : Prop where
  maj : bitsOf w 26 6 = 0x3F
  kind : bitsOf w 23 3 = kind
  payload : bitsOf w 0 23 = payload

/-- The word is of 32 bits and decodes to the instruction. -/
def DecodesTo (w : Nat) (i : Instr) : Prop := w < 2 ^ 32 ∧ decodeRaw w = some i

section
variable {maj op e : Nat} {d a : Reg} {i : Instr}

theorem decodesTo_packCC {b : Nat} (hb : b < 32) (he : e < 32) (hm : maj < 64) (hop : op < 64)
    (h : ∀ w, FieldsA w maj op d a b e → decodeRaw w = some i) : DecodesTo (packCC maj op d a b e) i := by
  have hd := d.isLt
  have ha := a.isLt
  refine ⟨packCC_lt d a hm hop hb he, h _ ?_⟩
  constructor
  case d | a =>
    apply BitVec.eq_of_toNat_eq
    simp only [fD, fA, regAt, toNat_ofNat_bitsOf]
    simp only [bitsOf, packCC]
    omega
  case maj | op =>
    simp only [bitsOf, packCC]
    omega
  case b | e =>
    simp only [fB, fE, regAt, toNat_ofNat_bitsOf]
    simp only [bitsOf, packCC]
    omega

theorem decodesTo_packC {b : Reg} (he : e < 32) (hm : maj < 64) (hop : op < 64)
    (h : ∀ w, FieldsA w maj op d a b.toNat e → fB w = b → decodeRaw w = some i) : DecodesTo (packC maj op d a b e) i :=
  decodesTo_packCC b.isLt he hm hop fun w f => h w f (BitVec.eq_of_toNat_eq f.b)

theorem decodesTo_packA {b e : Reg} (hm : maj < 64) (hop : op < 64)
    (h : ∀ w, FieldsA w maj op d a b.toNat e.toNat → fB w = b → fE w = e → decodeRaw w = some i) : DecodesTo (packA maj op d a b e) i :=
  decodesTo_packC e.isLt hm hop fun w f hb => h w f hb (BitVec.eq_of_toNat_eq f.e)

theorem decodesTo_packI {imm : Nat} (hi : imm < 2 ^ 16) (hm : maj < 64) (h : ∀ w, FieldsI w maj d a imm → decodeRaw w = some i) :
    DecodesTo (packI maj d a imm) i := by
  have hd := d.isLt
  have ha := a.isLt
  refine ⟨packI_lt d a hm hi, h _ ?_⟩
  constructor
  case d | a =>
    apply BitVec.eq_of_toNat_eq
    simp only [fD, fA, regAt, toNat_ofNat_bitsOf]
    simp only [bitsOf, packI]
    omega
  case maj | imm =>
    simp only [bitsOf, packI]
    omega

theorem decodesTo_packI_imm {imm : BitVec 16} (hm : maj < 64)
    (h : ∀ w, FieldsI w maj d a imm.toNat → fImm w = imm → decodeRaw w = some i) : DecodesTo (packI maj d a imm.toNat) i :=
  decodesTo_packI imm.isLt hm fun w f => h w f (by rw [fImm, f.imm, BitVec.ofNat_toNat, BitVec.setWidth_eq])

theorem decodesTo_packQ {ch : BitVec 6} (he : e < 16) (hop : op < 64) (h : ∀ w, FieldsQ w op d a ch e → decodeRaw w = some i) :
    DecodesTo (packQ op d a ch.toNat e) i := by
  have hd := d.isLt
  have ha := a.isLt
  have hch := ch.isLt
  refine ⟨packQ_lt d a hop hch he, h _ ?_⟩
  constructor
  case d | a | ch =>
    apply BitVec.eq_of_toNat_eq
    simp only [fD, fA, fCh, regAt, toNat_ofNat_bitsOf]
    simp only [bitsOf, packQ]
    omega
  case maj | op =>
    simp only [bitsOf, packQ]
    omega
  case e =>
    simp only [fQE, toNat_ofNat_bitsOf]
    simp only [bitsOf, packQ]
    omega

theorem decodesTo_packQ_reg {ch : BitVec 6} {e : BitVec 4} (hop : op < 64)
    (h : ∀ w, FieldsQ w op d a ch e.toNat → fQE w = e → decodeRaw w = some i) : DecodesTo (packQ op d a ch.toNat e.toNat) i :=
  decodesTo_packQ e.isLt hop fun w f => h w f (BitVec.eq_of_toNat_eq f.e)

theorem decodesTo_packM {t ta : BitVec 2} {fa fb : MatFmt} {b : Reg} {src : Nat} (hop : op < 16) (hs : src < 4)
    (h : ∀ w, FieldsM w op t fa a b fb src ta → decodeRaw w = some i) : DecodesTo (packM op t fa a b fb src ta) i := by
  have ht := t.isLt
  have hta := ta.isLt
  have ha := a.isLt
  have hb := b.isLt
  have hfa := matFmt_code_lt fa
  have hfb := matFmt_code_lt fb
  refine ⟨packM_lt t fa a b fb ta hop hs, h _ ?_⟩
  constructor
  case t | a | b | ta =>
    apply BitVec.eq_of_toNat_eq
    simp only [fA, fB, regAt, toNat_ofNat_bitsOf]
    simp only [bitsOf, packM]
    omega
  case maj | op | fa | fb | src =>
    simp only [bitsOf, packM]
    omega

theorem decodesTo_packH {kind payload : Nat} (hk : kind < 8) (hp : payload < 2 ^ 23)
    (h : ∀ w, FieldsH w kind payload → decodeRaw w = some i) : DecodesTo (packH kind payload) i := by
  refine ⟨packH_lt hk hp, h _ ?_⟩
  constructor
  all_goals
    simp only [bitsOf, packH]
    omega

end

/-! ### The decoder of each major (R55) -/

section
variable {w : Nat}

theorem decodeRaw_inta (h : bitsOf w 26 6 = 0x01) : decodeRaw w = decInta w := by simp only [decodeRaw, h]
theorem decodeRaw_shift (h : bitsOf w 26 6 = 0x08) : decodeRaw w = decShift w := by simp only [decodeRaw, h]
theorem decodeRaw_ctl (h : bitsOf w 26 6 = 0x0B) : decodeRaw w = decCtl w := by simp only [decodeRaw, h]
theorem decodeRaw_vmem (h : bitsOf w 26 6 = 0x27) : decodeRaw w = decVmem w := by simp only [decodeRaw, h]
theorem decodeRaw_amo (h : bitsOf w 26 6 = 0x28) : decodeRaw w = decAmo w := by simp only [decodeRaw, h]
theorem decodeRaw_sync (h : bitsOf w 26 6 = 0x29) : decodeRaw w = decSync w := by simp only [decodeRaw, h]
theorem decodeRaw_msg (h : bitsOf w 26 6 = 0x2A) : decodeRaw w = decMsg w := by simp only [decodeRaw, h]
theorem decodeRaw_job (h : bitsOf w 26 6 = 0x2B) : decodeRaw w = decJob w := by simp only [decodeRaw, h]
theorem decodeRaw_lin (h : bitsOf w 26 6 = 0x2C) : decodeRaw w = decLin w := by simp only [decodeRaw, h]
theorem decodeRaw_stsh (h : bitsOf w 26 6 = 0x2D) : decodeRaw w = decStsh w := by simp only [decodeRaw, h]
theorem decodeRaw_bar (h : bitsOf w 26 6 = 0x2E) : decodeRaw w = decBar w := by simp only [decodeRaw, h]
theorem decodeRaw_fpa (h : bitsOf w 26 6 = 0x30) : decodeRaw w = decFpa w := by simp only [decodeRaw, h]
theorem decodeRaw_fma (h : bitsOf w 26 6 = 0x31) : decodeRaw w = decFma w := by simp only [decodeRaw, h]
theorem decodeRaw_veca (h : bitsOf w 26 6 = 0x32) : decodeRaw w = decVeca w := by simp only [decodeRaw, h]
theorem decodeRaw_vfma (h : bitsOf w 26 6 = 0x33) : decodeRaw w = decVfma w := by simp only [decodeRaw, h]
theorem decodeRaw_vsf (h : bitsOf w 26 6 = 0x34) : decodeRaw w = decVsf w := by simp only [decodeRaw, h]
theorem decodeRaw_vmode (h : bitsOf w 26 6 = 0x35) : decodeRaw w = decVmode w := by simp only [decodeRaw, h]
theorem decodeRaw_mat (h : bitsOf w 26 6 = 0x38) : decodeRaw w = decMat w := by simp only [decodeRaw, h]
theorem decodeRaw_matx (h : bitsOf w 26 6 = 0x39) : decodeRaw w = decMatx w := by simp only [decodeRaw, h]
theorem decodeRaw_bpl (h : bitsOf w 26 6 = 0x3A) : decodeRaw w = decBpl w := by simp only [decodeRaw, h]
theorem decodeRaw_sys (h : bitsOf w 26 6 = 0x3C) : decodeRaw w = decSys w := by simp only [decodeRaw, h]
theorem decodeRaw_hint (h : bitsOf w 26 6 = 0x3F) : decodeRaw w = decHint w := by simp only [decodeRaw, h]

end

/-! ### The word of an instruction decodes to it -/

/-- The two high bits of an immediate, and the rest. -/
theorem imm_parts {w k n : Nat} (hn : n < 2 ^ 14) (h : bitsOf w 0 16 = k * 2 ^ 14 + n) :
    bitsOf w 14 2 = k ∧ bitsOf w 0 14 = n := by
  simp only [bitsOf] at h ⊢
  omega

/-- An identifier of 12 bits as the immediate. -/
theorem id_parts {w n : Nat} (hn : n < 2 ^ 12) (h : bitsOf w 0 16 = n) : bitsOf w 12 4 = 0 ∧ bitsOf w 0 12 = n := by
  simp only [bitsOf] at h ⊢
  omega

/-- Major 0x08: the two high bits of the immediate choose the shift. -/
theorem decodesTo_shift {k n : Nat} {d a : Reg} {s : BitVec 6} {mk : Reg → Reg → BitVec 6 → Instr} (hk : k < 4)
    (hn : n = k * 2 ^ 14 + s.toNat)
    (hmk : ∀ w, bitsOf w 14 2 = k → bitsOf w 6 8 = 0 → decShift w = some (mk (fD w) (fA w) (BitVec.ofNat 6 (bitsOf w 0 6)))) :
    DecodesTo (packI 8 d a n) (mk d a s) := by
  have hs := s.isLt
  refine decodesTo_packI (by omega) (by decide) fun w f => ?_
  have himm := f.imm
  obtain ⟨hk, hz, hs⟩ : bitsOf w 14 2 = k ∧ bitsOf w 6 8 = 0 ∧ bitsOf w 0 6 = s.toNat := by
    simp only [bitsOf] at himm ⊢
    omega
  rw [decodeRaw_shift f.maj, hmk w hk hz, hs, f.d, f.a, BitVec.ofNat_toNat, BitVec.setWidth_eq]

theorem decodesTo_hmod (m : HMod) : DecodesTo (packH 1 m.payload) (.hmod m) := by
  refine decodesTo_packH (by decide) (hmod_payload_lt m) fun w f => ?_
  have hp := f.payload
  rw [decodeRaw_hint f.maj, decHint, f.kind]
  cases m with
  | rm r =>
    have hr := r.isLt
    obtain ⟨hm, hz, hv⟩ : bitsOf w 20 3 = 0 ∧ bitsOf w 2 18 = 0 ∧ bitsOf w 0 2 = r.toNat := by
      simp only [HMod.payload, bitsOf] at hp ⊢
      omega
    rw [hm, hz, hv, BitVec.ofNat_toNat, BitVec.setWidth_eq]
    rfl
  | sat b =>
    have hb := b.toNat_lt
    obtain ⟨hm, hz, hv⟩ : bitsOf w 20 3 = 1 ∧ bitsOf w 1 19 = 0 ∧ bitsOf w 0 1 = b.toNat := by
      simp only [HMod.payload, bitsOf] at hp ⊢
      omega
    rw [hm, hz, hv, beq_one_toNat]
    rfl
  | na =>
    obtain ⟨hm, hz⟩ : bitsOf w 20 3 = 2 ∧ bitsOf w 0 20 = 0 := by
      simp only [HMod.payload, bitsOf] at hp ⊢
      omega
    rw [hm, hz]
    rfl
  | ftz a b =>
    have ha := a.toNat_lt
    have hb := b.toNat_lt
    obtain ⟨hm, hz, hv, hu⟩ : bitsOf w 20 3 = 3 ∧ bitsOf w 2 18 = 0 ∧ bitsOf w 0 1 = a.toNat ∧ bitsOf w 1 1 = b.toNat := by
      simp only [HMod.payload, bitsOf] at hp ⊢
      omega
    rw [hm, hz, hv, hu, beq_one_toNat, beq_one_toNat]
    rfl

theorem decodesTo_hsched (b : Bool) : DecodesTo (packH 2 b.toNat) (.hsched b) := by
  have hb := b.toNat_lt
  refine decodesTo_packH (by decide) (by omega) fun w f => ?_
  have hp := f.payload
  obtain ⟨hz, hv⟩ : bitsOf w 1 22 = 0 ∧ bitsOf w 0 1 = b.toNat := by
    simp only [bitsOf] at hp ⊢
    omega
  rw [decodeRaw_hint f.maj, decHint, f.kind, hz, hv, beq_one_toNat]
  rfl

theorem decodesTo_rep (c : BitVec 6) (x y z : BitVec 3) :
    DecodesTo (packH 3 (c.toNat * 2 ^ 17 + x.toNat * 2 ^ 14 + y.toNat * 2 ^ 11 + z.toNat * 2 ^ 8)) (.rep c x y z) := by
  have hc := c.isLt
  have hx := x.isLt
  have hy := y.isLt
  have hz := z.isLt
  refine decodesTo_packH (by decide) (by omega) fun w f => ?_
  have hp := f.payload
  obtain ⟨h0, h17, h14, h11, h8⟩ : bitsOf w 0 8 = 0 ∧ bitsOf w 17 6 = c.toNat ∧ bitsOf w 14 3 = x.toNat ∧ bitsOf w 11 3 = y.toNat
      ∧ bitsOf w 8 3 = z.toNat := by
    simp only [bitsOf] at hp ⊢
    omega
  rw [decodeRaw_hint f.maj, decHint, f.kind, h0, h17, h14, h11, h8]
  simp only [BitVec.ofNat_toNat, BitVec.setWidth_eq]
  rfl

theorem decodesTo_realign (n : BitVec 5) : DecodesTo (packH 4 n.toNat) (.realign n) := by
  have hn := n.isLt
  refine decodesTo_packH (by decide) (by omega) fun w f => ?_
  have hp := f.payload
  obtain ⟨hz, hv⟩ : bitsOf w 5 18 = 0 ∧ bitsOf w 0 5 = n.toNat := by
    simp only [bitsOf] at hp ⊢
    omega
  rw [decodeRaw_hint f.maj, decHint, f.kind, hz, hv, BitVec.ofNat_toNat, BitVec.setWidth_eq]
  rfl

theorem decodesTo_of_encode {i : Instr} {w : Nat} (h : encode i = some w) : DecodesTo w i := by
  cases i
  case add | sub | and | or | xor | andn | sll | srl | sra | rol | ror | slt | sltu | min | max | minu | maxu | mul | mulh | mulhu | div
      | divu | rem | remu | addw | subw | mulw | cnt | clz | ctz | bswap | sel =>
    cases h
    refine decodesTo_packA (by decide) (by decide) fun w f hb he => ?_
    rw [decodeRaw_inta f.maj, decInta, f.op, f.d, f.a, hb, he]
    rfl
  case addi | andi | ori | xori | slti | sltiu | lui | auipc | beq | bne | blt | bge | bltu | bgeu | jalr | ld | lw | lwu | lh | lhu | lb
      | lbu | fld | sd | sw | sh | sb | fsd =>
    cases h
    refine decodesTo_packI_imm (by decide) fun w f hi => ?_
    rw [decodeRaw, f.maj, f.d, f.a, hi]
    rfl
  case slli s =>
    cases h
    exact decodesTo_shift (k := 0) (mk := .slli) (by decide) (by omega) fun w hk hz => by rw [decShift, hk, hz]; rfl
  case srli s =>
    cases h
    exact decodesTo_shift (k := 1) (mk := .srli) (by decide) (by omega) fun w hk hz => by rw [decShift, hk, hz]; rfl
  case srai s =>
    cases h
    exact decodesTo_shift (k := 2) (mk := .srai) (by decide) (by omega) fun w hk hz => by rw [decShift, hk, hz]; rfl
  case follow l =>
    cases h
    have hl := l.isLt
    refine decodesTo_packC (by omega) (by decide) (by decide) fun w f hb => ?_
    have hz : bitsOf w 8 3 = 0 := by rw [bitsOf_fE_high, f.e]; omega
    have hlow : bitsOf w 6 2 = l.toNat := by rw [bitsOf_fE_low, f.e]; omega
    rw [decodeRaw_ctl f.maj, decCtl, f.op, f.d, f.a, hb, hz, hlow, BitVec.ofNat_toNat, BitVec.setWidth_eq]
    rfl
  case detach =>
    cases h
    refine decodesTo_packA (by decide) (by decide) fun w f hb he => ?_
    rw [decodeRaw_ctl f.maj, decCtl, f.op, f.d, f.a, hb, he]
    rfl
  case sysrd r | syswr r =>
    cases h
    have hr := r.isLt
    refine decodesTo_packI (by omega) (by decide) fun w f => ?_
    obtain ⟨hz, hid⟩ := id_parts r.isLt f.imm
    rw [decodeRaw, f.maj, f.d, f.a, hz, hid, BitVec.ofNat_toNat, BitVec.setWidth_eq]
    rfl
  case jal off =>
    cases h
    have ho := off.isLt
    refine ⟨by omega, ?_⟩
    have hm : bitsOf (22 * 2 ^ 26 + off.toNat) 26 6 = 22 := by simp only [bitsOf]; omega
    have hi : bitsOf (22 * 2 ^ 26 + off.toNat) 0 26 = off.toNat := by simp only [bitsOf]; omega
    rw [decodeRaw, hm, hi, BitVec.ofNat_toNat, BitVec.setWidth_eq]
    rfl
  case sld q n =>
    cases h
    have hq : q.code < 4 := by cases q <;> decide
    have hn := n.isLt
    refine decodesTo_packI (by omega) (by decide) fun w f => ?_
    obtain ⟨hk, hs⟩ := imm_parts hn f.imm
    rw [decodeRaw, f.maj, decSp, hk, hs, f.d, f.a, BitVec.ofNat_toNat, BitVec.setWidth_eq]
    cases q <;> rfl
  case sst q n =>
    cases h
    have hq : q.code < 4 := by cases q <;> decide
    have hn := n.isLt
    refine decodesTo_packI (by omega) (by decide) fun w f => ?_
    obtain ⟨hk, hs⟩ := imm_parts hn f.imm
    rw [decodeRaw, f.maj, decSp, decSp, hk, hs, f.d, f.a, BitVec.ofNat_toNat, BitVec.setWidth_eq]
    cases q <;> rfl
  case vld | vst | flw | fsw | qld | qst | pref | cflush =>
    cases h
    refine decodesTo_packA (by decide) (by decide) fun w f hb he => ?_
    rw [decodeRaw_vmem f.maj, decVmem, f.op, f.d, f.a, hb, he]
    rfl
  case vsld q | vsst q =>
    cases h
    refine decodesTo_packC (by cases q <;> decide) (by decide) (by decide) fun w f hb => ?_
    rw [decodeRaw_vmem f.maj, decVmem, f.op, f.d, f.a, hb, bitsOf_fE_high, bitsOf_fE_low, f.e]
    cases q <;> rfl
  case vldbc c =>
    cases h
    refine decodesTo_packC (by cases c <;> decide) (by decide) (by decide) fun w f hb => ?_
    rw [decodeRaw_vmem f.maj, decVmem, f.op, f.d, f.a, hb, f.e]
    cases c <;> rfl
  case amoadd c | amoand c | amoor c | amoxor c | amomin c | amomax c | amominu c | amomaxu c | amoswap c | amocas c | amofadd c =>
    cases h
    refine decodesTo_packC (by cases c <;> decide) (by decide) (by decide) fun w f hb => ?_
    rw [decodeRaw_amo f.maj, decAmo, f.op, f.d, f.a, hb, f.e]
    cases c <;> rfl
  case fence c | fencej c =>
    cases h
    refine decodesTo_packC (by cases c <;> decide) (by decide) (by decide) fun w f hb => ?_
    rw [decodeRaw_sync f.maj, decSync, f.op, f.d, f.a, hb, f.e]
    cases c <;> rfl
  case wfe =>
    cases h
    refine decodesTo_packA (by decide) (by decide) fun w f hb he => ?_
    rw [decodeRaw_sync f.maj, decSync, f.op, f.d, f.a, hb, he]
    rfl
  case send | hbind | rsend =>
    cases h
    refine decodesTo_packQ_reg (by decide) fun w f he => ?_
    rw [decodeRaw_msg f.maj, decMsg, f.op, f.d, f.a, f.ch, he]
    rfl
  case sendv | hunbind | hmask | hunmask | hpend | hquery =>
    cases h
    refine decodesTo_packQ_reg (e := 0) (by decide) fun w f he => ?_
    rw [decodeRaw_msg f.maj, decMsg, f.op, f.d, f.a, f.ch, he]
    rfl
  case hret | hyield =>
    cases h
    refine decodesTo_packQ_reg (ch := 0) (e := 0) (by decide) fun w f he => ?_
    rw [decodeRaw_msg f.maj, decMsg, f.op, f.d, f.a, f.ch, he]
    rfl
  case sendnz t =>
    cases h
    refine decodesTo_packQ ((ty_code_lt t).trans (by decide)) (by decide) fun w f => ?_
    rw [decodeRaw_msg f.maj, decMsg, f.op, f.d, f.a, f.ch, f.e, tyOf_code]
    rfl
  case watch c =>
    cases h
    refine decodesTo_packQ (by cases c <;> decide) (by decide) fun w f => ?_
    rw [decodeRaw_msg f.maj, decMsg, f.op, f.d, f.a, f.ch, f.e]
    cases c <;> rfl
  case japp | jwait | jpoll | jabort | kapp | kwait =>
    cases h
    refine decodesTo_packA (by decide) (by decide) fun w f hb he => ?_
    rw [decodeRaw_job f.maj, decJob, f.op, f.d, f.a, hb, he]
    rfl
  case lfork | ldrop | lwr | lrd | lstat =>
    cases h
    refine decodesTo_packA (by decide) (by decide) fun w f hb he => ?_
    rw [decodeRaw_lin f.maj, decLin, f.op, f.d, f.a, hb, he]
    rfl
  case stash | restore | sstat =>
    cases h
    refine decodesTo_packA (by decide) (by decide) fun w f hb he => ?_
    rw [decodeRaw_stsh f.maj, decStsh, f.op, f.d, f.a, hb, he]
    rfl
  case barr | bwait | barw | binit =>
    cases h
    refine decodesTo_packA (by decide) (by decide) fun w f hb he => ?_
    rw [decodeRaw_bar f.maj, decBar, f.op, f.d, f.a, hb, he]
    rfl
  case fadd t | fsub t | fmul t | fdiv t | fsqrt t | fmin t | fmax t | feq t | flt t | fle t | fclass t | fsgnj t | fsgnjn t | fsgnjx t
      | fmvxf t | fmvfx t =>
    cases h
    refine decodesTo_packC ((ty_code_lt t).trans (by decide)) (by decide) (by decide) fun w f hb => ?_
    rw [decodeRaw_fpa f.maj, decFpa, f.op, f.d, f.a, hb, f.e, tyOf_code]
    rfl
  case fcvtf src dst =>
    cases h
    refine decodesTo_packCC ((ty_code_lt src).trans (by decide)) ((ty_code_lt dst).trans (by decide)) (by decide) (by decide) fun w f => ?_
    rw [decodeRaw_fpa f.maj, decFpa, f.op, f.d, f.a, f.b, f.e, tyOf_code, tyOf_code]
    rfl
  case fcvtfi k t | fcvtif k t =>
    cases h
    refine decodesTo_packCC (by cases k <;> decide) ((ty_code_lt t).trans (by decide)) (by decide) (by decide) fun w f => ?_
    rw [decodeRaw_fpa f.maj, decFpa, f.op, f.d, f.a, bitsOf_fB_high, bitsOf_fB_low, f.b, f.e, tyOf_code]
    cases k <;> rfl
  case fmaddD | fmsubD | fnmaddD | fnmsubD | fmaddS | fmsubS | fnmaddS | fnmsubS =>
    cases h
    refine decodesTo_packA (by decide) (by decide) fun w f hb he => ?_
    rw [decodeRaw_fma f.maj, decFma, f.op, f.d, f.a, hb, he]
    rfl
  case vadd t | vsub t | vmul t | vmin t | vmax t | vand t | vor t | vxor t | vsll t | vsrl t | vsra t | vcmpeq t | vcmplt t | vcmple t
      | vsel t | vabs t | vneg t | vredsum t | vredmax t | vredmin t | vperm t | vbcl t | vextx t | vinsx t | vcnt t =>
    cases h
    refine decodesTo_packC ((ty_code_lt t).trans (by decide)) (by decide) (by decide) fun w f hb => ?_
    rw [decodeRaw_veca f.maj, decVeca, f.op, f.d, f.a, hb, f.e, tyOf_code]
    rfl
  case vmov | vzero =>
    cases h
    refine decodesTo_packA (by decide) (by decide) fun w f hb he => ?_
    rw [decodeRaw_veca f.maj, decVeca, f.op, f.d, f.a, hb, he]
    rfl
  case vcvt src dst =>
    cases h
    refine decodesTo_packCC ((ty_code_lt src).trans (by decide)) ((ty_code_lt dst).trans (by decide)) (by decide) (by decide) fun w f => ?_
    rw [decodeRaw_veca f.maj, decVeca, f.op, f.d, f.a, f.b, f.e, tyOf_code, tyOf_code]
    rfl
  case vfmaF64 | vfmaF32 | vfmaF16 | vfmaBf16 | vfmsF64 | vfmsF32 | vdot4I8 | vdot2Bf16 =>
    cases h
    refine decodesTo_packA (by decide) (by decide) fun w f hb he => ?_
    rw [decodeRaw_vfma f.maj, decVfma, f.op, f.d, f.a, hb, he]
    rfl
  case vexp t | vexp2 t | vlog2 t | vrcp t | vrsqrt t | vtanh t | vsigm t | vrand t =>
    cases h
    refine decodesTo_packC ((ty_code_lt t).trans (by decide)) (by decide) (by decide) fun w f hb => ?_
    rw [decodeRaw_vsf f.maj, decVsf, f.op, f.d, f.a, hb, f.e, tyOf_code]
    rfl
  case lvon | lvoff | lvqry =>
    cases h
    refine decodesTo_packA (by decide) (by decide) fun w f hb he => ?_
    rw [decodeRaw_vmode f.maj, decVmode, f.op, f.d, f.a, hb, he]
    rfl
  case mmulSp | mmulAcc | mmulzSp | mmulzAcc =>
    cases h
    refine decodesTo_packM (by decide) (by decide) fun w f => ?_
    rw [decodeRaw_mat f.maj, decMat, f.op, f.src, f.t, f.fa, f.a, f.b, f.fb, f.ta, matFmtOf_code, matFmtOf_code]
    rfl
  case mzero c | mcvt c =>
    cases h
    refine decodesTo_packC (by cases c <;> decide) (by decide) (by decide) fun w f hb => ?_
    rw [decodeRaw_matx f.maj, decMatx, f.op, f.d, f.a, hb, f.e]
    cases c <;> rfl
  case mload t | mstore t =>
    cases h
    refine decodesTo_packC ((ty_code_lt t).trans (by decide)) (by decide) (by decide) fun w f hb => ?_
    rw [decodeRaw_matx f.maj, decMatx, f.op, f.d, f.a, hb, f.e, tyOf_code]
    rfl
  case mscacc | mcopy | mflags =>
    cases h
    refine decodesTo_packA (by decide) (by decide) fun w f hb he => ?_
    rw [decodeRaw_matx f.maj, decMatx, f.op, f.d, f.a, hb, he]
    rfl
  case bpq | bpdq | bpack | bunpack | bpmaxe =>
    cases h
    refine decodesTo_packA (by decide) (by decide) fun w f hb he => ?_
    rw [decodeRaw_bpl f.maj, decBpl, f.op, f.d, f.a, hb, he]
    rfl
  case ecall | eret | brk | wfi | ptload | halt =>
    cases h
    refine decodesTo_packA (by decide) (by decide) fun w f hb he => ?_
    rw [decodeRaw_sys f.maj, decSys, f.op, f.d, f.a, hb, he]
    rfl
  case tlbinv c =>
    cases h
    refine decodesTo_packC (by cases c <;> decide) (by decide) (by decide) fun w f hb => ?_
    rw [decodeRaw_sys f.maj, decSys, f.op, f.d, f.a, hb, f.e]
    cases c <;> rfl
  case himm p =>
    cases h
    refine decodesTo_packH (by decide) p.isLt fun w f => ?_
    rw [decodeRaw_hint f.maj, decHint, f.kind, f.payload, BitVec.ofNat_toNat, BitVec.setWidth_eq]
    rfl
  case hmod m =>
    cases h
    exact decodesTo_hmod m
  case hsched b =>
    cases h
    exact decodesTo_hsched b
  case rep c ds as bs =>
    cases h
    exact decodesTo_rep c ds as bs
  case realign n =>
    cases h
    exact decodesTo_realign n
  all_goals cases h

/-- Settles O56: each word is the one that its format makes of its fields, and each decoder reads the fields that the encoder puts there. -/
theorem decodeEncode : Obligations.DecodeEncode := by
  refine ⟨fun i w hwf h => ?_, fun w i hw h => ?_⟩
  · obtain ⟨hw, hd⟩ := decodesTo_of_encode h
    exact ⟨hw, by rw [decodeNat, hd]; exact if_pos hwf⟩
  · unfold decodeNat at h
    split at h
    · rename_i hd
      split at h <;> cases h
      exact ⟨by assumption, encode_of_decodeRaw hw hd⟩
    · cases h

/-- The word of a well-formed instruction decodes to it. -/
theorem decodeNat_of_encode {i : Instr} {w : Nat} (hwf : i.wf = true) (h : encode i = some w) : decodeNat w = some i :=
  (decodeEncode.1 i w hwf h).2

/-- Settles O55: the words of the families are encodings; the others have an illegal major, or a register that R29 forbids. -/
theorem decodeWords : Obligations.DecodeWords :=
  ⟨decodeNat_of_encode rfl rfl, decodeNat_of_encode rfl rfl, decodeNat_of_encode rfl rfl, decodeNat_of_encode rfl rfl,
    decodeNat_of_encode rfl rfl, decodeNat_of_encode rfl rfl, decodeNat_of_encode rfl rfl, decodeNat_of_encode rfl rfl,
    decodeNat_of_encode rfl rfl, decodeNat_of_encode rfl rfl, decodeNat_of_encode rfl rfl, decodeNat_of_encode rfl rfl,
    rfl, rfl, rfl, rfl⟩

end Sys2Proof

/-! ## Hints and illegal words (03, R64 to R69) -/

namespace Sys2Proof.Machine
open Sys2Proof.Safety

/-- Each hint leaves its effect for the word after it (R66, R67). -/
theorem exec_hint {i : Instr} {h : Hint} (hi : HintOf i h) (s : State) :
    exec i s = .next (s.setCore s.cur (s.countIssue (hintedCore (s.core s.cur) h 0))) := by
  rcases hi with ⟨p, rfl, rfl⟩ | ⟨m, rfl, rfl⟩ | ⟨b, rfl, rfl⟩ | ⟨n, rfl, rfl⟩
  all_goals rfl

/-- The repetition at which a REP begins is the one that is resumed, or the first (R69). -/
theorem Core.firstRep_of_resume {k : Core} {a : Word} {j : Nat} (h : k.hart.hint = some ⟨a, .resume, j⟩) : k.firstRep = j := by
  rw [Core.firstRep, h]

theorem Core.firstRep_of_not_resume {k : Core} (h : ∀ a n, k.hart.hint ≠ some ⟨a, .resume, n⟩) : k.firstRep = 0 := by
  unfold Core.firstRep
  split
  · rename_i a j hr
    exact absurd hr (h a j)
  · rfl

theorem exec_rep (c : BitVec 6) (ds as bs : BitVec 3) (s : State) :
    exec (.rep c ds as bs) s = .next (s.setCore s.cur (s.countIssue
      (hintedCore (s.core s.cur) (.rep (c.toNat + 1) ds.toNat as.toNat bs.toNat) (s.core s.cur).firstRep))) := rfl

section
variable {h : Hart} {a : Word} {c x y z j : Nat} (hh : h.hint = some ⟨a, .rep c x y z, j⟩)
include hh

/-- A target under REP goes on at its next repetition, and after the last at the next word (R69). -/
theorem Hart.advance_rep : h.advance =
    if j + 1 < c then { h with hint := some ⟨a, .rep c x y z, j + 1⟩ } else { h with pc := h.pc + 4, hint := none } := by
  rw [Hart.advance, hh]

/-- Repetition j of an accepted target is the word with its fields stepped j times (R69). -/
theorem Hart.instr_rep {w : Nat} {i q : Instr} (hd : decodeNat w = some i) (ht : repTakes w = true) (hs : stepsOk w x y z c = true)
    (hq : stepInstr w j x y z = some q) : h.instr w = .ok q := by
  simp only [Hart.instr, hh, hd, ht, hs, hq, Bool.not_true, Bool.false_eq_true, if_false]

end

/-- Settles O52: a hint is kept with its address, a REP's target is stepped while repetitions are left, and both traps are taken with
nothing else done. -/
theorem hintsAndIllegalWords : Obligations.HintsAndIllegalWords := by
  refine ⟨fun s i h hi => exec_hint hi s, fun s c ds as bs j hj => ?_, fun h a c x y z j hh => ⟨fun hlt => ?_, fun hle => ?_⟩,
    fun h a c x y z j w i q hh hd ht hs hq => Hart.instr_rep hh hd ht hs hq, fun _ _ => rfl, fun _ _ _ => rfl⟩
  · rw [exec_rep]
    rcases hj with ⟨a, hr⟩ | ⟨hr, rfl⟩
    · rw [Core.firstRep_of_resume hr]
    · rw [Core.firstRep_of_not_resume hr]
  · rw [Hart.advance_rep hh, if_pos hlt]
  · rw [Hart.advance_rep hh, if_neg (Nat.not_lt.2 hle)]

end Sys2Proof.Machine

/-! ## The system instructions (16, R318, R321, R322; 03, R65) -/

namespace Sys2Proof.Machine
open Sys2Proof.Safety

/-! ### Ways of running, and their checks -/

section
variable {s t : State}

theorem runDev_ok {m : DevM Unit} (h : m s = .ok ((), t)) : runDev m s = .next t := by simp only [runDev, h]

theorem runDev_trap {m : DevM Unit} {c : Nat} {v : Word} (h : m s = .error (.trap c v)) : runDev m s = .next (s.takeTrap c v) := by
  simp only [runDev, h]

theorem runCore_wait {m : CpuM Unit} {p : State → State} (h : m (s.core s.cur) = .error (.wait p)) : runCore m s = .next (p s) :=
  runInstr_wait (onCore_err h)

theorem needPriv_trap {p : Nat} {i : Instr} {k : Core} (h : k.priv < p) :
    needPriv p i k = .error (.trap causePriv (BitVec.ofNat 64 ((encode i).getD 0))) := if_pos h

theorem needPriv_ok {p : Nat} {i : Instr} {k : Core} (h : p ≤ k.priv) : needPriv p i k = .ok ((), k) := if_neg (Nat.not_lt.2 h)

theorem waitAcked_ok (h : Acked (s.core s.cur)) : waitAcked s = .ok ((), s) := by
  rw [waitAcked, Core.storesDone, h.1, h.2]
  rfl

/-- The core that issues is looked at, and put back. -/
theorem onCore_rd (s : State) : onCore rd s = .ok (s.core s.cur, s.setCore s.cur (s.core s.cur)) := rfl

end

/-- A core is as quiet when it has been put back. -/
theorem State.quiet_setCore_self (s : State) (c : Nat) : (s.setCore c (s.core c)).quiet c = s.quiet c := by
  simp only [State.quiet, State.core_setCore_self, State.setCore_reqs, State.setCore_reps, State.setCore_regions]

/-- A core that holds no host line gives none up. -/
theorem State.flushHost_of_no_host_line {s : State} {c : Nat} (h : ∀ p ∈ (s.core c).l1, p.2.home < 4096) : s.flushHost c = some s := by
  have hnil : ((s.core c).l1.filter fun p => decide (4096 ≤ p.2.home)) = [] :=
    List.filter_eq_nil_iff.2 fun p hp => by simpa using h p hp
  rw [State.flushHost, hnil]
  rfl

/-- What ERET accepts (R322): PPL = 0, and an EPC of a word whose bits 63:54 are zero. -/
theorem eretOk_iff (k : Core) : eretOk k = true ↔ k.sv.status.toNat % 4 = 0 ∧ k.sv.epc.toNat % 4 = 0 ∧ k.sv.epc.toNat < 2 ^ 54 := by
  have h := k.sv.epc.isLt
  simp only [eretOk, slice, bitsOf, Bool.and_eq_true, beq_iff_eq]
  omega

section
variable {s : State} {k : Core} (hk : k = s.core s.cur)
include hk

/-! ### ECALL and BRK (R321) -/

theorem ecall_traps (h : k.priv = 0) : Traps .ecall s causeEcall 0 := by
  subst hk
  exact runInstr_trap (by rw [bind_ok (onCore_rd s), if_pos h]; rfl)

theorem brk_traps (h : k.priv = 0) : Traps .brk s causeBrk 0 := by
  subst hk
  exact runDev_trap (by rw [bind_ok (onCore_rd s), if_pos h]; rfl)

theorem ecall_machine (h : k.priv = 3) : Completes .ecall s (k.result allOnes) := by
  subst hk
  refine runInstr_ok ?_
  rw [bind_ok (onCore_rd s), if_neg (by omega), if_pos h, onCore_ok (k := (s.core s.cur).result allOnes), State.setCore_cur, State.setCore_setCore]
  rw [State.setCore_cur, State.core_setCore_self]
  rfl

theorem brk_machine (h : k.priv = 3) : Completes .brk s k := by
  subst hk
  exact runDev_ok (by rw [bind_ok (onCore_rd s), if_neg (by omega), if_pos h]; rfl)

theorem ecall_service (h : k.priv = 1) (ha : Acked k) (hx : k.x3 10 ≠ 1) :
    Completes .ecall s ({ k with fwRet := k.s3.pc + 4 }.result allOnes) := by
  subst hk
  refine runInstr_ok ?_
  rw [bind_ok (onCore_rd s), if_neg (by omega), if_neg (by omega), bind_ok (waitAcked_ok (by simpa using ha))]
  simp only [wr, State.service, State.setCore_cur, State.core_setCore_self, State.setCore_setCore, if_neg hx, State.modCore]

/-! ### Privilege (R65, R322) -/

theorem priv_traps {p : Instr × Nat} (hp : p ∈ privTable) (h : k.priv < p.2) :
    Traps p.1 s causePriv (BitVec.ofNat 64 ((encode p.1).getD 0)) := by
  subst hk
  simp only [privTable, List.mem_cons, List.not_mem_nil, or_false] at hp
  rcases hp with rfl | rfl | rfl
  · refine runDev_trap ?_
    rw [bind_ok (onCore_rd s), bind_err (onCore_err (needPriv_trap _))]
    rwa [State.setCore_cur, State.core_setCore_self]
  · exact runCore_trap (bind_err (needPriv_trap h))
  · exact runInstr_trap (bind_err (onCore_err (needPriv_trap h)))

/-! ### WFI and HALT (R322) -/

theorem wfi_wakes (hp : 1 ≤ k.priv) (hw : k.wake = true) : Completes .wfi s { k with wake := false } := by
  subst hk
  refine runCore_ok ?_
  rw [bind_ok (needPriv_ok hp), bind_ok (a := s.core s.cur) (t := s.core s.cur) rfl, bind_ok (a := ()) (t := s.core s.cur) (by rw [hw]; rfl)]
  rfl

theorem wfi_waits (hp : 1 ≤ k.priv) (hw : k.wake = false) : Waits .wfi s := by
  subst hk
  refine runCore_wait (p := id) ?_
  rw [bind_ok (needPriv_ok hp), bind_ok (a := s.core s.cur) (t := s.core s.cur) rfl, bind_err (e := .wait id) (by rw [hw]; rfl)]

theorem halt_halts (hp : k.priv = 3) (hq : s.quiet s.cur = true) (hl : ∀ p ∈ k.l1, p.2.home < 4096) :
    Completes .halt s { k with halted := true } := by
  subst hk
  refine runInstr_ok ?_
  have hu : (s.setCore s.cur (s.core s.cur)).flushHost s.cur = some (s.setCore s.cur (s.core s.cur)) :=
    State.flushHost_of_no_host_line (by rwa [State.core_setCore_self])
  rw [bind_ok (onCore_ok (needPriv_ok hp.ge)), bind_ok (a := s.setCore s.cur (s.core s.cur)) rfl, State.setCore_cur,
    bind_ok (a := ()) (t := s.setCore s.cur (s.core s.cur)) (by rw [State.quiet_setCore_self, hq]; rfl), hu]
  simp only [wr, State.modCore, State.setCore_cur, State.core_setCore_self, State.setCore_setCore]

/-! ### ERET (R322) -/

theorem eret_refuses (hp : k.priv = 1) (h : eretOk k = false) : Traps .eret s causeBadOp k.sv.epc := by
  subst hk
  refine runDev_trap ?_
  rw [bind_ok (onCore_rd s), bind_ok (onCore_ok (needPriv_ok _)), if_neg (by omega), bind_err]
  · rw [trapIf, h]
    rfl
  · rw [State.setCore_cur, State.core_setCore_self]
    exact hp.ge

theorem eret_machine (hp : k.priv = 3) : exec .eret s = .next (s.setCore s.cur k.returnService) := by
  subst hk
  refine runDev_ok ?_
  rw [bind_ok (onCore_rd s), bind_ok (onCore_ok (needPriv_ok _)), if_pos hp]
  · simp only [onCore, wr, State.setCore_cur, State.core_setCore_self, State.setCore_setCore]
  · rw [State.setCore_cur, State.core_setCore_self]
    omega

end

/-! ### A context that faults, with the line of FCAUSE at home (R318) -/

theorem mem_insertK {α : Type} {l : List (Nat × α)} {c : Nat} {v : α} {p : Nat × α} (h : p ∈ insertK l c v) : p = (c, v) ∨ p ∈ l := by
  induction l with
  | nil => exact .inl (List.mem_singleton.1 h)
  | cons q r ih =>
    rw [insertK] at h
    split at h
    · exact List.mem_cons.1 h
    · split at h
      · exact (List.mem_cons.1 h).imp_right (List.mem_cons_of_mem q)
      · rcases List.mem_cons.1 h with rfl | h
        · exact .inr (List.mem_cons_self ..)
        · exact (ih h).imp_right (List.mem_cons_of_mem q)

theorem mem_of_lookupK {α : Type} {l : List (Nat × α)} {c : Nat} {v : α} (h : lookupK l c = some v) : (c, v) ∈ l := by
  induction l with
  | nil => cases h
  | cons q r ih =>
    rw [lookupK] at h
    split at h
    · rename_i hq
      cases h
      exact hq ▸ List.mem_cons_self ..
    · exact List.mem_cons_of_mem q (ih h)

/-- No core holds a line exclusively. -/
theorem xHolderIn_eq_none_iff {l : List (Nat × Core)} {line : Nat} :
    xHolderIn l line = none ↔ ∀ p ∈ l, ∀ x, lookupK p.2.l1 line = some x → x.excl = false := by
  induction l with
  | nil => simp [xHolderIn]
  | cons p r ih =>
    obtain ⟨c, k⟩ := p
    rw [xHolderIn, List.forall_mem_cons, ← ih]
    cases h : lookupK k.l1 line with
    | none => simp
    | some x => cases hx : x.excl <;> simp [hx]

/-- A line that is at home stays there when a core is replaced by one with the same L1. -/
theorem State.away_setCore {s : State} {c : Nat} {k : Core} {line : Nat} (hk : k.l1 = (s.core c).l1) (h : s.away line = none) :
    (s.setCore c k).away line = none := by
  have hold : s.xHolder line = none := by
    unfold State.away at h
    split at h
    · cases h
    · assumption
  have hnew : (s.setCore c k).xHolder line = none := by
    rw [State.xHolder, xHolderIn_eq_none_iff] at hold ⊢
    intro p hp x hx
    rcases mem_insertK hp with rfl | hp
    · rw [hk, State.core] at hx
      cases hc : lookupK s.cores c with
      | none =>
        rw [hc] at hx
        cases hx
      | some w =>
        rw [hc] at hx
        exact hold _ (mem_of_lookupK hc) x hx
    · exact hold p hp x hx
  rw [State.away, hold] at h
  rw [State.away, hnew]
  exact h

theorem State.fireList_ctxs (s : State) (tau : Nat) (ws : List Watch) : (s.fireList tau ws).ctxs = s.ctxs := by
  induction ws generalizing s with
  | nil => rfl
  | cons w r ih =>
    rw [State.fireList]
    split
    · exact ih _
    · exact ih s

/-- A write of home storage changes of a context which drops of its queues it has reported, and no more. -/
theorem State.putMem_ctx? {s : State} {x : Nat} {k : Context} (h : s.ctx? x = some k) (pa n v tau : Nat) :
    ∃ y, (s.putMem pa n v tau).ctx? x = some { k with lostHw := y } := by
  rw [State.ctx?] at h
  rw [State.ctx?, State.putMem, State.fireWatches, State.fireList_ctxs, State.noteWrite]
  split
  · rw [lookupK_map (fun p => by split <;> rfl), h, Option.map_some]
    dsimp only
    split
    · exact ⟨_, rfl⟩
    · exact ⟨k.lostHw, rfl⟩
  · exact ⟨k.lostHw, h⟩

/-- A running context whose line of FCAUSE is at home becomes FAULTED, and FCAUSE holds the code, the cause and the core. -/
theorem State.faultCtx_ctx? {s : State} {x : Nat} {k : Context} (h : s.ctx? x = some k) (hst : k.st = .running)
    (hhome : s.away ((k.desc * 4096 + 0x58) / 64) = none) (code cause core : Nat) :
    ∃ y, (s.faultCtx x code cause core).ctx? x
      = some { k with st := .faulted, fcause := BitVec.ofNat 64 (code + cause * 2 ^ 8 + core * 2 ^ 16), lostHw := y } := by
  have hset : s.settle (k.desc * 4096 + 0x58) = s := by rw [State.settle, hhome]
  rw [State.faultCtx, h]
  dsimp only
  rw [hset, State.faultNow, h]
  dsimp only
  rw [if_pos (.inr (.inl hst))]
  exact State.putMem_ctx? (s := s.setCtx x _) (lookupK_insertK_self _ _ _) _ _ _ _

theorem brk_faults {s : State} {k : Core} {x : Context} (hk : k = s.core s.cur) (hp : k.priv = 1)
    (hx : s.ctx? k.sv.ctxid.toNat = some x) (hst : x.st = .running) (hhome : CauseAtHome s x) :
    ∃ u w y, exec .brk s = .next u
      ∧ u.ctx? k.sv.ctxid.toNat = some { x with st := .faulted, fcause := BitVec.ofNat 64 w, lostHw := y } ∧ w % 2 ^ 8 = 5 := by
  subst hk
  have hrun : exec .brk s = .next (s.setCore s.cur (s.core s.cur)).brkFault := by
    refine runDev_ok ?_
    rw [bind_ok (onCore_rd s), if_neg (by omega), if_neg (by omega)]
    rfl
  have haway := State.away_setCore (k := { s.core s.cur with slot3 := .idle, pend3 := .none }) rfl hhome
  obtain ⟨y, hy⟩ := State.faultCtx_ctx? (s := s.setCore s.cur { s.core s.cur with slot3 := .idle, pend3 := .none }) hx hst haway 5 0
    (s.logical s.cur)
  refine ⟨_, 5 + 0 * 2 ^ 8 + s.logical s.cur * 2 ^ 16, y, hrun, ?_, by omega⟩
  simpa only [State.brkFault, State.setCore_cur, State.core_setCore_self, State.setCore_setCore, State.logical_setCore] using hy

/-! ### The trap frame read back, and the return to slot 0 (R317, R322) -/

namespace HomeFrame
variable {s t : State} {e : TEnv} {user : Bool} {sp : Special} {p : Nat}

theorem vread (h : HomeFrame s t) {va n : Nat} {o : Nat × Nat × State} (hr : t.vread e user sp va n p = .ok o) : HomeFrame s o.2.2 := by
  unfold State.vread at hr
  split at hr
  · cases hr
  · rename_i ho
    dsimp only at hr
    split at hr
    · cases hr
    · cases hr
      exact (h.walkTouch ho).homeRead

theorem vreads (h : HomeFrame s t) {va n : Nat} {o : List Word × Nat × State} (hr : t.vreads e user va p n = .ok o) : HomeFrame s o.2.2 := by
  induction n generalizing t va p o with
  | zero =>
    cases hr
    exact h
  | succ n ih =>
    rw [State.vreads] at hr
    split at hr
    · cases hr
    · rename_i ho
      split at hr
      · cases hr
      · rename_i hl
        cases hr
        have hu := ih (h.vread ho) hl
        exact hu

end HomeFrame

theorem vreads_length {s : State} {e : TEnv} {user : Bool} {va p n : Nat} {o : List Word × Nat × State}
    (hr : s.vreads e user va p n = .ok o) : o.1.length = n := by
  induction n generalizing s va p o with
  | zero =>
    cases hr
    rfl
  | succ n ih =>
    rw [State.vreads] at hr
    split at hr
    · cases hr
    · split at hr
      · cases hr
      · rename_i hl
        cases hr
        exact congrArg (· + 1) (ih hl)

/-- Putting the words of a list into a register file from register `o` on. -/
theorem getElem?_foldl_set {N : Nat} (v : Vector Word N) (l : List Word) (o m : Nat) (hm : m + o ≤ N) :
    ∀ i < m, ((List.range m).foldl (fun v i => v.setIfInBounds (i + o) (l[i]?.getD 0)) v)[i + o]? = some (l[i]?.getD 0) := by
  induction m with
  | zero => intro i hi; omega
  | succ m ih =>
    intro i hi
    rw [List.range_succ, List.foldl_append, List.foldl_cons, List.foldl_nil, Vector.getElem?_setIfInBounds]
    split
    · have : m = i := by omega
      subst this
      rw [if_pos (by omega)]
    · exact ih (by omega) i (by omega)

theorem Hart.loaded_x (h : Hart) {x : List Word} (f : List Word) (hx : x.length = 29) {i : Nat} (hi : i < 29) : (h.loaded x f).x[i + 1]? = x[i]? := by
  rw [Hart.loaded]
  refine (getElem?_foldl_set h.x x 1 29 (by decide) i hi).trans ?_
  rw [List.getElem?_eq_getElem (by omega)]
  rfl

theorem Hart.loaded_f (h : Hart) (x : List Word) {f : List Word} (hf : f.length = 32) {i : Nat} (hi : i < 32) : (h.loaded x f).f[i]? = f[i]? := by
  rw [Hart.loaded]
  refine (getElem?_foldl_set h.f f 0 32 (by decide) i hi).trans ?_
  rw [List.getElem?_eq_getElem (by omega)]
  rfl

theorem readFrame_of_frameRead {c : Nat} {k : Core} {u t : State} {x f : List Word} {q : Nat} (h : FrameRead c k u x f q t)
    (hk : u.core c = k) : u.readFrame c = .ok (x, f, q, t) := by
  obtain ⟨p, v, hx, hf⟩ := h
  subst hk
  unfold State.readFrame
  dsimp only
  rw [show (u.core c).saveArea.toNat + 0x108 = saveAt (u.core c) 0x108 from rfl, hx]
  dsimp only
  rw [show (u.core c).saveArea.toNat + 0x200 = saveAt (u.core c) 0x200 from rfl, hf]

/-- Reading the frame keeps the core but for its lines and the request to stop. -/
theorem homeFrame_of_frameRead {c : Nat} {k : Core} {u t : State} {x f : List Word} {q : Nat} (h : FrameRead c k u x f q t) : HomeFrame u t := by
  obtain ⟨p, v, hx, hf⟩ := h
  exact ((HomeFrame.refl u).vreads hx).vreads hf

theorem lengths_of_frameRead {c : Nat} {k : Core} {u t : State} {x f : List Word} {q : Nat} (h : FrameRead c k u x f q t) :
    x.length = 29 ∧ f.length = 32 := by
  obtain ⟨p, v, hx, hf⟩ := h
  exact ⟨vreads_length hx, vreads_length hf⟩

section
variable (k : Core) (x f : List Word)

theorem Core.leaveSys_slot3 : (k.leaveSys x f).slot3 = .idle := by simp only [Core.leaveSys]
theorem Core.leaveSys_s0 : (k.leaveSys x f).s0 = (k.s0.loaded x f).resumeAt k.sv.epc := by simp only [Core.leaveSys]
theorem Core.leaveSys_long : (k.leaveSys x f).u.long = (k.sv.epc != 0 && bitAt k.sv.status 4) := by simp only [Core.leaveSys]
theorem Core.leaveSys_sv : (k.leaveSys x f).sv = k.sv := by simp only [Core.leaveSys]
theorem Core.leaveSys_v : (k.leaveSys x f).v = k.v := by simp only [Core.leaveSys]
theorem Core.leaveSys_act : (k.leaveSys x f).act = k.act := by simp only [Core.leaveSys]

end

/-- Slot 0 goes on where it was interrupted, within its activation. -/
theorem returnUser_trap {t : State} {c : Nat} {k : Core} (hk : k = t.core c) (h3 : k.slot3 = .trap) (he : k.sv.epc ≠ 0) (ha : k.act ≠ none)
    (x f : List Word) : t.returnUser c x f = t.setCore c (k.leaveSys x f) := by
  subst hk
  have hs : (if (t.core c).slot3 = .system then t.endSystem c else t) = t := if_neg (by rw [h3]; decide)
  have hact : ((t.core c).leaveSys x f).act.isSome = true := by rwa [Core.leaveSys_act, Option.isSome_iff_ne_none]
  simp only [State.returnUser, hs, State.resumeUser, if_neg he, hact, if_true]

theorem eret_returns {s : State} {k : Core} (hk : k = s.core s.cur) (hp : k.priv = 1) (h3 : k.slot3 = .trap) (hok : eretOk k = true)
    (he : k.sv.epc ≠ 0) (hacked : Acked k) (ha : k.act ≠ none) {x f : List Word} {q : Nat} {t : State}
    (hr : FrameRead s.cur k (s.setCore s.cur k) x f q t) :
    exec .eret s = .next (t.setCore s.cur (((withCachesOf k (t.core s.cur)).raisePts q).leaveSys x f)) := by
  have hcur : t.cur = s.cur := (homeFrame_of_frameRead hr).cur
  have hcore : t.core s.cur = withCachesOf k (t.core s.cur) := by
    have := (homeFrame_of_frameRead hr).core s.cur
    rwa [State.core_setCore_self] at this
  have hread := readFrame_of_frameRead hr (State.core_setCore_self ..)
  have hback : (t.modCore t.cur fun r => r.raisePts q).returnUser t.cur x f
      = t.setCore s.cur (((withCachesOf k (t.core s.cur)).raisePts q).leaveSys x f) := by
    have hret := returnUser_trap (k := (withCachesOf k (t.core s.cur)).raisePts q) (State.core_setCore_self t s.cur _).symm h3 he ha x f
    rw [hcur, State.modCore, hcore]
    rwa [State.setCore_setCore] at hret
  subst hk
  refine runDev_ok ?_
  rw [bind_ok (onCore_rd s), bind_ok (onCore_ok (needPriv_ok _)), if_neg (by omega), State.setCore_cur, State.core_setCore_self,
    State.setCore_setCore, bind_ok (trapIf_ok _ _ _ _), bind_ok (waitAcked_ok _), bind_ok (a := s.setCore s.cur (s.core s.cur)) rfl,
    State.setCore_cur, hread]
  · exact congrArg (fun u => Except.ok ((), u)) hback
  · rwa [State.setCore_cur, State.core_setCore_self]
  · rw [hok]
    rfl
  · rw [State.setCore_cur, State.core_setCore_self]
    exact hp.ge

/-- The core that has gone on at EPC holds the registers of the frame, and what it held besides. -/
theorem leaveSys_returned (k r : Core) (q : Nat) {x f : List Word} (hx : x.length = 29) (hf : f.length = 32) (he : k.sv.epc ≠ 0) :
    let u := ((withCachesOf k r).raisePts q).leaveSys x f
    u.slot3 = .idle ∧ u.s0.pc = BitVec.ofNat 64 (k.sv.epc.toNat % 2 ^ 48)
      ∧ (∀ i, i < 29 → u.s0.x[i + 1]? = x[i]?) ∧ (∀ i, i < 32 → u.s0.f[i]? = f[i]?)
      ∧ u.u.long = k.sv.status.getLsbD 4 ∧ u.sv = k.sv ∧ u.v = k.v ∧ u.act = k.act := by
  intro u
  have hs0 : u.s0 = (k.s0.loaded x f).resumeAt k.sv.epc := Core.leaveSys_s0 ..
  refine ⟨Core.leaveSys_slot3 .., ?_, fun i hi => ?_, fun i hi => ?_, ?_, Core.leaveSys_sv .., Core.leaveSys_v .., Core.leaveSys_act ..⟩
  · rw [hs0]
    exact congrArg (BitVec.ofNat 64) (by rw [slice, bitsOf, pow_zero, Nat.div_one])
  · rw [hs0]
    exact k.s0.loaded_x f hx hi
  · rw [hs0]
    exact k.s0.loaded_f x hf hi
  · exact (Core.leaveSys_long ..).trans (congrArg (· && bitAt k.sv.status 4) (bne_iff_ne.2 he))

/-- Settles O35: each instruction is run at each privilege; BRK's context fault changes the one context, since the line of FCAUSE is at
home, and the frame that ERET reads back changes of the core its lines alone. -/
theorem systemInstructions : Obligations.SystemInstructions := by
  intro s c k hc hk
  subst hc
  refine ⟨fun h => ⟨ecall_traps hk h, brk_traps hk h⟩, fun h => ⟨ecall_machine hk h, brk_machine hk h⟩,
    fun h ha hx => ecall_service hk h ha hx, fun h x hx hst hhome => brk_faults hk h hx hst hhome, fun p hp h => priv_traps hk hp h,
    fun h hbad => eret_refuses hk h ?_, fun h h3 hs he hlt h0 hacked ha x f q t hr => ?_, fun h => eret_machine hk h,
    fun h hw => wfi_wakes hk h hw, fun h hw => wfi_waits hk h hw, fun h hq hl => halt_halts hk h hq hl⟩
  · rw [Bool.eq_false_iff, ne_eq, eretOk_iff]
    omega
  · obtain ⟨hx, hf⟩ := lengths_of_frameRead hr
    refine ⟨_, eret_returns hk h h3 ((eretOk_iff k).2 ⟨hs, he, hlt⟩) h0 hacked ha hr, ?_⟩
    rw [State.core_setCore_self]
    exact leaveSys_returned k _ q hx hf h0

end Sys2Proof.Machine

/-! ## Rounding of a quotient, and NaN operands (R72, R75) -/

namespace Sys2Proof.Machine

/-! ### Rounding of a quotient (R75) -/

/-- Whether a mode takes an inexact quotient to the integer above it (R75). -/
def roundsUp (rm : Nat) (neg : Bool) (num den : Nat) : Bool :=
  match rm with
  | 0 => if 2 * (num % den) = den then num / den % 2 == 1 else decide (den < 2 * (num % den))
  | 1 => false
  | 2 => !neg
  | _ => neg

/-- RNE goes up past half the divisor, and at half of it from an odd quotient. -/
theorem roundsUp_nearest (neg : Bool) (num den : Nat) :
    roundsUp 0 neg num den = true ↔ den < 2 * (num % den) ∨ (2 * (num % den) = den ∧ num / den % 2 = 1) := by
  simp only [roundsUp]
  split
  · rw [beq_iff_eq]
    omega
  · rw [decide_eq_true_iff]
    omega

theorem roundDiv_exact {num den : Nat} (rm : Nat) (neg : Bool) (h : num % den = 0) :
    roundDiv rm neg num den = (num / den, false) := by
  simp only [roundDiv, h, if_true]

theorem roundDiv_inexact {num den : Nat} (rm : Nat) (neg : Bool) (h : num % den ≠ 0) :
    roundDiv rm neg num den = (if roundsUp rm neg num den then num / den + 1 else num / den, true) := by
  simp only [roundDiv, h, if_false]
  rfl

/-- An inexact quotient lies between two integers, and the mode chooses one of them. -/
theorem roundDiv_cases {rm : Nat} {neg : Bool} {num den q : Nat} {inex : Bool} (hden : 0 < den)
    (h : roundDiv rm neg num den = (q, inex)) :
    (inex = false ∧ num % den = 0 ∧ q * den = num)
    ∨ (inex = true ∧ 0 < num % den ∧ num % den < den ∧ roundsUp rm neg num den = false ∧ q = num / den ∧ q * den + num % den = num)
    ∨ (inex = true ∧ 0 < num % den ∧ num % den < den ∧ roundsUp rm neg num den = true ∧ q = num / den + 1
        ∧ q * den + num % den = num + den) := by
  have hdiv := Nat.div_add_mod' num den
  by_cases hr : num % den = 0
  · obtain ⟨rfl, rfl⟩ := Prod.mk.inj ((roundDiv_exact rm neg hr).symm.trans h)
    exact .inl ⟨rfl, hr, by omega⟩
  obtain ⟨rfl, rfl⟩ := Prod.mk.inj ((roundDiv_inexact rm neg hr).symm.trans h)
  have hlt := Nat.mod_lt num hden
  cases hup : roundsUp rm neg num den with
  | false => exact .inr (.inl ⟨rfl, Nat.pos_of_ne_zero hr, hlt, rfl, rfl, hdiv⟩)
  | true => exact .inr (.inr ⟨rfl, Nat.pos_of_ne_zero hr, hlt, rfl, rfl, by simp only [if_true, Nat.succ_mul]; omega⟩)

section
variable {rm : Nat} {neg : Bool} {num den q : Nat} {inex : Bool} (hden : 0 < den) (h : roundDiv rm neg num den = (q, inex))
include hden h

theorem roundDiv_inexact_iff : inex = true ↔ num % den ≠ 0 := by
  rcases roundDiv_cases hden h with ⟨rfl, hr, -⟩ | ⟨rfl, hr, -⟩ | ⟨rfl, hr, -⟩
  · simp [hr]
  · simp [hr.ne']
  · simp [hr.ne']

theorem roundDiv_eq_of_exact (hex : inex = false) : q * den = num := by
  rcases roundDiv_cases hden h with ⟨-, -, hq⟩ | ⟨rfl, -⟩ | ⟨rfl, -⟩
  · exact hq
  · cases hex
  · cases hex

/-- RNE: the remainder is at most half the divisor below and at least half of it above, and a tie goes to the even neighbour. -/
theorem roundDiv_nearest (hrm : rm = 0) :
    2 * (q * den) ≤ 2 * num + den ∧ 2 * num ≤ 2 * (q * den) + den
    ∧ ((2 * (q * den) = 2 * num + den ∨ 2 * num = 2 * (q * den) + den) → q % 2 = 0) := by
  subst hrm
  rcases roundDiv_cases hden h with ⟨-, -, hq⟩ | ⟨-, hpos, hlt, hup, rfl, hq⟩ | ⟨-, hpos, hlt, hup, rfl, hq⟩
  · exact ⟨by omega, by omega, by omega⟩
  · have hhalf := (roundsUp_nearest neg num den).not.1 (by rw [hup]; exact Bool.false_ne_true)
    exact ⟨by omega, by omega, by omega⟩
  · have hhalf := (roundsUp_nearest neg num den).1 hup
    exact ⟨by omega, by omega, by omega⟩

theorem roundDiv_toward_zero (hrm : rm = 1 ∨ (rm = 2 ∧ neg = true) ∨ (rm = 3 ∧ neg = false)) :
    q * den ≤ num ∧ num < (q + 1) * den := by
  have hdown : roundsUp rm neg num den = false := by rcases hrm with rfl | ⟨rfl, rfl⟩ | ⟨rfl, rfl⟩ <;> rfl
  rw [Nat.succ_mul]
  rcases roundDiv_cases hden h with ⟨-, -, hq⟩ | ⟨-, hpos, hlt, -, -, hq⟩ | ⟨-, -, -, hup, -⟩
  · exact ⟨by omega, by omega⟩
  · exact ⟨by omega, by omega⟩
  · rw [hdown] at hup
    cases hup

theorem roundDiv_away_from_zero (hrm : (rm = 2 ∧ neg = false) ∨ (rm = 3 ∧ neg = true)) : num ≤ q * den ∧ q * den < num + den := by
  have hup : roundsUp rm neg num den = true := by rcases hrm with ⟨rfl, rfl⟩ | ⟨rfl, rfl⟩ <;> rfl
  rcases roundDiv_cases hden h with ⟨-, -, hq⟩ | ⟨-, -, -, hdown, -⟩ | ⟨-, hpos, hlt, -, -, hq⟩
  · exact ⟨by omega, by omega⟩
  · rw [hup] at hdown
    cases hdown
  · exact ⟨by omega, by omega⟩

end

/-! ### NaN operands (R72) -/

theorem exists_nan_of_isNan {p : Val} (h : p.isNan = true) : ∃ sig, p = .nan sig := by
  cases p with
  | nan sig => exact ⟨sig, rfl⟩
  | inf | fin => cases h

@[simp] theorem Val.isNan_neg (p : Val) : p.neg.isNan = p.isNan := by cases p <;> rfl

@[simp] theorem Fmt.round_nan (f : Fmt) (md : Modes) : f.round md .nan = (f.nan, 0) := rfl

section
variable {p q : Val}

theorem exactAdd_nan (rm : Nat) (h : p.isNan = true ∨ q.isNan = true) : exactAdd rm p q = (.nan, 0) := by
  rcases h with h | h <;> obtain ⟨_, rfl⟩ := exists_nan_of_isNan h
  · rfl
  · cases p <;> rfl

theorem exactMul_nan (h : p.isNan = true ∨ q.isNan = true) : exactMul p q = (.nan, 0) := by
  rcases h with h | h <;> obtain ⟨_, rfl⟩ := exists_nan_of_isNan h
  · rfl
  · cases p <;> rfl

theorem exactDiv_nan (h : p.isNan = true ∨ q.isNan = true) : exactDiv p q = (.nan, 0) := by
  rcases h with h | h <;> obtain ⟨_, rfl⟩ := exists_nan_of_isNan h
  · rfl
  · cases p <;> rfl

theorem exactSqrt_nan (h : p.isNan = true) : exactSqrt p = (.nan, 0) := by
  obtain ⟨_, rfl⟩ := exists_nan_of_isNan h
  rfl

/-- A NaN factor makes the product a NaN; a NaN addend makes the sum one, whatever the product is. -/
theorem exactFma_nan (rm : Nat) {s : Val} (h : p.isNan = true ∨ q.isNan = true ∨ s.isNan = true) : (exactFma rm p q s).1 = .nan := by
  rw [← or_assoc] at h
  rcases h with h | h
  · simp only [exactFma, exactMul_nan h]
  · obtain ⟨_, rfl⟩ := exists_nan_of_isNan h
    unfold exactFma
    generalize exactMul p q = product
    obtain ⟨x, flags⟩ := product
    cases x <;> rfl

end

/-- The sign changes of the fused operations keep a NaN. -/
theorem isNan_ite_neg (c : Bool) (p : Val) : (if c then p.neg else p).isNan = p.isNan := by cases c <;> simp

/-- NV is raised among other flags. -/
theorem getLsbD_four_or_sigNV {l : List Val} (f : FFlags) (h : ∃ p ∈ l, p.isSig = true) : (f ||| sigNV l).getLsbD 4 = true := by
  have hany : l.any Val.isSig = true := List.any_eq_true.2 h
  rw [BitVec.getLsbD_or, sigNV, hany]
  exact Bool.or_true _

section
variable {t : Ty} {md : Modes} {x y : Nat}

theorem fpBin_nan (h : ((fmtOf t).operand md x).isNan = true ∨ ((fmtOf t).operand md y).isNan = true) {o : FOp}
    (ho : o ∈ [FOp.add, .sub, .mul, .div]) : (fpBin o t md x y).1 = (fmtOf t).nan := by
  have hsub : ((fmtOf t).operand md x).isNan = true ∨ ((fmtOf t).operand md y).neg.isNan = true := by rwa [Val.isNan_neg]
  cases o with
  | add => simp only [fpBin, exactAdd_nan _ h, Fmt.round_nan]
  | sub => simp only [fpBin, exactAdd_nan _ hsub, Fmt.round_nan]
  | mul => simp only [fpBin, exactMul_nan h, Fmt.round_nan]
  | div => simp only [fpBin, exactDiv_nan h, Fmt.round_nan]
  | min | max => simp at ho

/-- FMIN and FMAX raise the flags of their operands whichever they select. -/
theorem fpSelect_flags (mx : Bool) : (fpSelect mx t md x y).2 = sigNV [(fmtOf t).operand md x, (fmtOf t).operand md y] := by
  unfold fpSelect
  dsimp only
  split_ifs <;> rfl

theorem fpBin_signalling (h : ((fmtOf t).operand md x).isSig = true ∨ ((fmtOf t).operand md y).isSig = true) (o : FOp) :
    (fpBin o t md x y).2.getLsbD 4 = true := by
  have hsig : ∃ p ∈ [(fmtOf t).operand md x, (fmtOf t).operand md y], p.isSig = true := by simpa using h
  cases o with
  | add | sub | mul | div => exact getLsbD_four_or_sigNV _ hsig
  | min | max =>
    show (fpSelect _ t md x y).2.getLsbD 4 = true
    rw [fpSelect_flags, ← BitVec.zero_or (x := sigNV _)]
    exact getLsbD_four_or_sigNV _ hsig

theorem fpSqrt_nan (h : ((fmtOf t).operand md x).isNan = true) : (fpSqrt t md x).1 = (fmtOf t).nan := by
  simp only [fpSqrt, exactSqrt_nan h, Fmt.round_nan]

theorem fpFma_nan (np ns : Bool) {z : Nat} (h : ((fmtOf t).operand md x).isNan = true ∨ ((fmtOf t).operand md y).isNan = true
    ∨ ((fmtOf t).operand md z).isNan = true) : (fpFma t md np ns x y z).1 = (fmtOf t).nan := by
  rw [← isNan_ite_neg np, ← isNan_ite_neg ns ((fmtOf t).operand md z)] at h
  simp only [fpFma, exactFma_nan _ h, Fmt.round_nan]

end

/-- Settles O26: the quotient goes to one of its two neighbours as the mode says, and a NaN operand passes through every exact
operation to its one rounding. -/
theorem roundingAndNaN : Obligations.RoundingAndNaN :=
  ⟨fun _ _ _ _ _ _ hden _ h => ⟨roundDiv_inexact_iff hden h, roundDiv_eq_of_exact hden h, roundDiv_nearest hden h,
      roundDiv_toward_zero hden h, roundDiv_away_from_zero hden h⟩,
    fun _ _ _ _ _ => ⟨fun h _ => fpBin_nan h, fun h o _ => fpBin_signalling h o, fpSqrt_nan, fun np ns => fpFma_nan np ns⟩⟩

end Sys2Proof.Machine

/-! ## The matrix product (R83, R159) -/

namespace Sys2Proof.Machine
open Sys2Proof.Safety

/-! ### Tiles as lists of their elements -/

theorem tileOf_go_below (m : Nat) (l : List Word) {n : Nat} (h : n < m) : lookupK (tileOf.go m l) n = none := by
  induction l generalizing m with
  | nil => rfl
  | cons w r ih =>
    unfold tileOf.go
    split
    · exact ih (m + 1) (by omega)
    · rw [lookupK, if_neg (by omega)]
      exact ih (m + 1) (by omega)

theorem tileOf_go_at (m : Nat) (l : List Word) (n : Nat) : (lookupK (tileOf.go m l) (m + n)).getD 0 = l.getD n 0 := by
  induction l generalizing m n with
  | nil => rfl
  | cons w r ih =>
    have hnext : ∀ n, (lookupK (tileOf.go (m + 1) r) (m + (n + 1))).getD 0 = r.getD n 0 := fun n => by
      rw [← ih (m + 1) n, Nat.add_right_comm, Nat.add_assoc]
    unfold tileOf.go
    cases n with
    | zero =>
      split
      · rw [tileOf_go_below (m + 1) r (by omega)]
        exact Eq.symm ‹w = 0›
      · rw [lookupK, if_pos (Nat.add_zero m).symm]
        rfl
    | succ n =>
      split
      · exact hnext n
      · rw [lookupK, if_neg (by omega)]
        exact hnext n

/-- A tile holds the elements that it was made of. -/
theorem tileOf_at (c : TileClass) (l : List Word) (n : Nat) : (tileOf c l).at n = l.getD n 0 := by
  have h := tileOf_go_at 0 l n
  rwa [Nat.zero_add] at h

theorem tile_list_go_length (fuel n : Nat) (l : List (Nat × Word)) : (Tile.list.go fuel n l).length = fuel := by
  induction fuel generalizing n l with
  | zero => rfl
  | succ fuel ih =>
    cases l with
    | nil => rw [Tile.list.go, List.length_cons, ih]
    | cons p r =>
      rw [Tile.list.go]
      split <;> rw [List.length_cons, ih]

@[simp] theorem Tile.length_list (t : Tile) : t.list.length = 4096 := tile_list_go_length 4096 0 t.elems

theorem Core.tile_setTile_self (k : Core) {t : Nat} (x : Tile) (h : t < 4) : (k.setTile t x).tile t = x := by
  simp [Core.tile, Core.setTile, h]

theorem Core.tile_setTile_ne (k : Core) {t u : Nat} (x : Tile) (h : u ≠ t) : (k.setTile t x).tile u = k.tile u := by
  simp [Core.tile, Core.setTile, h.symm]

/-! ### ACCFLAGS.OVF -/

@[simp] theorem Core.orOvf_acc (k : Core) (o : Bool) : (k.orOvf o).acc = k.acc := by unfold Core.orOvf; split <;> rfl
@[simp] theorem Core.orOvf_tile (k : Core) (o : Bool) (t : Nat) : (k.orOvf o).tile t = k.tile t := by rw [Core.tile, Core.orOvf_acc, Core.tile]
@[simp] theorem Core.orOvf_sp (k : Core) (o : Bool) : (k.orOvf o).sp = k.sp := by unfold Core.orOvf; split <;> rfl
@[simp] theorem Core.orOvf_fflags (k : Core) (o : Bool) : (k.orOvf o).u.fflags = k.u.fflags := by unfold Core.orOvf; split <;> rfl

/-- OVF is sticky. -/
theorem Core.orOvf_ovf (k : Core) (o : Bool) :
    (k.orOvf o).u.accflags.getLsbD 0 = true ↔ k.u.accflags.getLsbD 0 = true ∨ o = true := by
  cases o with
  | false => simp [Core.orOvf]
  | true => simp [Core.orOvf]

/-! ### Saturation (R21, R83) -/

/-- The number nearest to v in m signed bits (R21, Sat). -/
def clampBits (m : Nat) (v : Int) : Int := max (-(2 ^ (m - 1))) (min (2 ^ (m - 1) - 1) v)

theorem satBits_eq (m : Nat) (v : Int) : satBits m v = (clampBits m v, decide (clampBits m v ≠ v)) := by
  have hpos : (0 : Int) < 2 ^ (m - 1) := by positivity
  unfold satBits clampTo clampBits
  push_cast
  split_ifs with hlo hhi
  · rw [Prod.mk.injEq, eq_comm (a := true), decide_eq_true_iff]
    omega
  · rw [Prod.mk.injEq, eq_comm (a := true), decide_eq_true_iff]
    omega
  · rw [Prod.mk.injEq, eq_comm (a := false), decide_eq_false_iff_not]
    omega

theorem clampBits_mem (m : Nat) (v : Int) : -(2 ^ (m - 1)) ≤ clampBits m v ∧ clampBits m v < 2 ^ (m - 1) := by
  have hpos : (0 : Int) < 2 ^ (m - 1) := by positivity
  unfold clampBits
  omega

theorem satBits64_eq (v : Int) : satBits 64 v = (clamp64 v, decide (clamp64 v ≠ v)) := satBits_eq 64 v

/-- A saturated element is held in the 64 bits as it is. -/
theorem toInt_wordOfInt_clamp64 (v : Int) : (wordOfInt (clamp64 v)).toInt = clamp64 v := by
  rw [wordOfInt, BitVec.toInt_ofInt]
  unfold clamp64
  exact Int.bmod_eq_of_le (by norm_num) (by norm_num)

/-! ### The sums of products -/

theorem dot_map (f g : Nat → Int) (l : List Nat) : dot (l.map f) (l.map g) = (l.map fun q => f q * g q).sum := by
  induction l with
  | nil => rfl
  | cons q r ih => rw [List.map_cons, List.map_cons, dot, ih, List.map_cons, List.sum_cons]

/-- Rows of m elements one after the other are one list by row and column. -/
theorem flatMap_range_rows {α : Type} (g : Nat → Nat → α) (n : Nat) {m : Nat} (hm : 0 < m) :
    ((List.range n).flatMap fun i => (List.range m).map (g i)) = (List.range (n * m)).map fun q => g (q / m) (q % m) := by
  induction n with
  | zero => simp
  | succ n ih =>
    have hrow : (List.range m).map (g n) = (List.range m).map fun j => g ((n * m + j) / m) ((n * m + j) % m) :=
      List.map_congr_left fun j hj => by
        have hj := List.mem_range.1 hj
        rw [Nat.mul_comm n m, Nat.mul_add_div hm, Nat.mul_add_mod, Nat.div_eq_of_lt hj, Nat.mod_eq_of_lt hj, Nat.add_zero]
    rw [List.range_succ, List.flatMap_append, ih, List.flatMap_singleton, hrow, Nat.succ_mul, List.range_add, List.map_append, List.map_map]
    rfl

/-- 64 rows of 64 elements. -/
def rowsOf (g : Nat → Nat → Int) : List (List Int) := (List.range 64).map fun i => (List.range 64).map (g i)

theorem matOperand_rows (k : Core) (off : Nat) (f : MatFmt) : (matOperand k off f).1 = rowsOf (operandElem k off f) := by
  unfold matOperand operandElem rowsOf
  split
  · simp only [List.map_map]
    rfl
  · rfl

theorem dots_rowsOf (x y : Nat → Nat → Int) :
    ((rowsOf x).flatMap fun r => (rowsOf y).map fun c => dot r c)
      = (List.range 4096).map fun n => ((List.range 64).map fun q => x (n / 64) q * y (n % 64) q).sum := by
  simp only [rowsOf, List.flatMap_map, List.map_map, Function.comp_def, dot_map]
  exact flatMap_range_rows (fun i j => ((List.range 64).map fun q => x i q * y j q).sum) 64 (by decide)

theorem eq_map_range_getD {l : List Word} {n : Nat} (h : l.length = n) : l = (List.range n).map fun i => l.getD i 0 := by
  refine List.ext_getElem (by simp [h]) fun i hi _ => ?_
  rw [List.getElem_map, List.getElem_range, List.getD_eq_getElem _ _ hi]

/-- Elements by row and column, saturated (R83). -/
def clampedElems (sum : Nat → Nat → Int) : List Word :=
  (List.range 4096).map fun n => wordOfInt (clamp64 (sum (n / 64) (n % 64)))

/-- Whether an element saturates. -/
def anyClamped (sum : Nat → Nat → Int) : Bool :=
  (List.range 4096).any fun n => decide (clamp64 (sum (n / 64) (n % 64)) ≠ sum (n / 64) (n % 64))

theorem row_col {i j : Nat} (hj : j < 64) : (64 * i + j) / 64 = i ∧ (64 * i + j) % 64 = j := by omega

theorem toInt_clampedElems (sum : Nat → Nat → Int) {i j : Nat} (hi : i < 64) (hj : j < 64) :
    ((clampedElems sum).getD (64 * i + j) 0).toInt = clamp64 (sum i j) := by
  have hlt : 64 * i + j < 4096 := by omega
  obtain ⟨hrow, hcol⟩ := row_col (i := i) hj
  rw [clampedElems, List.getD_eq_getElem _ _ (by rwa [List.length_map, List.length_range]), List.getElem_map, List.getElem_range,
    toInt_wordOfInt_clamp64, hrow, hcol]

theorem anyClamped_iff (sum : Nat → Nat → Int) :
    anyClamped sum = true ↔ ∃ i j, i < 64 ∧ j < 64 ∧ clamp64 (sum i j) ≠ sum i j := by
  simp only [anyClamped, List.any_eq_true, List.mem_range, decide_eq_true_iff]
  constructor
  · rintro ⟨n, hn, h⟩
    exact ⟨n / 64, n % 64, by omega, by omega, h⟩
  · rintro ⟨i, j, hi, hj, h⟩
    obtain ⟨hrow, hcol⟩ := row_col (i := i) hj
    exact ⟨64 * i + j, by omega, by rwa [hrow, hcol]⟩

/-- Every element is its old value plus its sum of products, saturated. -/
theorem matAccum_rowsOf (x y : Nat → Nat → Int) {old : List Word} (hold : old.length = 4096) {sum : Nat → Nat → Int}
    (hsum : ∀ i j, sum i j = (old.getD (64 * i + j) 0).toInt + ((List.range 64).map fun q => x i q * y j q).sum) :
    matAccum (rowsOf x) (rowsOf y) old = (clampedElems sum, anyClamped sum) := by
  have hzip : List.zip old ((List.range 4096).map fun n => ((List.range 64).map fun q => x (n / 64) q * y (n % 64) q).sum)
      = (List.range 4096).map fun n => (old.getD n 0, ((List.range 64).map fun q => x (n / 64) q * y (n % 64) q).sum) := by
    conv_lhs => rw [eq_map_range_getD hold]
    exact List.zip_map' ..
  have hadd : ∀ n, (old.getD n 0).toInt + ((List.range 64).map fun q => x (n / 64) q * y (n % 64) q).sum = sum (n / 64) (n % 64) :=
    fun n => by rw [hsum, Nat.div_add_mod]
  simp only [matAccum]
  rw [dots_rowsOf, hzip]
  simp only [List.map_map, List.any_map, Function.comp_def, hadd, satBits64_eq]
  rfl

/-! ### The product at retirement -/

/-- The elements that a product adds to (R159). -/
def oldElems (k : Core) (zero : Bool) (t : Nat) : List Word := if zero then List.replicate 4096 0 else (k.tile t).list

theorem length_oldElems (k : Core) (zero : Bool) (t : Nat) : (oldElems k zero t).length = 4096 := by
  cases zero with
  | false => exact Tile.length_list _
  | true => exact List.length_replicate

theorem toInt_oldElems (k : Core) (zero : Bool) (t n : Nat) :
    ((oldElems k zero t).getD n 0).toInt = if zero then 0 else ((k.tile t).list.getD n 0).toInt := by
  cases zero with
  | false => rfl
  | true => exact congrArg BitVec.toInt (List.getElem?_getD_replicate_default_eq _ 4096 n)

/-- What the unit writes when a product of operands in the scratchpad retires. -/
theorem matEffect_mmul (k : Core) (zero : Bool) (t : Nat) (fa fb : MatFmt) (aOff bOff : Nat) {sum : Nat → Nat → Int}
    (hsum : ∀ i j, sum i j = (if zero then 0 else ((k.tile t).list.getD (64 * i + j) 0).toInt)
      + ((List.range 64).map fun q => operandElem k aOff fa i q * operandElem k bOff fb j q).sum) :
    matEffect k (.mmul zero t fa aOff bOff fb)
      = (k.setTile t (tileOf (if zero then (if fa = .e4m3 then .f8 else .int) else (k.tile t).cls) (clampedElems sum))).orOvf
        (anyClamped sum || (matOperand k aOff fa).2 || (matOperand k bOff fb).2) := by
  have hacc : matAccum (matOperand k aOff fa).1 (matOperand k bOff fb).1 (oldElems k zero t) = (clampedElems sum, anyClamped sum) := by
    rw [matOperand_rows, matOperand_rows]
    exact matAccum_rowsOf _ _ (length_oldElems k zero t) fun i j => by rw [hsum, toInt_oldElems]
  unfold oldElems at hacc
  simp only [matEffect, matProduct, hacc]

/-- Settles O32: a product writes its tile and OVF alone, and element n of the tile is that of row n / 64 and column n % 64. -/
theorem matrixProduct : Obligations.MatrixProduct := by
  rintro k k' zero t fa fb aOff bOff sum ht rfl hsum
  rw [matEffect_mmul k zero t fa fb aOff bOff hsum]
  refine ⟨fun i j hi hj => ?_, ?_, ?_, fun u hu => ?_, Core.orOvf_sp .., Core.orOvf_fflags .., ?_⟩
  · rw [Core.orOvf_tile, Core.tile_setTile_self k _ ht, tileOf_at, toInt_clampedElems sum hi hj]
  · rw [Core.orOvf_tile, Core.tile_setTile_self k _ ht]
    rfl
  · rw [Core.orOvf_ovf, Bool.or_eq_true, Bool.or_eq_true, anyClamped_iff, or_assoc]
    rfl
  · rw [Core.orOvf_tile, Core.tile_setTile_ne k _ hu]
  · unfold Core.orOvf
    split <;> exact ⟨rfl, rfl, rfl⟩

end Sys2Proof.Machine

/-! ## The bit planes (R80, R169 to R172) -/

namespace Sys2Proof.Machine
open Sys2Proof.Safety

/-! ### Reading an operand leaves the scratchpad and the matrix unit -/

section
variable {k k' : Core} {r : Reg} {v : Word} (h : Source k r v k')
include h

theorem source_sp : k'.sp = k.sp := by rw [source_rest h]

theorem source_matBusy (off n : Nat) (w : Bool) : k'.matBusy off n w = k.matBusy off n w := by
  rw [source_rest h]
  rfl

end

section
variable {k : Core}

theorem checkOperand_ok {off : Word} {n align : Nat} (h : OperandAt off n align) : checkOperand off n align k = .ok ((), k) := by
  obtain ⟨halign, hrange⟩ := h
  rw [checkOperand, if_neg (not_not.2 halign), if_neg (by rw [spSize]; omega)]

theorem waitMat_ok {off n : Nat} {w : Bool} (h : k.matBusy off n w = false) : waitMat off n w k = .ok ((), k) := by
  rw [waitMat, h]
  rfl

theorem getModes_ok : getModes k = .ok (modesOf k, k) := rfl

theorem bpExponent_ok {b : Reg} {ex : Word} {k' : Core} (h : Source k b ex k') (hex : ex.toNat ≤ 255) :
    bpExponent b k = .ok (ex.toNat, k') := by
  rw [bpExponent, bind_ok (getX_of_source h), badMat, bind_ok (trapIf_ok _ _ _ (decide_eq_false (by omega)))]
  rfl

theorem bpExponent_trap {b : Reg} {ex : Word} {k' : Core} (h : Source k b ex k') (hex : 255 < ex.toNat) :
    bpExponent b k = .error (.trap causeBadOp 6) := by
  rw [bpExponent, bind_ok (getX_of_source h), badMat, bind_err (trapIf_trap _ _ _ (decide_eq_true hex))]
  rfl

theorem spRead_congr {q : Core} (h : k.sp = q.sp) (off n : Nat) : k.spRead off n = q.spRead off n := by
  rw [Core.spRead, Core.spRead, h]

end

/-! ### What the bit-plane instructions do, operand by operand -/

section
variable {s : State} {d a b : Reg} {m : BitVec 5} {x ex y : Word} {k1 k2 k3 : Core}

theorem execBpq_trap (ha : Source (s.core s.cur) a x k1) (hb : Source k1 b ex k2) (hex : 255 < ex.toNat) :
    Traps (.bpq d a b m) s causeBadOp 6 := by
  refine runCore_trap ?_
  rw [bind_ok getModes_ok, rd_bind, bind_ok (getX_of_source ha), bind_err (bpExponent_trap hb hex)]

theorem execBpdq_trap (ha : Source (s.core s.cur) a x k1) (hb : Source k1 b ex k2) (hex : 255 < ex.toNat) :
    Traps (.bpdq d a b m) s causeBadOp 6 := by
  refine runCore_trap ?_
  rw [rd_bind, bind_ok (getX_of_source ha), bind_err (bpExponent_trap hb hex)]

theorem execBpq_completes (ha : Source (s.core s.cur) a x k1) (hb : Source k1 b ex k2) (hd : Source k2 d y k3) (hex : ex.toNat ≤ 255)
    (hx : OperandAt x 256 8) (hy : OperandAt y (8 * m.toNat) 8) (hsrc : (s.core s.cur).matBusy x.toNat 256 false = false)
    (hdst : (s.core s.cur).matBusy y.toNat (8 * m.toNat) true = false) {l : List (Int × Bool × FFlags)}
    (hl : l = (List.range 64).map fun i => bpqElem m.toNat (modesOf (s.core s.cur)).rm ex.toNat (spF32 (s.core s.cur) x.toNat i)) :
    Completes (.bpq d a b m) s (((k3.spWrites y.toNat ((planesOf m.toNat (l.map Prod.fst)).flatMap (leBytes 8))).orOvf
      (l.any fun p => p.2.1)).orFlags (l.foldl (fun f p => f ||| p.2.2) 0)) := by
  subst hl
  refine runCore_ok ?_
  rw [← source_matBusy ha, ← source_matBusy hb, ← source_matBusy hd] at hsrc hdst
  rw [bind_ok getModes_ok, rd_bind, bind_ok (getX_of_source ha), bind_ok (bpExponent_ok hb hex), bind_ok (getX_of_source hd),
    bind_ok (checkOperand_ok hx), bind_ok (checkOperand_ok hy), bind_ok (waitMat_ok hsrc), bind_ok (waitMat_ok hdst)]
  rfl

theorem execBpdq_completes (ha : Source (s.core s.cur) a x k1) (hb : Source k1 b ex k2) (hd : Source k2 d y k3) (hex : ex.toNat ≤ 255)
    (hx : OperandAt x (8 * m.toNat) 8) (hy : OperandAt y 256 8) (hsrc : (s.core s.cur).matBusy x.toNat (8 * m.toNat) false = false)
    (hdst : (s.core s.cur).matBusy y.toNat 256 true = false) {l : List (Nat × FFlags)}
    (hl : l = (planeBlock (s.core s.cur) x.toNat m.toNat).map fun v =>
      (fmtOf .f32).round modesRNE (exactInt v ((ex.toNat : Int) - 127) false)) :
    Completes (.bpdq d a b m) s
      ((k3.spWrites y.toNat (l.flatMap fun p => leBytes 4 p.1)).orFlags (l.foldl (fun f p => f ||| p.2) 0)) := by
  subst hl
  refine runCore_ok ?_
  rw [← source_matBusy ha, ← source_matBusy hb, ← source_matBusy hd] at hsrc hdst
  rw [rd_bind, bind_ok (getX_of_source ha), bind_ok (bpExponent_ok hb hex), bind_ok (getX_of_source hd),
    bind_ok (checkOperand_ok hx), bind_ok (checkOperand_ok hy), bind_ok (waitMat_ok hsrc), bind_ok (waitMat_ok hdst)]
  rfl

theorem bplOperands_ok {k : Core} {src dst : Nat} (ha : Source k a x k1) (hd : Source k1 d y k2) (hx : OperandAt x src 8)
    (hy : OperandAt y dst 8) (hsrc : k.matBusy x.toNat src false = false) (hdst : k.matBusy y.toNat dst true = false) :
    bplOperands d a src dst k = .ok ((x.toNat, y.toNat), k2) := by
  rw [← source_matBusy ha, ← source_matBusy hd] at hsrc hdst
  rw [bplOperands, bind_ok (getX_of_source ha), bind_ok (getX_of_source hd), bind_ok (checkOperand_ok hx),
    bind_ok (checkOperand_ok hy), bind_ok (waitMat_ok hsrc), bind_ok (waitMat_ok hdst)]
  rfl

theorem execBpack_completes (ha : Source (s.core s.cur) a x k1) (hd : Source k1 d y k2) (hx : OperandAt x 64 8)
    (hy : OperandAt y (8 * m.toNat) 8) (hsrc : (s.core s.cur).matBusy x.toNat 64 false = false)
    (hdst : (s.core s.cur).matBusy y.toNat (8 * m.toNat) true = false) {l : List (Int × Bool)}
    (hl : l = (List.range 64).map fun i => satBits m.toNat (sextNat (k2.spRead (x.toNat + i) 1) 8)) :
    Completes (.bpack d a m) s
      ((k2.spWrites y.toNat ((planesOf m.toNat (l.map Prod.fst)).flatMap (leBytes 8))).orOvf (l.any Prod.snd)) := by
  subst hl
  refine runCore_ok ?_
  rw [bind_ok (bplOperands_ok ha hd hx hy hsrc hdst)]
  rfl

theorem execBunpack_completes (ha : Source (s.core s.cur) a x k1) (hd : Source k1 d y k2) (hx : OperandAt x (8 * m.toNat) 8)
    (hy : OperandAt y 64 8) (hsrc : (s.core s.cur).matBusy x.toNat (8 * m.toNat) false = false)
    (hdst : (s.core s.cur).matBusy y.toNat 64 true = false) :
    Completes (.bunpack d a m) s (k2.spWrites y.toNat ((planeBlock k2 x.toNat m.toNat).map fun v => BitVec.ofInt 8 v)) := by
  refine runCore_ok ?_
  rw [bind_ok (bplOperands_ok ha hd hx hy hsrc hdst)]
  rfl

theorem execBpmaxe_completes (ha : Source (s.core s.cur) a x k1) (hx : OperandAt x 256 8)
    (hsrc : (s.core s.cur).matBusy x.toNat 256 false = false) (hd : Dest k1 d (BitVec.ofNat 64 (maxExponent k1 x.toNat)) k2) :
    Completes (.bpmaxe d a) s k2 := by
  refine runCore_ok ?_
  rw [← source_matBusy ha] at hsrc
  rw [bind_ok (getX_of_source ha), bind_ok (checkOperand_ok hx), bind_ok (waitMat_ok hsrc), rd_bind, setX_of_dest hd]

end

end Sys2Proof.Machine

/-! ## The bit planes on a canonical scratchpad (R80, R169 to R172)

What is written reads back where the scratchpad is in its canonical form (`Memory.wf`), which every write keeps (`wf_cellSets`). -/

namespace Sys2Proof.Machine
open Sys2Proof.Safety

/-! ### Bytes read back -/

theorem cellGet_cellSets_out (m : List Host.Cell) {a q : Nat} {l : List Byte} (h : q < a ∨ a + l.length ≤ q) :
    cellGet (cellSets m a l) q = cellGet m q := by
  induction l generalizing m a with
  | nil => rfl
  | cons b r ih =>
    rw [List.length_cons] at h
    rw [cellSets, ih _ (by omega), cellGet_cellSet_ne m b (by omega)]

theorem cellGet_cellSets {m : List Host.Cell} (hwf : Memory.wf m = true) (a : Nat) (l : List Byte) {i : Nat} (hi : i < l.length) :
    cellGet (cellSets m a l) (a + i) = l[i] := by
  induction l generalizing m a i with
  | nil => cases hi
  | cons b r ih =>
    rw [cellSets]
    cases i with
    | zero => rw [cellGet_cellSets_out _ (.inl (by omega)), Nat.add_zero, cellGet_cellSet_self a b hwf]; rfl
    | succ i =>
      rw [← Nat.add_assoc, Nat.add_right_comm]
      exact ih (wf_cellSet a b hwf) (a + 1) (Nat.lt_of_succ_lt_succ hi)

@[simp] theorem length_leBytes (n v : Nat) : (leBytes n v).length = n := by
  induction n generalizing v with
  | zero => rfl
  | succ n ih => rw [leBytes, List.length_cons, ih]

theorem getElem_leBytes (n v : Nat) {i : Nat} (hi : i < (leBytes n v).length) : (leBytes n v)[i].toNat = bitsOf v (8 * i) 8 := by
  induction n generalizing v i with
  | zero => cases hi
  | succ n ih =>
    cases i with
    | zero => simp [leBytes, bitsOf]
    | succ i =>
      have htail := ih (v / 256) (Nat.lt_of_succ_lt_succ hi)
      simp only [leBytes, List.getElem_cons_succ]
      rw [htail, bitsOf, bitsOf, Nat.div_div_eq_div_mul, Nat.mul_succ, Nat.pow_add, Nat.mul_comm 256]

/-- A number reads as its bytes say. -/
theorem storeBytes_of_bytes {m : List Host.Cell} {a n : Nat} (v : Nat) (h : ∀ i < n, (cellGet m (a + i)).toNat = bitsOf v (8 * i) 8) :
    storeBytes m a n = v % 2 ^ (8 * n) := by
  induction n with
  | zero => rw [storeBytes, Nat.mul_zero, Nat.pow_zero, Nat.mod_one]
  | succ n ih =>
    rw [storeBytes, ih fun i hi => h i (Nat.lt_succ_of_lt hi), h n (Nat.lt_succ_self n), Nat.mul_succ, Nat.pow_add, Nat.mod_mul, bitsOf,
      Nat.mul_comm (_ % _)]

theorem length_flatMap_of_length {α β : Type} {f : α → List β} {n : Nat} (hf : ∀ x, (f x).length = n) (l : List α) :
    (l.flatMap f).length = n * l.length := by
  induction l with
  | nil => rfl
  | cons x r ih => rw [List.flatMap_cons, List.length_append, hf, ih, List.length_cons, Nat.mul_succ, Nat.add_comm]

theorem getElem?_flatMap_of_length {α β : Type} {f : α → List β} {n : Nat} (hf : ∀ x, (f x).length = n) (l : List α) {i j : Nat}
    (hi : i < n) (hj : j < l.length) : (l.flatMap f)[n * j + i]? = (f l[j])[i]? := by
  induction l generalizing j with
  | nil => cases hj
  | cons x r ih =>
    rw [List.flatMap_cons]
    cases j with
    | zero => rw [List.getElem?_append_left (by rw [hf]; omega), Nat.mul_zero, Nat.zero_add]; rfl
    | succ j =>
      rw [List.getElem?_append_right (by rw [hf, Nat.mul_succ]; omega), hf,
        show n * (j + 1) + i - n = n * j + i by rw [Nat.mul_succ]; omega]
      exact ih (Nat.lt_of_succ_lt_succ hj)

/-- Number j of n bytes each reads back as it was written. -/
theorem spRead_spWrites_leBytes {k : Core} (hwf : Memory.wf k.sp = true) (off n : Nat) (l : List Nat) {j : Nat} (hj : j < l.length) :
    (k.spWrites off (l.flatMap (leBytes n))).spRead (off + n * j) n = l[j] % 2 ^ (8 * n) := by
  refine storeBytes_of_bytes _ fun i hi => ?_
  have hlen := length_flatMap_of_length (length_leBytes n) l
  have hlt : n * j + i < (l.flatMap (leBytes n)).length := by
    have hmul : n * (j + 1) ≤ n * l.length := Nat.mul_le_mul_left n hj
    rw [hlen]
    rw [Nat.mul_succ] at hmul
    omega
  have hbyte := getElem?_flatMap_of_length (length_leBytes n) l hi hj
  rw [List.getElem?_eq_getElem hlt, List.getElem?_eq_getElem (by rwa [length_leBytes])] at hbyte
  rw [Core.spWrites, Nat.add_assoc, cellGet_cellSets hwf off _ hlt, Option.some.inj hbyte, getElem_leBytes]

/-! ### Numbers from their bits -/

/-- The number with the bits `g 0` to `g (n - 1)`. -/
def bitSum (g : Nat → Nat) (n : Nat) : Nat := (List.range n).foldl (fun acc i => acc + g i * 2 ^ i) 0

theorem bitSum_succ (g : Nat → Nat) (n : Nat) : bitSum g (n + 1) = bitSum g n + g n * 2 ^ n := by
  rw [bitSum, List.range_succ, List.foldl_append]
  rfl

theorem bitSum_congr {g h : Nat → Nat} {n : Nat} (hgh : ∀ i < n, g i = h i) : bitSum g n = bitSum h n := by
  induction n with
  | zero => rfl
  | succ n ih => rw [bitSum_succ, bitSum_succ, ih fun i hi => hgh i (Nat.lt_succ_of_lt hi), hgh n (Nat.lt_succ_self n)]

section
variable {g : Nat → Nat} (hg : ∀ i, g i < 2)
include hg

theorem bitSum_lt (n : Nat) : bitSum g n < 2 ^ n := by
  induction n with
  | zero => exact Nat.one_pos
  | succ n ih =>
    have hbit : g n * 2 ^ n ≤ 1 * 2 ^ n := Nat.mul_le_mul_right _ (Nat.le_of_lt_succ (hg n))
    rw [bitSum_succ, Nat.pow_succ]
    omega

theorem bitsOf_bitSum {i n : Nat} (hi : i < n) : bitsOf (bitSum g n) i 1 = g i := by
  induction n with
  | zero => cases hi
  | succ n ih =>
    rw [bitSum_succ, bitsOf]
    rcases Nat.lt_succ_iff_lt_or_eq.1 hi with h | rfl
    · have hpow : 2 ^ n = 2 ^ i * (2 * 2 ^ (n - i - 1)) := by rw [← Nat.pow_succ', ← Nat.pow_add]; congr 1; omega
      rw [hpow, show g n * (2 ^ i * (2 * 2 ^ (n - i - 1))) = 2 ^ i * (2 * (g n * 2 ^ (n - i - 1))) by ring,
        Nat.add_mul_div_left _ _ (Nat.two_pow_pos i), Nat.pow_one, Nat.add_mul_mod_self_left]
      exact ih h
    · rw [Nat.add_mul_div_right _ _ (Nat.two_pow_pos i), Nat.div_eq_of_lt (bitSum_lt hg i), Nat.zero_add]
      exact Nat.mod_eq_of_lt (hg i)

end

theorem bitsOf_one_lt (v i : Nat) : bitsOf v i 1 < 2 := bitsOf_lt v i 1

theorem bitSum_bitsOf (v n : Nat) : bitSum (fun i => bitsOf v i 1) n = v % 2 ^ n := by
  induction n with
  | zero => rw [Nat.pow_zero, Nat.mod_one]; rfl
  | succ n ih => rw [bitSum_succ, ih, Nat.pow_succ, Nat.mod_mul, Nat.mul_comm (_ ^ _), bitsOf, Nat.pow_one]

/-! ### Signed elements in their codes (R80) -/

theorem sextNat_mod (v n : Nat) : sextNat (v % 2 ^ n) n = sextNat v n := by rw [sextNat, sextNat, Nat.mod_mod]

/-- A signed number is the value of its code. -/
theorem sextNat_intBits {m : Nat} (hm : 0 < m) {v : Int} (hlo : -(2 ^ (m - 1)) ≤ v) (hhi : v < 2 ^ (m - 1)) :
    sextNat (intBits m v) m = v := by
  obtain ⟨n, rfl⟩ := Nat.exists_eq_succ_of_ne_zero hm.ne'
  rw [Nat.succ_sub_one] at hlo hhi
  have hpos : 0 < 2 ^ n := Nat.two_pow_pos n
  unfold sextNat intBits
  dsimp only
  rw [Nat.succ_sub_one, Nat.pow_succ]
  have hlo' : -((2 ^ n : Nat) : Int) ≤ v := by exact_mod_cast hlo
  have hhi' : v < ((2 ^ n : Nat) : Int) := by exact_mod_cast hhi
  generalize 2 ^ n = p at hpos hlo' hhi'
  rcases Int.lt_or_le v 0 with hneg | hnonneg
  · have hcode : (v % ((p * 2 : Nat) : Int)).toNat = (v + p * 2).toNat := by
      rw [← Int.add_emod_right, Int.emod_eq_of_lt] <;> push_cast <;> omega
    rw [hcode, Nat.mod_eq_of_lt (by omega), if_neg (by omega)]
    push_cast
    omega
  · have hcode : (v % ((p * 2 : Nat) : Int)).toNat = v.toNat := by rw [Int.emod_eq_of_lt] <;> push_cast <;> omega
    rw [hcode, Nat.mod_eq_of_lt (by omega), if_pos (by omega)]
    omega

/-- The code of element i of a list in m bits. -/
def codeAt (m : Nat) (l : List Int) (i : Nat) : Nat := intBits m (l[i]?.getD 0)

theorem getElem_planesOf (m : Nat) (l : List Int) {j : Nat} (hj : j < (planesOf m l).length) :
    (planesOf m l)[j] = bitSum (fun i => bitsOf (codeAt m l i) j 1) 64 := by
  simp only [planesOf, List.getElem_map, List.getElem_range]
  rfl

/-- Elements of m signed bits read back from their planes. -/
theorem planeElem_spWrites_planesOf {k : Core} (hwf : Memory.wf k.sp = true) (off : Nat) {m : Nat} (hm : 0 < m) (g : Nat → Int)
    (hg : ∀ i, -(2 ^ (m - 1)) ≤ g i ∧ g i < 2 ^ (m - 1)) {i : Nat} (hi : i < 64) :
    planeElem (k.spWrites off ((planesOf m ((List.range 64).map g)).flatMap (leBytes 8))) off m i = g i := by
  generalize hl : (List.range 64).map g = l
  have hcode : codeAt m l i = intBits m (g i) := by simp [codeAt, ← hl, hi]
  have hplane : ∀ j < m, bitsOf ((k.spWrites off ((planesOf m l).flatMap (leBytes 8))).spRead (off + 8 * j) 8) i 1
      = bitsOf (codeAt m l i) j 1 := fun j hj => by
    have hbits : ∀ i, bitsOf (codeAt m l i) j 1 < 2 := fun i => bitsOf_one_lt _ _
    rw [spRead_spWrites_leBytes hwf off 8 _ (by simpa [planesOf] using hj), getElem_planesOf, Nat.mod_eq_of_lt (bitSum_lt hbits 64),
      bitsOf_bitSum hbits hi]
  obtain ⟨hlo, hhi⟩ := hg i
  show sextNat (bitSum _ m) m = g i
  rw [bitSum_congr hplane, bitSum_bitsOf, sextNat_mod, hcode, sextNat_intBits hm hlo hhi]

/-! ### The flags of 64 elements -/

theorem getLsbD_foldl_or {α : Type} (g : α → FFlags) (l : List α) (f : FFlags) (j : Nat) :
    (l.foldl (fun f x => f ||| g x) f).getLsbD j = true ↔ f.getLsbD j = true ∨ ∃ x ∈ l, (g x).getLsbD j = true := by
  induction l generalizing f with
  | nil => simp
  | cons x r ih => rw [List.foldl_cons, ih, BitVec.getLsbD_or, Bool.or_eq_true, List.exists_mem_cons_iff, or_assoc]

/-- The flags of n elements are what the fold over them collects. -/
theorem foldl_or_of_allFlags {n : Nat} {g : Nat → FFlags} {fl : FFlags} (h : AllFlags n g fl) :
    (List.range n).foldl (fun f i => f ||| g i) 0 = fl := by
  refine BitVec.eq_of_getLsbD_eq fun j _ => Bool.eq_iff_iff.2 ?_
  rw [h j, getLsbD_foldl_or]
  simp

theorem any_range_iff {n : Nat} {p : Nat → Bool} : (List.range n).any p = true ↔ ∃ i, i < n ∧ p i = true := by
  simp only [List.any_eq_true, List.mem_range]

/-! ### The results in the scratchpad -/

/-- An element of BPQ has m signed bits. -/
theorem bpqElem_mem (m rm : Nat) (ex : Int) (b : Nat) :
    -(2 ^ (m - 1)) ≤ (bpqElem m rm ex b).1 ∧ (bpqElem m rm ex b).1 < 2 ^ (m - 1) := by
  have hzero : -(2 ^ (m - 1)) ≤ (0 : Int) ∧ (0 : Int) < 2 ^ (m - 1) := ⟨by simp, by positivity⟩
  have hsat : ∀ v, -(2 ^ (m - 1)) ≤ (satBits m v).1 ∧ (satBits m v).1 < 2 ^ (m - 1) := fun v => by
    rw [satBits_eq]
    exact clampBits_mem m v
  unfold bpqElem
  split
  · exact hzero
  · exact hsat _
  · dsimp only
    split
    · exact hzero
    · exact hsat _

theorem length_planes (m : Nat) (l : List Int) : ((planesOf m l).flatMap (leBytes 8)).length = 8 * m := by
  rw [length_flatMap_of_length (length_leBytes 8), planesOf, List.length_map, List.length_range]

theorem planeBlock_congr {k q : Core} (h : k.sp = q.sp) (off m : Nat) : planeBlock k off m = planeBlock q off m := by
  refine List.map_congr_left fun i _ => ?_
  simp only [planeElem, spRead_congr h]

theorem spRead_one (k : Core) (off : Nat) : k.spRead off 1 = (cellGet k.sp off).toNat := by simp [Core.spRead, storeBytes]

section
variable {s : State} {d a b : Reg} {m : BitVec 5} {x ex y : Word} {k k1 k2 k3 : Core} (hk : k = s.core s.cur)
  (hwf : Memory.wf k.sp = true)

section
variable (ha : Source k a x k1) (hb : Source k1 b ex k2) (hd : Source k2 d y k3) (hex : ex.toNat ≤ 255)
include hk hwf ha hb hd hex

/-- R170: BPQ leaves the clamped elements in the planes of its destination. -/
theorem execBpq_planes (hm : 0 < m.toNat) (hx : OperandAt x 256 8) (hy : OperandAt y (8 * m.toNat) 8)
    (hsrc : k.matBusy x.toNat 256 false = false) (hdst : k.matBusy y.toNat (8 * m.toNat) true = false) {fl : FFlags}
    (hfl : AllFlags 64 (fun i => (bpqElem m.toNat (modesOf k).rm ex.toNat (spF32 k x.toNat i)).2.2) fl) :
    ∃ sp ovf, Completes (.bpq d a b m) s (({ k3 with sp := sp }.orOvf ovf).orFlags fl)
      ∧ (ovf = true ↔ ∃ i, i < 64 ∧ (bpqElem m.toNat (modesOf k).rm ex.toNat (spF32 k x.toNat i)).2.1 = true)
      ∧ (∀ i, i < 64 → planeElem { k3 with sp := sp } y.toNat m.toNat i
          = (bpqElem m.toNat (modesOf k).rm ex.toNat (spF32 k x.toNat i)).1)
      ∧ ∀ q, (q < y.toNat ∨ y.toNat + 8 * m.toNat ≤ q) → cellGet sp q = cellGet k.sp q := by
  subst hk
  have hsp : k3.sp = (s.core s.cur).sp := by rw [source_sp hd, source_sp hb, source_sp ha]
  obtain ⟨g, hg⟩ : ∃ g : Nat → Int × Bool × FFlags, ∀ i,
      bpqElem m.toNat (modesOf (s.core s.cur)).rm ex.toNat (spF32 (s.core s.cur) x.toNat i) = g i := ⟨_, fun _ => rfl⟩
  have hrange : ∀ i, -(2 ^ (m.toNat - 1)) ≤ (g i).1 ∧ (g i).1 < 2 ^ (m.toNat - 1) := fun i => hg i ▸ bpqElem_mem ..
  have hdone := execBpq_completes ha hb hd hex hx hy hsrc hdst (List.map_congr_left fun i _ => (hg i).symm)
  simp only [hg] at hfl ⊢
  simp only [List.map_map, List.any_map, List.foldl_map, Function.comp_def, foldl_or_of_allFlags hfl] at hdone
  refine ⟨_, _, hdone, any_range_iff, fun i hi => planeElem_spWrites_planesOf (hsp ▸ hwf) y.toNat hm _ hrange hi, fun q hq => ?_⟩
  rw [← hsp]
  exact cellGet_cellSets_out _ (by rwa [length_planes])

/-- R170: BPDQ leaves the elements as FP32 values. -/
theorem execBpdq_singles (hx : OperandAt x (8 * m.toNat) 8) (hy : OperandAt y 256 8) (hsrc : k.matBusy x.toNat (8 * m.toNat) false = false)
    (hdst : k.matBusy y.toNat 256 true = false) {fl : FFlags} (hfl : AllFlags 64 (fun i => ((fmtOf .f32).round modesRNE
      (exactInt (planeElem k x.toNat m.toNat i) ((ex.toNat : Int) - 127) false)).2) fl) :
    ∃ sp, Completes (.bpdq d a b m) s ({ k3 with sp := sp }.orFlags fl)
      ∧ (∀ i, i < 64 → spF32 { k3 with sp := sp } y.toNat i
          = ((fmtOf .f32).round modesRNE (exactInt (planeElem k x.toNat m.toNat i) ((ex.toNat : Int) - 127) false)).1 % 2 ^ 32)
      ∧ ∀ q, (q < y.toNat ∨ y.toNat + 256 ≤ q) → cellGet sp q = cellGet k.sp q := by
  subst hk
  have hsp : k3.sp = (s.core s.cur).sp := by rw [source_sp hd, source_sp hb, source_sp ha]
  obtain ⟨g, hg⟩ : ∃ g : Nat → Nat × FFlags, ∀ i, (fmtOf .f32).round modesRNE
      (exactInt (planeElem (s.core s.cur) x.toNat m.toNat i) ((ex.toNat : Int) - 127) false) = g i := ⟨_, fun _ => rfl⟩
  have hl : (List.range 64).map g = (planeBlock (s.core s.cur) x.toNat m.toNat).map fun v =>
      (fmtOf .f32).round modesRNE (exactInt v ((ex.toNat : Int) - 127) false) := by
    rw [planeBlock, List.map_map]
    exact List.map_congr_left fun i _ => (hg i).symm
  have hdone := execBpdq_completes ha hb hd hex hx hy hsrc hdst hl
  rw [← List.flatMap_map Prod.fst (leBytes 4)] at hdone
  simp only [hg] at hfl ⊢
  simp only [List.map_map, List.foldl_map, Function.comp_def, foldl_or_of_allFlags hfl] at hdone
  refine ⟨_, hdone, fun i hi => (spRead_spWrites_leBytes (hsp ▸ hwf) y.toNat 4 _ (by simpa using hi)).trans ?_, fun q hq => ?_⟩
  · rw [List.getElem_map, List.getElem_range]
  · rw [← hsp]
    refine cellGet_cellSets_out _ ?_
    rwa [length_flatMap_of_length (length_leBytes 4), List.length_map, List.length_range]

end

section
variable (ha : Source k a x k1) (hd : Source k1 d y k2)
include hk hwf ha hd

/-- R171: BPACK leaves the clamped bytes in the planes of its destination. -/
theorem execBpack_planes (hm : 0 < m.toNat) (hx : OperandAt x 64 8) (hy : OperandAt y (8 * m.toNat) 8)
    (hsrc : k.matBusy x.toNat 64 false = false) (hdst : k.matBusy y.toNat (8 * m.toNat) true = false) :
    ∃ sp ovf, Completes (.bpack d a m) s ({ k2 with sp := sp }.orOvf ovf)
      ∧ (∀ i, i < 64 → planeElem { k2 with sp := sp } y.toNat m.toNat i
          = max (-(2 ^ (m.toNat - 1))) (min (2 ^ (m.toNat - 1) - 1) (sextNat (k.spRead (x.toNat + i) 1) 8)))
      ∧ (ovf = true ↔ ∃ i, i < 64 ∧ planeElem { k2 with sp := sp } y.toNat m.toNat i ≠ sextNat (k.spRead (x.toNat + i) 1) 8)
      ∧ ∀ q, (q < y.toNat ∨ y.toNat + 8 * m.toNat ≤ q) → cellGet sp q = cellGet k.sp q := by
  subst hk
  have hsp : k2.sp = (s.core s.cur).sp := by rw [source_sp hd, source_sp ha]
  have hdone := execBpack_completes ha hd hx hy hsrc hdst rfl
  have hread := fun i hi => planeElem_spWrites_planesOf (hsp ▸ hwf) y.toNat hm
    (fun i => clampBits m.toNat (sextNat ((s.core s.cur).spRead (x.toNat + i) 1) 8)) (fun i => clampBits_mem ..) (i := i) hi
  simp only [spRead_congr hsp, satBits_eq, List.map_map, List.any_map, Function.comp_def] at hdone hread
  refine ⟨_, _, hdone, hread, any_range_iff.trans (exists_congr fun i => and_congr_right fun hi => ?_), fun q hq => ?_⟩
  · exact decide_eq_true_iff.trans (by rw [← hread i hi]; rfl)
  · rw [← hsp]
    exact cellGet_cellSets_out _ (by rwa [length_planes])

/-- R171: BUNPACK leaves the elements as bytes. -/
theorem execBunpack_bytes (hx : OperandAt x (8 * m.toNat) 8) (hy : OperandAt y 64 8)
    (hsrc : k.matBusy x.toNat (8 * m.toNat) false = false) (hdst : k.matBusy y.toNat 64 true = false) :
    ∃ sp, Completes (.bunpack d a m) s { k2 with sp := sp }
      ∧ (∀ i, i < 64 → { k2 with sp := sp }.spRead (y.toNat + i) 1 = wrap 8 (planeElem k x.toNat m.toNat i))
      ∧ ∀ q, (q < y.toNat ∨ y.toNat + 64 ≤ q) → cellGet sp q = cellGet k.sp q := by
  subst hk
  have hsp : k2.sp = (s.core s.cur).sp := by rw [source_sp hd, source_sp ha]
  have hdone := execBunpack_completes ha hd hx hy hsrc hdst
  rw [planeBlock_congr hsp, planeBlock, List.map_map] at hdone
  refine ⟨_, hdone, fun i hi => ?_, fun q hq => ?_⟩
  · have hbyte := cellGet_cellSets (hsp ▸ hwf) y.toNat
      ((List.range 64).map ((fun v => BitVec.ofInt 8 v) ∘ planeElem (s.core s.cur) x.toNat m.toNat)) (i := i) (by simpa using hi)
    rw [spRead_one, hbyte, List.getElem_map, List.getElem_range, Function.comp_apply, BitVec.toNat_ofInt]
    rfl
  · rw [← hsp]
    exact cellGet_cellSets_out _ (by rwa [List.length_map, List.length_range])

end

end

/-! ### The largest exponent (R172) -/

section
variable {e : Nat → Nat} {v : Nat}

/-- The largest exponent below 255 of a list, and of `best`. -/
def finiteMax (e : Nat → Nat) (l : List Nat) (best : Nat) : Nat := l.foldl (fun best i => if e i = 255 then best else max best (e i)) best

theorem finiteMax_cons (i : Nat) (r : List Nat) (best : Nat) :
    finiteMax e (i :: r) best = finiteMax e r (if e i = 255 then best else max best (e i)) := rfl

theorem finiteMax_le {l : List Nat} {best : Nat} (hbest : best ≤ v) (h : ∀ i ∈ l, e i ≠ 255 → e i ≤ v) : finiteMax e l best ≤ v := by
  induction l generalizing best with
  | nil => exact hbest
  | cons i r ih =>
    rw [finiteMax_cons]
    refine ih ?_ fun j hj => h j (List.mem_cons_of_mem i hj)
    split
    · exact hbest
    · exact max_le hbest (h i (List.mem_cons_self ..) (by assumption))

theorem le_finiteMax {l : List Nat} {best : Nat} (h : v ≤ best ∨ ∃ i ∈ l, e i = v ∧ v ≠ 255) : v ≤ finiteMax e l best := by
  induction l generalizing best with
  | nil => simpa [finiteMax] using h
  | cons i r ih =>
    rw [finiteMax_cons]
    refine ih ?_
    rcases h with h | ⟨j, hj, rfl, hv⟩
    · exact .inl (by split <;> omega)
    · rcases List.mem_cons.1 hj with rfl | hj
      · exact .inl (by rw [if_neg hv]; exact le_max_right ..)
      · exact .inr ⟨j, hj, rfl, hv⟩

end

theorem maxExponent_eq (k : Core) (off : Nat) : maxExponent k off = finiteMax (fun i => bitsOf (spF32 k off i) 23 8) (List.range 64) 0 := rfl

/-- R172: BPMAXE writes the largest biased exponent of a finite element, on every scratchpad. -/
theorem execBpmaxe_largest {s : State} {d a : Reg} {x : Word} {k k1 k2 : Core} {v : Nat} (hk : k = s.core s.cur) (ha : Source k a x k1)
    (hx : OperandAt x 256 8) (hsrc : k.matBusy x.toNat 256 false = false)
    (hmax : ∀ i, i < 64 → bitsOf (spF32 k x.toNat i) 23 8 ≠ 255 → bitsOf (spF32 k x.toNat i) 23 8 ≤ v)
    (hmem : v = 0 ∨ ∃ i, i < 64 ∧ bitsOf (spF32 k x.toNat i) 23 8 = v ∧ v ≠ 255) (hd : Dest k1 d (BitVec.ofNat 64 v) k2) :
    Completes (.bpmaxe d a) s k2 := by
  subst hk
  have hv : maxExponent k1 x.toNat = v := by
    simp only [maxExponent_eq, spF32, spRead_congr (source_sp ha)]
    refine le_antisymm (finiteMax_le (Nat.zero_le v) fun i hi => hmax i (List.mem_range.1 hi)) (le_finiteMax ?_)
    simpa only [Nat.le_zero, List.mem_range, spF32] using hmem
  exact execBpmaxe_completes ha hx hsrc (hv ▸ hd)

end Sys2Proof.Machine

/-! ## A scratchpad that lists a byte twice -/

namespace Sys2Proof.Machine
open Sys2Proof.Safety

theorem Core.advance_sp (k : Core) : k.advance.sp = k.sp := by simp [Core.advance]

theorem countIssue_sp (s : State) (k : Core) : (s.countIssue k).sp = k.sp := by
  unfold State.countIssue
  split <;> rfl

theorem core_retire_setCore_sp (s : State) (k : Core) : ((s.setCore s.cur k).retire.core s.cur).sp = k.sp := by
  rw [Frames.retire_setCore, State.core_setCore_self, countIssue_sp, Core.advance_sp]

/-- An instruction completes with one scratchpad. -/
theorem sp_eq_of_completes {i : Instr} {s : State} {k q : Core} (hk : Completes i s k) (hq : Completes i s q) : k.sp = q.sp := by
  rw [← core_retire_setCore_sp s k, ← core_retire_setCore_sp s q, Host.Outcome.next.inj (hk.symm.trans hq)]

/-- A core after reset, but for a scratchpad that lists byte 63 twice: no write builds such a list (`wf_cellSet`), and a zero written
there takes one listing away and leaves the other. -/
def twiceListed : Core := { Core.reset with sp := [(63, 1), (63, 1)] }

theorem twiceListed_unpacked :
    (twiceListed.spWrites (0 : Word).toNat ((planeBlock twiceListed (0 : Word).toNat (2 : BitVec 5).toNat).map fun v =>
      BitVec.ofInt 8 v)).spRead ((0 : Word).toNat + 63) 1 = 1 := by decide +kernel

theorem twiceListed_element : wrap 8 (planeElem twiceListed (0 : Word).toNat (2 : BitVec 5).toNat 63) = 0 := by decide +kernel

/-- Refutes O33: the statement ranges over scratchpads that are not in the canonical form. BUNPACK at width 2 from byte 0 to byte 0 writes
64 zeros, and byte 63 of `twiceListed` still reads 1. On a canonical scratchpad every clause holds: `execBpq_trap`, `execBpdq_trap`,
`execBpq_planes`, `execBpdq_singles`, `execBpack_planes`, `execBunpack_bytes` and `execBpmaxe_largest`. -/
theorem not_bitPlanes : ¬ Obligations.BitPlanes := by
  unfold Obligations.BitPlanes
  intro h
  let s : State := { State.reset with cores := [(0, twiceListed)] }
  have hzero : Source twiceListed 0 0 twiceListed := .inl ⟨rfl, rfl, rfl⟩
  have hsrc : OperandAt 0 (8 * (2 : BitVec 5).toNat) 8 := ⟨by decide, by decide⟩
  have hdst : OperandAt 0 64 8 := ⟨by decide, by decide⟩
  obtain ⟨-, hpack, -⟩ := h s twiceListed 2 rfl (by decide) (by decide)
  obtain ⟨sp, hdone, hread, -⟩ := (hpack 0 0 0 0 twiceListed twiceListed hzero hzero).2 hsrc hdst rfl rfl
  have hsp := sp_eq_of_completes hdone (execBunpack_completes (s := s) hzero hzero hsrc hdst rfl rfl)
  have hlast := hread 63 (by decide)
  rw [spRead_congr hsp] at hlast
  exact absurd (twiceListed_unpacked.symm.trans (hlast.trans twiceListed_element)) (by decide)

end Sys2Proof.Machine

/-! ## Integer instructions, branches and jumps (05, R88 to R99) -/

namespace Sys2Proof.Machine
open Sys2Proof.Safety

/-! ### The functions of R88, in the words of its table -/

section
variable (a b : Word)

theorem shiftLeft_eq_ofNat (n : Nat) : a <<< n = BitVec.ofNat 64 (a.toNat * 2 ^ n) := by
  apply BitVec.eq_of_toNat_eq
  rw [BitVec.toNat_shiftLeft, BitVec.toNat_ofNat, Nat.shiftLeft_eq]

theorem ushiftRight_eq_ofNat (n : Nat) : a >>> n = BitVec.ofNat 64 (a.toNat / 2 ^ n) := by
  apply BitVec.eq_of_toNat_eq
  rw [BitVec.toNat_ushiftRight, BitVec.toNat_ofNat, Nat.shiftRight_eq_div_pow,
    Nat.mod_eq_of_lt (lt_of_le_of_lt (Nat.div_le_self ..) a.isLt)]

theorem sshiftRight_eq_ofInt (n : Nat) : a.sshiftRight n = BitVec.ofInt 64 (a.toInt / 2 ^ n) := by
  rw [BitVec.sshiftRight, Int.shiftRight_eq_div_pow]
  norm_cast

theorem rotateLeft_shAmt : a.rotateLeft (shAmt b) = (a <<< sh b) ||| (a >>> (64 - sh b)) := by
  rw [BitVec.rotateLeft_def, shAmt, sh, Nat.mod_mod]

theorem rotateRight_shAmt : a.rotateRight (shAmt b) = (a >>> sh b) ||| (a <<< (64 - sh b)) := by
  rw [BitVec.rotateRight_def, shAmt, sh, Nat.mod_mod]

theorem fSlt_eq : fSlt a b = truth (decide (a.toInt < b.toInt)) := rfl

theorem fSltu_eq : fSltu a b = truth (decide (a.toNat < b.toNat)) := rfl

theorem fMin_eq : fMin a b = BitVec.ofInt 64 (min a.toInt b.toInt) := by
  rw [fMin, BitVec.slt]
  simp only [decide_eq_true_eq]
  split
  · rw [min_eq_right (by omega), BitVec.ofInt_toInt]
  · rw [min_eq_left (by omega), BitVec.ofInt_toInt]

theorem fMax_eq : fMax a b = BitVec.ofInt 64 (max a.toInt b.toInt) := by
  rw [fMax, BitVec.slt]
  simp only [decide_eq_true_eq]
  split
  · rw [max_eq_right (by omega), BitVec.ofInt_toInt]
  · rw [max_eq_left (by omega), BitVec.ofInt_toInt]

theorem fMinu_eq : fMinu a b = BitVec.ofNat 64 (min a.toNat b.toNat) := by
  rw [fMinu, BitVec.ult]
  simp only [decide_eq_true_eq]
  split
  · rw [min_eq_right (by omega), BitVec.ofNat_toNat, BitVec.setWidth_eq]
  · rw [min_eq_left (by omega), BitVec.ofNat_toNat, BitVec.setWidth_eq]

theorem fMaxu_eq : fMaxu a b = BitVec.ofNat 64 (max a.toNat b.toNat) := by
  rw [fMaxu, BitVec.ult]
  simp only [decide_eq_true_eq]
  split
  · rw [max_eq_right (by omega), BitVec.ofNat_toNat, BitVec.setWidth_eq]
  · rw [max_eq_left (by omega), BitVec.ofNat_toNat, BitVec.setWidth_eq]

theorem mul_eq_ofNat : a * b = BitVec.ofNat 64 (a.toNat * b.toNat) := by
  apply BitVec.eq_of_toNat_eq
  rw [BitVec.toNat_mul, BitVec.toNat_ofNat]

theorem fRem_eq : fRem a b = if b = 0 then a else BitVec.ofInt 64 (a.toInt - b.toInt * a.toInt.tdiv b.toInt) := by
  rw [fRem, wordOfInt, Int.tmod_def]

theorem fRemu_eq : fRemu a b = if b = 0 then a else BitVec.ofNat 64 (a.toNat - b.toNat * (a.toNat / b.toNat)) := by
  rw [fRemu, Nat.mod_def]

end

/-! ### Counts of bits, and bytes in reverse order -/

theorem popCount_eq (a : Word) (n : Nat) : popCount a n = ((List.range n).filter fun i => a.getLsbD i).length := by
  induction n with
  | zero => rfl
  | succ n ih =>
    rw [popCount, ih, List.range_succ, List.filter_append, List.length_append]
    cases h : a.getLsbD n <;> simp only [h, List.filter_cons, List.filter_nil] <;> rfl

/-- The zeros above the highest one bit, where bit `m` is that bit. -/
theorem leadZeros_eq {a : Word} {m : Nat} (hm : a.getLsbD m = true) (habove : ∀ i, m < i → a.getLsbD i = false) :
    ∀ n, m < n → leadZeros a n = n - 1 - m := by
  intro n hn
  induction n with
  | zero => exact absurd hn (Nat.not_lt_zero m)
  | succ n ih =>
    rw [leadZeros]
    rcases Nat.lt_or_ge m n with h | h
    · rw [habove n h, ih h]
      simp only [Bool.false_eq_true, if_false]
      omega
    · obtain rfl : m = n := by omega
      rw [hm, if_pos rfl]
      omega

theorem leadZeros_zero (n : Nat) : leadZeros 0 n = n := by
  induction n with
  | zero => rfl
  | succ n ih => rw [leadZeros, ih, show (0 : Word).getLsbD n = false from BitVec.getLsbD_zero, if_neg Bool.false_ne_true, Nat.add_comm]

theorem fClz_eq (a : Word) : leadZeros a 64 = if a = 0 then 64 else 63 - Nat.log2 a.toNat := by
  split
  · rw [‹a = 0›, leadZeros_zero]
  · rename_i h
    have hne : a.toNat ≠ 0 := fun h0 => h (BitVec.eq_of_toNat_eq h0)
    have hlt : a.toNat.log2 < 64 := (Nat.log2_lt hne).2 a.isLt
    refine leadZeros_eq (m := a.toNat.log2) ?_ (fun i hi => ?_) 64 hlt
    · exact Nat.testBit_log2 hne
    · exact Nat.testBit_lt_two_pow ((Nat.log2_lt hne).1 hi)

/-- The zeros below the lowest one bit from bit `i` on, where bit `m` is that bit. -/
theorem trailZeros_eq {a : Word} {m : Nat} (hm : a.getLsbD m = true) (hbelow : ∀ i < m, a.getLsbD i = false) :
    ∀ n i, i ≤ m → m < i + n → trailZeros a i n = m - i := by
  intro n
  induction n with
  | zero => intro i h1 h2; omega
  | succ n ih =>
    intro i h1 h2
    rw [trailZeros]
    rcases Nat.lt_or_ge i m with h | h
    · rw [hbelow i h, ih (i + 1) h (by omega)]
      simp only [Bool.false_eq_true, if_false]
      omega
    · obtain rfl : i = m := by omega
      rw [hm, if_pos rfl, Nat.sub_self]

theorem trailZeros_zero (i n : Nat) : trailZeros 0 i n = n := by
  induction n generalizing i with
  | zero => rfl
  | succ n ih => rw [trailZeros, ih, show (0 : Word).getLsbD i = false from BitVec.getLsbD_zero, if_neg Bool.false_ne_true, Nat.add_comm]

theorem fCtz_eq {a v : Word} (h : if a = 0 then v = 64 else a.getLsbD v.toNat = true ∧ ∀ n < v.toNat, a.getLsbD n = false) :
    BitVec.ofNat 64 (trailZeros a 0 64) = v := by
  split at h
  · subst_vars
    rw [trailZeros_zero]
    rfl
  · obtain ⟨hv, hbelow⟩ := h
    have hlt : v.toNat < 64 := BitVec.lt_of_getLsbD hv
    rw [trailZeros_eq hv hbelow 64 0 (Nat.zero_le _) (by omega), Nat.sub_zero, BitVec.ofNat_toNat, BitVec.setWidth_eq]

/-- Byte i of a word, moved to byte 7 - i. -/
theorem getLsbD_movedByte (a : Word) (i n : Nat) (hn : n < 64) : (((a >>> (8 * i)) &&& 0xFF) <<< (56 - 8 * i)).getLsbD n
    = (decide (56 - 8 * i ≤ n ∧ n < 56 - 8 * i + 8) && a.getLsbD (8 * i + (n - (56 - 8 * i)))) := by
  have hmask : ∀ j, (0xFF : Word).getLsbD j = decide (j < 8) := by
    intro j
    rw [show (0xFF : Word) = (BitVec.allOnes 8).setWidth 64 by decide, BitVec.getLsbD_setWidth, BitVec.getLsbD_allOnes]
    simp only [Bool.and_eq_right_iff_imp, decide_eq_true_eq]
    omega
  rw [BitVec.getLsbD_shiftLeft, BitVec.getLsbD_and, BitVec.getLsbD_ushiftRight, hmask]
  rcases Nat.lt_or_ge n (56 - 8 * i) with h | h
  · simp [h, Nat.not_le.2 h]
  · have : (n - (56 - 8 * i) < 8) = (n < 56 - 8 * i + 8) := by simp only [eq_iff_iff]; omega
    simp [hn, h, this, Nat.not_lt.2 h, Bool.and_comm]

theorem getLsbD_byteSwap (a : Word) {n : Nat} (hn : n < 64) : (byteSwap a).getLsbD n = a.getLsbD (8 * (7 - n / 8) + n % 8) := by
  simp only [byteSwap, show List.range 8 = [0, 1, 2, 3, 4, 5, 6, 7] from rfl, List.foldl_cons, List.foldl_nil, BitVec.getLsbD_or,
    getLsbD_movedByte a _ n hn]
  obtain ⟨q, r, hq, hr, rfl⟩ : ∃ q r, q < 8 ∧ r < 8 ∧ n = 8 * q + r := ⟨n / 8, n % 8, by omega, by omega, by omega⟩
  rw [show (8 * q + r) / 8 = q by omega, show (8 * q + r) % 8 = r by omega]
  interval_cases q <;> grind

theorem byteSwap_eq {a v : Word} (h : ∀ n < 64, v.getLsbD n = a.getLsbD (8 * (7 - n / 8) + n % 8)) : byteSwap a = v :=
  BitVec.eq_of_getLsbD_eq fun n hn => (getLsbD_byteSwap a hn).trans (h n hn).symm

/-! ### What reading operands leaves -/

/-- Reading an x register changes qi alone, so every field but it is as before. -/
theorem source_hart {k k' : Core} {r : Reg} {v : Word} (h : Source k r v k') : k'.hart = k.hart := by
  rw [source_rest h]
  rfl

theorem getImm_of_imm {k : Core} {i : BitVec 16} {v : Word} (h : Imm k i v) : getImm i k = .ok (v, k) := by
  rw [getImm, immOf]
  rcases h with ⟨a, p, j, hh, rfl⟩ | ⟨hh, rfl⟩
  · rw [hh]
    have hsext : wordOfInt (sextNat (p.toNat * 65536 + i.toNat) 39) = ((p ++ i : BitVec 39)).signExtend 64 := by
      have hcat : (p ++ i : BitVec 39).toNat = p.toNat * 65536 + i.toNat := by
        rw [BitVec.toNat_append, ← Nat.shiftLeft_add_eq_or_of_lt i.isLt, Nat.shiftLeft_eq]
      have hlt : p.toNat * 65536 + i.toNat < 2 ^ 39 := hcat ▸ (p ++ i : BitVec 39).isLt
      rw [BitVec.signExtend, wordOfInt, sextNat, BitVec.toInt, hcat, Nat.mod_eq_of_lt hlt]
      congr 1
      by_cases hpos : 2 * (p.toNat * 65536 + i.toNat) < 2 ^ 39
      · rw [if_pos hpos, if_pos (by omega)]
      · rw [if_neg hpos, if_neg (by omega)]
    exact congrArg (fun y => Except.ok (y, k)) hsext
  · split
    · rename_i hh'
      exact absurd hh' (hh _ _ _)
    · rfl

/-! ### Forms of instructions that complete -/

section
variable {s : State} {d a b e : Reg} {x y z v : Word} {k1 k2 k3 k4 : Core} {i : BitVec 16}

theorem runCore_opXX {f : Word → Word → Word} (ha : Source (s.core s.cur) a x k1) (hb : Source k1 b y k2) (hd : Dest k2 d (f x y) k3) :
    runCore (opXX f d a b) s = .next (s.setCore s.cur k3).retire :=
  runCore_ok (by rw [opXX, bind_ok (getX_of_source ha), bind_ok (getX_of_source hb), setX_of_dest hd])

theorem runCore_opX {f : Word → Word} (ha : Source (s.core s.cur) a x k1) (hd : Dest k1 d (f x) k2) :
    runCore (opX f d a) s = .next (s.setCore s.cur k2).retire :=
  runCore_ok (by rw [opX, bind_ok (getX_of_source ha), setX_of_dest hd])

theorem runCore_opXI {f : Word → Word → Word} (ha : Source (s.core s.cur) a x k1) (hi : Imm k1 i v) (hd : Dest k1 d (f x v) k2) :
    runCore (opXI f d a i) s = .next (s.setCore s.cur k2).retire :=
  runCore_ok (by rw [opXI, bind_ok (getX_of_source ha), bind_ok (getImm_of_imm hi), setX_of_dest hd])

theorem sel_completes (ha : Source (s.core s.cur) a x k1) (hb : Source k1 b y k2) (he : Source k2 e z k3)
    (hd : Dest k3 d (if z ≠ 0 then x else y) k4) : Completes (.sel d a b e) s k4 :=
  runCore_ok (by
    rw [bind_ok (getX_of_source ha), bind_ok (getX_of_source hb), bind_ok (getX_of_source he), setX_of_dest hd])

theorem lui_completes (hi : Imm (s.core s.cur) i v) (hd : Dest (s.core s.cur) d (BitVec.ofNat 64 (v.toNat * 65536)) k1) :
    Completes (.lui d i) s k1 :=
  runCore_ok (by rw [bind_ok (getImm_of_imm hi), shiftLeft_eq_ofNat]; exact setX_of_dest hd)

theorem auipc_completes (hi : Imm (s.core s.cur) i v)
    (hd : Dest (s.core s.cur) d ((s.core s.cur).hart.pc + BitVec.ofNat 64 (v.toNat * 65536)) k1) : Completes (.auipc d i) s k1 :=
  runCore_ok (by rw [bind_ok (getImm_of_imm hi), rd_bind, shiftLeft_eq_ofNat]; exact setX_of_dest hd)

end

/-! ### The tables of instructions: every row runs the function that its line of R88, R90 and R93 gives -/

theorem exec_twoSource_row : ∀ r ∈ twoSourceTable, ∀ d a b s, exec (r.1 d a b) s = runCore (opXX r.2 d a b) s := by
  have row {f g : Word → Word → Word} (h : ∀ x y, f x y = g x y) (d a b : Reg) (s : State) :
      runCore (opXX f d a b) s = runCore (opXX g d a b) s := by rw [funext fun x => funext (h x)]
  simp only [twoSourceTable, List.forall_mem_cons]
  exact ⟨fun _ _ _ _ => rfl, fun _ _ _ _ => rfl, fun _ _ _ _ => rfl, fun _ _ _ _ => rfl, fun _ _ _ _ => rfl, fun _ _ _ _ => rfl,
    row fun x y => shiftLeft_eq_ofNat x (sh y), row fun x y => ushiftRight_eq_ofNat x (sh y),
    row fun x y => sshiftRight_eq_ofInt x (sh y), row rotateLeft_shAmt, row rotateRight_shAmt, row fSlt_eq, row fSltu_eq,
    row fMin_eq, row fMax_eq, row fMinu_eq, row fMaxu_eq, row mul_eq_ofNat, fun _ _ _ _ => rfl, fun _ _ _ _ => rfl,
    fun _ _ _ _ => rfl, fun _ _ _ _ => rfl, row fRem_eq, row fRemu_eq, fun _ _ _ _ => rfl, fun _ _ _ _ => rfl, fun _ _ _ _ => rfl,
    List.forall_mem_nil _⟩

theorem exec_oneSource_row : ∀ r ∈ oneSourceTable, ∃ f, (∀ d a s, exec (r.1 d a) s = runCore (opX f d a) s) ∧ ∀ x v, r.2 x v → f x = v := by
  have ofToNat {n : Nat} {v : Word} (h : v.toNat = n) : BitVec.ofNat 64 n = v := by rw [← h, BitVec.ofNat_toNat, BitVec.setWidth_eq]
  simp only [oneSourceTable, List.forall_mem_cons]
  exact ⟨⟨_, fun _ _ _ => rfl, fun x _ h => ofToNat (h.trans (popCount_eq x 64).symm)⟩,
    ⟨_, fun _ _ _ => rfl, fun x _ h => ofToNat (h.trans (fClz_eq x).symm)⟩, ⟨_, fun _ _ _ => rfl, fun _ _ => fCtz_eq⟩,
    ⟨_, fun _ _ _ => rfl, fun _ _ => byteSwap_eq⟩, List.forall_mem_nil _⟩

theorem exec_immediate_row : ∀ r ∈ immediateTable, ∀ d a i s, exec (r.1 d a i) s = runCore (opXI r.2 d a i) s := by
  simp only [immediateTable, List.forall_mem_cons]
  exact ⟨fun _ _ _ _ => rfl, fun _ _ _ _ => rfl, fun _ _ _ _ => rfl, fun _ _ _ _ => rfl, fun _ _ _ _ => rfl, fun _ _ _ _ => rfl,
    List.forall_mem_nil _⟩

theorem exec_shift_row : ∀ r ∈ shiftTable, ∀ d a (n : BitVec 6) s, exec (r.1 d a n) s = runCore (opX (r.2 · n.toNat) d a) s := by
  have row {f g : Word → Word} (h : ∀ x, f x = g x) (d a : Reg) (s : State) : runCore (opX f d a) s = runCore (opX g d a) s := by
    rw [funext h]
  simp only [shiftTable, List.forall_mem_cons]
  exact ⟨fun d a n => row (fun x => shiftLeft_eq_ofNat x n.toNat) d a, fun d a n => row (fun x => ushiftRight_eq_ofNat x n.toNat) d a,
    fun d a n => row (fun x => sshiftRight_eq_ofInt x n.toNat) d a, List.forall_mem_nil _⟩

theorem exec_branch_row : ∀ r ∈ branchTable, ∀ a b i s, exec (r.1 a b i) s = runJump (branch r.2 a b i) s := by
  have row {f g : Word → Word → Bool} (h : ∀ x y, f x y = g x y) (a b : Reg) (i : BitVec 16) (s : State) :
      runJump (branch f a b i) s = runJump (branch g a b i) s := by rw [funext fun x => funext (h x)]
  simp only [branchTable, List.forall_mem_cons]
  exact ⟨row fun x y => beq_eq_decide x y, row fun x y => (decide_not (p := x = y)).symm, fun _ _ _ _ => rfl,
    row fun x y => decide_not.symm.trans (decide_eq_decide.2 not_lt),
    fun _ _ _ _ => rfl, row fun x y => decide_not.symm.trans (decide_eq_decide.2 not_lt), List.forall_mem_nil _⟩

/-! ### LUI and AUIPC with a nonzero field a (R90, R64) -/

theorem decodeNat_lui_auipc {w : Nat} (hm : bitsOf w 26 6 = 0x09 ∨ bitsOf w 26 6 = 0x0A) (ha : bitsOf w 16 5 ≠ 0) : decodeNat w = none := by
  have hfa : (fA w == 0) = false := by
    refine beq_eq_false_iff_ne.2 fun h => ha ?_
    rw [← toNat_ofNat_bitsOf w 16 5]
    exact congrArg BitVec.toNat h
  rcases hm with hm | hm <;> simp only [decodeNat, decodeRaw, hm, hfa, guardI, Bool.false_eq_true, if_false]

/-- Settles O1: a row runs its function on x[a] and x[b], read in this order. -/
theorem twoSourceResults : Obligations.TwoSourceResults :=
  fun r hr s d a b _ _ _ _ _ ha hb hd => (exec_twoSource_row r hr d a b s).trans (runCore_opXX ha hb hd)

/-- Settles O2: a row of one source runs a function whose value is the one that its line describes. -/
theorem oneSourceResults : Obligations.OneSourceResults := by
  refine ⟨fun r hr s d a x v k1 k2 ha hv hd => ?_, fun _ _ _ _ _ _ _ _ _ _ _ _ => sel_completes⟩
  obtain ⟨f, hf, hval⟩ := exec_oneSource_row r hr
  exact (hf d a s).trans (runCore_opX ha (hval x v hv ▸ hd))

/-- Settles O3: the rows run their functions on the immediate of R67; LUI and AUIPC place it at bit 16. -/
theorem immediateResults : Obligations.ImmediateResults := by
  refine ⟨fun r hr s d a i _ _ _ _ ha hi hd => (exec_immediate_row r hr d a i s).trans (runCore_opXI ha hi hd),
    fun r hr s d a n _ _ _ ha hd => (exec_shift_row r hr d a n s).trans (runCore_opX ha hd), fun _ _ _ _ _ => lui_completes,
    fun _ _ _ _ _ => auipc_completes, fun _ => decodeNat_lui_auipc, by decide, by decide, by decide,
    fun _ _ hi hd => lui_completes hi hd⟩

/-! ### Branches and jumps (R93 to R95) -/

section
variable {s : State} {d a b : Reg} {x y v : Word} {k k1 k2 : Core} {i : BitVec 16}

theorem runJump_branch {c : Word → Word → Bool} (ha : Source (s.core s.cur) a x k1) (hb : Source k1 b y k2) (hi : Imm k2 i v) :
    runJump (branch c a b i) s = .next ((s.setCore s.cur k2).retireTo
      (if c x y then (s.core s.cur).hart.pc + 4 * v else (s.core s.cur).hart.pc + 4)) :=
  runJump_ok (onCore_ok (by
    rw [bind_ok (getX_of_source ha), bind_ok (getX_of_source hb), bind_ok (getImm_of_imm hi), rd_bind, source_hart hb, source_hart ha]
    rfl))

theorem jal_jumps {off : BitVec 26} (hd : Dest (s.core s.cur) 1 ((s.core s.cur).hart.pc + 4) k) :
    JumpsTo (.jal off) s k ((s.core s.cur).hart.pc + off.signExtend 64 * 4) := by
  show execJal off s = _
  exact   runJump_ok (onCore_ok (by rw [rd_bind, bind_ok (setX_of_dest hd), pure_ok, BitVec.mul_comm]))

/-- JAL is no target of HIMM (R67, R94). -/
theorem himm_jal {h : Hart} {q : Word} {p : BitVec 23} {j w : Nat} (hh : h.hint = some ⟨q, .himm p, j⟩) (hm : bitsOf w 26 6 = 0x16) :
    h.instr w = .error w := by
  have hno : (Hint.himm p).takes w = false := by simp [Hint.takes, himmTakes, majOf, hm, memMajor]
  rw [Hart.instr, hh]
  cases hdec : decodeNat w <;> simp only [hno, Bool.false_eq_true, if_false]

theorem jalr_jumps (ha : Source (s.core s.cur) a x k1) (hi : Imm k1 i v) (hal : (x + v).toNat % 4 = 0)
    (hd : Dest k1 d ((s.core s.cur).hart.pc + 4) k2) : JumpsTo (.jalr d a i) s k2 (x + v) :=
  runJump_ok (onCore_ok (by
    rw [bind_ok (getX_of_source ha), bind_ok (getImm_of_imm hi), rd_bind, bind_ok (trapIf_ok _ _ _ (bne_eq_false_iff_eq.2 hal)), source_hart ha,
      bind_ok (setX_of_dest hd), pure_ok]))

theorem jalr_misaligned (ha : Source (s.core s.cur) a x k1) (hi : Imm k1 i v) (hal : (x + v).toNat % 4 ≠ 0) :
    Traps (.jalr d a i) s causeMisalign (x + v) :=
  runDev_trap (bind_err (onCore_err (by
    rw [bind_ok (getX_of_source ha), bind_ok (getImm_of_imm hi), rd_bind, bind_err (trapIf_trap _ _ _ (bne_iff_ne.2 hal))])))

end

/-- Settles O4: a row branches on its condition, with the PC as it stood before the sources were read. -/
theorem branches : Obligations.Branches :=
  fun r hr s a b i _ _ _ _ _ ha hb hi => (exec_branch_row r hr a b i s).trans (runJump_branch ha hb hi)

/-- Settles O5: JAL links in x1, JALR in x[d] after the check of its target. -/
theorem jumpsAndLinks : Obligations.JumpsAndLinks :=
  ⟨fun _ _ _ => jal_jumps, fun _ _ _ _ _ => himm_jal, by decide,
    fun _ _ _ _ _ _ _ ha hi => ⟨fun hal _ => jalr_jumps ha hi hal, jalr_misaligned ha hi⟩⟩

/-! ### FOLLOW and DETACH (R96, R99) -/

/-- Slot 3 issues when it is not idle. -/
theorem Core.onSys_iff {k : Core} : k.onSys = true ↔ k.slot3 ≠ .idle := bne_iff_ne

theorem Core.onSys_eq_false_iff {k : Core} : k.onSys = false ↔ k.slot3 = .idle := bne_eq_false_iff_eq

section
variable {s : State} {l : BitVec 2} {c ld : Nat} {k : Core} (hc : c = s.cur) (hld : ld = c / 4 * 4 + l.toNat) (hk : k = s.core c)

include hc hk

theorem follow_onSys (h3 : k.slot3 ≠ .idle) : Traps (.follow l) s causeFollow 3 := by
  subst hc hk
  exact runInstr_trap (by rw [rd_bind, bind_err (trapIf_trap _ _ _ (Core.onSys_iff.2 h3))])

include hld

theorem follow_noLeader (h3 : k.slot3 = .idle) (h0 : ld = c ∨ s.enabled ld = false) : Traps (.follow l) s causeFollow 0 := by
  subst hc hk hld
  exact runInstr_trap (by
    rw [rd_bind, bind_ok (trapIf_ok _ _ _ (Core.onSys_eq_false_iff.2 h3)),
      bind_err (trapIf_trap _ _ _ (by rw [leaderOf]; simpa using h0))])

variable (h3 : k.slot3 = .idle) (hne : ld ≠ c) (hen : s.enabled ld = true)
include h3 hne hen

theorem follow_engaged (h1 : k.follow.following = true ∨ s.hasFollowers c = true) : Traps (.follow l) s causeFollow 1 := by
  subst hc hk hld
  exact runInstr_trap (by
    rw [rd_bind, bind_ok (trapIf_ok _ _ _ (Core.onSys_eq_false_iff.2 h3)),
      bind_ok (trapIf_ok _ _ _ (by rw [leaderOf]; simpa using ⟨hne, hen⟩)), bind_err (trapIf_trap _ _ _ (by simpa using h1))])

variable (hfree : k.follow.following = false) (hlone : s.hasFollowers c = false)
include hfree hlone

theorem follow_stranger (h2 : (s.core ld).act = none ∨ (s.core ld).sv.ctxid ≠ k.sv.ctxid) : Traps (.follow l) s causeFollow 2 := by
  subst hc hk hld
  exact runInstr_trap (by
    rw [rd_bind, bind_ok (trapIf_ok _ _ _ (Core.onSys_eq_false_iff.2 h3)),
      bind_ok (trapIf_ok _ _ _ (by rw [leaderOf]; simpa using ⟨hne, hen⟩)), bind_ok (trapIf_ok _ _ _ (by simpa using ⟨hfree, hlone⟩)),
      bind_err (trapIf_trap _ _ _ (by rw [leaderOf]; simpa using h2))])

theorem follow_waits (hact : (s.core ld).act ≠ none) (hctx : (s.core ld).sv.ctxid = k.sv.ctxid) :
    Completes (.follow l) s { k with follow := .waiting ld s.cycle k.follow.left } := by
  subst hc hk hld
  refine runInstr_ok ?_
  rw [rd_bind, bind_ok (trapIf_ok _ _ _ (Core.onSys_eq_false_iff.2 h3)),
    bind_ok (trapIf_ok _ _ _ (by rw [leaderOf]; simpa using ⟨hne, hen⟩)), bind_ok (trapIf_ok _ _ _ (by simpa using ⟨hfree, hlone⟩)),
    bind_ok (trapIf_ok _ _ _ (by rw [leaderOf]; simpa using ⟨Option.isSome_iff_ne_none.2 hact, hctx⟩))]
  cases hf : (s.core s.cur).follow with
  | none => simp only [wr, State.modCore, hf, Follow.left, leaderOf]
  | diverged l => simp only [wr, State.modCore, hf, Follow.left, leaderOf]
  | waiting _ _ _ => simp [hf, Follow.following] at hfree
  | joined _ _ => simp [hf, Follow.following] at hfree

end

theorem detach_following {s : State} {k : Core} (hk : k = s.core s.cur) (hf : k.follow.following = true) :
    Completes .detach s { k with follow := .none } := by
  subst hk
  show execDetach s = _
  exact runCore_ok (congrArg (fun q => Except.ok ((), q)) (if_pos hf))

theorem detach_alone {s : State} {k : Core} (hk : k = s.core s.cur) (hf : k.follow.following = false) : Completes .detach s k := by
  subst hk
  show execDetach s = _
  exact runCore_ok (congrArg (fun q => Except.ok ((), q)) (if_neg (Bool.eq_false_iff.1 hf)))

/-- Settles O6: the checks of FOLLOW stand in the order 3, 0, 1, 2 on the core as it issues, and DETACH changes a follower alone. -/
theorem followAndDetach : Obligations.FollowAndDetach :=
  ⟨fun _ _ _ _ _ hc hld hk => ⟨follow_onSys hc hk, follow_noLeader hc hld hk, follow_engaged hc hld hk, follow_stranger hc hld hk,
    follow_waits hc hld hk⟩, fun _ _ hk => ⟨detach_following hk, detach_alone hk⟩⟩

end Sys2Proof.Machine

/-! ## Accesses that the core serves itself (05, R105 to R119; 14, R283, R286; 15, R293) -/

namespace Sys2Proof.Machine
open Sys2Proof.Safety

/-! ### Addresses -/

section
variable {k k' : Core} {a b : Reg} {i : BitVec 16} {va : Word}

theorem memAddr_of_addrI (h : AddrI k a i va k') : memAddr a i k = .ok (va, k') := by
  obtain ⟨x, y, ha, hi, rfl⟩ := h
  rw [memAddr, bind_ok (getX_of_source ha), bind_ok (getImm_of_imm hi), pure_ok]

theorem vmemAddr_of_addrX (h : AddrX k a b va k') : vmemAddr a b k = .ok (va, k') := by
  obtain ⟨x, y, k1, ha, hb, rfl⟩ := h
  rw [vmemAddr, bind_ok (getX_of_source ha), bind_ok (getX_of_source hb), pure_ok]

/-- Reading the operands of an address changes qi alone. -/
theorem addrI_rest (h : AddrI k a i va k') : k' = { k with qi := k'.qi } := by
  obtain ⟨_, _, ha, -, -⟩ := h
  exact source_rest ha

theorem checkAlign_ok {n : Nat} (h : va.toNat % n = 0) (k : Core) : checkAlign va n k = .ok ((), k) :=
  trapIf_ok _ _ _ (bne_eq_false_iff_eq.2 h)

theorem checkAlign_trap {n : Nat} (h : va.toNat % n ≠ 0) (k : Core) : checkAlign va n k = .error (.trap causeMisalign va) :=
  trapIf_trap _ _ _ (bne_iff_ne.2 h)

end

/-! ### Translations that the core finds (R286) -/

section
variable {s u : State} {c va : Nat} {t : TlbEntry} {k : Core} {acc : Acc}

/-- Taking a translation from the cluster changes the core's TLB alone. -/
theorem tlbHit_setCore (h : (s.setCore c k).tlbHit c va = some (t, u)) : ∃ l, u = s.setCore c { k with tlb := l } := by
  unfold State.tlbHit at h
  split at h
  · obtain ⟨-, rfl⟩ := Prod.mk.inj (Option.some.inj h)
    exact ⟨k.tlb, rfl⟩
  · obtain ⟨t', -, he⟩ := Option.map_eq_some_iff.1 h
    obtain ⟨-, rfl⟩ := Prod.mk.inj he
    exact ⟨tlbPut 32 k.tlb t', by rw [State.modCore, State.core_setCore_self, State.setCore_setCore]; rfl⟩

theorem tlbHit_cur (h : s.tlbHit c va = some (t, u)) : u.cur = s.cur := by
  unfold State.tlbHit at h
  split at h
  · obtain ⟨-, rfl⟩ := Prod.mk.inj (Option.some.inj h)
    rfl
  · obtain ⟨t', -, he⟩ := Option.map_eq_some_iff.1 h
    obtain ⟨-, rfl⟩ := Prod.mk.inj he
    rfl

theorem walkTrap_none {va : Nat} (h : ∀ a v c, k.pending ≠ .walked a v c) : walkTrap k acc va = none := by
  unfold walkTrap
  split
  · exact absurd ‹_› (h _ _ _)
  · rfl

variable {va : Word}

theorem cur_of_translates (h : Translates s acc va t u) : u.cur = s.cur := tlbHit_cur h.2.2.1

theorem setCore_of_translates (h : Translates (s.setCore s.cur k) acc va t u) : ∃ l, u = s.setCore s.cur { k with tlb := l } :=
  tlbHit_setCore h.2.2.1

theorem translate_of_translates (h : Translates s acc va t u) : translate acc va s = .ok (t, u) := by
  obtain ⟨hwalk, hva, hhit, hok, hdirty⟩ := h
  have hd : ((acc == .write || acc == .amo) && !leafD t.leaf) = false := by
    cases acc <;> simp_all
  simp only [translate, walkTrap_none hwalk, if_neg (Nat.not_le.2 hva), hhit, hok, hd, Bool.not_true, Bool.false_eq_true, if_false]

/-- An address of 2^48 or above has no translation (R283). -/
theorem translate_beyond (hwalk : ∀ a v c, (s.core s.cur).pending ≠ .walked a v c) (hva : 2 ^ 48 ≤ va.toNat) :
    translate acc va s = .error (.trap causeNotPresent va) := by
  simp only [translate, walkTrap_none hwalk, if_pos hva]

/-- A translation that forbids the access leaves the TLBs, and the access traps (R283, R291). -/
theorem translate_forbidden (hwalk : ∀ a v c, (s.core s.cur).pending ≠ .walked a v c) (hva : va.toNat < 2 ^ 48)
    (hhit : s.tlbHit s.cur va.toNat = some (t, u)) (hok : s.hitOk (s.core s.cur) acc t va.toNat = false) :
    translate acc va s = .error (.markTrap (fun u => u.dropStale u.cur va.toNat) (s.hitCause t va.toNat) va) := by
  simp only [translate, walkTrap_none hwalk, if_neg (Nat.not_le.2 hva), hhit, hok, Bool.not_false, if_true]

end

/-! ### A load that hits (R293) -/

section
variable {s t u : State} {va : Word} {n v : Nat}

theorem waitAckedAt_ok (h : Acked (s.core s.cur)) : waitAckedAt va s = .ok ((), s) := by
  rw [waitAckedAt, if_pos (storesDone_iff.2 h)]

/-- A line that serves a load at `p`: its timestamp, and the line after it. -/
theorem L1Line.loadHit_some {l : L1Line} {p : Nat} (h : l.excl = true ∨ p ≤ l.rts) :
    l.loadHit p = some (max p l.wts, if l.excl then { l with rts := max l.rts (max p l.wts) } else l) := by
  unfold L1Line.loadHit
  split
  · rfl
  · rw [if_pos (h.resolve_left ‹_›)]

theorem loadCached_ok {e : TlbEntry} {pa : Nat} {l : L1Line} (hl : lookupK (s.core s.cur).l1 (pa / 64) = some l)
    (huse : s.copyUsable s.cur l = true) (hhit : l.excl = true ∨ (s.core s.cur).pts ≤ l.rts) :
    loadCached e va pa l.home n s = .ok (bitsOf l.data.toNat (8 * (pa % 64)) (8 * n), s.setCore s.cur { s.core s.cur with
      l1 := insertK (s.core s.cur).l1 (pa / 64)
        (if l.excl then { l with rts := max l.rts (max (s.core s.cur).pts l.wts) } else l)
      pts := max (s.core s.cur).pts (max (s.core s.cur).pts l.wts) }) := by
  have hcopy : s.copyFor l.home (pa / 64) = some l := by
    simp [State.copyFor, hl, huse, L1Line.loadHit_some hhit]
  simp only [loadCached, hcopy, L1Line.loadHit_some hhit]
  rfl

theorem loadMem_of_loads (h : Loads s va n v t) : loadMem va n s = .ok (v, t) := by
  obtain ⟨e, u, l, tau, htr, hack, hcached, hl, huse, hhit, rfl, rfl, rfl⟩ := h
  rw [← cur_of_translates htr] at hack hl huse hhit ⊢
  rw [loadMem, bind_ok (translate_of_translates htr), bind_ok (waitAckedAt_ok hack), rd_bind]
  rcases hcached with htgt | ⟨hnc, htgt | ⟨c, htgt⟩⟩
  · simp only [htgt, loadCached_ok hl huse hhit]
  · simp only [htgt, hnc, Bool.false_eq_true, if_false, loadCached_ok hl huse hhit]
  · simp only [htgt, hnc, Bool.false_eq_true, if_false, loadCached_ok hl huse hhit]

/-- A load changes the issuing core alone. -/
theorem setCore_of_loads {k : Core} (h : Loads (s.setCore s.cur k) va n v t) : ∃ q, t = s.setCore s.cur q := by
  obtain ⟨e, u, l, tau, htr, -, -, -, -, -, -, -, rfl⟩ := h
  obtain ⟨tlb, rfl⟩ := setCore_of_translates htr
  exact ⟨_, State.setCore_setCore ..⟩

end

/-! ### Scalar loads (R105) -/

section
variable {s t : State} {d a b : Reg} {i : BitVec 16} {va : Word} {k1 k2 q : Core} {n v : Nat}

/-- The form of a load: its address, the check of the address, the access, and what `fin` makes of the value. -/
theorem loadForm_ok {addr : CpuM Word} {load : Word → DevM Nat} {fin : Nat → CpuM Unit} (ha : addr (s.core s.cur) = .ok (va, k1))
    (hal : va.toNat % n = 0) (hl : load va (s.setCore s.cur k1) = .ok (v, s.setCore s.cur q)) (hd : fin v q = .ok ((), k2)) :
    (do
      let va ← onCore addr
      onCore (checkAlign va n)
      let v ← load va
      onCore (fin v) : DevM Unit) s = .ok ((), s.setCore s.cur k2) := by
  rw [bind_ok (onCore_ok ha), bind_ok (onCore_ok (checkAlign_ok hal _))]
  simp only [State.setCore_cur, State.core_setCore_self, State.setCore_setCore]
  rw [bind_ok hl, onCore_ok (k := k2) (by simpa using hd)]
  simp only [State.setCore_cur, State.setCore_setCore]

/-- A load whose access hits. -/
theorem runLoad_ok {addr : CpuM Word} {fin : Nat → CpuM Unit} (ha : addr (s.core s.cur) = .ok (va, k1)) (hal : va.toNat % n = 0)
    (hl : Loads (s.setCore s.cur k1) va n v t) (hd : fin v (t.core s.cur) = .ok ((), k2)) :
    runInstr (do
      let va ← onCore addr
      onCore (checkAlign va n)
      let v ← loadMem va n
      onCore (fin v)) s = .next (s.setCore s.cur k2).retire := by
  obtain ⟨q, rfl⟩ := setCore_of_loads hl
  rw [State.core_setCore_self] at hd
  exact runInstr_ok (loadForm_ok ha hal (loadMem_of_loads hl) hd)

/-- Each scalar load is a load of its bytes, extended as its mnemonic says. -/
theorem exec_load_row : ∀ r ∈ loadTable, ∃ signed, (∀ d a i s, exec (r.1 d a i) s = runInstr (loadX r.2.1 signed d a i) s)
    ∧ ∀ v, loadWord r.2.1 signed v = r.2.2 v := by
  have sext (m : Nat) (hm : 0 < m) (v : Nat) : wordOfInt (sextNat v m) = (BitVec.ofNat m v).signExtend 64 := by
    rw [wordOfInt, BitVec.signExtend, sextNat, BitVec.toInt_eq_toNat_cond, BitVec.toNat_ofNat]
    have hpow : 2 ^ m = 2 * 2 ^ (m - 1) := by rw [← pow_succ', Nat.sub_add_cancel hm]
    congr 1
    by_cases h : v % 2 ^ m < 2 ^ (m - 1)
    · rw [if_pos h, if_pos (by omega)]
    · rw [if_neg h, if_neg (by omega)]
  simp only [loadTable, List.forall_mem_cons]
  exact ⟨⟨false, fun _ _ _ _ => rfl, fun _ => rfl⟩, ⟨true, fun _ _ _ _ => rfl, sext 32 (by decide)⟩, ⟨false, fun _ _ _ _ => rfl, fun _ => rfl⟩,
    ⟨true, fun _ _ _ _ => rfl, sext 16 (by decide)⟩, ⟨false, fun _ _ _ _ => rfl, fun _ => rfl⟩,
    ⟨true, fun _ _ _ _ => rfl, sext 8 (by decide)⟩, ⟨false, fun _ _ _ _ => rfl, fun _ => rfl⟩, List.forall_mem_nil _⟩

theorem load_completes {r : (Reg → Reg → BitVec 16 → Instr) × Nat × (Nat → Word)} (hr : r ∈ loadTable) (ha : AddrI (s.core s.cur) a i va k1)
    (hal : va.toNat % r.2.1 = 0) (hl : Loads (s.setCore s.cur k1) va r.2.1 v t) (hd : Dest (t.core s.cur) d (r.2.2 v) k2) :
    Completes (r.1 d a i) s k2 := by
  obtain ⟨signed, hexec, hval⟩ := exec_load_row r hr
  exact (hexec d a i s).trans (runLoad_ok (memAddr_of_addrI ha) hal hl (setX_of_dest (hval v ▸ hd)))

theorem fld_completes (ha : AddrI (s.core s.cur) a i va k1) (hal : va.toNat % 8 = 0) (hl : Loads (s.setCore s.cur k1) va 8 v t) :
    Completes (.fld d a i) s (fWritten (t.core s.cur) d (BitVec.ofNat 64 v)) :=
  runLoad_ok (memAddr_of_addrI ha) hal hl (setF_ok ..)

theorem flw_completes (ha : AddrX (s.core s.cur) a b va k1) (hal : va.toNat % 4 = 0) (hl : Loads (s.setCore s.cur k1) va 4 v t) :
    Completes (.flw d a b) s (fWritten (t.core s.cur) d (BitVec.ofNat 64 v)) :=
  runLoad_ok (vmemAddr_of_addrX ha) hal hl (setF_ok ..)

end

/-- Settles O10: a load that hits is the load of its bytes of the line, and its register takes them extended. -/
theorem loadHits : Obligations.LoadHits :=
  ⟨fun _ hr _ _ _ _ _ _ _ _ _ => load_completes hr, fun _ _ _ _ _ _ _ _ => fld_completes, fun _ _ _ _ _ _ _ _ => flw_completes⟩

/-! ### A store to an owned line (R293) -/

section
variable {s t u : State} {va : Word} {n v : Nat} {e : TlbEntry} {l : L1Line} {acc : Acc} {c pa tau : Nat}

@[simp] theorem core_noteWrite (s : State) (pa n c : Nat) : (s.noteWrite pa n).core c = s.core c := by
  unfold State.noteWrite
  split <;> rfl

@[simp] theorem cur_noteWrite (s : State) (pa n : Nat) : (s.noteWrite pa n).cur = s.cur := by
  unfold State.noteWrite
  split <;> rfl

theorem core_wroteLine (u : State) (c pa n v tau : Nat) (l : L1Line) : (wroteLine u c pa n v tau l).core c = written (u.core c) pa n v tau l := by
  rw [wroteLine, core_noteWrite, State.core_setCore_self]

theorem storeGuard_ok (h : s.guarded pa n = false) : storeGuard va pa n s = .ok (false, s) := by
  simp only [storeGuard, h, Bool.not_false, if_true]

theorem storeTo_near (htgt : s.target e pa = .near l.home) (howns : s.owns (s.core s.cur).sv.ctxid.toNat (leafProto e.leaf) = true) :
    s.storeTo e (s.target e pa) = some (.near, l.home) := by
  simp only [htgt, State.storeTo, howns, if_true]

theorem askOwner_ok (hl : lookupK (s.core s.cur).l1 (pa / 64) = some l) (hx : l.excl = true) (huse : s.copyUsable s.cur l = true) :
    askOwner e va pa l.home s = .ok (l, s) := by
  simp only [askOwner, State.ownedLine, hl, hx, huse, and_self, if_true]

theorem waitSent_ok (h : AsksNothing (s.core s.cur)) : waitSent s = .ok ((), s) := by
  unfold waitSent
  split
  · exact absurd ‹_› h.1
  · rfl

/-- The timestamp of a store that the core makes in its L1 is that of R293. -/
theorem storeTau_of_writeTime {k : Core} {line : Nat} (h : WriteTime k line l n tau) : l.storeTau (k.grantedLine line) k.pts n = tau := h.symm

theorem storeOwned_eq {o : StoreOp} (h : WriteTime (s.core c) (o.pa / 64) l o.n tau) :
    s.storeOwned c o l ((s.core c).grantedLine (o.pa / 64)) = wroteLine s c o.pa o.n o.data tau l := by
  rw [State.storeOwned, storeTau_of_writeTime h]
  rfl

theorem storeMem_of_stores (h : Stores s va n v t) : storeMem va n v s = .ok ((), t) := by
  obtain ⟨e, u, l, tau, ⟨htr, hg, htgt, howns, hack, hask, hw, hl, hx, huse⟩, htime, rfl⟩ := h
  rw [← cur_of_translates htr] at howns hack hask hl huse htime ⊢
  rw [storeMem, bind_ok (translate_of_translates htr), bind_ok (storeGuard_ok hg), rd_bind, if_neg Bool.false_ne_true,
    storeTo_near htgt howns]
  have hroom : ∀ o : StoreOp, o.dest = .near → waitRoom o u = .ok ((), u) := fun o ho => if_pos (.inl ho)
  simp only [issueStore]
  rw [bind_ok (hroom _ rfl), rd_bind, if_pos (storesDone_iff.2 hack)]
  simp only [storeNear]
  rw [bind_ok (waitSent_ok hask), rd_bind]
  simp only [hw, Bool.false_eq_true, if_false]
  rw [bind_ok (askOwner_ok hl hx huse), wr, storeOwned_eq htime]

end

/-! ### Scalar stores (R105) -/

section
variable {s t : State} {d a b : Reg} {i : BitVec 16} {va v : Word} {k1 k2 : Core} {n : Nat}

/-- The form of a store: its address, its value, the check of the address, and the access. -/
theorem storeForm_ok {α : Type} {addr : CpuM Word} {value : CpuM α} {store : Word → α → DevM Unit} {x : α}
    (ha : addr (s.core s.cur) = .ok (va, k1)) (hv : value k1 = .ok (x, k2)) (hal : va.toNat % n = 0)
    (hs : store va x (s.setCore s.cur k2) = .ok ((), t)) :
    (do
      let va ← onCore addr
      let x ← onCore value
      onCore (checkAlign va n)
      store va x : DevM Unit) s = .ok ((), t) := by
  rw [bind_ok (onCore_ok ha), bind_ok (onCore_ok (k := k2) (a := x) (by simpa using hv)), bind_ok (onCore_ok (checkAlign_ok hal _))]
  simpa only [State.setCore_cur, State.core_setCore_self, State.setCore_setCore] using hs

/-- A store to an owned line. -/
theorem runStore_ok {addr : CpuM Word} {value : CpuM Word} {f : Word → Nat} (ha : addr (s.core s.cur) = .ok (va, k1))
    (hv : value k1 = .ok (v, k2)) (hal : va.toNat % n = 0) (hs : Stores (s.setCore s.cur k2) va n (f v) t) :
    runInstr (do
      let va ← onCore addr
      let v ← onCore value
      onCore (checkAlign va n)
      storeMem va n (f v)) s = .next t.retire :=
  runInstr_ok (storeForm_ok (store := fun va v => storeMem va n (f v)) ha hv hal (storeMem_of_stores hs))

theorem exec_store_row : ∀ r ∈ storeTable, ∀ a b i s, exec (r.1 a b i) s = runInstr (storeX r.2 a b i) s := by
  simp only [storeTable, List.forall_mem_cons]
  exact ⟨fun _ _ _ _ => rfl, fun _ _ _ _ => rfl, fun _ _ _ _ => rfl, fun _ _ _ _ => rfl, List.forall_mem_nil _⟩

theorem store_completes {r : (Reg → Reg → BitVec 16 → Instr) × Nat} (hr : r ∈ storeTable) (ha : AddrI (s.core s.cur) a i va k1)
    (hb : Source k1 b v k2) (hal : va.toNat % r.2 = 0) (hs : Stores (s.setCore s.cur k2) va r.2 (v.toNat % 2 ^ (8 * r.2)) t) :
    CompletesAt (r.1 a b i) s t :=
  (exec_store_row r hr a b i s).trans (runStore_ok (f := fun v => v.toNat % 2 ^ (8 * r.2)) (memAddr_of_addrI ha) (getX_of_source hb) hal hs)

theorem fsd_completes (ha : AddrI (s.core s.cur) a i va k1) (hb : FSource k1 b v) (hal : va.toNat % 8 = 0)
    (hs : Stores (s.setCore s.cur k1) va 8 v.toNat t) : CompletesAt (.fsd a b i) s t :=
  runStore_ok (f := fun v => v.toNat) (memAddr_of_addrI ha) (getF_of_source hb) hal hs

theorem fsw_completes (ha : AddrX (s.core s.cur) a b va k1) (hd : FSource k1 d v) (hal : va.toNat % 4 = 0)
    (hs : Stores (s.setCore s.cur k1) va 4 (v.toNat % 2 ^ 32) t) : CompletesAt (.fsw d a b) s t :=
  runStore_ok (f := fun v => v.toNat % 2 ^ 32) (vmemAddr_of_addrX ha) (getF_of_source hd) hal hs

end

/-- Settles O11: a store to an owned line waits for nothing, and puts its bytes into the line. -/
theorem storeHits : Obligations.StoreHits :=
  ⟨fun _ hr _ _ _ _ _ _ _ _ _ => store_completes hr, fun _ _ _ _ _ _ _ _ => fsd_completes, fun _ _ _ _ _ _ _ _ => fsw_completes⟩

end Sys2Proof.Machine

/-! ## Atomics on an owned line (05, R116 to R119) -/

namespace Sys2Proof.Machine
open Sys2Proof.Safety

/-! ### What a core finds in its TLB or its cluster's (R286) -/

/-- The translation that core `c` of the package finds where its state is `k`, and its state after that. -/
def State.lookupTlb (s : State) (c : Nat) (k : Core) (va : Nat) : Option (TlbEntry × Core) :=
  match k.tlbFind va with
  | some t => some (t, k)
  | none => (((lookupK s.ctlb (clusterOf c)).getD []).find? fun t =>
      (t.ctx == k.sv.ctxid.toNat || leafG t.leaf) && t.page == va / 2 ^ t.bits).map fun t => (t, k.takeEntry t)

theorem tlbHit_eq_lookupTlb (s : State) (c : Nat) (k : Core) (va : Nat) :
    (s.setCore c k).tlbHit c va = (s.lookupTlb c k va).map fun p => (p.1, s.setCore c p.2) := by
  simp only [State.tlbHit, State.lookupTlb, State.clusterFind, State.modCore, State.core_setCore_self, State.setCore_setCore,
    State.setCore_ctlb]
  cases k.tlbFind va with
  | some t => rfl
  | none =>
    rw [Option.map_map]
    rfl

/-! ### What an access looks at beside the issuing core -/

section
variable (s : State) (c : Nat) (k q : Core) (acc : Acc) (t : TlbEntry) (va pa n line home ctx sel : Nat) (l : L1Line)

@[simp] theorem physical_setCore : (s.setCore c k).physical = s.physical := State.physical_congr rfl rfl rfl
@[simp] theorem inMap_setCore : (s.setCore c k).inMap pa n = s.inMap pa n := by
  rw [State.inMap, State.inMap, State.logicalCount_congr (t := s.setCore c k) (s := s) rfl rfl rfl, State.setCore_plat]
@[simp] theorem hitOk_setCore : (s.setCore c k).hitOk q acc t va = s.hitOk q acc t va := by
  simp only [State.hitOk, State.frameOk, inMap_setCore]
  rfl
@[simp] theorem guarded_setCore : (s.setCore c k).guarded pa n = s.guarded pa n := by
  simp only [State.guarded, inMap_setCore, State.setCore_plat]
@[simp] theorem target_setCore : (s.setCore c k).target t pa = s.target t pa := by
  simp only [State.target, physical_setCore, State.setCore_cur]
  rfl
@[simp] theorem owns_setCore : (s.setCore c k).owns ctx sel = s.owns ctx sel := rfl
@[simp] theorem watched_setCore : (s.setCore c k).watched line = s.watched line := rfl
@[simp] theorem copyUsable_setCore (d : Nat) : (s.setCore c k).copyUsable d l = s.copyUsable d l := rfl

end

/-! ### Flags raised in FFLAGS -/

section
variable (s : State) (c : Nat) (k : Core) (f : FFlags) (acc : Acc) (t : TlbEntry) (va : Nat)

@[simp] theorem orFlags_pending : (k.orFlags f).pending = k.pending := rfl
@[simp] theorem orFlags_sv : (k.orFlags f).sv = k.sv := rfl
@[simp] theorem orFlags_pts : (k.orFlags f).pts = k.pts := rfl
@[simp] theorem orFlags_l1 : (k.orFlags f).l1 = k.l1 := rfl
@[simp] theorem orFlags_grantedLine (line : Nat) : (k.orFlags f).grantedLine line = k.grantedLine line := rfl

/-- Raising no flag changes nothing. -/
@[simp] theorem orFlags_zero : k.orFlags 0 = k := by
  simp [Core.orFlags]

theorem acked_orFlags : Acked (k.orFlags f) ↔ Acked k := Iff.rfl

theorem asksNothing_orFlags : AsksNothing (k.orFlags f) ↔ AsksNothing k := Iff.rfl

theorem hitOk_orFlags : s.hitOk (k.orFlags f) acc t va = s.hitOk k acc t va := by
  have henv : (k.orFlags f).tenv (dieOf s.cur) = k.tenv (dieOf s.cur) := rfl
  have huser : (k.orFlags f).user = k.user := rfl
  rw [State.hitOk, State.hitOk, henv, huser]

theorem lookupTlb_orFlags : s.lookupTlb c (k.orFlags f) va = (s.lookupTlb c k va).map fun p => (p.1, p.2.orFlags f) := by
  unfold State.lookupTlb
  rw [show (k.orFlags f).tlbFind va = k.tlbFind va from rfl]
  cases k.tlbFind va with
  | some t => rfl
  | none =>
    rw [Option.map_map]
    rfl

end

section
variable {s u t : State} {k k1 k2 k3 k4 : Core} {acc : Acc} {va x v : Word} {n pa tau old : Nat} {e : TlbEntry} {l : L1Line} {f : FFlags}

/-- The flags of FFLAGS play no part in owning a line. -/
theorem owns_of_owns_orFlags (h : Owns (s.setCore s.cur (k.orFlags f)) acc va n e u l) : ∃ q, u = s.setCore s.cur (q.orFlags f)
    ∧ Owns (s.setCore s.cur k) acc va n e (s.setCore s.cur q) l := by
  obtain ⟨⟨hwalk, hva, hhit, hok, hd⟩, hrest⟩ := h
  rw [State.setCore_cur, tlbHit_eq_lookupTlb, lookupTlb_orFlags, Option.map_map] at hhit
  obtain ⟨⟨e', q⟩, hlook, he⟩ := Option.map_eq_some_iff.1 hhit
  obtain ⟨rfl, rfl⟩ := Prod.mk.inj he
  have hfound : (s.setCore s.cur k).tlbHit s.cur va.toNat = some (e', s.setCore s.cur q) := by
    rw [tlbHit_eq_lookupTlb, hlook]
    rfl
  simp only [State.setCore_cur, State.core_setCore_self, orFlags_pending, hitOk_setCore, hitOk_orFlags, guarded_setCore, target_setCore,
    owns_setCore, watched_setCore, copyUsable_setCore, orFlags_sv, orFlags_l1, acked_orFlags, asksNothing_orFlags] at hwalk hok hrest
  refine ⟨q, rfl, ⟨?_, hva, hfound, ?_, hd⟩, ?_⟩ <;>
    simpa only [State.setCore_cur, State.core_setCore_self, hitOk_setCore, guarded_setCore, target_setCore, owns_setCore,
      watched_setCore, copyUsable_setCore]

/-- An atomic that awaits no answer begins with the check of its address. -/
theorem amoMem_misaligned {a : AmoArgs} {room : CpuM Unit} (hask : AsksNothing (s.core s.cur)) (hal : va.toNat % a.n ≠ 0) :
    amoMem room va a s = .error (.trap causeMisalign va) := by
  obtain ⟨hsent, hgot⟩ := hask
  unfold amoMem
  rw [rd_bind]
  generalize (s.core s.cur).pending = p at hsent hgot
  cases p
  case got w => exact absurd rfl (hgot w)
  case sent => exact absurd rfl hsent
  all_goals exact bind_err (onCore_err (checkAlign_trap hal _))

/-- An atomic reads the line, raises its flags, and puts its new value into the line. -/
theorem amoMem_of_owns {a : AmoArgs} {room : CpuM Unit} (h : Owns (s.setCore s.cur k) .amo va a.n e u l) (hal : va.toNat % a.n = 0)
    (htime : WriteTime (u.core s.cur) (e.pa va.toNat / 64) l a.n tau) (hroom : room (u.core s.cur) = .ok ((), u.core s.cur))
    (hold : old = bitsOf l.data.toNat (8 * (e.pa va.toNat % 64)) (8 * a.n)) :
    amoMem room va a (s.setCore s.cur k) = .ok (old,
      wroteLine (u.setCore s.cur ((u.core s.cur).orFlags (a.new old).2)) s.cur (e.pa va.toNat) a.n (a.new old).1 tau l) := by
  obtain ⟨htr, hg, htgt, howns, hack, hask, hw, hl, hx, huse⟩ := h
  obtain ⟨q, hpend, rfl⟩ : ∃ q : Core, q.pending = k.pending ∧ u = s.setCore s.cur q :=
    let ⟨l, h⟩ := setCore_of_translates htr
    ⟨{ k with tlb := l }, rfl, h⟩
  simp only [State.setCore_cur, State.core_setCore_self] at howns hack hask hl huse htime hroom ⊢
  have hnear : amoNear e va ⟨.near, l.home, e.pa va.toNat, a.n, 0, q.sv.ctxid.toNat, leafProto e.leaf⟩ a (s.setCore s.cur q)
      = .ok (old, wroteLine (s.setCore s.cur (q.orFlags (a.new old).2)) s.cur (e.pa va.toNat) a.n (a.new old).1 tau l) := by
    unfold amoNear
    rw [rd_bind, if_neg (by rw [hw]; exact Bool.false_ne_true)]
    dsimp only
    rw [bind_ok (askOwner_ok (l := l) (by simpa using hl) hx (by simpa using huse)), L1Line.read, ← hold]
    rw [bind_ok (onCore_ok (a := ()) (k := q.orFlags (a.new old).2) (by rw [State.setCore_cur, State.core_setCore_self]; rfl))]
    simp only [State.setCore_cur, State.setCore_setCore]
    have hwrite := storeOwned_eq (s := s.setCore s.cur (q.orFlags (a.new old).2)) (c := s.cur) (l := l) (tau := tau)
      (o := ⟨.near, l.home, e.pa va.toNat, a.n, (a.new old).1, q.sv.ctxid.toNat, leafProto e.leaf⟩)
      (by rw [State.core_setCore_self]; exact htime)
    rw [← hwrite]
    rfl
  obtain ⟨hsent, hgot⟩ : AsksNothing ((s.setCore s.cur k).core (s.setCore s.cur k).cur) := by
    rwa [State.setCore_cur, State.core_setCore_self, AsksNothing, ← hpend]
  unfold amoMem
  rw [rd_bind]
  generalize ((s.setCore s.cur k).core (s.setCore s.cur k).cur).pending = p at hsent hgot
  cases p
  case got w => exact absurd rfl (hgot w)
  case sent => exact absurd rfl hsent
  all_goals
    dsimp only
    rw [bind_ok (onCore_ok (checkAlign_ok hal _)), State.setCore_cur, State.core_setCore_self, State.setCore_setCore,
      bind_ok (translate_of_translates htr), bind_ok (storeGuard_ok hg),
      bind_ok (onCore_ok (k := q) (a := ()) (by simpa using hroom))]
    simp only [State.setCore_cur, State.setCore_setCore]
    rw [bind_ok (waitAckedAt_ok (by simpa using hack)), rd_bind, if_neg Bool.false_ne_true,
      storeTo_near htgt (by simpa using howns)]
    simpa using hnear

/-- The destination of an atomic whose write of its register takes place: there was room before the request (R29, R113). -/
theorem roomX_of_dest {k q k' : Core} {d : Reg} {v : Word} (hsys : q.onSys = k.onSys) (hf : q.sfault = k.sfault) (hqs : q.qs = k.qs)
    (h : Dest q d v k') : roomX d k = .ok ((), k) := by
  have hpush : d = 31 → pushQs 0 k = .ok ((), { k with qs := k.qs ++ [0] }) := by
    rintro rfl
    obtain ⟨h0, -⟩ | ⟨-, -, h31, -⟩ | ⟨-, hfault, hlen, -⟩ := h
    · exact absurd h0 (by decide)
    · exact absurd rfl h31
    · exact setX_of_dest (r := 31) (.inr (.inr ⟨rfl, hsys ▸ hf ▸ hfault, hqs ▸ hlen, rfl⟩))
  unfold roomX
  split
  · rw [hpush (‹_ ∧ _›).1]
  · rfl

theorem setXDone_of_dest {k k' : Core} {d : Reg} {v : Word} (h : Dest k d v k') : setXDone d v k = .ok ((), k') := by
  unfold setXDone
  split
  · obtain ⟨h0, -⟩ | ⟨-, -, h31, -⟩ | ⟨-, -, -, rfl⟩ := h
    · exact absurd (‹d = 31›.symm.trans h0) (by decide)
    · exact absurd ‹d = 31› h31
    · rfl
  · exact setX_of_dest h

end

/-! ### The ops of R116 -/

theorem widthBytes_eq (w : Width) : widthBytes w = amoBits w / 8 := by cases w <;> rfl

theorem amoBits_eq (w : Width) : 8 * (amoBits w / 8) = amoBits w := by cases w <;> rfl

/-- Equal values of n bits have equal signed values only. -/
theorem eq_of_sextNat_eq {a b w : Nat} (ha : a < 2 ^ w) (hb : b < 2 ^ w) (h : sextNat a w = sextNat b w) : a = b := by
  simp only [sextNat, Nat.mod_eq_of_lt ha, Nat.mod_eq_of_lt hb] at h
  split at h <;> split at h <;> omega

/-- Each integer atomic is one op of R116, whose new value is that of its row, and which raises no flag. -/
theorem exec_amo_row : ∀ r ∈ amoTable, ∃ op, (∀ d a b w s, exec (r.1 d a b w) s = runInstr (amoX op d a b w) s)
    ∧ ∀ w old (v : Word), old < 2 ^ amoBits w →
      (⟨amoBits w / 8, op, v, 0, 0⟩ : AmoArgs).new old = (r.2 (amoBits w) old (v.toNat % 2 ^ amoBits w), 0) := by
  have row (op : Nat) (f : Nat → Nat → Nat → Nat) (hop : op ≠ 10)
      (h : ∀ n old v, old < 2 ^ (8 * n) → v < 2 ^ (8 * n) → amoInt op n old v 0 = f (8 * n) old v) (w : Width) (old : Nat) (v : Word)
      (ho : old < 2 ^ amoBits w) :
      (⟨amoBits w / 8, op, v, 0, 0⟩ : AmoArgs).new old = (f (amoBits w) old (v.toNat % 2 ^ amoBits w), 0) := by
    have hrow := h (amoBits w / 8) old (v.toNat % 2 ^ amoBits w)
    rw [amoBits_eq] at hrow
    simp only [AmoArgs.new, amoNew, if_neg hop, amoBits_eq]
    rw [show (0 : Word).toNat % 2 ^ amoBits w = 0 from Nat.zero_mod _, hrow ho (Nat.mod_lt _ (Nat.two_pow_pos _))]
  simp only [amoTable, List.forall_mem_cons]
  refine ⟨⟨0, fun _ _ _ _ _ => rfl, row 0 (fun w o v => (o + v) % 2 ^ w) (by decide) fun _ _ _ _ _ => rfl⟩,
    ⟨1, fun _ _ _ _ _ => rfl, row 1 (fun _ => Nat.land) (by decide) fun _ _ _ _ _ => rfl⟩,
    ⟨2, fun _ _ _ _ _ => rfl, row 2 (fun _ => Nat.lor) (by decide) fun _ _ _ _ _ => rfl⟩,
    ⟨3, fun _ _ _ _ _ => rfl, row 3 (fun _ => Nat.xor) (by decide) fun _ _ _ _ _ => rfl⟩,
    ⟨4, fun _ _ _ _ _ => rfl, row 4 (fun w o v => if sextNat v w ≤ sextNat o w then v else o) (by decide) fun n old v _ _ => ?_⟩,
    ⟨5, fun _ _ _ _ _ => rfl, row 5 (fun w o v => if sextNat o w ≤ sextNat v w then v else o) (by decide) fun n old v ho hv => ?_⟩,
    ⟨6, fun _ _ _ _ _ => rfl, row 6 (fun _ o v => min o v) (by decide) fun _ _ _ _ _ => rfl⟩,
    ⟨7, fun _ _ _ _ _ => rfl, row 7 (fun _ o v => max o v) (by decide) fun _ _ _ _ _ => rfl⟩,
    ⟨8, fun _ _ _ _ _ => rfl, row 8 (fun _ _ v => v) (by decide) fun _ _ _ _ _ => rfl⟩,
    List.forall_mem_nil _⟩
  · rcases lt_or_ge (sextNat old (8 * n)) (sextNat v (8 * n)) with h | h
    · simp only [amoInt, if_pos h, if_neg (not_le.2 h)]
    · simp only [amoInt, if_neg (not_lt.2 h), if_pos h]
  · rcases lt_trichotomy (sextNat old (8 * n)) (sextNat v (8 * n)) with h | h | h
    · simp only [amoInt, if_pos h, if_pos h.le]
    · simp only [amoInt, h, lt_irrefl, if_false, le_refl, if_true]
      exact eq_of_sextNat_eq ho hv h
    · simp only [amoInt, if_neg (not_lt.2 h.le), if_neg (not_le.2 h)]

/-! ### Atomics that complete -/

section
variable {s t : State} {d a b : Reg} {w : Width} {va v c : Word} {k1 k2 k3 k4 : Core} {old : Nat}

/-- An integer atomic on an owned line, whose op raises no flag. -/
theorem amoMem_of_atomic {n op new : Nat} {data cmp : Word} {rm : Nat} {room : CpuM Unit} {k : Core} (hal : va.toNat % n = 0)
    (h : Atomic (s.setCore s.cur k) va n old new t) (hnew : (⟨n, op, data, cmp, rm⟩ : AmoArgs).new old = (new, 0))
    (hroom : ∀ q : Core, q.onSys = (t.core s.cur).onSys → q.sfault = (t.core s.cur).sfault → q.qs = (t.core s.cur).qs → room q = .ok ((), q)) :
    amoMem room va ⟨n, op, data, cmp, rm⟩ (s.setCore s.cur k) = .ok (old, t) := by
  obtain ⟨e, u, l, tau, howns, htime, hold, rfl⟩ := h
  have hcore := core_wroteLine u s.cur (e.pa va.toNat) n new tau l
  rw [State.setCore_cur] at htime hroom ⊢
  rw [hcore] at hroom
  rw [amoMem_of_owns howns hal htime (hroom _ rfl rfl rfl) hold, hnew, orFlags_zero]
  obtain ⟨q, rfl⟩ := setCore_of_translates howns.1
  simp only [State.core_setCore_self, State.setCore_setCore]

theorem lt_of_atomic {n new : Nat} (h : Atomic s va n old new t) : old < 2 ^ (8 * n) := by
  obtain ⟨e, u, l, tau, -, -, rfl, -⟩ := h
  exact bitsOf_lt ..

theorem cur_of_atomic {n new : Nat} (h : Atomic s va n old new t) : t.cur = s.cur := by
  obtain ⟨e, u, l, tau, howns, -, -, rfl⟩ := h
  rw [wroteLine, cur_noteWrite, State.setCore_cur, cur_of_translates howns.1]

theorem amo_completes {r : (Reg → Reg → Reg → Width → Instr) × (Nat → Nat → Nat → Nat)} (hr : r ∈ amoTable)
    (ha : Source (s.core s.cur) a va k1) (hb : Source k1 b v k2) (hal : va.toNat % (amoBits w / 8) = 0)
    (h : Atomic (s.setCore s.cur k2) va (amoBits w / 8) old (r.2 (amoBits w) old (v.toNat % 2 ^ amoBits w)) t)
    (hd : Dest (t.core s.cur) d (BitVec.ofInt 64 (sextNat old (amoBits w))) k3) :
    CompletesAt (r.1 d a b w) s (t.setCore s.cur k3) := by
  obtain ⟨op, hexec, hnew⟩ := exec_amo_row r hr
  refine (hexec d a b w s).trans (runInstr_ok ?_)
  rw [amoX, bind_ok (onCore_ok (getX_of_source ha)), bind_ok (onCore_ok (k := k2) (a := v) (by simpa using getX_of_source hb))]
  simp only [State.setCore_cur, State.setCore_setCore, widthBytes_eq, amoBits_eq]
  have hold := lt_of_atomic h
  rw [amoBits_eq] at hold
  rw [bind_ok (amoMem_of_atomic hal h (hnew w old v hold) fun q h1 h2 h3 => roomX_of_dest h1.symm h2.symm h3.symm hd)]
  have hcur : t.cur = (s.setCore s.cur k2).cur := cur_of_atomic h
  rw [State.setCore_cur] at hcur
  rw [onCore_ok (k := k3) (by rw [hcur]; exact setXDone_of_dest hd), hcur]

theorem amocas_completes (ha : Source (s.core s.cur) a va k1) (hb : Source k1 b c k2) (hv : Source k2 d v k3)
    (hal : va.toNat % (amoBits w / 8) = 0)
    (h : Atomic (s.setCore s.cur k3) va (amoBits w / 8) old
      (if old = c.toNat % 2 ^ amoBits w then v.toNat % 2 ^ amoBits w else old) t)
    (hd : Dest (t.core s.cur) d (BitVec.ofInt 64 (sextNat old (amoBits w))) k4) :
    CompletesAt (.amocas d a b w) s (t.setCore s.cur k4) := by
  refine runInstr_ok ?_
  rw [bind_ok (onCore_ok (getX_of_source ha)), bind_ok (onCore_ok (k := k2) (a := c) (by simpa using getX_of_source hb)),
    bind_ok (onCore_ok (k := k3) (a := v) (by simpa using getX_of_source hv))]
  simp only [State.setCore_cur, State.setCore_setCore, widthBytes_eq, amoBits_eq]
  have hnew : (⟨amoBits w / 8, 9, v, c, 0⟩ : AmoArgs).new old
      = (if old = c.toNat % 2 ^ amoBits w then v.toNat % 2 ^ amoBits w else old, 0) := by
    simp only [AmoArgs.new, amoNew, amoInt, amoBits_eq]
    rfl
  rw [bind_ok (amoMem_of_atomic (room := pure ()) hal h hnew fun _ _ _ _ => rfl)]
  have hcur : t.cur = (s.setCore s.cur k3).cur := cur_of_atomic h
  rw [State.setCore_cur] at hcur
  rw [onCore_ok (k := k4) (by rw [hcur]; exact setX_of_dest hd), hcur]

theorem amofadd_completes {r : Nat × FFlags} (ha : Source (s.core s.cur) a va k1) (hb : FSource k1 b v)
    (hal : va.toNat % (amoBits w / 8) = 0)
    (hr : r = fpBin .add (if amoBits w = 64 then .f64 else .f32) ⟨(modesOf k1).rm, false, false, true⟩ old (v.toNat % 2 ^ amoBits w))
    (h : Atomic (s.setCore s.cur (k1.orFlags r.2)) va (amoBits w / 8) old r.1 t) :
    CompletesAt (.amofadd d a b w) s (t.setCore s.cur (fWritten (t.core s.cur) d (BitVec.ofNat 64 old))) := by
  have hnew : (⟨amoBits w / 8, 10, v, 0, (modesOf k1).rm⟩ : AmoArgs).new old = r := by
    rw [hr]
    cases w <;> rfl
  have hold := lt_of_atomic h
  have hcur : t.cur = (s.setCore s.cur (k1.orFlags r.2)).cur := cur_of_atomic h
  rw [State.setCore_cur] at hcur
  obtain ⟨e, u, l, tau, howns, htime, hval, rfl⟩ := h
  obtain ⟨q, rfl, hplain⟩ := owns_of_owns_orFlags howns
  have hrun := amoMem_of_owns (a := ⟨amoBits w / 8, 10, v, 0, (modesOf k1).rm⟩) (room := pure ()) (tau := tau) hplain hal
    (by simpa [WriteTime] using htime) rfl hval
  rw [hnew, State.core_setCore_self, State.setCore_setCore] at hrun
  refine runInstr_ok ?_
  rw [bind_ok (onCore_ok (getX_of_source ha)), bind_ok (onCore_ok (k := k1) (a := v) (by simpa using getF_of_source hb)),
    bind_ok (onCore_ok (k := k1) (a := modesOf k1) (by simp [getModes]))]
  simp only [State.setCore_cur, State.setCore_setCore, widthBytes_eq]
  rw [bind_ok hrun, Nat.mod_eq_of_lt hold, setFn, onCore_ok (setF_ok ..)]
  simp only [State.setCore_cur] at hcur ⊢
  rw [hcur]

end

theorem decodeNat_amocas_queue {n : Nat} {d : Nat} (hm : bitsOf n 26 6 = 0x28) (hop : bitsOf n 0 6 = 9) (hd : d = bitsOf n 21 5)
    (hq : d = 30 ∨ d = 31) : decodeNat n = none := by
  have hfd : fD n = BitVec.ofNat 5 d := by rw [hd]; rfl
  have hwf (a b : Reg) (w : Width) : (Instr.amocas (fD n) a b w).wf = false := by
    rw [hfd]
    rcases hq with rfl | rfl <;> rfl
  have hraw : decodeRaw n = (widthOf (fE n).toNat).bind fun w => some (.amocas (fD n) (fA n) (fB n) w) := by
    simp only [decodeRaw, hm, decAmo, hop]
  rw [decodeNat, hraw]
  cases widthOf (fE n).toNat with
  | none => rfl
  | some w => exact if_neg (Bool.eq_false_iff.1 (hwf ..))

/-- Settles O12: an atomic reads its line, and its new value is that of its op; the destination has room before the line is written. -/
theorem atomicHits : Obligations.AtomicHits :=
  ⟨fun _ hr _ _ _ _ _ _ _ _ _ _ _ _ => amo_completes hr, fun _ _ _ _ _ _ _ _ _ _ _ _ _ _ => amocas_completes,
    fun _ _ _ _ _ _ _ _ _ _ _ ha hb hal hr h => amofadd_completes ha hb hal hr h, fun _ _ => decodeNat_amocas_queue⟩

end Sys2Proof.Machine

/-! ## Vector accesses, and accesses that trap (05, R105, R110, R111, R116 to R119; 14, R283) -/

namespace Sys2Proof.Machine
open Sys2Proof.Safety

/-- A computation of the issuing core, which an earlier one has left as `k`. -/
theorem onCore_setCore {α : Type} {m : CpuM α} {s : State} {k q : Core} {a : α} (h : m k = .ok (a, q)) :
    onCore m (s.setCore s.cur k) = .ok (a, s.setCore s.cur q) := by
  rw [onCore_ok (k := q) (a := a) (by rwa [State.setCore_cur, State.core_setCore_self]), State.setCore_cur, State.setCore_setCore]

/-! ### Vector registers as operands (R24, R29, R45, R124) -/

section
variable {k k' : Core} {long : Bool} {r : Reg} {v : Nat}

theorem vecMode_of_oneMode (h : OneMode k long [r]) : vecMode [r] k = .ok (long, k) := by
  have hr : isLong k r = long := h r (List.mem_singleton_self r)
  simp only [vecMode, List.find?_nil, hr]

theorem getVN_of_vsource (h : VSource k long r v k') : getVN long r k = .ok (v, k') := by
  rcases h with ⟨rfl, ⟨w, hw, rfl⟩, rfl⟩ | ⟨rfl, ⟨w, hw, rfl⟩, rfl⟩ | ⟨rfl, rfl, w, rest, hq, rfl, rfl⟩
  · rw [getVN, if_pos rfl, hw]
    rfl
  · obtain ⟨hlt, rfl⟩ := Vector.getElem?_eq_some_iff.1 hw
    simp only [getVN, Bool.false_eq_true, if_false, getV, dif_pos hlt]
  · simp [getVN, getV, popVqi, hq]

theorem setVN_of_vdest (h : VDest k long r v k') : setVN long r v k = .ok ((), k') := by
  rcases h with ⟨rfl, rfl⟩ | ⟨rfl, hlt, rfl⟩ | ⟨rfl, rfl, hv, hw, rfl⟩
  · rfl
  · simp only [setVN, Bool.false_eq_true, if_false, setV, dif_pos hlt, vset_eq]
  · simp [setVN, setV, pushVqo, hv, hw]

theorem vecBytes_eq (long : Bool) : vecBytes long = if long then 256 else 32 := rfl

theorem bytesOf_eq (z : Size) : bytesOf z = sizeBytes z := rfl

end

/-! ### Misaligned accesses -/

section
variable {s : State} {va : Word} {k1 : Core} {n : Nat} {α β : Type}

theorem runVmem_trap {m : DevM Unit} {c : Nat} {v : Word} (h : m s = .error (.trap c v)) : runVmem m s = .next (s.takeTrap c v) :=
  runInstr_trap (bind_err h)

/-- An address that is no multiple of the size traps, whatever would follow. -/
theorem misaligned {addr : CpuM Word} {f : Word → DevM β} (ha : addr (s.core s.cur) = .ok (va, k1)) (hal : va.toNat % n ≠ 0) :
    (do
      let va ← onCore addr
      onCore (checkAlign va n)
      f va : DevM β) s = .error (.trap causeMisalign va) := by
  rw [bind_ok (onCore_ok ha), bind_err (onCore_err (checkAlign_trap hal _))]

/-- The same where the value that is to be stored is read before the check. -/
theorem misaligned_store {k2 : Core} {addr : CpuM Word} {value : CpuM α} {x : α} {f : Word → α → DevM β}
    (ha : addr (s.core s.cur) = .ok (va, k1)) (hv : value k1 = .ok (x, k2)) (hal : va.toNat % n ≠ 0) :
    (do
      let va ← onCore addr
      let x ← onCore value
      onCore (checkAlign va n)
      f va x : DevM β) s = .error (.trap causeMisalign va) := by
  rw [bind_ok (onCore_ok ha), bind_ok (onCore_setCore hv), bind_err (onCore_err (checkAlign_trap hal _))]

end

section
variable {s : State} {d a b : Reg} {i : BitVec 16} {w : Width} {va v c : Word} {k1 k2 k3 : Core} {long : Bool}

theorem load_misaligned {r : (Reg → Reg → BitVec 16 → Instr) × Nat × (Nat → Word)} (hr : r ∈ loadTable) (ha : AddrI (s.core s.cur) a i va k1)
    (hal : va.toNat % r.2.1 ≠ 0) : Traps (r.1 d a i) s causeMisalign va := by
  obtain ⟨signed, hexec, -⟩ := exec_load_row r hr
  exact (hexec d a i s).trans (runInstr_trap (misaligned (memAddr_of_addrI ha) hal))

theorem store_misaligned {r : (Reg → Reg → BitVec 16 → Instr) × Nat} (hr : r ∈ storeTable) (ha : AddrI (s.core s.cur) a i va k1)
    (hb : Source k1 b v k2) (hal : va.toNat % r.2 ≠ 0) : Traps (r.1 a b i) s causeMisalign va :=
  (exec_store_row r hr a b i s).trans (runInstr_trap (misaligned_store (memAddr_of_addrI ha) (getX_of_source hb) hal))

theorem amo_misaligned {r : (Reg → Reg → Reg → Width → Instr) × (Nat → Nat → Nat → Nat)} (hr : r ∈ amoTable)
    (ha : Source (s.core s.cur) a va k1) (hb : Source k1 b v k2) (hask : AsksNothing k2) (hal : va.toNat % (amoBits w / 8) ≠ 0) :
    Traps (r.1 d a b w) s causeMisalign va := by
  obtain ⟨op, hexec, -⟩ := exec_amo_row r hr
  refine (hexec d a b w s).trans (runInstr_trap ?_)
  rw [amoX, bind_ok (onCore_ok (getX_of_source ha)), bind_ok (onCore_setCore (getX_of_source hb)),
    widthBytes_eq]
  exact bind_err (amoMem_misaligned (by simpa using hask) hal)

theorem fld_misaligned (ha : AddrI (s.core s.cur) a i va k1) (hal : va.toNat % 8 ≠ 0) : Traps (.fld d a i) s causeMisalign va :=
  runInstr_trap (misaligned (memAddr_of_addrI ha) hal)

/-- Every f register is a source. -/
theorem getF_eq (k : Core) (r : Reg) : getF r k = .ok (k.hart.f[r.toNat]'r.isLt, k) := rfl

theorem fsd_misaligned (ha : AddrI (s.core s.cur) a i va k1) (hal : va.toNat % 8 ≠ 0) : Traps (.fsd a b i) s causeMisalign va :=
  runInstr_trap (misaligned_store (memAddr_of_addrI ha) (getF_eq k1 b) hal)

theorem flw_misaligned (ha : AddrX (s.core s.cur) a b va k1) (hal : va.toNat % 4 ≠ 0) : Traps (.flw d a b) s causeMisalign va :=
  runInstr_trap (misaligned (vmemAddr_of_addrX ha) hal)

theorem fsw_misaligned (ha : AddrX (s.core s.cur) a b va k1) (hal : va.toNat % 4 ≠ 0) : Traps (.fsw d a b) s causeMisalign va :=
  runInstr_trap (misaligned_store (vmemAddr_of_addrX ha) (getF_eq k1 d) hal)

theorem amocas_misaligned (ha : Source (s.core s.cur) a va k1) (hal : va.toNat % (amoBits w / 8) ≠ 0) (hb : Source k1 b c k2)
    (hv : Source k2 d v k3) (hask : AsksNothing k3) : Traps (.amocas d a b w) s causeMisalign va := by
  refine runInstr_trap ?_
  rw [bind_ok (onCore_ok (getX_of_source ha)), bind_ok (onCore_setCore (getX_of_source hb)),
    bind_ok (onCore_setCore (getX_of_source hv)), widthBytes_eq]
  exact bind_err (amoMem_misaligned (by simpa using hask) hal)

theorem amofadd_misaligned (ha : Source (s.core s.cur) a va k1) (hal : va.toNat % (amoBits w / 8) ≠ 0) (hask : AsksNothing k1) :
    Traps (.amofadd d a b w) s causeMisalign va := by
  refine runInstr_trap ?_
  rw [bind_ok (onCore_ok (getX_of_source ha)), bind_ok (onCore_setCore (getF_eq k1 b)),
    bind_ok (onCore_setCore (show getModes k1 = .ok (modesOf k1, k1) from rfl)), widthBytes_eq]
  exact bind_err (amoMem_misaligned (by simpa using hask) hal)

end

section
variable {s : State} {d a b : Reg} {va : Word} {k1 k2 : Core} {long : Bool} {v : Nat} {z : Size}
variable (hmode : OneMode (s.core s.cur) long [d]) (ha : AddrX (s.core s.cur) a b va k1)
include hmode ha

theorem vld_misaligned (hal : va.toNat % vecBytes long ≠ 0) : Traps (.vld d a b) s causeMisalign va := by
  refine runVmem_trap ?_
  rw [bind_ok (onCore_ok (vecMode_of_oneMode hmode)), bind_ok (onCore_setCore (vmemAddr_of_addrX ha)), ← vecBytes_eq]
  exact bind_err (onCore_err (checkAlign_trap hal _))

theorem vst_misaligned (hd : VSource k1 long d v k2) (hal : va.toNat % vecBytes long ≠ 0) : Traps (.vst d a b) s causeMisalign va := by
  refine runVmem_trap ?_
  rw [bind_ok (onCore_ok (vecMode_of_oneMode hmode)), bind_ok (onCore_setCore (vmemAddr_of_addrX ha)),
    bind_ok (onCore_setCore (getVN_of_vsource hd)), ← vecBytes_eq]
  exact bind_err (onCore_err (checkAlign_trap hal _))

theorem vldbc_misaligned (hal : va.toNat % bytesOf z ≠ 0) : Traps (.vldbc d a b z) s causeMisalign va := by
  refine runVmem_trap ?_
  rw [bind_ok (onCore_ok (vecMode_of_oneMode hmode)), bind_ok (onCore_setCore (vmemAddr_of_addrX ha)), ← bytesOf_eq]
  exact bind_err (onCore_err (checkAlign_trap hal _))

end

/-- Settles O13: in every form the check of the address stands behind the operands and before the access. -/
theorem misalignedTraps : Obligations.MisalignedTraps :=
  ⟨fun _ hr _ _ _ _ _ _ => load_misaligned hr, fun _ hr _ _ _ _ _ _ _ _ => store_misaligned hr,
    fun _ hr _ _ _ _ _ _ _ _ _ => amo_misaligned hr,
    fun _ _ _ _ _ _ ha hal => ⟨fun _ => fld_misaligned ha hal, fsd_misaligned ha hal⟩,
    fun _ _ _ _ _ _ ha hal => ⟨flw_misaligned ha hal, fsw_misaligned ha hal⟩,
    fun _ _ _ _ _ _ _ _ _ _ _ ha hal => ⟨amocas_misaligned ha hal, amofadd_misaligned ha hal⟩,
    fun _ _ _ _ _ _ _ hmode ha => ⟨fun hal => ⟨vld_misaligned hmode ha hal, fun _ _ hd => vst_misaligned hmode ha hd hal⟩,
      fun _ hal => vldbc_misaligned hmode ha hal⟩⟩

/-! ### Addresses that the core may not reach (R283, R291) -/

section
variable {s : State} {d a b : Reg} {i : BitVec 16} {va v : Word} {k1 k2 : Core} {acc : Acc} {t : TlbEntry} {u : State}

/-- What the core finds for an address does not depend on its queue. -/
theorem tlbHit_fst (s : State) (c : Nat) (va : Nat) (l : List QEntry) {k : Core} (hk : k = { s.core c with qi := l }) :
    ((s.setCore c k).tlbHit c va).map Prod.fst = (s.tlbHit c va).map Prod.fst := by
  subst hk
  have hfind : ({ s.core c with qi := l } : Core).tlbFind va = (s.core c).tlbFind va := rfl
  rw [tlbHit_eq_lookupTlb, State.lookupTlb, hfind, State.tlbHit]
  cases (s.core c).tlbFind va with
  | some t => rfl
  | none =>
    simp only [Option.map_map]
    rfl

theorem runInstr_markTrap {m : DevM Unit} {f : State → State} {c : Nat} {v : Word} (h : m s = .error (.markTrap f c v)) :
    runInstr m s = .next ((f s).takeTrap c v) := by
  simp only [runInstr, runDev, bind_err h]

/-- A load stops as its translation does. -/
theorem loadX_stops {n : Nat} {signed : Bool} {e : Stop} (ha : AddrI (s.core s.cur) a i va k1) (hal : va.toNat % n = 0)
    (h : translate .read va (s.setCore s.cur k1) = .error e) : loadX n signed d a i s = .error e := by
  rw [loadX, bind_ok (onCore_ok (memAddr_of_addrI ha)), bind_ok (onCore_setCore (checkAlign_ok hal _))]
  exact bind_err (bind_err h)

/-- A store stops as its translation does. -/
theorem storeX_stops {n : Nat} {e : Stop} (ha : AddrI (s.core s.cur) a i va k1) (hb : Source k1 b v k2) (hal : va.toNat % n = 0)
    (h : translate .write va (s.setCore s.cur k2) = .error e) : storeX n a b i s = .error e := by
  rw [storeX, bind_ok (onCore_ok (memAddr_of_addrI ha)), bind_ok (onCore_setCore (getX_of_source hb)),
    bind_ok (onCore_setCore (checkAlign_ok hal _))]
  exact bind_err h

section
variable (hwalk : ∀ q v c, (s.core s.cur).pending ≠ .walked q v c) {q : List QEntry} {k : Core} (hk : k = { s.core s.cur with qi := q })
include hwalk hk

theorem translate_beyond_withQi (hva : 2 ^ 48 ≤ va.toNat) : translate acc va (s.setCore s.cur k) = .error (.trap causeNotPresent va) :=
  translate_beyond (by rw [State.setCore_cur, State.core_setCore_self, hk]; exact hwalk) hva

theorem translate_forbidden_withQi (hva : va.toNat < 2 ^ 48) (hhit : s.tlbHit s.cur va.toNat = some (t, u))
    (hok : s.hitOk (s.core s.cur) acc t va.toNat = false) : translate acc va (s.setCore s.cur k)
      = .error (.markTrap (fun u => u.dropStale u.cur va.toNat) (s.hitCause t va.toNat) va) := by
  obtain ⟨⟨t', u'⟩, hhit', rfl⟩ : ∃ p, (s.setCore s.cur k).tlbHit s.cur va.toNat = some p ∧ p.1 = t :=
    Option.map_eq_some_iff.1 ((tlbHit_fst s s.cur va.toNat q hk).trans (hhit ▸ rfl))
  have hok' : s.hitOk k acc t' va.toNat = false := by
    rw [hk]
    exact hok
  exact translate_forbidden (by rw [State.setCore_cur, State.core_setCore_self, hk]; exact hwalk) hva hhit'
    (by rwa [State.setCore_cur, State.core_setCore_self, hitOk_setCore])

end

/-- Reading both operands of a store changes qi alone. -/
theorem addrI_source_rest {k : Core} (ha : AddrI k a i va k1) (hb : Source k1 b v k2) : k2 = { k with qi := k2.qi } := by
  have h1 := addrI_rest ha
  have h2 := source_rest hb
  rw [h1] at h2
  exact h2

end

/-- Settles O14: reading the operands leaves what the core finds for an address, and a load or store stops as its translation does. -/
theorem translationTraps : Obligations.TranslationTraps := by
  intro s a i va k1 ha hpend
  have hwalk : ∀ q v c, (s.core s.cur).pending ≠ .walked q v c := by
    have h := hpend
    rw [addrI_rest ha] at h
    exact h
  refine ⟨fun hva => ⟨fun r hr d hal => ?_, fun r hr b v k2 hb hal => ?_⟩, fun hva t u x hhit hx =>
    ⟨fun hok r hr d hal => ?_, fun hok r hr b v k2 hb hal => ?_⟩⟩
  · obtain ⟨signed, hexec, -⟩ := exec_load_row r hr
    exact (hexec d a i s).trans (runInstr_trap (loadX_stops ha hal (translate_beyond_withQi hwalk (addrI_rest ha) hva)))
  · exact (exec_store_row r hr a b i s).trans
      (runInstr_trap (storeX_stops ha hb hal (translate_beyond_withQi hwalk (addrI_source_rest ha hb) hva)))
  · obtain ⟨signed, hexec, -⟩ := exec_load_row r hr
    subst hx
    exact (hexec d a i s).trans
      (runInstr_markTrap (loadX_stops ha hal (translate_forbidden_withQi hwalk (addrI_rest ha) hva hhit hok)))
  · subst hx
    exact (exec_store_row r hr a b i s).trans
      (runInstr_markTrap (storeX_stops ha hb hal (translate_forbidden_withQi hwalk (addrI_source_rest ha hb) hva hhit hok)))

/-! ### Vector loads and stores (R110, R111) -/

section
variable {s t : State} {d a b : Reg} {va : Word} {k1 k2 q : Core} {long : Bool} {v : Nat} {z : Size}

/-- The lines of a long access, one after another. -/
theorem loadLines_succ {s1 s2 : State} {n i w r : Nat} (h : Loads s (va + BitVec.ofNat 64 (64 * i)) 64 w s1)
    (hrest : loadLines va n (i + 1) s1 = .ok (r, s2)) : loadLines va (n + 1) i s = .ok (w + r * 2 ^ 512, s2) := by
  rw [loadLines, bind_ok (loadMem_of_loads h), bind_ok hrest, pure_ok]

theorem storeLines_succ {s1 s2 : State} {n i : Nat} (h : Stores s (va + BitVec.ofNat 64 (64 * i)) 64 (bitsOf v (512 * i) 512) s1)
    (hrest : storeLines va v n (i + 1) s1 = .ok ((), s2)) : storeLines va v (n + 1) i s = .ok ((), s2) := by
  rw [storeLines, bind_ok (storeMem_of_stores h), hrest]

/-- The first line of a long access is at its address. -/
theorem line_zero (va : Word) : va + BitVec.ofNat 64 (64 * 0) = va := BitVec.add_zero va

theorem loadLines_of_loadsLong (h : LoadsLong s va v t) : loadLines va 4 0 s = .ok (v, t) := by
  obtain ⟨v0, v1, v2, v3, s1, s2, s3, h0, h1, h2, h3, hv⟩ := h
  have hval : v = v0 + (v1 + (v2 + (v3 + 0 * 2 ^ 512) * 2 ^ 512) * 2 ^ 512) * 2 ^ 512 := by
    rw [hv, show 1536 = 512 + 512 + 512 from rfl, show 1024 = 512 + 512 from rfl, pow_add, pow_add, pow_add, Nat.zero_mul]
    generalize 2 ^ 512 = p
    ring
  rw [hval]
  exact loadLines_succ (by rwa [line_zero]) (loadLines_succ h1 (loadLines_succ h2 (loadLines_succ h3 rfl)))

theorem storeLines_of_storesLong (h : StoresLong s va v t) : storeLines va v 4 0 s = .ok ((), t) := by
  obtain ⟨s1, s2, s3, h0, h1, h2, h3⟩ := h
  exact storeLines_succ (by rwa [line_zero]) (storeLines_succ h1 (storeLines_succ h2 (storeLines_succ h3 rfl)))

/-- A long load changes the issuing core alone. -/
theorem setCore_of_loadsLong (h : LoadsLong (s.setCore s.cur k1) va v t) : ∃ q, t = s.setCore s.cur q := by
  obtain ⟨v0, v1, v2, v3, s1, s2, s3, h0, h1, h2, h3, -⟩ := h
  obtain ⟨q0, rfl⟩ := setCore_of_loads h0
  obtain ⟨q1, rfl⟩ := setCore_of_loads h1
  obtain ⟨q2, rfl⟩ := setCore_of_loads h2
  exact setCore_of_loads h3

/-- A vector load: one access, or four lines. -/
theorem loadVec_ok (h : if long then LoadsLong (s.setCore s.cur k1) va v t else Loads (s.setCore s.cur k1) va 32 v t) :
    ∃ q, t = s.setCore s.cur q ∧ loadVec long va (s.setCore s.cur k1) = .ok (v, s.setCore s.cur q) := by
  cases long with
  | false =>
    obtain ⟨q, rfl⟩ := setCore_of_loads h
    exact ⟨q, rfl, loadMem_of_loads h⟩
  | true =>
    obtain ⟨q, rfl⟩ := setCore_of_loadsLong h
    exact ⟨q, rfl, loadLines_of_loadsLong h⟩

/-! ### VLDBC: every lane of the register is the element (R123) -/

/-- A number is that of its lanes. -/
theorem eq_ofLanes_of_lanes {w n r x : Nat} (h : Lanes w n r fun _ => x) : r = ofLanes w (List.replicate n x) := by
  obtain ⟨hlt, hlanes⟩ := h
  induction n generalizing r with
  | zero =>
    show r = 0
    simpa using hlt
  | succ n ih =>
    have hx : r % 2 ^ w = x := by
      have h0 := hlanes 0 (Nat.succ_pos n)
      rwa [bitsOf, Nat.mul_zero, Nat.pow_zero, Nat.div_one] at h0
    have hxx : x % 2 ^ w = x := by rw [← hx, Nat.mod_mod]
    have hrest : r / 2 ^ w = ofLanes w (List.replicate n x) := by
      refine ih ?_ fun i hi => ?_
      · rw [Nat.mul_succ, Nat.pow_add] at hlt
        exact Nat.div_lt_of_lt_mul (by rwa [Nat.mul_comm] at hlt)
      · have hi' := hlanes (i + 1) (Nat.succ_lt_succ hi)
        rwa [bitsOf, Nat.mul_succ, Nat.add_comm, Nat.pow_add, ← Nat.div_div_eq_div_mul] at hi'
    rw [List.replicate_succ, ofLanes, hxx, ← hrest, ← hx]
    exact (Nat.mod_add_div' r (2 ^ w)).symm

theorem vBits_div (long : Bool) (z : Size) : vBits long / (8 * sizeBytes z) = vecBytes long / bytesOf z := by
  cases long <;> cases z <;> rfl

theorem runVmem_ok {m : DevM Unit} (h : m s = .ok ((), t)) : runVmem m s = .next t.flushChain.retire :=
  runInstr_ok (by rw [bind_ok h]; rfl)

variable (hmode : OneMode (s.core s.cur) long [d]) (ha : AddrX (s.core s.cur) a b va k1)
include hmode ha

theorem vld_completes (hal : va.toNat % vecBytes long = 0)
    (hl : if long then LoadsLong (s.setCore s.cur k1) va v t else Loads (s.setCore s.cur k1) va 32 v t)
    (hd : VDest (t.core s.cur) long d v k2) : CompletesVec (.vld d a b) s k2 := by
  obtain ⟨q, rfl, hload⟩ := loadVec_ok hl
  rw [State.core_setCore_self] at hd
  refine runVmem_ok ?_
  rw [bind_ok (onCore_ok (vecMode_of_oneMode hmode)), bind_ok (onCore_setCore (vmemAddr_of_addrX ha)), ← vecBytes_eq,
    bind_ok (onCore_setCore (checkAlign_ok hal _)), bind_ok hload, onCore_setCore (setVN_of_vdest hd)]

theorem vst_completes (hd : VSource k1 long d v k2) (hal : va.toNat % vecBytes long = 0)
    (hs : if long then StoresLong (s.setCore s.cur k2) va v t else Stores (s.setCore s.cur k2) va 32 v t) :
    CompletesVecAt (.vst d a b) s t := by
  refine runVmem_ok ?_
  rw [bind_ok (onCore_ok (vecMode_of_oneMode hmode)), bind_ok (onCore_setCore (vmemAddr_of_addrX ha)),
    bind_ok (onCore_setCore (getVN_of_vsource hd)), ← vecBytes_eq, bind_ok (onCore_setCore (checkAlign_ok hal _))]
  cases long with
  | false => exact storeMem_of_stores hs
  | true => exact storeLines_of_storesLong hs

theorem vldbc_completes {r : Nat} (hal : va.toNat % bytesOf z = 0) (hl : Loads (s.setCore s.cur k1) va (bytesOf z) v t)
    (hr : Lanes (8 * bytesOf z) (vecBytes long / bytesOf z) r fun _ => v) (hd : VDest (t.core s.cur) long d r k2) :
    CompletesVec (.vldbc d a b z) s k2 := by
  obtain ⟨q, rfl⟩ := setCore_of_loads hl
  rw [State.core_setCore_self, eq_ofLanes_of_lanes hr, ← vBits_div, ← bytesOf_eq] at hd
  refine runVmem_ok ?_
  rw [bind_ok (onCore_ok (vecMode_of_oneMode hmode)), bind_ok (onCore_setCore (vmemAddr_of_addrX ha)), ← bytesOf_eq,
    bind_ok (onCore_setCore (checkAlign_ok hal _)), bind_ok (loadMem_of_loads hl), onCore_setCore (setVN_of_vdest hd)]

end

/-- Settles O15: a vector access is one access, or four upward, and VLDBC puts its element into every lane. -/
theorem vectorAccess : Obligations.VectorAccess :=
  fun _ _ _ _ _ _ _ hmode ha => ⟨fun _ _ _ => vld_completes hmode ha, fun _ _ _ => vst_completes hmode ha,
    fun _ _ _ _ _ => vldbc_completes hmode ha⟩

end Sys2Proof.Machine

/-! ## The scratchpad and the streams (05, R108 to R112, R157) -/

namespace Sys2Proof.Machine
open Sys2Proof.Safety

/-! ### The checks and the qualifiers of an access -/

section
variable {k k' : Core} {off : Word} {n v : Nat} {write : Bool}

theorem checkSp_ok (h : InScratch k off n write) : checkSp off n k = .ok ((), k) := by
  obtain ⟨hrange, halign, -⟩ := h
  rw [checkSp, if_neg (show ¬ spSize < off.toNat + n from Nat.not_lt.2 hrange), if_neg (not_not_intro halign)]

theorem checkSp_range (h : 262144 < off.toNat + n) : checkSp off n k = .error (.trap causeSpRange off) := if_pos h

theorem checkSp_misaligned (hrange : off.toNat + n ≤ 262144) (h : off.toNat % n ≠ 0) :
    checkSp off n k = .error (.trap causeMisalign off) := by
  rw [checkSp, if_neg (show ¬ spSize < off.toNat + n from Nat.not_lt.2 hrange), if_pos h]

theorem allMarked_iff {f : Bool} {g : Nat} : k.allMarked f g n = true ↔ ∀ j, g ≤ j → j < g + n → k.full j = f := by
  induction n generalizing g with
  | zero => simpa [Core.allMarked] using fun j h1 h2 => absurd h2 (Nat.not_lt.2 h1)
  | succ n ih =>
    rw [Core.allMarked, Bool.and_eq_true, beq_iff_eq, ih]
    constructor
    · rintro ⟨hg, hrest⟩ j h1 h2
      rcases Nat.eq_or_lt_of_le h1 with rfl | h
      · exact hg
      · exact hrest j h (by omega)
    · intro h
      exact ⟨h g (Nat.le_refl g) (by omega), fun j h1 h2 => h j (by omega) (by omega)⟩

theorem allMarked_of_allGranules {f : Bool} (h : AllGranules k off.toNat n f) : (!k.allMarked f (off.toNat / 16) (granules n)) = false := by
  have hall : k.allMarked f (off.toNat / 16) (granules n) = true := allMarked_iff.2 h
  rw [hall]
  rfl

theorem not_allMarked {f : Bool} (h : ¬ AllGranules k off.toNat n f) : (!k.allMarked f (off.toNat / 16) (granules n)) = true := by
  have hall : k.allMarked f (off.toNat / 16) (granules n) = false := Bool.eq_false_iff.2 fun hall => h (allMarked_iff.1 hall)
  rw [hall]
  rfl

theorem stallIf_ok {c : Bool} (h : c = false) (k : Core) : stallIf c k = .ok ((), k) := by
  rw [h]
  rfl

theorem stallIf_stalls {c : Bool} (h : c = true) (k : Core) :
    stallIf c k = .error (.wait fun s => s.modCore s.cur fun k => k.setPending .stalled) := by
  rw [h]
  rfl

theorem spLoad_of_scratchLoads {q : LoadQ} (h : ScratchLoads k off n q v k') : spLoad off n q k = .ok (v, k') := by
  obtain ⟨hin, rfl, hfull, rfl⟩ := h
  rw [spLoad, bind_ok (checkSp_ok hin), bind_ok (waitMat_ok hin.2.2), rd_bind]
  cases q with
  | plain => rfl
  | f =>
    dsimp only
    rw [bind_ok (stallIf_ok (allMarked_of_allGranules (hfull nofun)) k)]
    rfl
  | fe =>
    dsimp only
    rw [bind_ok (stallIf_ok (allMarked_of_allGranules (hfull nofun)) k)]
    rfl

theorem spStore_of_scratchStores {q : StoreQ} (h : ScratchStores k off n v q k') : spStore off n v q k = .ok ((), k') := by
  obtain ⟨hin, hempty, rfl⟩ := h
  rw [spStore, bind_ok (checkSp_ok hin), bind_ok (waitMat_ok hin.2.2), rd_bind]
  cases q with
  | plain => rfl
  | f => rfl
  | ef =>
    dsimp only
    rw [bind_ok (stallIf_ok (allMarked_of_allGranules (hempty rfl)) k)]
    rfl

end

/-! ### Instructions that stop -/

section
variable {s : State} {e : Stop}

/-- What an instruction that stops leaves: a trap, or a wait. -/
def stopOf (e : Stop) (s : State) : Out := runDev (fun _ => .error e) s

theorem runCore_stops {m : CpuM Unit} (h : m (s.core s.cur) = .error e) : runCore m s = stopOf e s := by
  rw [runCore, runInstr, runDev, bind_err (onCore_err h)]
  rfl

theorem runVec_stops {m : CpuM Unit} (h : m (s.core s.cur) = .error e) : runVec m s = stopOf e s := by
  rw [runVec, runInstr, runDev, bind_err (bind_err (onCore_err h))]
  rfl

variable {i : Instr} {k : Core} {off : Word} {n v : Nat}

/-- An instruction that stops as its scratchpad load does. -/
theorem scratchStops_load {q : LoadQ} (h : ∀ e, spLoad off n q k = .error e → exec i s = stopOf e s) :
    ScratchStops i s k off n false
      ∧ (InScratch k off n false → q ≠ .plain → ¬ AllGranules k off.toNat n true → Stalls i s) := by
  refine ⟨⟨fun hr => h _ (bind_err (checkSp_range hr)), fun hr hal => h _ (bind_err (checkSp_misaligned hr hal)), fun hr hal hb => ?_⟩,
    fun hin hq hg => ?_⟩
  · have hsp : checkSp off n k = .ok ((), k) := by rw [checkSp, if_neg (show ¬ spSize < off.toNat + n from Nat.not_lt.2 hr), if_neg (not_not_intro hal)]
    exact h (.wait id) (by rw [spLoad, bind_ok hsp]; exact bind_err (if_pos hb))
  · refine h (.wait fun s => s.modCore s.cur fun k => k.setPending .stalled) ?_
    rw [spLoad, bind_ok (checkSp_ok hin), bind_ok (waitMat_ok hin.2.2), rd_bind]
    cases q with
    | plain => exact absurd rfl hq
    | f => exact bind_err (stallIf_stalls (not_allMarked hg) k)
    | fe => exact bind_err (stallIf_stalls (not_allMarked hg) k)

/-- An instruction that stops as its scratchpad store does. -/
theorem scratchStops_store {q : StoreQ} (h : ∀ e, spStore off n v q k = .error e → exec i s = stopOf e s) :
    ScratchStops i s k off n true
      ∧ (InScratch k off n true → q = .ef → ¬ AllGranules k off.toNat n false → Stalls i s) := by
  refine ⟨⟨fun hr => h _ (bind_err (checkSp_range hr)), fun hr hal => h _ (bind_err (checkSp_misaligned hr hal)), fun hr hal hb => ?_⟩,
    fun hin hq hg => ?_⟩
  · have hsp : checkSp off n k = .ok ((), k) := by rw [checkSp, if_neg (show ¬ spSize < off.toNat + n from Nat.not_lt.2 hr), if_neg (not_not_intro hal)]
    exact h (.wait id) (by rw [spStore, bind_ok hsp]; exact bind_err (if_pos hb))
  · subst hq
    refine h (.wait fun s => s.modCore s.cur fun k => k.setPending .stalled) ?_
    rw [spStore, bind_ok (checkSp_ok hin), bind_ok (waitMat_ok hin.2.2), rd_bind]
    exact bind_err (stallIf_stalls (not_allMarked hg) k)

end

/-! ### SLD, SST, VSLD and VSST -/

section
variable {s : State} {d a b : Reg} {i : BitVec 14} {x w off : Word} {k1 k2 k3 : Core} {n v : Nat} {long : Bool}

section
variable {q : LoadQ}

theorem sld_completes (ha : Source (s.core s.cur) a x k1) (h : ScratchLoads k1 (x + i.signExtend 64) 8 q v k2)
    (hd : Dest k2 d (BitVec.ofNat 64 v) k3) : Completes (.sld d a q i) s k3 :=
  runCore_ok (by rw [bind_ok (getX_of_source ha), bind_ok (spLoad_of_scratchLoads h), setX_of_dest hd])

theorem sld_stops (ha : Source (s.core s.cur) a x k1) (hoff : off = x + i.signExtend 64) (e : Stop) (h : spLoad off 8 q k1 = .error e) :
    exec (.sld d a q i) s = stopOf e s :=
  runCore_stops (by rw [bind_ok (getX_of_source ha), ← hoff]; exact bind_err h)

variable (hmode : OneMode (s.core s.cur) long [d]) (ha : AddrX (s.core s.cur) a b off k1)
include hmode ha

theorem vsld_completes (h : ScratchLoads k1 off (vecBytes long) q v k2) (hd : VDest k2 long d v k3) : CompletesVec (.vsld d a b q) s k3 :=
  runVec_ok (by
    rw [bind_ok (vecMode_of_oneMode hmode), bind_ok (vmemAddr_of_addrX ha), ← vecBytes_eq, bind_ok (spLoad_of_scratchLoads h),
      setVN_of_vdest hd])

theorem vsld_stops (e : Stop) (h : spLoad off (vecBytes long) q k1 = .error e) : exec (.vsld d a b q) s = stopOf e s :=
  runVec_stops (by rw [bind_ok (vecMode_of_oneMode hmode), bind_ok (vmemAddr_of_addrX ha)]; exact bind_err h)

end

section
variable {q : StoreQ}

theorem sst_completes (ha : Source (s.core s.cur) a x k1) (hb : Source k1 b w k2)
    (h : ScratchStores k2 (x + i.signExtend 64) 8 w.toNat q k3) : Completes (.sst a b q i) s k3 :=
  runCore_ok (by rw [bind_ok (getX_of_source ha), bind_ok (getX_of_source hb), spStore_of_scratchStores h])

theorem sst_stops (ha : Source (s.core s.cur) a x k1) (hb : Source k1 b w k2) (hoff : off = x + i.signExtend 64) (e : Stop)
    (h : spStore off 8 w.toNat q k2 = .error e) : exec (.sst a b q i) s = stopOf e s :=
  runCore_stops (by rw [bind_ok (getX_of_source ha), bind_ok (getX_of_source hb), ← hoff, h])

variable (hmode : OneMode (s.core s.cur) long [d]) (ha : AddrX (s.core s.cur) a b off k1) (hd : VSource k1 long d v k2)
include hmode ha hd

theorem vsst_completes (h : ScratchStores k2 off (vecBytes long) v q k3) : CompletesVec (.vsst d a b q) s k3 :=
  runVec_ok (by
    rw [bind_ok (vecMode_of_oneMode hmode), bind_ok (vmemAddr_of_addrX ha), bind_ok (getVN_of_vsource hd), ← vecBytes_eq,
      spStore_of_scratchStores h])

theorem vsst_stops (e : Stop) (h : spStore off (vecBytes long) v q k2 = .error e) : exec (.vsst d a b q) s = stopOf e s :=
  runVec_stops (by
    rw [bind_ok (vecMode_of_oneMode hmode), bind_ok (vmemAddr_of_addrX ha), bind_ok (getVN_of_vsource hd), ← vecBytes_eq, h])

end

end

/-- Settles O16: an access checks its offset, waits for the matrix unit, and then for its granules, before it reads or writes. -/
theorem scratchpadAccess : Obligations.ScratchpadAccess :=
  ⟨fun _ _ _ _ _ _ _ _ _ _ => sld_completes, fun _ _ _ _ _ _ _ _ _ _ => sst_completes,
    fun _ _ _ _ _ _ _ _ _ _ _ => vsld_completes, fun _ _ _ _ _ _ _ _ _ _ _ => vsst_completes,
    fun _ _ _ _ _ _ _ _ ha hoff => scratchStops_load (sld_stops ha hoff),
    fun _ _ _ _ _ _ _ _ _ _ ha hb hoff => scratchStops_store (sst_stops ha hb hoff),
    fun _ _ _ _ _ _ _ _ hmode ha => scratchStops_load (vsld_stops hmode ha),
    fun _ _ _ _ _ _ _ _ _ _ hmode ha hd => scratchStops_store (vsst_stops hmode ha hd)⟩

/-! ### Streams (R112) -/

section
variable {s : State} {a b e : Reg} {base stride cnt : Word} {k : Core}

/-- The checks of a stream stop the instruction. -/
theorem streamOf_base (h : StreamArgs (s.core s.cur) a b e base stride cnt k) (hb : base.toNat % 8 ≠ 0) :
    streamOf a b e (s.core s.cur) = .error (.trap causeMisalign base) := by
  obtain ⟨k1, k2, ha, hs, hc⟩ := h
  rw [streamOf, bind_ok (getX_of_source ha), bind_ok (getX_of_source hs), bind_ok (getX_of_source hc)]
  exact bind_err (trapIf_trap _ _ _ (bne_iff_ne.2 hb))

theorem streamOf_stride (h : StreamArgs (s.core s.cur) a b e base stride cnt k) (hb : base.toNat % 8 = 0) (hst : stride.toNat % 8 ≠ 0) :
    streamOf a b e (s.core s.cur) = .error (.trap causeBadOp stride) := by
  obtain ⟨k1, k2, ha, hs, hc⟩ := h
  rw [streamOf, bind_ok (getX_of_source ha), bind_ok (getX_of_source hs), bind_ok (getX_of_source hc),
    bind_ok (trapIf_ok _ _ _ (bne_eq_false_iff_eq.2 hb))]
  exact bind_err (trapIf_trap _ _ _ (bne_iff_ne.2 hst))

theorem streamOf_count (h : StreamArgs (s.core s.cur) a b e base stride cnt k) (hb : base.toNat % 8 = 0) (hst : stride.toNat % 8 = 0)
    (hn : 2 ^ 32 ≤ cnt.toNat) : streamOf a b e (s.core s.cur) = .error (.trap causeBadOp cnt) := by
  obtain ⟨k1, k2, ha, hs, hc⟩ := h
  rw [streamOf, bind_ok (getX_of_source ha), bind_ok (getX_of_source hs), bind_ok (getX_of_source hc),
    bind_ok (trapIf_ok _ _ _ (bne_eq_false_iff_eq.2 hb)), bind_ok (trapIf_ok _ _ _ (bne_eq_false_iff_eq.2 hst))]
  exact bind_err (trapIf_trap _ _ _ (decide_eq_true hn))

theorem streamOf_ok (h : StreamArgs (s.core s.cur) a b e base stride cnt k) (hb : base.toNat % 8 = 0) (hst : stride.toNat % 8 = 0)
    (hn : cnt.toNat < 2 ^ 32) :
    streamOf a b e (s.core s.cur) = .ok (if cnt = 0 then none else some ⟨base, stride, cnt.toNat⟩, k) := by
  obtain ⟨k1, k2, ha, hs, hc⟩ := h
  rw [streamOf, bind_ok (getX_of_source ha), bind_ok (getX_of_source hs), bind_ok (getX_of_source hc),
    bind_ok (trapIf_ok _ _ _ (bne_eq_false_iff_eq.2 hb)), bind_ok (trapIf_ok _ _ _ (bne_eq_false_iff_eq.2 hst)),
    bind_ok (trapIf_ok _ _ _ (decide_eq_false (Nat.not_le.2 hn))), pure_ok]

/-- Both instructions trap where the checks do. -/
theorem streams_trap {c : Nat} {v : Word} (h : streamOf a b e (s.core s.cur) = .error (.trap c v)) :
    Traps (.qld a b e) s c v ∧ Traps (.qst a b e) s c v :=
  ⟨runCore_trap (bind_err h), runCore_trap (bind_err h)⟩

/-- A count of 0 starts no stream. -/
theorem streams_empty (h : streamOf a b e (s.core s.cur) = .ok (none, k)) : Completes (.qld a b e) s k ∧ Completes (.qst a b e) s k :=
  ⟨runCore_ok (by rw [bind_ok h]; rfl), runCore_ok (by rw [bind_ok h]; rfl)⟩

variable {t : Stream} (h : streamOf a b e (s.core s.cur) = .ok (some t, k))
include h

theorem qld_starts (hidle : k.lstream = none) : Completes (.qld a b e) s { k with lstream := some t } :=
  runCore_ok (by
    rw [bind_ok h]
    dsimp only
    rw [rd_bind, bind_ok (stallIf_ok (by rw [hidle]; rfl) k)]
    rfl)

theorem qst_starts (hidle : k.sstream = none) : Completes (.qst a b e) s { k with sstream := some t } :=
  runCore_ok (by
    rw [bind_ok h]
    dsimp only
    rw [rd_bind, bind_ok (stallIf_ok (by rw [hidle]; rfl) k)]
    rfl)

theorem qld_stalls (hbusy : k.lstream ≠ none) : Stalls (.qld a b e) s := by
  show execQld a b e s = _
  refine runCore_wait (p := fun s => s.modCore s.cur fun k => k.setPending .stalled) ?_
  rw [bind_ok h]
  dsimp only
  rw [rd_bind]
  exact bind_err (stallIf_stalls (Option.isSome_iff_ne_none.2 hbusy) k)

theorem qst_stalls (hbusy : k.sstream ≠ none) : Stalls (.qst a b e) s := by
  show execQst a b e s = _
  refine runCore_wait (p := fun s => s.modCore s.cur fun k => k.setPending .stalled) ?_
  rw [bind_ok h]
  dsimp only
  rw [rd_bind]
  exact bind_err (stallIf_stalls (Option.isSome_iff_ne_none.2 hbusy) k)

end

/-- Settles O17: the checks of a stream come in their order before either instruction looks at its stream. -/
theorem streamsStart : Obligations.StreamsStart := by
  intro s a b e base stride cnt k h
  refine ⟨fun hb => streams_trap (streamOf_base h hb), fun hb hst => streams_trap (streamOf_stride h hb hst),
    fun hb hst hn => streams_trap (streamOf_count h hb hst hn), fun hb hst hn => ?_, fun hb hst hne hn => ?_⟩
  · subst hn
    exact streams_empty (streamOf_ok h hb hst (by decide))
  · have hok := streamOf_ok h hb hst hn
    rw [if_neg hne] at hok
    exact ⟨qld_starts hok, qst_starts hok, qld_stalls hok, qst_stalls hok⟩

end Sys2Proof.Machine

/-! ## CFLUSH and PREF (05, R115; 15, R298) -/

namespace Sys2Proof.Machine
open Sys2Proof.Safety

/-! ### What an event of table 0 that sends nothing does at its home -/

section
variable {s : State} {r : RegionEntry} {ev cell line : Nat}

theorem entryFor_of_cell (hcell : s.cell r.ctx r.sel r.st ev = cell) (hmsg : cMsg cell ≠ 2) : s.entryFor r line ev = cell := by
  rw [State.entryFor, hcell]
  exact if_neg fun h => hmsg h.1

theorem transient_builtin (hsel : r.sel = 0) (st : Nat) : s.transient r.ctx r.sel st = (bitsOf (romCfg 0) st 1 == 1) := by
  rw [State.transient, State.tcfg, if_pos hsel]

theorem cell_builtin (hsel : r.sel = 0) : s.cell r.ctx r.sel r.st ev = romCell 0 r.st ev := by
  rw [State.cell, if_pos hsel]

theorem about_stable (pa : Nat) : r.about false pa = pa := by
  unfold RegionEntry.about
  split <;> rfl

/-- What tells the host that a copy goes changes the regions and what is on its way to the host. -/
theorem tellGone_eq (s : State) (g : Bool) (r : RegionEntry) : ∃ l h, s.tellGone g r = { s with regions := l, toHost := h } := by
  cases g with
  | false => exact ⟨_, s.toHost, rfl⟩
  | true => exact ⟨_, _, rfl⟩

/-- The entry of WB in the exclusive state of table 0. -/
theorem entryFor_writeBack (hsel : r.sel = 0) (hst : r.st = 2) : s.entryFor r line 2 = table0 2 2 :=
  entryFor_of_cell (by rw [cell_builtin hsel, hst]; rfl) (by decide)

theorem protoEvent_writeBack {who : Nat × Nat} {d : Line} {w x : Nat} (hsel : r.sel = 0) (hst : r.st = 2) (hhome : r.home < 4096)
    (hown : r.owner = some who) (hlim : BelowLimit s r.home line w) (hx : x < 2 ^ 63) :
    ∃ l h n, s.protoEvent r (line * 64) 2 (some who) none (some ⟨[(line, d, w, x)], false⟩)
      = { s with mem := putBytes s.mem (line * 64) 64 d.toNat, lines := n, regions := l, toHost := h } := by
  obtain ⟨hw, hr, hlw⟩ := hlim
  have htr : s.transient r.ctx r.sel r.st = false := by rw [transient_builtin hsel, hst]; rfl
  have hgain : s.gain r.home line false = s := if_pos hhome
  have hts : s.tsAt r.home line = s.lineTs r.home line := if_neg fun h => Nat.not_lt.2 h.1 hhome
  have hline : line * 64 / 64 = line := by omega
  have hstamps : (OldCopy.mk [(line, d, w, x)] false).stamps line = (w, x) := by simp [OldCopy.stamps, lookupK]
  have hnew : ¬ (tsLimit ≤ (s.lineTs r.home line).1 ∨ tsLimit ≤ w ∨ tsLimit ≤ (s.lineTs r.home line).2 ∨ tsLimit ≤ x) := by
    rw [show tsLimit = 2 ^ 63 from rfl]
    omega
  have hat : (OldCopy.mk [(line, d, w, x)] false).atLimit = false := by
    simp only [OldCopy.atLimit, List.any_cons, List.any_nil, Bool.or_false, show tsLimit = 2 ^ 63 from rfl]
    exact decide_eq_false (by omega)
  have hguard : ∀ n, guardHolds 1 r (some who) n = true := fun n => by simp [guardHolds, hown]
  unfold State.protoEvent
  simp [hgain, htr, about_stable, entryFor_writeBack hsel hst, hline, hts, hstamps, hat, hguard, tsRule, hnew,
    show bitsOf (table0 2 2) 0 1 = 1 from rfl, show cGuard (table0 2 2) = 1 from rfl, show cTsr (table0 2 2) = 4 from rfl,
    show cMsg (table0 2 2) = 0 from rfl, show cHas (table0 2 2) aREVERT = false from rfl,
    show cHas (table0 2 2) aLOG = false from rfl, show cHas (table0 2 2) aWDATA = true from rfl,
    show cHas (table0 2 2) aBCAST = false from rfl, State.sends, State.wdata, State.storeCopies, State.mergeCopies, State.setTs]
  obtain ⟨l, h, he⟩ := tellGone_eq _ _ _
  exact ⟨l, h, _, he⟩

/-- The entry of DROP in a state of table 0 that is not transient keeps the state. -/
theorem entryFor_drop (hsel : r.sel = 0) (hst : r.st < 3) : s.entryFor r line 3 = cellOf r.st 0 0 0 0 := by
  obtain h | h | h : r.st = 0 ∨ r.st = 1 ∨ r.st = 2 := by omega
  all_goals exact entryFor_of_cell (by rw [cell_builtin hsel, h]; rfl) (by rw [h]; decide)

theorem protoEvent_drop {who : Nat × Nat} (hsel : r.sel = 0) (hst : r.st < 3) (hhome : r.home < 4096) (hlim : BelowLimit s r.home line 0) :
    ∃ l h, s.protoEvent r (line * 64) 3 (some who) none none = { s with regions := l, toHost := h } := by
  obtain ⟨hw, hr, -⟩ := hlim
  have hstable : ∀ n < 3, s.transient r.ctx r.sel n = false := fun n hn => by
    rw [transient_builtin hsel]
    decide +revert
  have hgain : s.gain r.home line false = s := if_pos hhome
  have hts : s.tsAt r.home line = s.lineTs r.home line := if_neg fun h => Nat.not_lt.2 h.1 hhome
  have hline : line * 64 / 64 = line := by omega
  have hnew : ¬ (tsLimit ≤ (s.lineTs r.home line).1 ∨ tsLimit ≤ (s.lineTs r.home line).2) := by
    rw [show tsLimit = 2 ^ 63 from rfl]
    omega
  have hcell : ∀ n < 3, bitsOf (cellOf n 0 0 0 0) 0 1 = 1 ∧ cGuard (cellOf n 0 0 0 0) = 0 ∧ cTsr (cellOf n 0 0 0 0) = 0
      ∧ cMsg (cellOf n 0 0 0 0) = 0 ∧ cHas (cellOf n 0 0 0 0) aREVERT = false ∧ cHas (cellOf n 0 0 0 0) aLOG = false
      ∧ cHas (cellOf n 0 0 0 0) aWDATA = false ∧ cHas (cellOf n 0 0 0 0) aBCAST = false := by decide
  obtain ⟨hpresent, hguard, htsr, hmsg, hrev, hlog, hwd, hbc⟩ := hcell r.st hst
  unfold State.protoEvent
  simp [hgain, hstable r.st hst, about_stable, entryFor_drop hsel hst, hline, hts, hnew, hpresent, hguard, htsr, hmsg, hrev, hlog, hwd, hbc,
    tsRule, guardHolds, State.sends]
  exact tellGone_eq _ _ _

end

/-! ### CFLUSH -/

section
variable {s u v : State} {a b : Reg} {va : Word} {k1 : Core} {t : TlbEntry}

/-- What CFLUSH does with the line that it names. -/
def State.flushed (v : State) (pa : Nat) : Option State := if pa < dramBase then some v else v.giveUp v.cur (pa / 64)

theorem flushMem_ok (htr : Translates s .read va t v) (hack : Acked (v.core v.cur)) (h : v.flushed (t.pa va.toNat) = some u) :
    flushMem va s = .ok ((), u) := by
  rw [flushMem, bind_ok (translate_of_translates htr), bind_ok (waitAcked_ok hack)]
  unfold State.flushed at h
  simp only [h]

theorem flushMem_waits (htr : Translates s .read va t v) (hack : Acked (v.core v.cur)) (h : v.flushed (t.pa va.toNat) = none) :
    flushMem va s = .error (.wait id) := by
  rw [flushMem, bind_ok (translate_of_translates htr), bind_ok (waitAcked_ok hack)]
  unfold State.flushed at h
  simp only [h]

section
variable (ha : AddrX (s.core s.cur) a b va k1) (htr : Translates (s.setCore s.cur k1) .read va t v) (hack : Acked (v.core v.cur))
include ha htr hack

theorem cflush_completes (h : v.flushed (t.pa va.toNat) = some u) : CompletesAt (.cflush a b) s u :=
  runInstr_ok (by rw [bind_ok (onCore_ok (vmemAddr_of_addrX ha)), flushMem_ok htr hack h])

theorem cflush_waits (h : v.flushed (t.pa va.toNat) = none) : Waits (.cflush a b) s :=
  runInstr_wait (p := id) (by rw [bind_ok (onCore_ok (vmemAddr_of_addrX ha)), flushMem_waits htr hack h])

end

/-! ### What giving up a line does (R298, R307, R309) -/

section
variable {c line : Nat} {l : L1Line} {r : RegionEntry}

theorem flushed_none {pa : Nat} (h : pa < dramBase ∨ lookupK (v.core v.cur).l1 (pa / 64) = none) : v.flushed pa = some v := by
  unfold State.flushed State.giveUp
  split
  · rfl
  · rw [h.resolve_left ‹_›]

theorem giveUp_owned (hl : lookupK (v.core c).l1 line = some l) (hr : v.reaches l.home c = true) (hx : l.excl = true)
    (ho : v.owned c line = some r) : v.giveUp c line = v.giveBack c line r := by
  simp only [State.giveUp, hl, hr, hx, ho, if_true]

theorem giveUp_leased (hl : lookupK (v.core c).l1 line = some l) (hr : v.reaches l.home c = true) (hx : l.excl = false) :
    v.giveUp c line = some ((v.forget c line).regionEvent l.home (line * 64) 3 (some (agentOf v l.home c, c)) none) := by
  simp only [State.giveUp, hl, hr, hx, if_true, Bool.false_eq_true, if_false]

theorem giveUp_unreached (hl : lookupK (v.core c).l1 line = some l) (hr : v.reaches l.home c = false) :
    v.giveUp c line = if v.silenced l.home c then some (v.forget c line) else none := by
  simp only [State.giveUp, hl, hr, Bool.false_eq_true, if_false]

theorem giveBack_eq (hr : v.reaches r.home c = true) (hreqs : ∀ q ∈ v.reqs, q.isRack = false) (hreps : ∀ m ∈ v.reps, m.code ≠ 2) :
    v.giveBack c line r = if v.takes r (line * 64) 2 (agentOf v r.home c, c) then
      some ((v.setCore c ((v.core c).dropIn r)).protoEvent r (line * 64) 2 (some (agentOf v r.home c, c)) none
        (some ⟨(v.core c).copiesOf r, false⟩)) else none := by
  have h1 : (v.reqs.any fun e => e.isRack && e.core == c && e.home == r.home) = false :=
    List.any_eq_false.2 fun q hq => by simp [hreqs q hq]
  have h2 : (v.reps.any fun m => m.code == 2 && m.core == c && r.covers m.home m.pa) = false :=
    List.any_eq_false.2 fun m hm => by simp [hreps m hm]
  simp only [State.giveBack, hr, h1, h2, Bool.not_false, Bool.true_and, Bool.and_true]
  rfl

/-- Table 0 takes the owner's WB of a region in its exclusive state. -/
theorem takes_writeBack {who : Nat × Nat} (hsel : r.sel = 0) (hst : r.st = 2) (hown : r.owner = some who) :
    v.takes r (line * 64) 2 who = true := by
  have htr : v.transient r.ctx r.sel r.st = false := by rw [transient_builtin hsel, hst]; rfl
  simp [State.takes, htr, entryFor_writeBack hsel hst, show bitsOf (table0 2 2) 0 1 = 1 from rfl, show cGuard (table0 2 2) = 1 from rfl,
    guardHolds, hown]

theorem flushed_cached {pa : Nat} (h : dramBase ≤ pa) : v.flushed pa = v.giveUp v.cur (pa / 64) := if_neg (Nat.not_lt.2 h)

theorem owner_of_owned (h : v.owned c line = some r) : r.owner = some (agentOf v r.home c, c) := by
  have hp := List.find?_some h
  rw [Bool.and_eq_true, beq_iff_eq] at hp
  exact hp.1

/-- WB of a region with one exclusive copy in the exclusive state of table 0 (R302). -/
theorem giveBack_builtin (hr : v.reaches r.home c = true) (hreqs : ∀ q ∈ v.reqs, q.isRack = false) (hreps : ∀ m ∈ v.reps, m.code ≠ 2)
    (ho : v.owned c line = some r) (hsel : r.sel = 0) (hst : r.st = 2) (hhome : r.home < 4096)
    (hcopy : (v.core c).copiesOf r = [(line, l.data, l.wts, l.rts)]) (hlim : BelowLimit v r.home line l.wts) (hx : l.rts < 2 ^ 63) :
    ∃ f h n, v.giveBack c line r = some { v.setCore c ((v.core c).dropIn r) with
      mem := putBytes v.mem (line * 64) 64 l.data.toNat, lines := n, regions := f, toHost := h } := by
  have hown := owner_of_owned ho
  obtain ⟨f, h, n, he⟩ := protoEvent_writeBack (s := v.setCore c ((v.core c).dropIn r)) (d := l.data) hsel hst hhome hown hlim hx
  exact ⟨f, h, n, by rw [giveBack_eq hr hreqs hreps, takes_writeBack hsel hst hown, if_pos rfl, hcopy, he]; rfl⟩

/-- DROP of a leased copy in a region of table 0 that is not transient (R302). -/
theorem regionEvent_drop {who : Nat × Nat} {home : Nat} (hhome : home < 4096) (hlim : BelowLimit v home line 0)
    (hreg : ∀ r, v.region? home (line * 64) = some r → r.sel = 0 ∧ r.st < 3) :
    ∃ f h, v.regionEvent home (line * 64) 3 (some who) none = { v with regions := f, toHost := h } := by
  unfold State.regionEvent
  split
  next r hr =>
    have hp := List.find?_some hr
    simp only [Bool.and_eq_true, beq_iff_eq] at hp
    obtain ⟨⟨rfl, -⟩, -⟩ := hp
    exact protoEvent_drop (hreg r hr).1 (hreg r hr).2 hhome hlim
  next => exact ⟨_, _, rfl⟩

end

end

/-! ### PREF -/

section
variable {s v : State} {a b : Reg} {va : Word} {k1 k : Core} {c n : Nat}

theorem pref_completes (ha : AddrX (s.core s.cur) a b va k1) : CompletesAt (.pref a b) s ((s.setCore s.cur k1).prefetch va.toNat) :=
  runInstr_ok (by rw [bind_ok (onCore_ok (vmemAddr_of_addrX ha))]; rfl)

/-- PREF changes the core's TLB and may ask for a line. -/
theorem prefetch_eq (s : State) (k : Core) (n : Nat) : ∃ t, (s.setCore s.cur k).prefetch n = s.setCore s.cur { k with tlb := t }
    ∨ ∃ q p, q.kind = .rd p ∧ q.core = s.cur ∧ (s.setCore s.cur k).prefetch n = (s.setCore s.cur { k with tlb := t }).request q := by
  unfold State.prefetch
  split
  · exact ⟨k.tlb, .inl rfl⟩
  rw [State.setCore_cur]
  split
  · exact ⟨k.tlb, .inl rfl⟩
  next e u he =>
    obtain ⟨t, rfl⟩ := tlbHit_setCore he
    dsimp only
    split
    · exact ⟨k.tlb, .inl rfl⟩
    split
    · exact ⟨t, .inl rfl⟩
    · exact ⟨t, .inr ⟨_, false, rfl, rfl, rfl⟩⟩

end

/-- The core of `u` is `k` but for its TLB, where it is `k` with a TLB. -/
theorem core_self_tlb {u : State} {c : Nat} {k : Core} {t : List TlbEntry} (h : u.core c = { k with tlb := t }) :
    u.core c = { k with tlb := (u.core c).tlb } := by
  rw [h]

/-- Settles O18: CFLUSH gives its line up at the state its translation leaves; table 0 takes the event without an answer. -/
theorem cacheHints : Obligations.CacheHints := by
  refine ⟨fun s a b va k1 t v c line ha htr hack hc hline => ?_, fun s a b va k1 ha => ?_⟩
  · subst hc hline
    have hcur := cur_of_translates htr
    rw [State.setCore_cur] at hcur
    obtain ⟨tlb, hv⟩ := setCore_of_translates htr
    have hmem : v.mem = s.mem := by rw [hv]; rfl
    have hothers : OtherCoresSame s.cur s v := fun d hd => by rw [hv, State.core_setCore_ne _ _ hd]
    rw [← hcur] at hack hothers ⊢
    refine ⟨fun h => cflush_completes ha htr hack (flushed_none h), fun l hpa hl => ⟨fun hr hx r who ho hhome hwho hreqs hreps => ?_,
      fun hr hx hhome hlim hreg => ?_, fun hr hsil => cflush_completes ha htr hack ?_, fun hr hsil => cflush_waits ha htr hack ?_⟩⟩
    · subst hwho
      have hup := (flushed_cached hpa).trans (giveUp_owned hl hr hx ho)
      rw [← hhome] at hr
      refine ⟨fun ht => cflush_completes ha htr hack ?_, fun ht => cflush_waits ha htr hack ?_,
        fun hsel hst hlow hcopy hlim hrts => ?_⟩
      · rw [hup, giveBack_eq hr hreqs hreps, if_pos ht]
      · rw [hup, giveBack_eq hr hreqs hreps, if_neg (Bool.eq_false_iff.1 ht)]
      · rw [← hhome] at hlim
        obtain ⟨f, h, n, he⟩ := giveBack_builtin hr hreqs hreps ho hsel hst hlow hcopy hlim hrts
        refine ⟨_, cflush_completes ha htr hack (hup.trans he), by rw [← hmem], State.core_setCore_self .., fun d hd => ?_⟩
        exact (State.core_setCore_ne v _ hd).trans (hothers d hd)
    · have hup := (flushed_cached hpa).trans (giveUp_leased hl hr hx)
      obtain ⟨f, h, he⟩ := regionEvent_drop (v := v.forget v.cur (t.pa va.toNat / 64)) (who := (agentOf v l.home v.cur, v.cur)) hhome hlim hreg
      rw [he] at hup
      refine ⟨_, cflush_completes ha htr hack hup, hmem, fun d hd => ?_, State.core_setCore_self ..⟩
      exact (State.core_setCore_ne v _ hd).trans (hothers d hd)
    · rw [flushed_cached hpa, giveUp_unreached hl hr, if_pos hsil]
      rfl
    · rw [flushed_cached hpa, giveUp_unreached hl hr, if_neg (Bool.eq_false_iff.1 hsil)]
  · refine ⟨_, pref_completes ha, ?_⟩
    obtain ⟨t, he | ⟨q, p, hk, hq, he⟩⟩ := prefetch_eq s k1 va.toNat
    all_goals rw [he]
    · exact ⟨core_self_tlb (State.core_setCore_self ..), fun d hd => State.core_setCore_ne s _ hd, rfl, rfl, .inl rfl⟩
    · exact ⟨core_self_tlb (State.core_setCore_self ..), fun d hd => State.core_setCore_ne s _ hd, rfl, rfl, .inr ⟨q, p, rfl, hk, hq⟩⟩

end Sys2Proof.Machine

/-! ## Events of a core, of the walkers and of the barrier units (05, 12, 14) -/

namespace Sys2Proof.Machine
open Sys2Proof.Safety

/-! ### Followers and holds (R96, R100) -/

section
variable {s : State} {c l t n j : Nat} {k : Core} {a : Word}

theorem held_of_holds (h : Holds k a n j t) : k.held = some (n, t) := by
  obtain ⟨hhint, b, hp⟩ := h
  rw [Core.held, hhint, hp]

theorem passHold_of_holds (h : Holds k a n j t) : k.passHold = { k with pend := .none, s0 := { k.s0 with hint := some ⟨a, .met, j⟩ } } := by
  rw [Core.passHold, h.1]
  rfl

variable (hc : c < 1152)
include hc

theorem followJoin_happens {old : Option Nat} (hw : (s.core c).follow = .waiting l t old) (hk : (s.core c).runsUser = true)
    (hl : (s.core l).runsUser = true) (hh : (s.core l).s0.inHint = false) (hpc : (s.core l).s0.pc = (s.core c).s0.pc)
    (ht : s.cycle < t + 1024) : Happens (.followJoin c) s (s.setCore c { s.core c with follow := .joined l (s.core l).issued }) := by
  show execFollowJoin c s = _
  rw [execFollowJoin, runEvent]
  simp only [hw]
  exact congrArg _ (if_pos ⟨hc, hk, hl, hh, hpc, ht⟩)

theorem followTimeout_happens {old : Option Nat} (hw : (s.core c).follow = .waiting l t old) (ht : t + 1024 ≤ s.cycle) :
    Happens (.followTimeout c) s (s.setCore c { s.core c with follow := Follow.lapsed old }) := by
  show execFollowTimeout c s = _
  rw [execFollowTimeout, runEvent]
  simp only [hw]
  exact congrArg _ (if_pos ⟨hc, ht⟩)

theorem realignJoin_happens {a' : Word} {n' j' t' : Nat} (hf : (s.core c).follow.left = some l) (hk : Holds (s.core c) a n j t)
    (hl : Holds (s.core l) a' n' j' t') (hpc : (s.core l).s0.pc = (s.core c).s0.pc) :
    Happens (.realignJoin c) s (s.setCore c { s.core c with
      pend := .none, s0 := { (s.core c).s0 with hint := some ⟨a, .met, j⟩ }, follow := .joined l (s.core l).issued }) := by
  show execRealignJoin c s = _
  rw [execRealignJoin, runEvent]
  simp only [hf, held_of_holds hk, passHold_of_holds hk]
  exact congrArg _ (if_pos ⟨hc, by rw [held_of_holds hl]; rfl, hpc⟩)

theorem realignTimeout_happens (hk : Holds (s.core c) a n j t) (ht : t + 2 ^ n ≤ s.cycle) :
    Happens (.realignTimeout c) s (s.setCore c { s.core c with pend := .none, s0 := { (s.core c).s0 with hint := some ⟨a, .met, j⟩ } }) := by
  show execRealignTimeout c s = _
  rw [execRealignTimeout, runEvent]
  simp only [held_of_holds hk, passHold_of_holds hk]
  exact congrArg _ (if_pos ⟨hc, ht⟩)

end

/-! ### The end of WFE (R122) -/

section
variable {s : State} {c t : Nat}

/-- Counting an issue changes the count and the core's relation with its leader. -/
theorem countIssue_rest (s : State) (k : Core) : ∃ n f, s.countIssue k = { k with issued := n, follow := f } := by
  unfold State.countIssue
  split
  · exact ⟨k.issued, k.follow, rfl⟩
  · exact ⟨_, _, rfl⟩

theorem endWfe_eq (s : State) (c : Nat) : ∃ u : State, s.endWfe c = s.setCore c (u.countIssue (Core.advance { s.core c with latch := false })) :=
  ⟨({ s with cur := c } : State).setCore c { s.core c with latch := false }, by
    have h := Frames.retire_setCore { s with cur := c } { s.core c with latch := false }
    exact congrArg (fun t : State => { t with cur := s.cur }) h⟩

/-- A core of slot 0 ends its WFE: it goes on after it, and nothing else of the package changes. -/
theorem endWfe_spec (h3 : (s.core c).slot3 = .idle) : ((s.endWfe c).core c).latch = false
    ∧ ((s.endWfe c).core c).s0 = (s.core c).s0.advance ∧ ((s.endWfe c).core c).pend = .none ∧ (s.endWfe c).mem = s.mem
    ∧ (s.endWfe c).cur = s.cur ∧ OtherCoresSame c s (s.endWfe c) := by
  obtain ⟨u, he⟩ := endWfe_eq s c
  obtain ⟨n, f, hk⟩ := countIssue_rest u (Core.advance { s.core c with latch := false })
  rw [he, hk, State.core_setCore_self]
  refine ⟨?_, ?_, ?_, rfl, rfl, fun d hd => State.core_setCore_ne s _ hd⟩
  all_goals simp [Core.advance, Core.setHart, Core.setPending, Core.hart, Core.onSys, h3]

variable (hc : c < 1152) (h3 : (s.core c).slot3 = .idle) (hp : (s.core c).pend = .idle t)
include hc h3 hp

theorem wfeWake_happens (hl : (s.core c).latch = true) : Happens (.wfeWake c) s (s.endWfe c) := by
  show execWfeWake c s = _
  rw [execWfeWake, runEvent]
  exact congrArg _ (if_pos ⟨hc, by simp [Core.inWfe, Core.onSys, h3, hp], hl⟩)

theorem wfeTimeout_happens (ht : t + 4096 ≤ s.cycle) : Happens (.wfeTimeout c) s (s.endWfe c) := by
  have hin : (s.core c).inWfe = some t := by simp [Core.inWfe, Core.onSys, h3, hp]
  show execWfeTimeout c s = _
  rw [execWfeTimeout, runEvent]
  simp only [hin]
  exact congrArg _ (if_pos ⟨hc, ht⟩)

end

/-! ### Streams and the matrix unit (R112, R113, R155) -/

section
variable {s : State} {c : Nat} {t : Stream}

/-- A queue of values has no fault at its end. -/
theorem qiFaulted_none {l : List QEntry} (h : ∀ e ∈ l, ∃ w, e = QEntry.data w) : qiFaulted l = none := by
  unfold qiFaulted
  split
  · obtain ⟨w, hw⟩ := h _ (List.mem_of_getLast? ‹_›)
    cases hw
  · rfl

/-- The package after core `c` has had an answer to the read of its load stream's next element. -/
def State.fetched (s : State) (c : Nat) (t : Stream) : Except Nat (Nat × Nat × State) → State
  | .ok (v, tau, s1) => s1.modCore c fun q =>
      ({ q with qi := q.qi ++ [QEntry.data (BitVec.ofNat 64 v)], lstream := t.next }.raisePts tau).event
  | .error x => s.modCore c fun q => { q with qi := q.qi ++ [QEntry.fault x t.base false] }.event

/-- The package after core `c` has had an answer to the write of its store stream's oldest entry. -/
def State.wroteEntry (s : State) (c : Nat) (t : Stream) (rest : List Word) : Except Nat (Nat × State) → State
  | .ok (tau, s1) => (s1.modCore c fun q => q.wrote rest t tau).raiseLaunches (s.core c).sv.ctxid.toNat tau
  | .error x => s.modCore c fun q => { q with sfault := some (x, t.base), staken := false }

variable (hc : c < 1152)
include hc

section
variable (ht : (s.core c).lstream = some t) (hsave : (s.core c).inSave = false) (hroom : (s.core c).qi.length < 16)
  (hq : ∀ e ∈ (s.core c).qi, ∃ w, e = QEntry.data w)
include ht hsave hroom hq

/-- A load stream that no save and no fault stops reads its next element. -/
theorem loadStreamFetch_eq : exec (.loadStreamFetch c) s = .next (s.fetched c t (s.streamRead c t.base)) := by
  show execLoadStreamFetch c s = _
  rw [execLoadStreamFetch, runEvent]
  simp only [ht, qiFaulted_none hq, hsave, decide_eq_false (not_coreCount_le hc), decide_eq_false (Nat.not_le.2 hroom), qiPut]
  cases s.streamRead c t.base <;> rfl

theorem loadStreamFetch_value {v tau : Nat} {s1 : State}
    (hr : s.vread ((s.core c).tenv (dieOf c)) true .none t.base.toNat 8 (s.core c).pts = .ok (v, tau, s1)) :
    Happens (.loadStreamFetch c) s (s1.setCore c (({ s1.core c with
      qi := (s1.core c).qi ++ [QEntry.data (BitVec.ofNat 64 v)], lstream := streamAfter t }.raisePts tau).event)) := by
  rw [Happens, loadStreamFetch_eq hc ht hsave hroom hq, State.streamRead, hr]
  rfl

theorem loadStreamFetch_fault {x : Nat}
    (hr : s.vread ((s.core c).tenv (dieOf c)) true .none t.base.toNat 8 (s.core c).pts = .error x) :
    Happens (.loadStreamFetch c) s (s.setCore c { s.core c with qi := (s.core c).qi ++ [QEntry.fault x t.base false] }.event) := by
  rw [Happens, loadStreamFetch_eq hc ht hsave hroom hq, State.streamRead, hr]
  rfl

end

section
variable {w : Word} {rest : List Word} (ht : (s.core c).sstream = some t) (hq : (s.core c).qs = w :: rest) (hf : (s.core c).sfault = none)
  (hsave : (s.core c).inSave = false) (htaken : (s.core c).staken = false ∨ (s.core c).slot3 = .idle)
  (hheld : s.streamHeld c t.base.toNat = false)
include ht hq hf hsave htaken hheld

/-- A store stream that nothing stops writes its oldest entry. -/
theorem storeStreamWrite_eq : exec (.storeStreamWrite c) s =
    .next (s.wroteEntry c t rest (s.vwrite ((s.core c).tenv (dieOf c)) true .none t.base.toNat 8 w.toNat (s.core c).sts)) := by
  have hon : ((s.core c).staken && (s.core c).onSys) = false := by
    rcases htaken with h | h
    · rw [h, Bool.false_and]
    · rw [Core.onSys, h, Bool.and_eq_false_iff]
      exact .inr rfl
  show execStoreStreamWrite c s = _
  rw [execStoreStreamWrite, runEvent]
  simp only [ht, hq, decide_eq_false (not_coreCount_le hc), hf, hon, hsave, hheld]
  cases s.vwrite ((s.core c).tenv (dieOf c)) true .none t.base.toNat 8 w.toNat (s.core c).sts <;> rfl

theorem storeStreamWrite_value {tau : Nat} {s1 : State}
    (hw : s.vwrite ((s.core c).tenv (dieOf c)) true .none t.base.toNat 8 w.toNat (s.core c).sts = .ok (tau, s1)) :
    Happens (.storeStreamWrite c) s ((s1.setCore c { s1.core c with
      qs := rest, sstream := streamAfter t, staken := false, sts := tau, pts := max (s1.core c).pts tau }).raiseLaunches
        (s.core c).sv.ctxid.toNat tau) := by
  rw [Happens, storeStreamWrite_eq hc ht hq hf hsave htaken hheld, hw]
  rfl

theorem storeStreamWrite_fault {x : Nat}
    (hw : s.vwrite ((s.core c).tenv (dieOf c)) true .none t.base.toNat 8 w.toNat (s.core c).sts = .error x) :
    Happens (.storeStreamWrite c) s (s.setCore c { s.core c with sfault := some (x, t.base), staken := false }) := by
  rw [Happens, storeStreamWrite_eq hc ht hq hf hsave htaken hheld, hw]
  rfl

end

theorem matrixRetire_happens {op : MatOp} (h : (s.core c).mat = some op) :
    Happens (.matrixRetire c) s (s.setCore c { matEffect (s.core c) op with mat := none }) := by
  have hret : (s.core c).retireMatrix = { matEffect (s.core c) op with mat := none } := by
    simp only [Core.retireMatrix, h]
  show execMatrixRetire c s = _
  rw [execMatrixRetire, runEvent, ← hret]
  exact congrArg _ (if_pos ⟨hc, by rw [h]; rfl⟩)

end

/-! ### A walk for one request (R286, R287) -/

section
variable {s u : State} {b c : Nat} {r : WalkReq} {e : TEnv}

/-- The oldest walk of a bay, of one request whose core is still in its context. -/
theorem pageWalk_eq (hfind : s.walks.find? (fun q => q.bay == b) = some r) (hsame : (s.walks.filter fun q => r.same q) = [r])
    (hctx : (s.core r.core).sv.ctxid.toNat = r.ctx) :
    exec (.pageWalk b) s = .next (({ s with walks := s.walks.filter fun q => !r.same q } : State).walkOnce b r [r]) := by
  have hone : [r].filter (fun q => (s.core q.core).sv.ctxid.toNat == q.ctx) = [r] := by simp [hctx]
  show execPageWalk b s = _
  rw [execPageWalk, runEvent]
  simp only [hfind, hsame, hone]

variable (he : e = (u.core r.core).tenv (dieOf r.core))
include he

theorem answerWalk_some (f : Leaf) : u.answerWalk (some f) r = u.checkLeaf e r.user r.acc .none r.va f := by
  rw [State.answerWalk, he]

theorem walkOnce_noLeaf (hw : u.walkFrom b e r.va = none) :
    u.walkOnce b r [r] = (u.readEntries e.die e.ctx 0 (u.readsFrom b e r.va)).2.modCore r.core fun k => k.walkFailed r causeNotPresent := by
  subst he
  simp only [State.walkOnce, hw, State.giveWalk, State.answerWalk]

variable {f : Leaf} (hw : u.walkFrom b e r.va = some f)
include hw

theorem walkOnce_leaf : u.walkOnce b r [r] = u.giveWalk (some f) (touchedBy u f [r])
    (((u.keepPtrs b e.ctx r.va f.ptrs).readEntries e.die e.ctx 0
      (f.reads ++ if u.readsHome f r then [homeEntryAt e.hometab f.word] else [])).2.touchLeaf e f (touchedBy u f [r])
        ((u.keepPtrs b e.ctx r.va f.ptrs).readEntries e.die e.ctx 0
          (f.reads ++ if u.readsHome f r then [homeEntryAt e.hometab f.word] else [])).1).1
    (((u.keepPtrs b e.ctx r.va f.ptrs).readEntries e.die e.ctx 0
      (f.reads ++ if u.readsHome f r then [homeEntryAt e.hometab f.word] else [])).2.touchLeaf e f (touchedBy u f [r])
        ((u.keepPtrs b e.ctx r.va f.ptrs).readEntries e.die e.ctx 0
          (f.reads ++ if u.readsHome f r then [homeEntryAt e.hometab f.word] else [])).1).2 [r] := by
  subst he
  simp only [State.walkOnce, hw, List.any_cons, List.any_nil, Bool.or_false]

theorem walkOnce_refused {x : Nat} {q : Nat × State} (hx : u.checkLeaf e r.user r.acc .none r.va f = .error x)
    (hq : q = (u.keepPtrs b e.ctx r.va f.ptrs).readEntries e.die e.ctx 0
      (f.reads ++ if u.readsHome f r then [homeEntryAt e.hometab f.word] else [])) :
    u.walkOnce b r [r] = q.2.modCore r.core fun k => k.walkFailed r x := by
  have hans := (answerWalk_some he f).trans hx
  have hw0 : touchedBy u f [r] = f.word := by simp only [touchedBy, hans]
  rw [walkOnce_leaf he hw, ← hq, hw0, State.touchLeaf, if_pos rfl]
  simp only [State.giveWalk, hans]

theorem walkOnce_found {t : TlbEntry} {w : Word} {q z : Nat × State} (hx : u.checkLeaf e r.user r.acc .none r.va f = .ok t)
    (hword : w = leafTouched r.acc f.word)
    (hq : q = (u.keepPtrs b e.ctx r.va f.ptrs).readEntries e.die e.ctx 0
      (f.reads ++ if u.readsHome f r then [homeEntryAt e.hometab f.word] else []))
    (hz : z = q.2.touchLeaf e f w q.1) :
    u.walkOnce b r [r] = (z.2.modCore r.core fun k => (k.takeEntry { t with leaf := w }).raisePts z.1).clusterTake r.core { t with leaf := w } := by
  have hans := (answerWalk_some he f).trans hx
  have hw0 : touchedBy u f [r] = w := by simp only [touchedBy, hans, hword]
  rw [walkOnce_leaf he hw, ← hq, hw0, ← hz]
  simp only [State.giveWalk, hans]

end

/-! ### Barrier messages (R258 to R262) -/

section
variable {s u : State} {n home obj x p ts : Nat} {m : BarMsg} {r : List BarMsg} {va : Word} {w : Waiter}

/-- A barrier message that no earlier one stands before on its way leaves the list. -/
theorem takeBar_inFlight (h : InFlight s.bars n m r) (hw : ∀ b ∈ s.bars.take n, sameWay (b.way s) (m.way s) = false) :
    s.takeBar n = some (m, { s with bars := r }) := by
  unfold InFlight at h
  simp only [State.takeBar, h, firstOf_iff.2 hw, if_true]

theorem barPath_of_bridgeUp (h : s.bridgeUp = true) : s.barPath home w = true := by
  rw [State.barPath, h, Bool.true_or]

variable (hup : s.bridgeUp = true)

section
include hup

theorem barrierArrival_counted {c : Nat} {b : Bool} {e : ArriveEnd} (h : InFlight s.bars n (.arrival home obj va c x p) r)
    (hw : ∀ b ∈ s.bars.take n, sameWay (b.way s) (wayOf (dieOf c) (homeDie s home)) = false)
    (he : ({ s with bars := r } : State).arriveAt home obj va.toNat x p = e) (hr : e.reply = some b) :
    Happens (.barrierArrival n) s (e.state.tellCore c e.ts (.got (truth b))) := by
  show execBarrierArrival n s = _
  rw [execBarrierArrival, runEvent, takeBar_inFlight h hw]
  simp only [barPath_of_bridgeUp hup, he, hr]
  rfl

theorem barrierArrival_refused {c : Nat} {e : ArriveEnd} (h : InFlight s.bars n (.arrival home obj va c x p) r)
    (hw : ∀ b ∈ s.bars.take n, sameWay (b.way s) (wayOf (dieOf c) (homeDie s home)) = false)
    (he : ({ s with bars := r } : State).arriveAt home obj va.toNat x p = e) (hr : e.reply = none) :
    Happens (.barrierArrival n) s (e.state.tellCore c e.ts (.bad causeBadOp va)) := by
  show execBarrierArrival n s = _
  rw [execBarrierArrival, runEvent, takeBar_inFlight h hw]
  simp only [barPath_of_bridgeUp hup, he, hr]
  rfl

theorem childArrival_happens {cix : Nat} {e : ArriveEnd} (h : InFlight s.bars n (.child home obj va w cix x p) r)
    (hw : ∀ b ∈ s.bars.take n, sameWay (b.way s) (wayOf (w.die s) (homeDie s home)) = false)
    (he : ({ s with bars := r } : State).arriveAt home obj va.toNat x p = e) :
    Happens (.childArrival n) s { e.state with bars := e.state.bars ++ [.wait home obj e.seen w x] } := by
  show execChildArrival n s = _
  rw [execChildArrival, runEvent, takeBar_inFlight h hw]
  simp only [barPath_of_bridgeUp hup, he]
  rfl

theorem barrierWait_happens {seen : Bool} (h : InFlight s.bars n (.wait home obj seen w x) r)
    (hw : ∀ b ∈ s.bars.take n, sameWay (b.way s) (wayOf (w.die s) (homeDie s home)) = false) :
    Happens (.barrierWait n) s (({ s with bars := r } : State).waitAt home obj seen w x) := by
  show execBarrierWait n s = _
  rw [execBarrierWait, runEvent, takeBar_inFlight h hw]
  simp only [barPath_of_bridgeUp hup, if_true]

end

theorem barrierWaitRetry_happens {seen : Bool} {t : Nat} (h : InFlight s.bars n (.retry home obj seen w x t) r) (ht : t + 64 ≤ s.cycle) :
    Happens (.barrierWaitRetry n) s { s with bars := r ++ [.wait home obj seen w x] } := by
  have hw : ∀ b ∈ s.bars.take n, sameWay (b.way s) none = false := fun b _ => by cases b.way s <;> rfl
  show execBarrierWaitRetry n s = _
  rw [execBarrierWaitRetry, runEvent, takeBar_inFlight h hw]
  exact congrArg _ (if_neg (Nat.not_lt.2 ht))

/-! ### Arrivals and waits at an object -/

section
variable {v : State} {o : BarObj} (hread : u.homeRead home obj p none (some x) = (ts, v)) (ho : o = v.barObj obj) {a : Nat}
include hread ho

theorem arriveAt_dead (hl : o.live = false) : u.arriveAt home obj a x p = ⟨none, false, ts, v⟩ := by
  subst ho
  simp only [State.arriveAt, hread, hl, Bool.not_false, if_true]

variable (hl : o.live = true) (hp : o.pnd = false)
include hl hp

theorem arriveAt_counted (hlt : o.arr + 1 < o.exp) : u.arriveAt home obj a x p =
    ⟨some o.pen, o.pen, (v.putBar home obj ts x { o with arr := o.arr + 1 }).1, (v.putBar home obj ts x { o with arr := o.arr + 1 }).2⟩ := by
  subst ho
  simp only [State.arriveAt, hread, hl, hp, hlt, Bool.not_true, Bool.false_eq_true, if_false, if_true]

theorem arriveAt_last (hle : o.exp ≤ o.arr + 1) (hpar : o.parent = 0) :
    u.arriveAt home obj a x p = ⟨some o.pen, o.pen, ts, v.release home obj ts x { o with arr := 0 }⟩ := by
  subst ho
  simp only [State.arriveAt, hread, hl, hp, Nat.not_lt.2 hle, hpar, Bool.not_true, Bool.false_eq_true, if_false, if_true]

end

section
variable {v : State} {seen : Bool} (hread : u.homeRead home obj 0 none (some x) = (ts, v))
include hread

theorem waitAt_answered {c : Nat} {a y : Bool} (hpen : (v.barObj obj).pen ≠ seen) (hc : (v.core c).pending = .waitOnly a y) :
    u.waitAt home obj seen (.core c) x = v.tellCore c ts .released := by
  simp only [State.waitAt, hread, bne_iff_ne.2 hpen, if_true, State.answerWait, hc]

theorem waitAt_entered (hpen : (v.barObj obj).pen = seen) (hroom : (v.barWaits.filter fun e => e.home == home).length < 64) :
    u.waitAt home obj seen w x = { v with
      barWaits := v.barWaits ++ [{ home := home, obj := obj, seen := seen, waiter := w, ctx := x }] } := by
  simp only [State.waitAt, hread, hpen, bne_self_eq_false, Bool.false_eq_true, if_false]
  exact if_pos hroom

end

end

/-! ### Releases (R201, R261) -/

section
variable {s : State} {n c obj : Nat} {m : NetMsg} {r : List NetMsg}

/-- A message that can travel does not lose its way over a bridge that is cut. -/
theorem not_cut_crosses (hdst : s.physical m.msg.dst = some c) (ht : s.canTravel m c = true) : (s.cut 12 && crosses s m) = false := by
  rw [State.canTravel, Bool.or_eq_true, beq_iff_eq] at ht
  rw [crosses, hdst]
  rcases ht with h | h
  · simp [h]
  · rw [State.bridgeUp, beq_iff_eq] at h
    rw [State.cut, h]
    rfl

variable (h : InFlight s.net n m r) (hchild : m.child = some obj) (hdst : s.physical m.msg.dst = some c) (hord : s.inOrder n m = true)
  (ht : s.canTravel m c = true)
include h hchild hdst hord ht

theorem barrierRelease_happens : Happens (.barrierRelease n) s
    (({ s with net := r } : State).releaseAt m.msg.dst obj m.msg.pay[0].toNat m.msg.ctx m.msg.pts) := by
  unfold InFlight at h
  show execBarrierRelease n s = _
  rw [execBarrierRelease, runEvent, h]
  simp only [hchild, hdst, hord, not_cut_crosses hdst ht, ht, Bool.not_true, Bool.false_eq_true, if_false, if_true]

end

theorem releaseAt_ignored {s : State} {home pa va ctx p : Nat} (h : (s.barObj pa).pending = false) : s.releaseAt home pa va ctx p = s := by
  simp only [State.releaseAt, h, Bool.not_false, if_true]

theorem releaseAt_open {s : State} {home pa va ctx p : Nat} {o : BarObj} (ho : o = s.barObj pa) (h : o.pending = true) (hlt : o.arr < o.exp) :
    s.releaseAt home pa va ctx p = s.release home pa p ctx o := by
  subst ho
  simp only [State.releaseAt, h, hlt, Bool.not_true, Bool.false_eq_true, if_false, if_true]

/-- Settles O43: each event is the effect of its own function on the core, the walks or the object that it finds. -/
theorem coreEvents : Obligations.CoreEvents := by
  rintro s c _ rfl hc
  refine ⟨fun l t old => followJoin_happens hc, fun l t => followTimeout_happens hc, fun l t o => followTimeout_happens hc,
    fun l a n j t a' n' j' t' => realignJoin_happens hc, fun a n j t => realignTimeout_happens hc,
    fun t h3 hp => ⟨fun hl => ⟨_, wfeWake_happens hc h3 hp hl, endWfe_spec h3⟩, fun ht => ⟨_, wfeTimeout_happens hc h3 hp ht, endWfe_spec h3⟩⟩,
    fun t ht hsave hroom hq => ⟨fun v tau s1 => loadStreamFetch_value hc ht hsave hroom hq, fun x => loadStreamFetch_fault hc ht hsave hroom hq⟩,
    fun t w rest ht hq hf hsave htaken hheld => ⟨fun tau s1 => storeStreamWrite_value hc ht hq hf hsave htaken hheld,
      fun x => storeStreamWrite_fault hc ht hq hf hsave htaken hheld⟩,
    fun op => matrixRetire_happens hc, ?_, ?_, ?_, ?_, ?_, fun n home obj seen w x t r => barrierWaitRetry_happens⟩
  · rintro b r u e hfind hsame rfl hctx hu he
    have hstep := pageWalk_eq hfind hsame hctx
    rw [← hu] at hstep
    replace he : e = (u.core r.core).tenv (dieOf r.core) := by rw [he, hu]; rfl
    refine ⟨fun hw q hq => ?_, fun f u1 h hw hu1 hh => ⟨fun x q hx hq => ?_, fun t w q z hx hword hq hz => ?_⟩⟩
    · rw [Happens, hstep, walkOnce_noLeaf he hw, hq]
      rfl
    · subst hu1 hh
      rw [Happens, hstep, walkOnce_refused he hw hx hq]
      rfl
    · subst hu1 hh
      rw [Happens, hstep, walkOnce_found he hw hx hword hq hz]
      rfl
  · rintro n home obj va x p r _ h hup rfl hw ts v o hread ho
    refine ⟨fun hl => barrierArrival_refused hup h hw (arriveAt_dead hread ho hl) rfl, fun hl hp hlt q w hput => ?_, fun hl hp hle hpar =>
      barrierArrival_counted hup h hw (arriveAt_last hread ho hl hp hle hpar) rfl⟩
    have hcount := arriveAt_counted (a := va.toNat) hread ho hl hp hlt
    rw [hput] at hcount
    exact barrierArrival_counted hup h hw hcount rfl
  · exact fun n home obj va w cix x p r h hup hw e => childArrival_happens hup h hw
  · intro n m obj r h hchild hdst hord ht
    have hstep := barrierRelease_happens h hchild hdst hord ht
    refine ⟨fun hp => ?_, fun o ho hp hlt => ?_⟩
    · rwa [releaseAt_ignored hp] at hstep
    · rwa [releaseAt_open ho hp hlt] at hstep
  · intro n home obj seen x r h hup hw ts v hread
    have hstep := barrierWait_happens hup h hw
    refine ⟨fun hpen ⟨a, y, hc⟩ => ?_, fun hpen hroom => ?_⟩
    · rwa [waitAt_answered hread hpen hc] at hstep
    · rwa [waitAt_entered hread hpen hroom] at hstep

end Sys2Proof.Machine

/-! ## A FENCE among cores that stand out of order (05, R120) -/

namespace Sys2Proof.Machine
open Sys2Proof.Safety

/-- FENCE waits while something of its scope is out in the state that has taken the store stream's fault. -/
theorem fence_waits {s : State} {sc : Scope} (hf : (s.core s.cur).sfault = none)
    (hb : (s.setCore s.cur (s.core s.cur)).fenceBusy s.cur sc = true) : exec (.fence sc) s = .next s.fenceWaits := by
  have htake : takeStreamFault (s.core s.cur) = .ok ((), s.core s.cur) := by simp only [takeStreamFault, hf]
  refine runInstr_wait (p := State.fenceWaits) ?_
  rw [bind_ok (onCore_ok htake), rd_bind, State.setCore_cur, hb]
  rfl

/-- A FENCE that waits stands where it stood. -/
theorem fenceWaits_hart (s : State) : (s.fenceWaits.core s.cur).hart = (s.core s.cur).hart := by
  unfold State.fenceWaits
  dsimp only
  split
  · rw [core_modCore, if_pos rfl, Core.startHostWait]
    split <;> rfl
  · rfl

/-- The exclusive copy of the first line of DRAM, where the table of the core's translations begins. -/
def tableLine (data : Line) : List (Nat × L1Line) :=
  [(dramBase / 64, { home := 0, excl := true, data := data, wts := 0, rts := 0, lease := 0 })]

/-- A table whose first entry points to itself, and whose second maps a page of host memory for users to read and write. -/
def tableData : Line := BitVec.ofNat 512 (dramBase + 1 + (hostBase + 0x17) * 2 ^ 64)

/-- A core with one entry of its store stream to write, to a page of its own. -/
def streaming : Core := { Core.reset with
  sv := { Core.reset.sv with ptbase := BitVec.ofNat 64 dramBase, protomask := 1 }, sstream := some ⟨0x40000000, 0, 1⟩, qs := [0], l1 := tableLine 0 }

/-- Core 3 issues; core 5, which owns the table's line with its entries, stands before it; its own copy of the line is empty. -/
def disordered : State := { State.reset with
  cur := 3, cores := [(5, { Core.reset with l1 := tableLine tableData }), (3, streaming)],
  plat := { Platform.reset with hwin := Platform.reset.hwin.set 0 (BitVec.ofNat 64 (hostBase + 1)) } }

theorem disordered_free : disordered.fenceBusy 3 .core = false := by decide +kernel

theorem disordered_busy : (disordered.setCore 3 streaming).fenceBusy 3 .core = true := by decide +kernel

theorem streaming_advanced :
    ((disordered.setCore 3 { streaming with pts := max streaming.pts streaming.sts, sts := max streaming.pts streaming.sts }).retire.core 3).hart.pc
      ≠ streaming.hart.pc := by decide +kernel

/-- Refutes O19: the statement ranges over lists of cores that are not in order. FENCE first puts its core back, and `insertK` puts
core 3 before core 5 in `disordered`: the exclusive copy in which the walk of the store stream's entry reads the table is then that of
core 3, the walk fails, and FENCE waits, though nothing of its scope was out before. -/
theorem not_fencesAndWfe : ¬ Obligations.FencesAndWfe := by
  unfold Obligations.FencesAndWfe
  intro h
  obtain ⟨hfence, -⟩ := h disordered .core streaming rfl
  have hdone := (hfence (.inl rfl)).1 disordered_free
  have hstate := Host.Outcome.next.inj ((fence_waits (s := disordered) rfl disordered_busy).symm.trans hdone)
  have hhart := fenceWaits_hart disordered
  rw [hstate] at hhart
  exact streaming_advanced (congrArg Hart.pc hhart)

end Sys2Proof.Machine

/-! ## What a write to an owned line does to the bytes of memory (15, R292, R293) -/

namespace Sys2Proof.Machine
open Sys2Proof.Safety

/-! ### The bytes of a line -/

theorem testBit_bitsOf (w lo len m : Nat) : (bitsOf w lo len).testBit m = (decide (m < len) && w.testBit (lo + m)) := by
  rw [bitsOf, Nat.testBit_mod_two_pow, Nat.testBit_div_two_pow, Nat.add_comm]

theorem getLsbD_lineByte (l : Line) (j m : Nat) (hm : m < 8) : (lineByte l j).getLsbD m = l.toNat.testBit (8 * j + m) := by
  rw [lineByte, BitVec.getLsbD_ofNat, testBit_bitsOf]
  simp [hm]

/-- A number below 2^512 with one of its 64 bytes replaced, as its upper bytes, the byte and its lower bytes. -/
theorem replaceByte_eq {i x b : Nat} (hx : x < 2 ^ 512) (hb : b < 2 ^ 8) (hi : i < 64) :
    (x - bitsOf x (8 * i) 8 * 2 ^ (8 * i) + b * 2 ^ (8 * i)) % 2 ^ 512
      = 2 ^ (8 * i) * (2 ^ 8 * (x / 2 ^ (8 * i) / 2 ^ 8) + b) + x % 2 ^ (8 * i) := by
  have hpow : (2 : Nat) ^ 512 = 2 ^ (8 * i) * 2 ^ 8 * 2 ^ (504 - 8 * i) := by
    rw [← Nat.pow_add, ← Nat.pow_add]
    congr 1
    omega
  have hp : 0 < 2 ^ (8 * i) := Nat.two_pow_pos _
  rw [hpow] at hx ⊢
  rw [bitsOf]
  generalize 2 ^ (8 * i) = p at *
  generalize 2 ^ (504 - 8 * i) = q at *
  have hlow : x % p < p := Nat.mod_lt x hp
  have hsplit := Nat.div_add_mod x p
  have hbyte := Nat.div_add_mod (x / p) (2 ^ 8)
  have hupper : x / p / 2 ^ 8 + 1 ≤ q := by
    rw [Nat.div_div_eq_div_mul]
    exact Nat.div_lt_of_lt_mul hx
  generalize x / p / 2 ^ 8 = a at *
  generalize x / p % 2 ^ 8 = c at *
  rw [← hbyte] at hsplit
  have hsum : x - c * p + b * p = p * (2 ^ 8 * a + b) + x % p := by
    rw [Nat.mul_comm c p, Nat.mul_comm b p]
    rw [Nat.mul_add] at hsplit ⊢
    omega
  rw [hsum]
  refine Nat.mod_eq_of_lt ?_
  calc p * (2 ^ 8 * a + b) + x % p < p * (2 ^ 8 * a + b) + p := by omega
    _ = p * (2 ^ 8 * a + b + 1) := by rw [Nat.mul_add p _ 1, Nat.mul_one]
    _ ≤ p * (2 ^ 8 * q) := Nat.mul_le_mul_left p (by omega)
    _ = p * 2 ^ 8 * q := (Nat.mul_assoc ..).symm

theorem testBit_lineSet {i : Nat} (l : Line) (b : Byte) (hi : i < 64) (m : Nat) :
    (lineSet l i b).toNat.testBit m = if 8 * i ≤ m ∧ m < 8 * i + 8 then b.toNat.testBit (m - 8 * i) else l.toNat.testBit m := by
  rw [lineSet, BitVec.toNat_ofNat, replaceByte_eq l.isLt b.isLt hi, Nat.testBit_two_pow_mul_add _ (Nat.mod_lt _ (Nat.two_pow_pos _)),
    Nat.testBit_two_pow_mul_add _ b.isLt, Nat.testBit_mod_two_pow, Nat.testBit_div_two_pow, Nat.testBit_div_two_pow]
  rcases Nat.lt_or_ge m (8 * i) with h | h
  · simp [h, Nat.not_le.2 h]
  · by_cases h8 : m < 8 * i + 8
    · simp [h, h8, Nat.not_lt.2 h, show m - 8 * i < 8 by omega]
    · simp [h8, Nat.not_lt.2 h, show ¬ m - 8 * i < 8 by omega, show m - 8 * i - 8 + 8 + 8 * i = m by omega]

theorem lineByte_lineSet {i j : Nat} (l : Line) (b : Byte) (hi : i < 64) : lineByte (lineSet l i b) j = if j = i then b else lineByte l j := by
  refine BitVec.eq_of_getLsbD_eq fun m hm => ?_
  rw [getLsbD_lineByte _ _ _ hm, testBit_lineSet l b hi]
  split
  next h =>
    have hji : j = i := by omega
    subst hji
    rw [if_pos rfl, Nat.add_sub_cancel_left, BitVec.testBit_toNat]
  next h =>
    rw [if_neg (by omega), getLsbD_lineByte _ _ _ hm]

/-- A byte of a line with n bytes replaced. -/
theorem lineByte_lineSets (l : Line) {i n : Nat} (v j : Nat) (h : i + n ≤ 64) : lineByte (lineSets l i n v) j =
    if i ≤ j ∧ j < i + n then BitVec.ofNat 8 (bitsOf v (8 * (j - i)) 8) else lineByte l j := by
  induction n with
  | zero => rw [if_neg (by omega), lineSets]
  | succ n ih =>
    rw [lineSets, lineByte_lineSet _ _ (by omega), ih (by omega)]
    by_cases hj : j = i + n
    · subst hj
      rw [if_pos rfl, if_pos (by omega), Nat.add_sub_cancel_left]
    · rw [if_neg hj]
      by_cases hin : i ≤ j ∧ j < i + n
      · rw [if_pos hin, if_pos (by omega)]
      · rw [if_neg hin, if_neg (by omega)]

/-! ### The bytes of an address range -/

theorem bytes_of_byte {s : State} {pa n v : Nat} (h : ∀ m < n, s.byte (pa + m) = BitVec.ofNat 8 (bitsOf v (8 * m) 8)) :
    s.bytes pa n = v % 2 ^ (8 * n) := by
  induction n with
  | zero => simp [State.bytes, Nat.mod_one]
  | succ n ih =>
    rw [State.bytes, ih fun m hm => h m (by omega), h n (by omega), toNat_ofNat_bitsOf, bitsOf, Nat.mul_succ, Nat.pow_add,
      Nat.mod_mul, Nat.mul_comm (2 ^ (8 * n))]

theorem bytes_congr {s t : State} {pa n : Nat} (h : ∀ m < n, t.byte (pa + m) = s.byte (pa + m)) : t.bytes pa n = s.bytes pa n := by
  induction n with
  | zero => rfl
  | succ n ih => rw [State.bytes, State.bytes, ih fun m hm => h m (by omega), h n (by omega)]

/-! ### The exclusive copies of the package (R292) -/

/-- The data of the exclusive copy that an L1 holds of a line. -/
def ownedData (l1 : List (Nat × L1Line)) (line : Nat) : Option Line := (lookupK l1 line).bind fun x => if x.excl then some x.data else none

/-- The data of the package's exclusive copy of a line. -/
def State.ownedData (s : State) (line : Nat) : Option Line := (s.xHolder line).map fun p => p.2.data

theorem xHolderIn_data (l : List (Nat × Core)) (line : Nat) :
    (xHolderIn l line).map (fun p => p.2.data) = l.findSome? fun p => Machine.ownedData p.2.l1 line := by
  induction l with
  | nil => rfl
  | cons p r ih =>
    rw [xHolderIn, List.findSome?_cons, ← ih]
    unfold Machine.ownedData
    cases lookupK p.2.l1 line with
    | none => rfl
    | some x => cases hx : x.excl <;> simp [hx]

/-- A byte is known by the exclusive copy of its line, the answers on their way and home storage. -/
theorem byte_eq (s : State) (a : Nat) : s.byte a =
    (((s.ownedData (a / 64)).or ((s.onWay (a / 64)).map Prod.fst)).map fun d => lineByte d (a % 64)).getD (cellGet s.mem a) := by
  unfold State.byte State.ownedData
  cases s.xHolder (a / 64) with
  | some p => rfl
  | none => cases s.onWay (a / 64) <;> rfl

theorem byte_congr {s t : State} {a : Nat} (hx : t.ownedData (a / 64) = s.ownedData (a / 64)) (hreqs : t.reqs = s.reqs) (hmem : t.mem = s.mem) :
    t.byte a = s.byte a := by
  rw [byte_eq, byte_eq, hx, State.onWay, State.onWay, hreqs, hmem]

theorem byte_owned {s : State} {a : Nat} {d : Line} (h : s.ownedData (a / 64) = some d) : s.byte a = lineByte d (a % 64) := by
  rw [byte_eq, h]
  rfl

/-- The cores stand in order after one has been put. -/
theorem sorted_insertK {α : Type} {l : List (Nat × α)} {c : Nat} {v : α} (h : l.Pairwise fun a b => a.1 < b.1) :
    (insertK l c v).Pairwise fun a b => a.1 < b.1 := by
  induction l with
  | nil => exact List.pairwise_singleton ..
  | cons p r ih =>
    obtain ⟨hp, hr⟩ := List.pairwise_cons.1 h
    rw [insertK]
    split
    next hlt => exact List.pairwise_cons.2 ⟨fun q hq => by
      rcases List.mem_cons.1 hq with rfl | hq
      · exact hlt
      · exact Nat.lt_trans hlt (hp q hq), h⟩
    next hge =>
      split
      next heq => exact List.pairwise_cons.2 ⟨fun q hq => by have := hp q hq; simp_all, hr⟩
      next hne =>
        refine List.pairwise_cons.2 ⟨fun q hq => ?_, ih hr⟩
        rcases mem_insertK hq with rfl | hq
        · simp only; omega
        · exact hp q hq

theorem coresSorted_setCore {s : State} {c : Nat} {k : Core} (h : CoresSorted s) : CoresSorted (s.setCore c k) := sorted_insertK h

/-- Two cores hold the same exclusive copies. -/
def SameCopies (k q : Core) : Prop := ∀ line, Machine.ownedData q.l1 line = Machine.ownedData k.l1 line

theorem sameCopies_of_l1 {k q : Core} (h : q.l1 = k.l1) : SameCopies k q := fun line => by rw [h]

theorem SameCopies.trans {k p q : Core} (h : SameCopies k p) (h' : SameCopies p q) : SameCopies k q := fun line => (h' line).trans (h line)

/-- The first found in a rising list stays when one entry is replaced by another in which the same is found. -/
theorem findSome_insertK {α β : Type} {g : α → Option β} {l : List (Nat × α)} {c : Nat} {v : α} (hs : l.Pairwise fun a b => a.1 < b.1)
    (h : g v = (lookupK l c).bind g) : ((insertK l c v).findSome? fun p => g p.2) = l.findSome? fun p => g p.2 := by
  induction l with
  | nil => simpa [insertK, lookupK] using h
  | cons p r ih =>
    obtain ⟨hp, hr⟩ := List.pairwise_cons.1 hs
    rw [insertK]
    split
    next hlt =>
      have hnone : lookupK (p :: r) c = none := lookupK_eq_none_of_lt fun q hq => by
        rcases List.mem_cons.1 hq with rfl | hq
        · exact hlt
        · exact hlt.trans (hp q hq)
      rw [hnone] at h
      rw [List.findSome?_cons, h]
      rfl
    next =>
      split
      next heq =>
        rw [lookupK, if_pos heq, Option.bind_some] at h
        rw [List.findSome?_cons, List.findSome?_cons, h]
      next hne =>
        rw [lookupK, if_neg hne] at h
        rw [List.findSome?_cons, List.findSome?_cons, ih hr h]

section
variable {s t u : State} {c line : Nat} {k : Core}

theorem ownedData_setCore (hs : CoresSorted s) (hk : Machine.ownedData k.l1 line = Machine.ownedData (s.core c).l1 line) :
    (s.setCore c k).ownedData line = s.ownedData line := by
  refine (xHolderIn_data _ line).trans (Eq.trans ?_ (xHolderIn_data s.cores line).symm)
  refine findSome_insertK (g := fun k : Core => Machine.ownedData k.l1 line) hs (hk.trans ?_)
  show Machine.ownedData ((lookupK s.cores c).getD Core.reset).l1 line = _
  cases lookupK s.cores c <;> rfl

theorem sameBytes_setCore (hs : CoresSorted s) (hk : SameCopies (s.core c) k) : SameBytes s (s.setCore c k) :=
  fun a => byte_congr (ownedData_setCore hs (hk (a / 64))) rfl rfl

theorem SameBytes.trans (h : SameBytes s t) (h' : SameBytes t u) : SameBytes s u := fun a => (h' a).trans (h a)

/-- Going on after an instruction keeps the copies. -/
theorem sameBytes_retire (hs : CoresSorted s) : SameBytes s s.retire := by
  obtain ⟨n, f, hk⟩ := countIssue_rest s (s.core s.cur).advance
  rw [State.retire, hk]
  exact sameBytes_setCore hs (sameCopies_of_l1 (by simp [Core.advance]))

theorem sameBytes_flushChain (hs : CoresSorted s) : SameBytes s s.flushChain := by
  unfold State.flushChain
  dsimp only
  split
  · exact fun _ => rfl
  · exact sameBytes_setCore hs (k := { s.core s.cur with popped := 0, pushed := [] }) (sameCopies_of_l1 rfl)

theorem coresSorted_flushChain (hs : CoresSorted s) : CoresSorted s.flushChain := by
  unfold State.flushChain
  dsimp only
  split
  · exact hs
  · exact coresSorted_setCore hs

theorem xHolderIn_cons (p : Nat × Core) (r : List (Nat × Core)) (line : Nat) : xHolderIn (p :: r) line =
    (((lookupK p.2.l1 line).filter fun x => x.excl).map fun x => (p.1, x)).or (xHolderIn r line) := by
  obtain ⟨j, w⟩ := p
  rw [xHolderIn]
  cases lookupK w.l1 line with
  | none => rfl
  | some x => cases hx : x.excl <;> simp [Option.filter, hx]

/-- The core that holds a line exclusively holds it where its copy is replaced. -/
theorem xHolder_setCore {l x : L1Line} (h : s.xHolder line = some (c, l)) (hk : lookupK k.l1 line = some x) (hx : x.excl = true) :
    (s.setCore c k).xHolder line = some (c, x) := by
  have hput : ∀ r, xHolderIn ((c, k) :: r) line = some (c, x) := fun r => by simp [xHolderIn_cons, hk, hx, Option.filter]
  show xHolderIn (insertK s.cores c k) line = _
  replace h : xHolderIn s.cores line = some (c, l) := h
  generalize s.cores = cs at h
  induction cs with
  | nil => exact hput []
  | cons p r ih =>
    rw [insertK]
    split
    · exact hput _
    split
    · exact hput _
    next hne =>
      rw [xHolderIn_cons] at h ⊢
      rcases Option.or_eq_some_iff.1 h with hp | ⟨hp, hr⟩
      · obtain ⟨y, -, hy⟩ := Option.map_eq_some_iff.1 hp
        exact absurd (Prod.mk.inj hy).1 hne
      · rw [hp, ih hr]
        rfl

/-! ### A write of n bytes (R293) -/

theorem byte_noteWrite (s : State) (pa n a : Nat) : (s.noteWrite pa n).byte a = s.byte a := by
  unfold State.noteWrite
  split <;> rfl

theorem cores_noteWrite (s : State) (pa n : Nat) : (s.noteWrite pa n).cores = s.cores := by
  unfold State.noteWrite
  split <;> rfl

variable {pa n v tau : Nat} {l : L1Line}

theorem coresSorted_wroteLine (hs : CoresSorted u) : CoresSorted (wroteLine u c pa n v tau l) := by
  rw [wroteLine, CoresSorted, cores_noteWrite]
  exact coresSorted_setCore hs

/-- The copies of the other lines stay. -/
theorem ownedData_written (h : line ≠ pa / 64) : Machine.ownedData (written k pa n v tau l).l1 line = Machine.ownedData k.l1 line := by
  rw [written, Machine.ownedData, lookupK_insertK_ne _ _ h, Machine.ownedData]

theorem lookupK_written : lookupK (written k pa n v tau l).l1 (pa / 64)
    = some { l with data := lineSets l.data (pa % 64) n v, wts := tau, rts := tau } := lookupK_insertK_self ..

/-- The line's owner stores n bytes: the bytes read back, and every other byte stays. -/
theorem storedBytes_wroteLine (hs : CoresSorted u) (hx : u.xHolder (pa / 64) = some (c, l)) (hexcl : l.excl = true) (hfit : pa % 64 + n ≤ 64) :
    StoredBytes u (wroteLine u c pa n v tau l) pa n (v % 2 ^ (8 * n)) := by
  have hnew : (u.setCore c (written (u.core c) pa n v tau l)).ownedData (pa / 64) = some (lineSets l.data (pa % 64) n v) := by
    rw [State.ownedData, xHolder_setCore hx lookupK_written hexcl]
    rfl
  have hold : u.ownedData (pa / 64) = some l.data := by rw [State.ownedData, hx]; rfl
  constructor
  · refine bytes_of_byte fun m hm => ?_
    have hline : (pa + m) / 64 = pa / 64 := by omega
    rw [wroteLine, byte_noteWrite, byte_owned (hline ▸ hnew), lineByte_lineSets _ _ _ hfit, if_pos (by omega),
      show (pa + m) % 64 - pa % 64 = m by omega]
  · intro q hq
    rw [wroteLine, byte_noteWrite]
    by_cases hline : q / 64 = pa / 64
    · rw [byte_owned (hline ▸ hnew), byte_owned (hline ▸ hold), lineByte_lineSets _ _ _ hfit, if_neg]
      rcases hq with hq | hq <;> omega
    · exact byte_congr (ownedData_setCore hs (ownedData_written hline)) rfl rfl

end

/-- An aligned access whose size divides a line's lies in one line, whatever page it is translated to. -/
theorem fits_line {va pa n : Nat} (hn : n ∣ 64) (hal : va % n = 0) (hpa : pa % 4096 = va % 4096) : pa % 64 + n ≤ 64 := by
  obtain ⟨m, hm⟩ := hn
  have hoff : pa % 64 = va % 64 := by omega
  obtain ⟨q, hq⟩ : n ∣ va % 64 := (Nat.dvd_mod_iff ⟨m, hm⟩).2 (Nat.dvd_of_mod_eq_zero hal)
  have hlt : n * q < n * m := by omega
  have hle : n * (q + 1) ≤ n * m := Nat.mul_le_mul_left n (Nat.lt_of_mul_lt_mul_left hlt)
  rw [Nat.mul_add] at hle
  omega

end Sys2Proof.Machine

/-! ## What loads, stores and atomics leave of memory (05, R105 to R119; 15, R293) -/

namespace Sys2Proof.Machine
open Sys2Proof.Safety

/-! ### The operands leave the L1 -/

section
variable {k q k' : Core} {r d a b : Reg} {v w x : Word} {i : BitVec 16} {n : Nat} {long : Bool}

theorem source_l1 (h : Source k r v k') : k'.l1 = k.l1 := by rw [source_rest h]

theorem addrI_l1 (h : AddrI k a i v k') : k'.l1 = k.l1 := by rw [addrI_rest h]

theorem addrX_l1 (h : AddrX k a b v k') : k'.l1 = k.l1 := by
  obtain ⟨_, _, k1, ha, hb, -⟩ := h
  exact (source_l1 hb).trans (source_l1 ha)

theorem dest_l1 (h : Dest k r v k') : k'.l1 = k.l1 := by
  rcases h with ⟨-, rfl⟩ | ⟨-, -, -, rfl⟩ | ⟨-, -, -, rfl⟩
  · rfl
  · exact Core.setHart_l1 ..
  · rfl

theorem vsource_l1 (h : VSource k long r n k') : k'.l1 = k.l1 := by
  rcases h with ⟨-, -, rfl⟩ | ⟨-, -, rfl⟩ | ⟨-, -, _, _, -, -, rfl⟩ <;> rfl

theorem vdest_l1 (h : VDest k long r n k') : k'.l1 = k.l1 := by
  rcases h with ⟨-, rfl⟩ | ⟨-, -, rfl⟩ | ⟨-, -, -, -, rfl⟩ <;> rfl

/-- A destination that can be written can be written in a core with the same slots and the same queue. -/
theorem dest_of_same (h : Dest k r v k') (hsys : q.onSys = k.onSys) (hf : q.sfault = k.sfault) (hqs : q.qs = k.qs) :
    ∃ q', Dest q r v q' := by
  rcases h with ⟨hr, -⟩ | ⟨h0, h30, h31, -⟩ | ⟨hr, hfree, hroom, -⟩
  · exact ⟨q, .inl ⟨hr, rfl⟩⟩
  · exact ⟨_, .inr (.inl ⟨h0, h30, h31, rfl⟩)⟩
  · exact ⟨_, .inr (.inr ⟨hr, by rwa [hsys, hf], by rwa [hqs], rfl⟩)⟩

end

/-! ### Loads -/

section
variable {s t : State} {i : Instr} {k k' q : Core} {va : Word} {n v : Nat} {long : Bool}

/-- A translation that the core finds changes its TLB alone. -/
theorem core_of_translates {acc : Acc} {e : TlbEntry} {u : State} (h : Translates s acc va e u) :
    ∃ l, u.core s.cur = { s.core s.cur with tlb := l } := by
  obtain ⟨-, -, hhit, -, -⟩ := h
  unfold State.tlbHit at hhit
  split at hhit
  · obtain ⟨-, rfl⟩ := Prod.mk.inj (Option.some.inj hhit)
    exact ⟨(s.core s.cur).tlb, rfl⟩
  · obtain ⟨t', -, he⟩ := Option.map_eq_some_iff.1 hhit
    obtain ⟨-, rfl⟩ := Prod.mk.inj he
    exact ⟨_, State.core_setCore_self ..⟩

/-- A copy put in the place of one with its data and its right to write. -/
theorem ownedData_insertK {l1 : List (Nat × L1Line)} {line : Nat} {x y : L1Line} (h : lookupK l1 line = some x) (hx : y.excl = x.excl)
    (hd : y.data = x.data) (m : Nat) : ownedData (insertK l1 line y) m = ownedData l1 m := by
  unfold ownedData
  by_cases hm : m = line
  · subst hm
    rw [lookupK_insertK_self, h, Option.bind_some, Option.bind_some, hx, hd]
  · rw [lookupK_insertK_ne _ _ hm]

/-- A load brings nothing into the L1 and changes no data of it. -/
theorem sameCopies_of_loads (h : Loads s va n v t) : SameCopies (s.core s.cur) (t.core s.cur) := by
  obtain ⟨e, u, l, tau, htr, -, -, hl, -, -, -, -, rfl⟩ := h
  obtain ⟨tlb, hu⟩ := core_of_translates htr
  rw [State.core_setCore_self]
  refine fun line => (ownedData_insertK hl ?_ ?_ line).trans (by rw [hu])
  · split <;> rfl
  · split <;> rfl

theorem cur_of_loads (h : Loads s va n v t) : t.cur = s.cur := by
  obtain ⟨e, u, l, tau, htr, -, -, -, -, -, -, -, rfl⟩ := h
  have hu := cur_of_translates htr
  exact hu

theorem sameCopies_of_loadsLong (h : LoadsLong s va v t) : SameCopies (s.core s.cur) (t.core s.cur) := by
  obtain ⟨v0, v1, v2, v3, s1, s2, s3, h0, h1, h2, h3, -⟩ := h
  have hc1 := cur_of_loads h0
  have hc2 := (cur_of_loads h1).trans hc1
  have hc3 := (cur_of_loads h2).trans hc2
  have m0 := sameCopies_of_loads h0
  have m1 := sameCopies_of_loads h1
  have m2 := sameCopies_of_loads h2
  have m3 := sameCopies_of_loads h3
  rw [hc1] at m1
  rw [hc2] at m2
  rw [hc3] at m3
  exact SameCopies.trans (SameCopies.trans (SameCopies.trans m0 m1) m2) m3

theorem completes_sameBytes (hs : CoresSorted s) (h : Completes i s k) (hk : SameCopies (s.core s.cur) k) : ∃ u, exec i s = .next u ∧ SameBytes s u :=
  ⟨_, h, SameBytes.trans (sameBytes_setCore hs hk) (sameBytes_retire (coresSorted_setCore hs))⟩

theorem completesVec_sameBytes (hs : CoresSorted s) (h : CompletesVec i s k) (hk : SameCopies (s.core s.cur) k) :
    ∃ u, exec i s = .next u ∧ SameBytes s u :=
  ⟨_, h, SameBytes.trans (SameBytes.trans (sameBytes_setCore hs hk) (sameBytes_flushChain (coresSorted_setCore hs)))
    (sameBytes_retire (coresSorted_flushChain (coresSorted_setCore hs)))⟩

/-- The copies after operands, a load and its destination. -/
theorem sameCopies_load {k1 k2 : Core} (h1 : k1.l1 = (s.core s.cur).l1)
    (h : SameCopies ((s.setCore s.cur k1).core s.cur) (t.core s.cur)) (h2 : k2.l1 = (t.core s.cur).l1) : SameCopies (s.core s.cur) k2 := by
  rw [State.core_setCore_self] at h
  exact SameCopies.trans (SameCopies.trans (sameCopies_of_l1 h1) h) (sameCopies_of_l1 h2)

end

/-! ### Stores and atomics -/

section
variable {s t u : State} {i : Instr} {k : Core} {va : Word} {n pa v tau : Nat} {l : L1Line} {acc : Acc} {e : TlbEntry}

theorem StoredBytes.trans_same (h : StoredBytes s t pa n v) (h' : SameBytes t u) : StoredBytes s u pa n v :=
  ⟨(bytes_congr fun _ _ => h' _).trans h.1, fun q hq => (h' q).trans (h.2 q hq)⟩

theorem SameBytes.trans_stored (h : SameBytes s t) (h' : StoredBytes t u pa n v) : StoredBytes s u pa n v :=
  ⟨h'.1, fun q hq => (h'.2 q hq).trans (h q)⟩

theorem completesAt_storedBytes (ht : CoresSorted t) (h : CompletesAt i s t) (hb : StoredBytes s t pa n v) :
    ∃ u, exec i s = .next u ∧ StoredBytes s u pa n v :=
  ⟨_, h, StoredBytes.trans_same hb (sameBytes_retire ht)⟩

theorem completesVecAt_storedBytes (ht : CoresSorted t) (h : CompletesVecAt i s t) (hb : StoredBytes s t pa n v) :
    ∃ u, exec i s = .next u ∧ StoredBytes s u pa n v :=
  ⟨_, h, StoredBytes.trans_same (StoredBytes.trans_same hb (sameBytes_flushChain ht)) (sameBytes_retire (coresSorted_flushChain ht))⟩

/-- The package's exclusive copy of a line is the one in its owner's L1. -/
theorem lookupK_of_xHolder {c line : Nat} (hs : CoresSorted s) (h : s.xHolder line = some (c, l)) : lookupK (s.core c).l1 line = some l := by
  suffices hlist : ∀ cs : List (Nat × Core), cs.Pairwise (fun a b => a.1 < b.1) → xHolderIn cs line = some (c, l) →
      lookupK ((lookupK cs c).getD Core.reset).l1 line = some l from hlist s.cores hs h
  intro cs hcs hx
  induction cs with
  | nil => cases hx
  | cons p r ih =>
    obtain ⟨hp, hr⟩ := List.pairwise_cons.1 hcs
    rw [xHolderIn_cons] at hx
    rcases Option.or_eq_some_iff.1 hx with hfirst | ⟨-, hrest⟩
    · obtain ⟨y, hy, he⟩ := Option.map_eq_some_iff.1 hfirst
      obtain ⟨hc, rfl⟩ := Prod.mk.inj he
      rw [lookupK, if_pos hc]
      exact (Option.filter_eq_some_iff.1 hy).1
    · have hne : p.1 ≠ c := fun he => by
        have hnone : lookupK r c = none := lookupK_eq_none_of_lt fun q hq => he ▸ hp q hq
        have hfound := ih hr hrest
        rw [hnone] at hfound
        cases hfound
      rw [lookupK, if_neg hne]
      exact ih hr hrest

/-- Finding a translation changes no byte of memory and no copy. -/
theorem translates_frame (hs : CoresSorted s) (h : Translates s acc va e u) :
    CoresSorted u ∧ SameBytes s u ∧ ∀ line, u.xHolder line = s.xHolder line := by
  obtain ⟨-, -, hhit, -, -⟩ := h
  unfold State.tlbHit at hhit
  split at hhit
  · obtain ⟨-, rfl⟩ := Prod.mk.inj (Option.some.inj hhit)
    exact ⟨hs, fun _ => rfl, fun _ => rfl⟩
  · obtain ⟨t', -, he⟩ := Option.map_eq_some_iff.1 hhit
    obtain ⟨-, rfl⟩ := Prod.mk.inj he
    exact ⟨coresSorted_setCore hs, sameBytes_setCore hs (sameCopies_of_l1 rfl), fun line => xHolderIn_insertK line hs rfl⟩

/-- A write by the package's one owner of the line stores its bytes and nothing else. -/
theorem wroteLine_of_owns (hs : CoresSorted s) (h : Owns s acc va n e u l) (hx : s.xHolder (e.pa va.toNat / 64) = some (s.cur, l))
    (hfit : e.pa va.toNat % 64 + n ≤ 64) : CoresSorted (wroteLine u s.cur (e.pa va.toNat) n v tau l)
      ∧ StoredBytes s (wroteLine u s.cur (e.pa va.toNat) n v tau l) (e.pa va.toNat) n (v % 2 ^ (8 * n)) := by
  obtain ⟨htr, -, -, -, -, -, -, -, hexcl, -⟩ := h
  obtain ⟨hu, hsame, hcopies⟩ := translates_frame hs htr
  exact ⟨coresSorted_wroteLine hu, SameBytes.trans_stored hsame (storedBytes_wroteLine hu ((hcopies _).trans hx) hexcl hfit)⟩

/-- The same from where operands have been read: the write at its time, and what it leaves of memory. -/
theorem writes_of_ownsAt (hs : CoresSorted s) (hk : k.l1 = (s.core s.cur).l1) (h : OwnsAt (s.setCore s.cur k) acc va n pa l) (hn : n ∣ 64)
    (hal : va.toNat % n = 0) : ∃ e u tau, Owns (s.setCore s.cur k) acc va n e u l ∧ pa = e.pa va.toNat
      ∧ WriteTime (u.core s.cur) (e.pa va.toNat / 64) l n tau
      ∧ ∀ v, CoresSorted (wroteLine u s.cur (e.pa va.toNat) n v tau l)
        ∧ StoredBytes s (wroteLine u s.cur (e.pa va.toNat) n v tau l) pa n (v % 2 ^ (8 * n)) := by
  obtain ⟨e, u, howns, rfl, hpage, hx⟩ := h
  refine ⟨e, u, _, howns, rfl, rfl, fun v => ?_⟩
  obtain ⟨hsorted, hstored⟩ := wroteLine_of_owns (v := v) (coresSorted_setCore hs) howns hx (fits_line hn hal hpage)
  exact ⟨hsorted, SameBytes.trans_stored (sameBytes_setCore hs (sameCopies_of_l1 hk)) hstored⟩

/-- A store by the owner: the state with its bytes. -/
theorem stores_of_ownsAt (hs : CoresSorted s) (hk : k.l1 = (s.core s.cur).l1) (h : OwnsAt (s.setCore s.cur k) .write va n pa l) (hn : n ∣ 64)
    (hal : va.toNat % n = 0) (v : Nat) :
    ∃ t, Stores (s.setCore s.cur k) va n v t ∧ CoresSorted t ∧ StoredBytes s t pa n (v % 2 ^ (8 * n)) := by
  obtain ⟨e, u, tau, howns, -, htime, hw⟩ := writes_of_ownsAt hs hk h hn hal
  exact ⟨_, ⟨e, u, l, tau, howns, htime, rfl⟩, hw v⟩

/-- An atomic by the owner, whose destination had room before it. -/
theorem atomic_of_ownsAt {old new : Nat} {d : Reg} {x : Word} {k' : Core} (hs : CoresSorted s) (hk : k.l1 = (s.core s.cur).l1)
    (h : OwnsAt (s.setCore s.cur k) .amo va n pa l) (hn : n ∣ 64) (hal : va.toNat % n = 0)
    (hold : old = bitsOf l.data.toNat (8 * (pa % 64)) (8 * n)) (hd : Dest k d x k') :
    ∃ t q, Atomic (s.setCore s.cur k) va n old new t ∧ Dest (t.core s.cur) d x q
      ∧ CoresSorted (t.setCore s.cur q) ∧ StoredBytes s (t.setCore s.cur q) pa n (new % 2 ^ (8 * n)) := by
  obtain ⟨e, u, tau, howns, hpa, htime, hw⟩ := writes_of_ownsAt hs hk h hn hal
  obtain ⟨hsorted, hstored⟩ := hw new
  obtain ⟨tlb, rfl⟩ := setCore_of_translates howns.1
  obtain ⟨q, hq⟩ := dest_of_same (q := (wroteLine (s.setCore s.cur { k with tlb := tlb }) s.cur (e.pa va.toNat) n new tau l).core s.cur) hd
    (by rw [core_wroteLine, State.core_setCore_self]; rfl) (by rw [core_wroteLine, State.core_setCore_self]; rfl)
    (by rw [core_wroteLine, State.core_setCore_self]; rfl)
  exact ⟨_, q, ⟨e, _, l, tau, howns, htime, hpa ▸ hold, rfl⟩, hq, coresSorted_setCore hsorted,
    StoredBytes.trans_same hstored (sameBytes_setCore hsorted (sameCopies_of_l1 (dest_l1 hq)))⟩

/-- The flags of FFLAGS play no part in owning a line, either way. -/
theorem ownsAt_orFlags {f : FFlags} (hs : CoresSorted s) (h : OwnsAt (s.setCore s.cur k) acc va n pa l) :
    OwnsAt (s.setCore s.cur (k.orFlags f)) acc va n pa l := by
  obtain ⟨e, u, ⟨⟨hwalk, hva, hhit, hok, hd⟩, hrest⟩, hpa, hpage, hx⟩ := h
  rw [State.setCore_cur, tlbHit_eq_lookupTlb] at hhit
  obtain ⟨⟨e', q⟩, hlook, he⟩ := Option.map_eq_some_iff.1 hhit
  obtain ⟨rfl, rfl⟩ := Prod.mk.inj he
  have hfound : (s.setCore s.cur (k.orFlags f)).tlbHit s.cur va.toNat = some (e', s.setCore s.cur (q.orFlags f)) := by
    rw [tlbHit_eq_lookupTlb, lookupTlb_orFlags, hlook]
    rfl
  simp only [State.setCore_cur, State.core_setCore_self, hitOk_setCore, guarded_setCore, target_setCore, owns_setCore, watched_setCore,
    copyUsable_setCore] at hwalk hok hrest hx
  refine ⟨e', s.setCore s.cur (q.orFlags f), ⟨⟨?_, hva, hfound, ?_, hd⟩, ?_⟩, hpa, hpage, ?_⟩
  · simpa only [State.setCore_cur, State.core_setCore_self, orFlags_pending]
  · simpa only [State.setCore_cur, State.core_setCore_self, hitOk_setCore, hitOk_orFlags]
  · simpa only [State.setCore_cur, State.core_setCore_self, guarded_setCore, target_setCore, owns_setCore, watched_setCore, copyUsable_setCore,
      orFlags_sv, orFlags_l1, acked_orFlags, asksNothing_orFlags]
  · rw [State.setCore_cur, ← hx, ← State.setCore_setCore s s.cur k]
    exact xHolderIn_insertK _ (coresSorted_setCore hs) (by rw [orFlags_l1, ← State.core, State.core_setCore_self])

end

/-! ### Lines of a long store: each is found as at the start -/

section

/-- The translation is one for the address in the context. -/
def TlbEntry.finds (t : TlbEntry) (x va : Nat) : Bool := (t.ctx == x || leafG t.leaf) && t.page == va / 2 ^ t.bits

/-- The translation that a core finds in its TLB, or else in its cluster's. -/
def foundIn (l c : List TlbEntry) (x va : Nat) : Option TlbEntry := (l.find? fun t => t.finds x va).or (c.find? fun t => t.finds x va)

/-- The first of a list for one address is the first for another where each is for both. -/
theorem find_eq_of_both {α : Type} {p q : α → Bool} {l : List α} {x y : α} (hx : l.find? p = some x) (hy : l.find? q = some y)
    (hqx : q x = true) (hpy : p y = true) : x = y := by
  induction l with
  | nil => cases hx
  | cons z r ih =>
    rw [List.find?_cons] at hx hy
    cases hp : p z with
    | true =>
      rw [hp] at hx
      obtain rfl := Option.some.inj hx
      rw [hqx] at hy
      exact Option.some.inj hy
    | false =>
      rw [hp] at hx
      cases hq : q z with
      | true =>
        rw [hq] at hy
        obtain rfl := Option.some.inj hy
        exact absurd (hp.symm.trans hpy) (by decide)
      | false =>
        rw [hq] at hy
        exact ih hx hy

/-- A TLB that takes the translation of one address finds for another what it would have found. -/
theorem foundIn_tlbPut {l c : List TlbEntry} {x a b n : Nat} {ta tb : TlbEntry} (hl : (l.find? fun t => t.finds x a) = none)
    (hc : (c.find? fun t => t.finds x a) = some ta) (hb : foundIn l c x b = some tb) (hab : tb.finds x a = true) :
    foundIn (tlbPut (n + 1) l ta) c x b = some tb := by
  rcases Option.or_eq_some_iff.1 hb with hin | ⟨hnone, hcluster⟩
  · exact absurd hab (List.find?_eq_none.1 hl tb (List.mem_of_find?_eq_some hin))
  · rw [foundIn, tlbPut, List.take_succ_cons, List.find?_cons]
    cases hta : ta.finds x b with
    | true => exact congrArg some (find_eq_of_both hc hcluster hta hab)
    | false =>
      have hrest : ((l.filter fun o => !ta.clashes o).take n).find? (fun t => t.finds x b) = none :=
        List.find?_eq_none.2 fun t ht => List.find?_eq_none.1 hnone t (List.mem_of_mem_filter (List.mem_of_mem_take ht))
      rw [hrest, hcluster]
      rfl

/-- A translation that keeps the offset in 4 KiB is for every lower address of the same 4 KiB. -/
theorem page_eq_of_offset {m a b p : Nat} (hab : a ≤ b) (hpage : a / 4096 = b / 4096) (hoff : (p * 4096 + b % 2 ^ m) % 4096 = b % 4096) :
    a / 2 ^ m = b / 2 ^ m := by
  rcases Nat.lt_or_ge m 12 with hm | hm
  · have hsplit : 2 ^ m * 2 ^ (12 - m) = 4096 := by
      rw [← Nat.pow_add, show m + (12 - m) = 12 by omega]
    have hlow : b % 2 ^ m < 4096 := lt_of_lt_of_le (Nat.mod_lt b (Nat.two_pow_pos m)) (hsplit ▸ Nat.le_mul_of_pos_right _ (Nat.two_pow_pos _))
    have hb : b % 4096 < 2 ^ m := by
      have := Nat.mod_lt b (Nat.two_pow_pos m)
      omega
    have hdiv : ∀ y, y % 4096 < 2 ^ m → y / 2 ^ m = 2 ^ (12 - m) * (y / 4096) := fun y hy =>
      calc y / 2 ^ m = (2 ^ m * (2 ^ (12 - m) * (y / 4096)) + y % 4096) / 2 ^ m := by rw [← Nat.mul_assoc, hsplit, Nat.div_add_mod]
        _ = 2 ^ (12 - m) * (y / 4096) := by rw [Nat.mul_add_div (Nat.two_pow_pos m), Nat.div_eq_of_lt hy, Nat.add_zero]
    rw [hdiv a (by omega), hdiv b hb, hpage]
  · have hdiv : ∀ y, y / 2 ^ m = y / 4096 / 2 ^ (m - 12) := fun y => by
      rw [Nat.div_div_eq_div_mul, show (4096 : Nat) = 2 ^ 12 from rfl, ← Nat.pow_add, Nat.add_sub_cancel' hm]
    rw [hdiv a, hdiv b, hpage]

theorem finds_of_offset {t : TlbEntry} {x a b : Nat} (h : t.finds x b = true) (hab : a ≤ b) (hpage : a / 4096 = b / 4096)
    (hoff : t.pa b % 4096 = b % 4096) : t.finds x a = true := by
  rwa [TlbEntry.finds, page_eq_of_offset hab hpage hoff]

end

section
variable {s t u : State} {acc : Acc} {va : Word} {e : TlbEntry} {n v : Nat}

/-- The translations that the issuing core and its cluster hold. -/
def State.found (s : State) (va : Nat) : Option TlbEntry :=
  foundIn (s.core s.cur).tlb ((lookupK s.ctlb (clusterOf s.cur)).getD []) (s.core s.cur).sv.ctxid.toNat va

theorem tlbHit_found (s : State) (va : Nat) : (s.tlbHit s.cur va).map Prod.fst = s.found va := by
  unfold State.tlbHit State.found foundIn
  show _ = ((s.core s.cur).tlbFind va).or (s.clusterFind s.cur va)
  cases (s.core s.cur).tlbFind va with
  | some t => rfl
  | none => cases s.clusterFind s.cur va <;> rfl

theorem found_of_translates (h : Translates s acc va e u) : s.found va.toNat = some e := by
  rw [← tlbHit_found, h.2.2.1]
  rfl

/-- A write to a line leaves the translations. -/
theorem found_wroteLine (u : State) (pa n v tau : Nat) (l : L1Line) (b : Nat) : (wroteLine u u.cur pa n v tau l).found b = u.found b := by
  have hctlb : (wroteLine u u.cur pa n v tau l).ctlb = u.ctlb := by
    rw [wroteLine, State.noteWrite]
    split <;> rfl
  rw [State.found, hctlb, wroteLine, cur_noteWrite, State.setCore_cur, ← wroteLine, core_wroteLine]
  rfl

/-- What a later address finds after the translation of an earlier one, of the same context and 4 KiB, has been taken. -/
theorem found_of_stores {b : Nat} {tb : TlbEntry} (h : Stores s va n v t) (hb : s.found b = some tb) (hab : va.toNat ≤ b)
    (hpage : va.toNat / 4096 = b / 4096) (hoff : tb.pa b % 4096 = b % 4096) : t.found b = some tb := by
  obtain ⟨e, u, l, tau, ⟨htr, -⟩, -, rfl⟩ := h
  rw [← cur_of_translates htr, found_wroteLine]
  obtain ⟨-, -, hhit, -, -⟩ := htr
  unfold State.tlbHit at hhit
  split at hhit
  · obtain ⟨-, rfl⟩ := Prod.mk.inj (Option.some.inj hhit)
    exact hb
  next hnone =>
    obtain ⟨t', hc, he⟩ := Option.map_eq_some_iff.1 hhit
    obtain ⟨-, rfl⟩ := Prod.mk.inj he
    have hfinds : tb.finds (s.core s.cur).sv.ctxid.toNat b = true := by
      rcases Option.or_eq_some_iff.1 hb with hin | ⟨-, hin⟩
      · exact List.find?_some (p := fun t : TlbEntry => t.finds (s.core s.cur).sv.ctxid.toNat b) hin
      · exact List.find?_some (p := fun t : TlbEntry => t.finds (s.core s.cur).sv.ctxid.toNat b) hin
    have hput := foundIn_tlbPut (n := 31) hnone hc hb (finds_of_offset hfinds hab hpage hoff)
    rw [State.found, State.modCore, State.setCore_cur, State.core_setCore_self]
    exact hput

end

/-! ### The four lines of a long store (R111) -/

section
variable {s t : State} {va : Word} {c : Nat} {pa : Nat → Nat}

/-- Core `c` issues and owns the lines of a long store at `va` from the i-th on, where it finds their translations. -/
def LinesReady (c : Nat) (va : Word) (pa : Nat → Nat) (i : Nat) (s : State) : Prop :=
  CoresSorted s ∧ s.cur = c ∧ ∀ j, i ≤ j → j < 4 → pa j % 4096 = (va.toNat + 64 * j) % 4096
    ∧ (∃ l, s.xHolder (pa j / 64) = some (c, l) ∧ l.excl = true) ∧ ∃ e, s.found (va.toNat + 64 * j) = some e ∧ pa j = e.pa (va.toNat + 64 * j)

theorem toNat_line (hal : va.toNat % 256 = 0) {i : Nat} (hi : i < 4) : (va + BitVec.ofNat 64 (64 * i)).toNat = va.toNat + 64 * i := by
  have hva := va.isLt
  rw [BitVec.toNat_add, BitVec.toNat_ofNat]
  omega

/-- A write to one line leaves the exclusive copies of the others with their owner. -/
theorem xHolder_wroteLine {u : State} {line p n v tau : Nat} {l x : L1Line} (hs : CoresSorted u) (hx : u.xHolder line = some (c, x))
    (hexcl : x.excl = true) (hne : line ≠ p / 64) : (wroteLine u c p n v tau l).xHolder line = some (c, x) := by
  rw [wroteLine, State.xHolder, cores_noteWrite]
  refine xHolder_setCore hx ?_ hexcl
  rw [written, lookupK_insertK_ne _ _ hne]
  exact lookupK_of_xHolder hs hx

/-- One line of a long store: its bytes are stored, and the lines after it stay ready. -/
theorem linesReady_succ (hal : va.toNat % 256 = 0) {i w : Nat} (hi : i < 4) (h : LinesReady c va pa i s)
    (hst : Stores s (va + BitVec.ofNat 64 (64 * i)) 64 w t) : LinesReady c va pa (i + 1) t ∧ StoredBytes s t (pa i) 64 (w % 2 ^ (8 * 64)) := by
  obtain ⟨hs, rfl, hready⟩ := h
  have hva := toNat_line hal hi
  obtain ⟨hpage, ⟨l0, hx, hexcl⟩, e0, hfound, hpa⟩ := hready i (Nat.le_refl i) hi
  obtain ⟨e, u, l, tau, howns, -, rfl⟩ := id hst
  have htr := howns.1
  have he := found_of_translates htr
  rw [hva, hfound] at he
  obtain rfl := Option.some.inj he
  rw [← hva] at hpa
  obtain ⟨hu, -, hcopies⟩ := translates_frame hs htr
  have hl : l = l0 := by
    obtain ⟨-, -, -, -, -, -, -, hl, -⟩ := howns
    obtain ⟨tlb, hcore⟩ := core_of_translates htr
    have hl0 := lookupK_of_xHolder hs hx
    rw [hcore, ← hpa] at hl
    exact Option.some.inj (hl.symm.trans hl0)
  subst hl
  rw [hpa] at hx hpage
  obtain ⟨hsorted, hstored⟩ := wroteLine_of_owns (v := w) (tau := tau) hs howns hx (by omega)
  refine ⟨⟨hsorted, ?_, fun j hij hj => ?_⟩, by rw [hpa]; exact hstored⟩
  · rw [wroteLine, cur_noteWrite, State.setCore_cur, cur_of_translates htr]
  · obtain ⟨hpj, ⟨lj, hxj, hej⟩, ej, hfj, hpaj⟩ := hready j (by omega) hj
    refine ⟨hpj, ⟨lj, xHolder_wroteLine hu ((hcopies _).trans hxj) hej (by omega), hej⟩, ej, ?_, hpaj⟩
    exact found_of_stores hst hfj (by omega) (by omega) (by rw [← hpaj, hpj])

theorem bytes_of_stored {p n w q m : Nat} (h : StoredBytes s t p n w) (hd : q + m ≤ p ∨ p + n ≤ q) : t.bytes q m = s.bytes q m :=
  bytes_congr fun j hj => h.2 (q + j) (by unfold Outside; omega)

theorem bytes_line_of_stored {p n v j : Nat} (h : StoredBytes s t p n (bitsOf v j 512 % 2 ^ (8 * 64))) : t.bytes p n = bitsOf v j 512 :=
  h.1.trans (Nat.mod_eq_of_lt (bitsOf_lt v j (8 * 64)))

/-- A long store by the owner of four lines stores each of them, and no other byte. -/
theorem bytes_of_storesLong {v : Nat} (hal : va.toNat % 256 = 0) (h : LinesReady c va pa 0 s) (hst : StoresLong s va v t) :
    CoresSorted t ∧ (∀ i < 4, t.bytes (pa i) 64 = bitsOf v (512 * i) 512) ∧ ∀ q, (∀ i < 4, Outside (pa i) 64 q) → t.byte q = s.byte q := by
  obtain ⟨s1, s2, s3, h0, h1, h2, h3⟩ := hst
  have hpage : ∀ i < 4, pa i % 4096 = (va.toNat + 64 * i) % 4096 := fun i hi => (h.2.2 i (Nat.zero_le i) hi).1
  have hd : ∀ i < 4, ∀ j < 4, i < j → pa i + 64 ≤ pa j ∨ pa j + 64 ≤ pa i := fun i hi j hj hij => by
    have hi' := hpage i hi
    have hj' := hpage j hj
    omega
  obtain ⟨r1, b0⟩ := linesReady_succ hal (by decide) h (by rwa [line_zero])
  obtain ⟨r2, b1⟩ := linesReady_succ hal (by decide) r1 h1
  obtain ⟨r3, b2⟩ := linesReady_succ hal (by decide) r2 h2
  obtain ⟨⟨hsorted, -⟩, b3⟩ := linesReady_succ hal (by decide) r3 h3
  refine ⟨hsorted, fun i hi => ?_, fun q hq => ?_⟩
  · obtain rfl | rfl | rfl | rfl : i = 0 ∨ i = 1 ∨ i = 2 ∨ i = 3 := by omega
    · rw [bytes_of_stored b3 (hd 0 hi 3 (by decide) (by decide)), bytes_of_stored b2 (hd 0 hi 2 (by decide) (by decide)),
        bytes_of_stored b1 (hd 0 hi 1 (by decide) (by decide)), bytes_line_of_stored b0]
    · rw [bytes_of_stored b3 (hd 1 hi 3 (by decide) (by decide)), bytes_of_stored b2 (hd 1 hi 2 (by decide) (by decide)),
        bytes_line_of_stored b1]
    · rw [bytes_of_stored b3 (hd 2 hi 3 (by decide) (by decide)), bytes_line_of_stored b2]
    · exact bytes_line_of_stored b3
  · rw [b3.2 q (hq 3 (by decide)), b2.2 q (hq 2 (by decide)), b1.2 q (hq 1 (by decide)), b0.2 q (hq 0 (by decide))]

theorem linesReady_of_ownsAt {s : State} {k : Core} {pa : Nat → Nat} (hs : CoresSorted s) (hal : va.toNat % 256 = 0)
    (h : ∀ i < 4, ∃ l, OwnsAt (s.setCore s.cur k) .write (va + BitVec.ofNat 64 (64 * i)) 64 (pa i) l) :
    LinesReady s.cur va pa 0 (s.setCore s.cur k) := by
  refine ⟨coresSorted_setCore hs, rfl, fun j _ hj => ?_⟩
  obtain ⟨l, e, u, howns, hpa, hpage, hx⟩ := h j hj
  have hfound := found_of_translates howns.1
  obtain ⟨-, -, -, -, -, -, -, -, hexcl, -⟩ := howns
  rw [toNat_line hal hj] at hpa hpage hfound
  exact ⟨hpage, ⟨l, hx, hexcl⟩, e, hfound, hpa⟩

end

/-! ### The statement -/

section
variable {s t : State} {d a b : Reg} {i : BitVec 16} {va v c : Word} {k1 k2 k3 k4 : Core} {n w pa old : Nat} {l : L1Line} {long : Bool} {z : Width}

theorem amoBytes_dvd (z : Width) : amoBits z / 8 ∣ 64 := by cases z <;> decide

theorem load_sameBytes {r : (Reg → Reg → BitVec 16 → Instr) × Nat × (Nat → Word)} (hr : r ∈ loadTable) (hs : CoresSorted s)
    (ha : AddrI (s.core s.cur) a i va k1) (hal : va.toNat % r.2.1 = 0) (hl : Loads (s.setCore s.cur k1) va r.2.1 n t)
    (hd : Dest (t.core s.cur) d (r.2.2 n) k2) : ∃ u, exec (r.1 d a i) s = .next u ∧ SameBytes s u :=
  completes_sameBytes hs (load_completes hr ha hal hl hd) (sameCopies_load (addrI_l1 ha) (sameCopies_of_loads hl) (dest_l1 hd))

theorem fld_sameBytes (hs : CoresSorted s) (ha : AddrI (s.core s.cur) a i va k1) (hal : va.toNat % 8 = 0)
    (hl : Loads (s.setCore s.cur k1) va 8 n t) : ∃ u, exec (.fld d a i) s = .next u ∧ SameBytes s u :=
  completes_sameBytes hs (fld_completes ha hal hl) (sameCopies_load (addrI_l1 ha) (sameCopies_of_loads hl) (Core.setHart_l1 ..))

theorem flw_sameBytes (hs : CoresSorted s) (ha : AddrX (s.core s.cur) a b va k1) (hal : va.toNat % 4 = 0)
    (hl : Loads (s.setCore s.cur k1) va 4 n t) : ∃ u, exec (.flw d a b) s = .next u ∧ SameBytes s u :=
  completes_sameBytes hs (flw_completes ha hal hl) (sameCopies_load (addrX_l1 ha) (sameCopies_of_loads hl) (Core.setHart_l1 ..))

theorem vld_sameBytes (hs : CoresSorted s) (hmode : OneMode (s.core s.cur) long [d]) (ha : AddrX (s.core s.cur) a b va k1)
    (hal : va.toNat % vecBytes long = 0)
    (hl : if long then LoadsLong (s.setCore s.cur k1) va n t else Loads (s.setCore s.cur k1) va 32 n t)
    (hd : VDest (t.core s.cur) long d n k2) : ∃ u, exec (.vld d a b) s = .next u ∧ SameBytes s u := by
  refine completesVec_sameBytes hs (vld_completes hmode ha hal hl hd) (sameCopies_load (addrX_l1 ha) ?_ (vdest_l1 hd))
  cases long with
  | false => exact sameCopies_of_loads hl
  | true => exact sameCopies_of_loadsLong hl

theorem dvd_of_storeTable : ∀ r ∈ storeTable, r.2 ∣ 64 := by
  simp only [storeTable, List.forall_mem_cons]
  exact ⟨by decide, by decide, by decide, by decide, List.forall_mem_nil _⟩

theorem store_storedBytes {r : (Reg → Reg → BitVec 16 → Instr) × Nat} (hr : r ∈ storeTable) (hs : CoresSorted s)
    (ha : AddrI (s.core s.cur) a i va k1) (hb : Source k1 b v k2) (hal : va.toNat % r.2 = 0)
    (h : OwnsAt (s.setCore s.cur k2) .write va r.2 pa l) :
    ∃ u, exec (r.1 a b i) s = .next u ∧ StoredBytes s u pa r.2 (v.toNat % 2 ^ (8 * r.2)) := by
  obtain ⟨t, hst, ht, hbytes⟩ := stores_of_ownsAt hs ((source_l1 hb).trans (addrI_l1 ha)) h (dvd_of_storeTable r hr) hal (v.toNat % 2 ^ (8 * r.2))
  rw [Nat.mod_mod] at hbytes
  exact completesAt_storedBytes ht (store_completes hr ha hb hal hst) hbytes

theorem fsd_storedBytes (hs : CoresSorted s) (ha : AddrI (s.core s.cur) a i va k1) (hb : FSource k1 b v) (hal : va.toNat % 8 = 0)
    (h : OwnsAt (s.setCore s.cur k1) .write va 8 pa l) : ∃ u, exec (.fsd a b i) s = .next u ∧ StoredBytes s u pa 8 v.toNat := by
  obtain ⟨t, hst, ht, hbytes⟩ := stores_of_ownsAt hs (addrI_l1 ha) h (by decide) hal v.toNat
  rw [Nat.mod_eq_of_lt v.isLt] at hbytes
  exact completesAt_storedBytes ht (fsd_completes ha hb hal hst) hbytes

theorem fsw_storedBytes (hs : CoresSorted s) (ha : AddrX (s.core s.cur) a b va k1) (hd : FSource k1 d v) (hal : va.toNat % 4 = 0)
    (h : OwnsAt (s.setCore s.cur k1) .write va 4 pa l) : ∃ u, exec (.fsw d a b) s = .next u ∧ StoredBytes s u pa 4 (v.toNat % 2 ^ 32) := by
  obtain ⟨t, hst, ht, hbytes⟩ := stores_of_ownsAt hs (addrX_l1 ha) h (by decide) hal (v.toNat % 2 ^ 32)
  rw [show 8 * 4 = 32 from rfl, Nat.mod_mod] at hbytes
  exact completesAt_storedBytes ht (fsw_completes ha hd hal hst) hbytes

theorem lt_of_vsource {k k' : Core} (h : VSource k false d n k') : n < 2 ^ 256 := by
  rcases h with ⟨hlong, -⟩ | ⟨-, ⟨w, -, rfl⟩, -⟩ | ⟨-, -, w, _, -, rfl, -⟩
  · cases hlong
  · exact w.isLt
  · exact w.isLt

theorem vst_storedBytes (hs : CoresSorted s) (hmode : OneMode (s.core s.cur) false [d]) (ha : AddrX (s.core s.cur) a b va k1)
    (hd : VSource k1 false d n k2) (hal : va.toNat % 32 = 0) (h : OwnsAt (s.setCore s.cur k2) .write va 32 pa l) :
    ∃ u, exec (.vst d a b) s = .next u ∧ StoredBytes s u pa 32 n := by
  obtain ⟨t, hst, ht, hbytes⟩ := stores_of_ownsAt hs ((vsource_l1 hd).trans (addrX_l1 ha)) h (by decide) hal n
  rw [Nat.mod_eq_of_lt (lt_of_vsource hd)] at hbytes
  exact completesVecAt_storedBytes ht (vst_completes hmode ha hd hal hst) hbytes

theorem vstLong_storedBytes {pa : Nat → Nat} (hs : CoresSorted s) (hmode : OneMode (s.core s.cur) true [d])
    (ha : AddrX (s.core s.cur) a b va k1) (hd : VSource k1 true d n k2) (hal : va.toNat % 256 = 0)
    (hst : StoresLong (s.setCore s.cur k2) va n t)
    (h : ∀ i < 4, ∃ l, OwnsAt (s.setCore s.cur k2) .write (va + BitVec.ofNat 64 (64 * i)) 64 (pa i) l) :
    ∃ u, exec (.vst d a b) s = .next u ∧ (∀ i < 4, u.bytes (pa i) 64 = bitsOf n (512 * i) 512)
      ∧ ∀ q, (∀ i < 4, Outside (pa i) 64 q) → u.byte q = s.byte q := by
  obtain ⟨ht, hlines, hrest⟩ := bytes_of_storesLong hal (linesReady_of_ownsAt hs hal h) hst
  have hsame : SameBytes t t.flushChain.retire := SameBytes.trans (sameBytes_flushChain ht) (sameBytes_retire (coresSorted_flushChain ht))
  have hread : SameBytes s (s.setCore s.cur k2) := sameBytes_setCore hs (sameCopies_of_l1 ((vsource_l1 hd).trans (addrX_l1 ha)))
  exact ⟨_, vst_completes hmode ha hd hal hst, fun i hi => (bytes_congr fun _ _ => hsame _).trans (hlines i hi),
    fun q hq => (hsame q).trans ((hrest q hq).trans (hread q))⟩

theorem amo_storedBytes {r : (Reg → Reg → Reg → Width → Instr) × (Nat → Nat → Nat → Nat)} (hr : r ∈ amoTable) (hs : CoresSorted s)
    (ha : Source (s.core s.cur) a va k1) (hb : Source k1 b v k2) (hal : va.toNat % (amoBits z / 8) = 0)
    (h : OwnsAt (s.setCore s.cur k2) .amo va (amoBits z / 8) pa l) (hold : old = bitsOf l.data.toNat (8 * (pa % 64)) (amoBits z))
    (hd : Dest k2 d (BitVec.ofInt 64 (sextNat old (amoBits z))) k3) :
    ∃ u, exec (r.1 d a b z) s = .next u
      ∧ StoredBytes s u pa (amoBits z / 8) (r.2 (amoBits z) old (v.toNat % 2 ^ amoBits z) % 2 ^ amoBits z) := by
  rw [← amoBits_eq z] at hold
  obtain ⟨t, q, hatomic, hq, ht, hbytes⟩ := atomic_of_ownsAt (new := r.2 (amoBits z) old (v.toNat % 2 ^ amoBits z)) hs
    ((source_l1 hb).trans (source_l1 ha)) h (amoBytes_dvd z) hal hold hd
  rw [amoBits_eq] at hbytes
  exact completesAt_storedBytes ht (amo_completes hr ha hb hal hatomic hq) hbytes

theorem amocas_storedBytes (hs : CoresSorted s) (ha : Source (s.core s.cur) a va k1) (hb : Source k1 b c k2) (hv : Source k2 d v k3)
    (hal : va.toNat % (amoBits z / 8) = 0) (h : OwnsAt (s.setCore s.cur k3) .amo va (amoBits z / 8) pa l)
    (hold : old = bitsOf l.data.toNat (8 * (pa % 64)) (amoBits z)) (hd : Dest k3 d (BitVec.ofInt 64 (sextNat old (amoBits z))) k4) :
    ∃ u, exec (.amocas d a b z) s = .next u
      ∧ StoredBytes s u pa (amoBits z / 8) (if old = c.toNat % 2 ^ amoBits z then v.toNat % 2 ^ amoBits z else old) := by
  have hlt : (if old = c.toNat % 2 ^ amoBits z then v.toNat % 2 ^ amoBits z else old) < 2 ^ amoBits z := by
    split
    · exact Nat.mod_lt _ (Nat.two_pow_pos _)
    · rw [hold]
      exact bitsOf_lt ..
  rw [← amoBits_eq z] at hold
  obtain ⟨t, q, hatomic, hq, ht, hbytes⟩ := atomic_of_ownsAt
    (new := if old = c.toNat % 2 ^ amoBits z then v.toNat % 2 ^ amoBits z else old) hs
    ((source_l1 hv).trans ((source_l1 hb).trans (source_l1 ha))) h (amoBytes_dvd z) hal hold hd
  rw [amoBits_eq, Nat.mod_eq_of_lt hlt] at hbytes
  exact completesAt_storedBytes ht (amocas_completes ha hb hv hal hatomic hq) hbytes

theorem amofadd_storedBytes {r : Nat × FFlags} (hs : CoresSorted s) (ha : Source (s.core s.cur) a va k1) (hb : FSource k1 b v)
    (hal : va.toNat % (amoBits z / 8) = 0) (h : OwnsAt (s.setCore s.cur k1) .amo va (amoBits z / 8) pa l)
    (hold : old = bitsOf l.data.toNat (8 * (pa % 64)) (amoBits z))
    (hr : r = fpBin .add (if amoBits z = 64 then .f64 else .f32) ⟨(modesOf k1).rm, false, false, true⟩ old (v.toNat % 2 ^ amoBits z)) :
    ∃ u, exec (.amofadd d a b z) s = .next u ∧ StoredBytes s u pa (amoBits z / 8) (r.1 % 2 ^ amoBits z) := by
  rw [← amoBits_eq z] at hold
  obtain ⟨e, u, tau, howns, hpa, htime, hw⟩ := writes_of_ownsAt (k := k1.orFlags r.2) hs ((orFlags_l1 k1 r.2).trans (source_l1 ha))
    (ownsAt_orFlags hs h) (amoBytes_dvd z) hal
  obtain ⟨ht, hbytes⟩ := hw r.1
  rw [amoBits_eq] at hbytes
  refine completesAt_storedBytes (coresSorted_setCore ht)
    (amofadd_completes ha hb hal hr ⟨e, u, l, tau, howns, htime, by rw [hold, hpa], rfl⟩)
    (StoredBytes.trans_same hbytes (sameBytes_setCore ht (sameCopies_of_l1 (Core.setHart_l1 ..))))

end

/-- Settles O58: a load changes no exclusive copy, and a write its owner's copy of one line, or of four, in the bytes it stores. -/
theorem memoryFrames : Obligations.MemoryFrames :=
  ⟨fun _ hr _ _ _ _ _ _ _ _ _ hs => load_sameBytes hr hs, fun _ hr _ _ _ _ _ _ _ _ _ _ hs => store_storedBytes hr hs,
    fun _ _ _ _ _ _ _ _ _ hs => fsd_storedBytes hs, fun _ hr _ _ _ _ _ _ _ _ _ _ _ _ _ hs => amo_storedBytes hr hs,
    fun _ _ _ _ _ _ _ _ _ _ hs => vst_storedBytes hs, fun _ _ _ _ _ _ _ _ _ _ hs => vstLong_storedBytes hs,
    fun _ _ _ _ _ _ _ _ hs => fld_sameBytes hs, fun _ _ _ _ _ _ _ _ hs => flw_sameBytes hs,
    fun _ _ _ _ _ _ _ _ _ _ hs => vld_sameBytes hs, fun _ _ _ _ _ _ _ _ _ hs => fsw_storedBytes hs,
    fun _ _ _ _ _ _ _ _ _ _ _ _ _ _ _ hs => amocas_storedBytes hs, fun _ _ _ _ _ _ _ _ _ _ _ _ hs => amofadd_storedBytes hs⟩

end Sys2Proof.Machine

/-! ## Scalar floating point (06, R127 to R134) -/

namespace Sys2Proof.Machine
open Sys2Proof.Safety

/-! ### The tables of instructions: every row runs the operation of its line -/

theorem exec_fpBin_row : ∀ r ∈ fpBinTable, ∀ d a b t s, exec (r.1 d a b t) s = runCore (fpaBin r.2 d a b t) s := by
  simp only [fpBinTable, List.forall_mem_cons]
  exact ⟨fun _ _ _ _ _ => rfl, fun _ _ _ _ _ => rfl, fun _ _ _ _ _ => rfl, fun _ _ _ _ _ => rfl, fun _ _ _ _ _ => rfl,
    fun _ _ _ _ _ => rfl, List.forall_mem_nil _⟩

theorem exec_fpCmp_row : ∀ r ∈ fpCmpTable, ∀ d a b t s, exec (r.1 d a b t) s = runCore (fpaCmp r.2 d a b t) s := by
  simp only [fpCmpTable, List.forall_mem_cons]
  exact ⟨fun _ _ _ _ _ => rfl, fun _ _ _ _ _ => rfl, fun _ _ _ _ _ => rfl, List.forall_mem_nil _⟩

theorem exec_fused_row : ∀ r ∈ fusedTable, ∀ d a b e s,
    exec (r.1 d a b e) s = runCore (fmaOp r.2.1 r.2.2.1 r.2.2.2 d a b e) s := by
  simp only [fusedTable, List.forall_mem_cons]
  exact ⟨fun _ _ _ _ _ => rfl, fun _ _ _ _ _ => rfl, fun _ _ _ _ _ => rfl, fun _ _ _ _ _ => rfl, fun _ _ _ _ _ => rfl,
    fun _ _ _ _ _ => rfl, fun _ _ _ _ _ => rfl, fun _ _ _ _ _ => rfl, List.forall_mem_nil _⟩

/-- The sign that an injection gives from the signs of its sources (R130). -/
def SgnOp.sign : SgnOp → Bool → Bool → Bool
  | .copy, _, y => y
  | .invert, _, y => !y
  | .xor, x, y => x != y

theorem exec_sign_row : ∀ r ∈ signTable, ∃ o : SgnOp, o.sign = r.2 ∧ ∀ d a b t s, exec (r.1 d a b t) s = runCore (fpaSgn o d a b t) s := by
  simp only [signTable, List.forall_mem_cons]
  exact ⟨⟨.copy, rfl, fun _ _ _ _ _ => rfl⟩, ⟨.invert, rfl, fun _ _ _ _ _ => rfl⟩, ⟨.xor, rfl, fun _ _ _ _ _ => rfl⟩,
    List.forall_mem_nil _⟩

/-! ### Sign injection (R130) -/

theorem bitsOf_one (v i : Nat) : bitsOf v i 1 = (v.testBit i).toNat := by
  rw [bitsOf, Nat.pow_one, Nat.toNat_testBit]

theorem bitsOf_zero (v n : Nat) : bitsOf v 0 n = v % 2 ^ n := by
  rw [bitsOf, Nat.pow_zero, Nat.div_one]

theorem fpSgn_eq (o : SgnOp) (t : Ty) (x y : Nat) : fpSgn o t x y = x % 2 ^ (tyBits t - 1)
    + (o.sign (x.testBit (tyBits t - 1)) (y.testBit (tyBits t - 1))).toNat * 2 ^ (tyBits t - 1) := by
  simp only [fpSgn, bitsOf_one, bitsOf_zero]
  generalize x.testBit (tyBits t - 1) = p
  generalize y.testBit (tyBits t - 1) = q
  cases o with
  | copy => rfl
  | invert => cases q <;> rfl
  | xor => cases p <;> cases q <;> rfl

theorem tyBits_pos (t : Ty) : 0 < tyBits t := by cases t <;> decide

/-- A number of n + 1 bits is its n magnitude bits below its top bit. -/
theorem eq_magnitude_add_sign {v n : Nat} (hv : v < 2 ^ (n + 1)) : v = v % 2 ^ n + (v.testBit n).toNat * 2 ^ n := by
  rw [Nat.toNat_testBit, Nat.mod_eq_of_lt (Nat.div_lt_of_lt_mul (by rwa [← Nat.pow_succ])), Nat.mod_add_div']

theorem fpSgn_of_bits {o : SgnOp} {t : Ty} {x y v : Nat} (hv : v < 2 ^ tyBits t)
    (hmag : v % 2 ^ (tyBits t - 1) = x % 2 ^ (tyBits t - 1))
    (hsign : v.testBit (tyBits t - 1) = o.sign (x.testBit (tyBits t - 1)) (y.testBit (tyBits t - 1))) : fpSgn o t x y = v := by
  have hbits : tyBits t = tyBits t - 1 + 1 := (Nat.succ_pred_eq_of_pos (tyBits_pos t)).symm
  rw [fpSgn_eq, ← hmag, ← hsign]
  rw [hbits] at hv
  exact (eq_magnitude_add_sign hv).symm

/-! ### The forms of the instructions -/

theorem addFlags_ok (f : FFlags) (k : Core) : addFlags f k = .ok ((), k.orFlags f) := rfl

theorem setFn_ok (k : Core) (r : Reg) (v : Nat) : setFn r v k = .ok ((), fWritten k r (BitVec.ofNat 64 v)) := setF_ok ..

section
variable {s : State} {k k1 : Core} {md : Modes} {d a b e : Reg} {t : Ty} {x y z : Word} (hk : k = s.core s.cur) (hmd : md = modesOf k)
include hk

theorem fpaSgn_completes {o : SgnOp} {v : Nat} (ha : FSource k a x) (hb : FSource k b y) (hv : fpSgn o t x.toNat y.toNat = v) :
    runCore (fpaSgn o d a b t) s = .next (s.setCore s.cur (fWritten k d (BitVec.ofNat 64 v))).retire := by
  subst hk hv
  exact runCore_ok (by rw [fpaSgn, bind_ok (getF_of_source ha), bind_ok (getF_of_source hb), setFn_ok])

theorem fclass_completes (ha : FSource k a x) (hd : Dest k d (BitVec.ofNat 64 (fpClass t x.toNat)) k1) : Completes (.fclass d a t) s k1 := by
  subst hk
  exact runCore_ok (by rw [bind_ok (getF_of_source ha), setX_of_dest hd])

theorem fmvxf_completes (ha : FSource k a x) (hd : Dest k d (BitVec.ofNat 64 (x.toNat % 2 ^ tyBits t)) k1) :
    Completes (.fmvxf d a t) s k1 := by
  subst hk
  exact runCore_ok (by rw [bind_ok (getF_of_source ha), bitsOf_zero, setX_of_dest hd])

theorem fmvfx_completes (ha : Source k a x k1) : Completes (.fmvfx d a t) s (fWritten k1 d x) := by
  subst hk
  exact runCore_ok (by rw [bind_ok (getX_of_source ha), setF_ok])

include hmd

theorem fpaBin_completes {op : FOp} (ha : FSource k a x) (hb : FSource k b y) :
    runCore (fpaBin op d a b t) s = .next (s.setCore s.cur (fWritten (k.orFlags (fpBin op t md x.toNat y.toNat).2) d
      (BitVec.ofNat 64 (fpBin op t md x.toNat y.toNat).1))).retire := by
  subst hk hmd
  exact runCore_ok (by
    rw [fpaBin, bind_ok getModes_ok, bind_ok (getF_of_source ha), bind_ok (getF_of_source hb), bind_ok (addFlags_ok ..), setFn_ok])

theorem fsqrt_completes (ha : FSource k a x) : Completes (.fsqrt d a t) s
    (fWritten (k.orFlags (fpSqrt t md x.toNat).2) d (BitVec.ofNat 64 (fpSqrt t md x.toNat).1)) := by
  subst hk hmd
  show execFsqrt d a t s = _
  refine runCore_ok ?_
  rw [bind_ok getModes_ok, bind_ok (getF_of_source ha), bind_ok (addFlags_ok ..), setFn_ok]

theorem fmaOp_completes {np ns : Bool} (ha : FSource k a x) (hb : FSource k b y) (he : FSource k e z) :
    runCore (fmaOp t np ns d a b e) s = .next (s.setCore s.cur (fWritten (k.orFlags (fpFma t md np ns x.toNat y.toNat z.toNat).2) d
      (BitVec.ofNat 64 (fpFma t md np ns x.toNat y.toNat z.toNat).1))).retire := by
  subst hk hmd
  exact runCore_ok (by
    rw [fmaOp, bind_ok getModes_ok, bind_ok (getF_of_source ha), bind_ok (getF_of_source hb), bind_ok (getF_of_source he),
      bind_ok (addFlags_ok ..), setFn_ok])

theorem fpaCmp_completes {c : FCmp} (ha : FSource k a x) (hb : FSource k b y)
    (hd : Dest (k.orFlags (fpCmp c t md x.toNat y.toNat).2) d (truth (fpCmp c t md x.toNat y.toNat).1) k1) :
    runCore (fpaCmp c d a b t) s = .next (s.setCore s.cur k1).retire := by
  subst hk hmd
  exact runCore_ok (by
    rw [fpaCmp, bind_ok getModes_ok, bind_ok (getF_of_source ha), bind_ok (getF_of_source hb), bind_ok (addFlags_ok ..)]
    exact setX_of_dest hd)

theorem fcvtf_completes {src dst : Ty} (ha : FSource k a x) : Completes (.fcvtf d a src dst) s
    (fWritten (k.orFlags (floatToFloat src dst md x.toNat).2) d (BitVec.ofNat 64 (floatToFloat src dst md x.toNat).1)) := by
  subst hk hmd
  show execFcvtf d a src dst s = _
  refine runCore_ok ?_
  rw [bind_ok getModes_ok, bind_ok (getF_of_source ha), bind_ok (addFlags_ok ..), setFn_ok]

theorem fcvtfi_completes {n : IntKind} {r : Nat × FFlags} (ha : FSource k a x)
    (hr : r = floatToInt (kindTy n) md.rm ((fmtOf t).operand md x.toNat))
    (hd : Dest (k.orFlags r.2) d (BitVec.ofInt 64 (intVal (kindTy n) r.1)) k1) : Completes (.fcvtfi d a n t) s k1 := by
  subst hk hmd hr
  exact runCore_ok (by
    rw [bind_ok getModes_ok, bind_ok (getF_of_source ha), bind_ok (addFlags_ok ..), wordOfInt, setX_of_dest hd])

theorem fcvtif_completes {n : IntKind} {r : Nat × FFlags} (ha : Source k a x k1) (hr : r = intToFloat t md (intVal (kindTy n) x.toNat)) :
    Completes (.fcvtif d a n t) s (fWritten (k1.orFlags r.2) d (BitVec.ofNat 64 r.1)) := by
  subst hk hmd hr
  exact runCore_ok (by rw [bind_ok getModes_ok, bind_ok (getX_of_source ha), bind_ok (addFlags_ok ..), setFn_ok])

end

/-! ### FMVXF and FMVFX with a format code above 3 (R133) -/

theorem toNat_fE (w : Nat) : (fE w).toNat = bitsOf w 6 5 := toNat_ofNat_bitsOf w 6 5

theorem isFloat_of_tyOf {c : Nat} {t : Ty} (h : tyOf c = some t) (hc : 3 < c) : t.isFloat = false := by
  rcases Nat.lt_or_ge c 14 with hlt | hge
  · interval_cases c <;> (cases h; rfl)
  · obtain ⟨m, rfl⟩ := Nat.exists_eq_add_of_le' hge
    cases h

/-- A word is illegal where what its fields name is not well formed (R64). -/
theorem decodeNat_none {w : Nat} (h : ∀ i, decodeRaw w = some i → i.wf = false) : decodeNat w = none := by
  rw [decodeNat]
  cases hraw : decodeRaw w with
  | none => rfl
  | some i => exact if_neg (Bool.eq_false_iff.1 (h i hraw))

theorem decodeNat_fmv_format {w : Nat} (hm : bitsOf w 26 6 = 0x30) (hop : bitsOf w 0 6 = 17 ∨ bitsOf w 0 6 = 18) (hc : 3 < bitsOf w 6 5) :
    decodeNat w = none := by
  refine decodeNat_none fun i hi => ?_
  rw [decodeRaw_fpa hm, decFpa, toNat_fE] at hi
  obtain ⟨t, ht, hi⟩ := Option.bind_eq_some_iff.1 hi
  rcases hop with hop | hop
  · rw [hop] at hi
    obtain ⟨-, rfl⟩ := guardI_eq_some.1 hi
    simp only [Instr.wf, isFloat_of_tyOf ht hc, Bool.and_false]
  · rw [hop] at hi
    obtain ⟨-, rfl⟩ := guardI_eq_some.1 hi
    simp only [Instr.wf, isFloat_of_tyOf ht hc, Bool.and_false]

/-- Settles O25: each row runs its operation on the f registers under the sampled modes, and ORs its flags before it writes. -/
theorem scalarFloats : Obligations.ScalarFloats :=
  fun s _ _ hk hmd => ⟨fun r hr d a b t _ _ ha hb => (exec_fpBin_row r hr d a b t s).trans (fpaBin_completes hk hmd ha hb),
    fun _ _ _ _ => fsqrt_completes hk hmd,
    fun r hr d a b e _ _ _ ha hb he => (exec_fused_row r hr d a b e s).trans (fmaOp_completes hk hmd ha hb he),
    fun r hr d a b t _ _ _ ha hb hd => (exec_fpCmp_row r hr d a b t s).trans (fpaCmp_completes hk hmd ha hb hd),
    fun r hr d a b t _ _ _ ha hb hv hmag hsign => by
      obtain ⟨o, ho, hexec⟩ := exec_sign_row r hr
      exact (hexec d a b t s).trans (fpaSgn_completes hk ha hb (fpSgn_of_bits hv hmag (ho ▸ hsign))),
    fun _ _ _ _ _ => fclass_completes hk, fun _ _ _ _ _ => fcvtf_completes hk hmd, fun _ _ _ _ _ _ _ => fcvtfi_completes hk hmd,
    fun _ _ _ _ _ _ _ => fcvtif_completes hk hmd, fun _ _ _ _ _ => fmvxf_completes hk, fun _ _ _ _ _ => fmvfx_completes hk,
    fun _ => decodeNat_fmv_format⟩

end Sys2Proof.Machine

/-! ## The stage registers (06, R148, R149) -/

namespace Sys2Proof.Machine
open Sys2Proof.Safety

/-! ### The core that a value names (R148) -/

theorem stageCore_unset {s : State} {v : Word} (hv : v.getLsbD 63 = false) : s.stageCore v = none := by
  rw [State.stageCore, bitAt, hv]
  rfl

theorem stageCore_zero (s : State) : s.stageCore 0 = none := stageCore_unset (by decide)

theorem stageCore_eq_some_iff {s : State} {v : Word} {c : Nat} :
    s.stageCore v = some c ↔ v.getLsbD 63 = true ∧ s.physical (v.toNat % 4096) = some c := by
  cases hv : v.getLsbD 63 with
  | false => simp [stageCore_unset hv]
  | true =>
    rw [State.stageCore, bitAt, if_pos hv, bitsOf_zero]
    simp

@[simp] theorem stageCore_setCore (s : State) (c : Nat) (k : Core) (v : Word) : (s.setCore c k).stageCore v = s.stageCore v := by
  rw [State.stageCore, State.stageCore, physical_setCore]

@[simp] theorem stageOk_setCore (s : State) (c d : Nat) (k : Core) (v : Word) : (s.setCore c k).stageOk d v = s.stageOk d v := by
  rw [State.stageOk, State.stageOk, physical_setCore]

/-- A value that R148 accepts names another core. -/
theorem ne_of_stageOk {s : State} {v : Word} {c up : Nat} (h : s.stageOk c v = true) (hup : s.stageCore v = some up) : up ≠ c := by
  obtain ⟨hv, hp⟩ := stageCore_eq_some_iff.1 hup
  simp only [State.stageOk, bitAt, hv, if_true, bitsOf_zero, show 2 ^ 12 = 4096 from rfl, hp, Bool.and_eq_true, bne_iff_ne] at h
  exact h.2.2

/-! ### Cores without saved images (R252): no image names another core -/

theorem savedNaming_none {s : State} {c off d : Nat} (h : (s.core c).saved = []) : s.savedNaming c off d = none := by
  rw [State.savedNaming, h, List.find?_nil]

theorem freeEntries_eq {s : State} {c dn : Nat} (h : (s.core dn).saved = []) : s.freeEntries c dn =
    if (s.core dn).u.stageup.getLsbD 63 = true ∧ s.physical ((s.core dn).u.stageup.toNat % 4096) = some c ∧ (s.core dn).revoked = false
    then 4 - (s.core dn).vqi.length else 0 := by
  simp only [State.freeEntries, savedNaming_none h, beq_iff_eq, stageCore_eq_some_iff, ← and_assoc]
  by_cases hn : (s.core dn).u.stageup.getLsbD 63 = true ∧ s.physical ((s.core dn).u.stageup.toNat % 4096) = some c
  · cases (s.core dn).revoked <;> simp only [hn, and_self, if_true, true_and, Bool.false_eq_true, if_false, reduceCtorEq]
  · rw [if_neg hn, if_neg fun h => hn h.1]

theorem namedDown_iff {s : State} {c d : Nat} (h : (s.core c).saved = []) : s.namedDown c d = true ↔
    (s.core c).u.stagedn.getLsbD 63 = true ∧ s.physical ((s.core c).u.stagedn.toNat % 4096) = some d := by
  rw [State.namedDown, savedNaming_none h, Option.isSome_none, Bool.or_false, beq_iff_eq, stageCore_eq_some_iff]

/-! ### STAGEUP -/

/-- Step 3 of R149: the upstream core that a value names gets a credit of 4 where it names this core. -/
def grantTo (c : Nat) (v : Word) (s : State) : State :=
  match s.stageCore v with
  | some up => if s.namedDown up c then { s with credits := s.credits ++ [{ src := c, dst := up, amount := 4, kind := .grant }] } else s
  | none => s

theorem core_grantTo (c : Nat) (v : Word) (s : State) : (grantTo c v s).core = s.core := by
  unfold grantTo
  split
  · split <;> rfl
  · rfl

theorem grantTo_zero (c : Nat) (s : State) : grantTo c 0 s = s := by
  rw [grantTo, stageCore_zero]

theorem credits_grantTo {s : State} {c up : Nat} {v : Word} (hup : s.stageCore v = some up) (hsaved : (s.core up).saved = []) :
    (grantTo c v s).credits =
      if (s.core up).u.stagedn.getLsbD 63 = true ∧ s.physical ((s.core up).u.stagedn.toNat % 4096) = some c
      then s.credits ++ [{ src := c, dst := up, amount := 4, kind := .grant }] else s.credits := by
  simp only [grantTo, hup, ← namedDown_iff hsaved]
  split <;> rfl

/-- The core whose credit for pushes to `k` is not revoked yet. -/
def upstream (s : State) (k : Core) : Option Nat := (s.stageCore k.u.stageup).filter fun _ => !k.revoked

theorem upstream_none {s : State} {k : Core} (h : k.u.stageup.getLsbD 63 = false ∨ k.revoked = true) : upstream s k = none := by
  rcases h with h | h
  · rw [upstream, stageCore_unset h]
    rfl
  · rw [upstream, h]
    cases s.stageCore k.u.stageup <;> rfl

/-- The core with STAGEUP written, which may be granted again. -/
def withStageUp (k : Core) (v : Word) : Core := { k with u := { k.u with stageup := v }, revoked := false }

section
variable {s : State} {k : Core} {v : Word}

theorem put_stageUp : ((s.setCore s.cur k).sysPut 0x030 v).modCore s.cur (fun q => { q with revoked := false })
    = s.setCore s.cur (withStageUp k v) := by
  show ((s.setCore s.cur k).modCore s.cur fun q => { q with u := { q.u with stageup := v } }).modCore s.cur _ = _
  rw [State.modCore, State.modCore, State.core_setCore_self, State.setCore_setCore, State.core_setCore_self, State.setCore_setCore]
  rfl

/-- Step 2 of R149, reached when no credit is left to revoke: the register is written once vqi is empty. -/
theorem sysPutStageUp_noUpstream (hno : upstream s k = none) (hp : k.pending ≠ .staging) : sysPutStageUp v (s.setCore s.cur k) = (do
    onCore (stallIf (!k.vqi.isEmpty))
    wr fun t => (t.sysPut 0x030 v).modCore s.cur fun q => { q with revoked := false }
    wr (grantTo s.cur v) : DevM Unit) (s.setCore s.cur k) := by
  rw [sysPutStageUp, rd_bind]
  dsimp only
  rw [State.setCore_cur, State.core_setCore_self, stageCore_setCore, ← upstream, hno]
  generalize k.pending = p at hp
  cases p
  case staging => exact absurd rfl hp
  all_goals rfl

theorem sysPutStageUp_stalls (hno : upstream s k = none) (hp : k.pending ≠ .staging) (hq : k.vqi ≠ []) :
    sysPutStageUp v (s.setCore s.cur k) = .error (.wait fun t => t.modCore t.cur fun q => q.setPending .stalled) := by
  have hstall : stallIf (!k.vqi.isEmpty) k = .error (.wait fun t => t.modCore t.cur fun q => q.setPending .stalled) := by
    simp [stallIf, stallM, hq]
  rw [sysPutStageUp_noUpstream hno hp]
  exact bind_err (onCore_err (by rwa [State.setCore_cur, State.core_setCore_self]))

theorem sysPutStageUp_writes (hno : upstream s k = none) (hp : k.pending ≠ .staging) (hq : k.vqi = []) :
    sysPutStageUp v (s.setCore s.cur k) = .ok ((), grantTo s.cur v (s.setCore s.cur (withStageUp k v))) := by
  have hgo : stallIf (!k.vqi.isEmpty) k = .ok ((), k) := by simp [stallIf, hq]
  rw [sysPutStageUp_noUpstream hno hp, bind_ok (onCore_setCore hgo), ← put_stageUp]
  rfl

theorem sysPutStageUp_revokes {up : Nat} (hup : s.stageCore k.u.stageup = some up) (hr : k.revoked = false) (hp : k.pending = .none) :
    sysPutStageUp v (s.setCore s.cur k) = .error (.wait fun t =>
      { t.modCore s.cur (fun q => { q.setPending .staging with revoked := true }) with credits := t.credits ++ [revokeOf s.cur up] }) := by
  have hsome : upstream s k = some up := by rw [upstream, hup, hr]; rfl
  rw [sysPutStageUp, rd_bind]
  dsimp only
  rw [State.setCore_cur, State.core_setCore_self, stageCore_setCore, ← upstream, hsome, hp]
  rfl

/-! ### STAGEDN -/

theorem sysPutStageDn_released (hp : k.pending = .released) : sysPutStageDn v (s.setCore s.cur k) = .ok ((), s.setCore s.cur k) := by
  rw [sysPutStageDn, rd_bind]
  dsimp only
  rw [State.setCore_cur, State.core_setCore_self, hp]
  rfl

/-- The core with STAGEDN written and no credit yet. -/
def withStageDn (k : Core) (v : Word) : Core := { k with u := { k.u with stagedn := v, window := 0 } }

/-- The package with the core `q` in the place of `c`, and the answer of `dn` to it on its way. -/
def asked (t : State) (c dn : Nat) (q : Core) : State :=
  { t.setCore c q with credits := t.credits ++ [{ src := dn, dst := c, amount := t.freeEntries c dn, kind := .answer }] }

section
variable (hp : k.pending = .none) (hpush : ∀ p ∈ s.pushes, p.src ≠ s.cur)
include hp hpush

theorem sysPutStageDn_unset (hv : s.stageCore v = none) :
    sysPutStageDn v (s.setCore s.cur k) = .ok ((), s.setCore s.cur (withStageDn k v)) := by
  have hnone : (s.pushes.any fun p => p.src == s.cur) = false := by simpa using hpush
  rw [sysPutStageDn, rd_bind]
  dsimp only
  rw [State.setCore_cur, State.core_setCore_self, hp]
  dsimp only
  rw [State.setCore_pushes, bind_ok (waitIf_ok _ hnone), stageCore_setCore, hv]
  simp only [wr, State.modCore, State.core_setCore_self, State.setCore_setCore, withStageDn]

theorem sysPutStageDn_asks {dn : Nat} (hv : s.stageCore v = some dn) :
    sysPutStageDn v (s.setCore s.cur k) = .error (.wait fun t =>
      asked t s.cur dn { (t.core s.cur).setPending .staging with u := (withStageDn (t.core s.cur) v).u }) := by
  have hnone : (s.pushes.any fun p => p.src == s.cur) = false := by simpa using hpush
  rw [sysPutStageDn, rd_bind]
  dsimp only
  rw [State.setCore_cur, State.core_setCore_self, hp]
  dsimp only
  rw [State.setCore_pushes, bind_ok (waitIf_ok _ hnone), stageCore_setCore, hv]
  rfl

end

theorem setPending_withStageDn (p : Pend) :
    (withStageDn k v).setPending p = { k.setPending p with u := (withStageDn k v).u } := by
  unfold Core.setPending
  have hsys : (withStageDn k v).onSys = k.onSys := rfl
  rw [hsys]
  split <;> rfl

/-! ### SYSWR of a stage register -/

/-- A stage register and the steps of its SYSWR. -/
inductive StageWrite : BitVec 12 → (Word → DevM Unit) → Prop
  | up : StageWrite 0x030 sysPutStageUp
  | dn : StageWrite 0x031 sysPutStageDn

variable {a : Reg} {id : BitVec 12} {put : Word → DevM Unit} (hid : StageWrite id put) (ha : Source (s.core s.cur) a v k)
include hid

/-- The value check of a stage register is R148's. -/
theorem sysValueOk_stage (u : State) : u.sysValueOk id.toNat v = u.stageOk u.cur v := by
  cases hid <;> simp [State.sysValueOk, sysZeroBits]

include ha

theorem syswr_stage_refused (hv : s.stageOk s.cur v = false) : Traps (.syswr a id) s causeBadOp v := by
  have hp : sysPriv id.toNat = some 0 ∧ sysRO id.toNat = false := by
    cases hid <;> decide
  exact execSyswr_badValue hp.1 (Nat.zero_le _) hp.2 ha (by rwa [sysValueOk_stage hid, State.setCore_cur, stageOk_setCore])

/-- Past the checks of R34, SYSWR of a stage register is its steps of R149. -/
theorem exec_syswr_stage (hv : s.stageOk s.cur v = true) :
    ∃ m : DevM Unit, exec (.syswr a id) s = runInstr m s ∧ m s = put v (s.setCore s.cur k) := by
  have hok : (s.setCore s.cur k).sysValueOk id.toNat v = true := by
    rwa [sysValueOk_stage hid, State.setCore_cur, stageOk_setCore]
  have hp : sysPriv id.toNat = some 0 ∧ sysRO id.toNat = false ∧ sysWaitsMat id.toNat = false ∧ id.toNat < 0x040 := by
    cases hid <;> decide
  obtain ⟨hpriv, hro, hmat, htree⟩ := hp
  refine ⟨_, rfl, ?_⟩
  rw [bind_ok (sysChecks_writable hpriv (Nat.zero_le _) hro _), bind_ok (onCore_ok (getX_of_source ha)), rd_bind,
    bind_ok (trapIf_ok _ _ _ (by rw [hok]; rfl)), bind_ok (waitIf_ok _ (by rw [hmat]; rfl)),
    bind_ok (waitIf_ok _ (by rw [decide_eq_false (Nat.not_le.2 htree)]; rfl))]
  cases hid <;> rfl

theorem syswr_stage_completes {t : State} (hv : s.stageOk s.cur v = true) (h : put v (s.setCore s.cur k) = .ok ((), t)) :
    CompletesAt (.syswr a id) s t := by
  obtain ⟨m, hm, hput⟩ := exec_syswr_stage hid ha hv
  exact hm.trans (runInstr_ok (hput.trans h))

theorem syswr_stage_waits {post : State → State} (hv : s.stageOk s.cur v = true) (h : put v (s.setCore s.cur k) = .error (.wait post)) :
    exec (.syswr a id) s = .next (post s) := by
  obtain ⟨m, hm, hput⟩ := exec_syswr_stage hid ha hv
  exact hm.trans (runInstr_wait (hput.trans h))

end

/-- Settles O42: past the checks of R34 a stage register is written by the steps of R149, each of which changes the issuing core or sends one
credit. -/
theorem stageRegisters : Obligations.StageRegisters := by
  intro s a v k ha
  refine ⟨fun hv => ⟨syswr_stage_refused .up ha hv, syswr_stage_refused .dn ha hv⟩, fun hv hp hpush => ⟨fun h0 => ?_, ?_⟩,
    fun hv hp => syswr_stage_completes .dn ha hv (sysPutStageDn_released hp), fun c dn => freeEntries_eq,
    fun hv hno hp => ⟨fun hq => syswr_stage_waits .up ha hv (sysPutStageUp_stalls (upstream_none hno) hp hq), fun hq => ?_⟩, ?_⟩
  · exact syswr_stage_completes .dn ha hv (sysPutStageDn_unset hp hpush (h0 ▸ stageCore_zero s))
  · rintro dn q hset hcore rfl
    refine (syswr_stage_waits .dn ha hv (sysPutStageDn_asks hp hpush (stageCore_eq hset hcore))).trans ?_
    exact congrArg (fun x => Host.Outcome.next (asked s s.cur dn x)) (setPending_withStageDn _).symm
  · refine ⟨_, syswr_stage_completes .up ha hv (sysPutStageUp_writes (upstream_none hno) hp hq), ?_, ?_, ?_, ?_⟩
    · rw [core_grantTo, State.core_setCore_self]
      rfl
    · intro d hd
      rw [core_grantTo, State.core_setCore_ne _ _ hd]
    · rintro rfl
      rw [grantTo_zero]
      rfl
    · intro up hset hcore hsaved
      have hname := stageCore_eq hset hcore
      have hsame := State.core_setCore_ne s (withStageUp k v) (ne_of_stageOk hv hname)
      rw [credits_grantTo (up := up) (by rwa [stageCore_setCore]) (by rwa [hsame]), hsame, physical_setCore]
      rfl
  · intro up hv hset hcore hr hp
    exact syswr_stage_waits .up ha hv (sysPutStageUp_revokes (stageCore_eq hset hcore) hr hp)

end Sys2Proof.Machine

/-! ## Lanes of a vector register (06, R123 to R125) -/

namespace Sys2Proof.Machine
open Sys2Proof.Safety

/-! ### Registers from their lanes, and the flags of all lanes -/

theorem vBits_eq (long : Bool) : vBits long = 8 * vecBytes long := by cases long <;> rfl

theorem eq_ofLanes {w n r : Nat} {g : Nat → Nat} (h : Lanes w n r g) : r = ofLanes w ((List.range n).map g) := by
  obtain ⟨hlt, hlanes⟩ := h
  induction n generalizing r g with
  | zero =>
    show r = 0
    simpa using hlt
  | succ n ih =>
    have hhead : g 0 = r % 2 ^ w := by rw [← hlanes 0 n.succ_pos, Nat.mul_zero, bitsOf_zero]
    have htail : r / 2 ^ w = ofLanes w ((List.range n).map (g ∘ Nat.succ)) := by
      refine ih ?_ fun i hi => ?_
      · rw [Nat.mul_succ, Nat.add_comm, Nat.pow_add] at hlt
        exact Nat.div_lt_of_lt_mul hlt
      · rw [Function.comp_apply, ← hlanes (i + 1) (Nat.succ_lt_succ hi), bitsOf, bitsOf, Nat.mul_succ, Nat.add_comm, Nat.pow_add,
          Nat.div_div_eq_div_mul]
    rw [List.range_succ_eq_map, List.map_cons, List.map_map, ofLanes, hhead, Nat.mod_mod, ← htail, Nat.mod_add_div']

theorem flagsOf_eq {n : Nat} {f : Nat → Nat × FFlags} {fl : FFlags} (h : AllFlags n (fun i => (f i).2) fl) :
    flagsOf ((List.range n).map f) = fl := by
  rw [flagsOf, List.foldl_map]
  exact foldl_or_of_allFlags h

theorem allFlags_zero (n : Nat) : AllFlags n (fun _ => 0) 0 := fun j => by simp

/-! ### Operands -/

theorem vecMode_ok {k : Core} {long : Bool} {r : Reg} {l : List Reg} (h : OneMode k long (r :: l)) : vecMode (r :: l) k = .ok (long, k) := by
  have hr : isLong k r = long := h r List.mem_cons_self
  have hnone : (l.find? fun q => isLong k q != long) = none :=
    List.find?_eq_none.2 fun q hq => by simpa [isLong] using h q (List.mem_cons_of_mem _ hq)
  simp only [vecMode, hr, hnone]

section
variable {k k' : Core} {long : Bool} {d : Reg} {w n r : Nat} {f : Nat → Nat × FFlags} {fl : FFlags}

theorem setVN_lanes {g : Nat → Nat} (hr : Lanes w n r g) (hd : VDest k long d r k') :
    setVN long d (ofLanes w ((List.range n).map g)) k = .ok ((), k') := by
  rw [← eq_ofLanes hr, setVN_of_vdest hd]

/-- The end of a lanewise instruction: the flags of all lanes are raised, and the lanes written. -/
theorem writeLanes_ok (hr : Lanes w n r fun i => (f i).1) (hfl : AllFlags n (fun i => (f i).2) fl) (hd : VDest (k.orFlags fl) long d r k') :
    (do
      addFlags (flagsOf ((List.range n).map f))
      setVN long d (ofLanes w (((List.range n).map f).map Prod.fst)) : CpuM Unit) k = .ok ((), k') := by
  rw [flagsOf_eq hfl, bind_ok (addFlags_ok ..), List.map_map]
  exact setVN_lanes hr hd

end

/-! ### The forms of lanewise instructions -/

theorem map_lanes {α : Type} (f : Nat → α) (x w n : Nat) : (lanes x w n).map f = (List.range n).map fun i => f (at' w x i) := by
  rw [lanes, List.map_map]
  rfl

theorem map_zip_lanes {α : Type} (f : Nat × Nat → α) (x y w n : Nat) :
    (List.zip (lanes x w n) (lanes y w n)).map f = (List.range n).map fun i => f (at' w x i, at' w y i) := by
  rw [lanes, lanes, List.zip_map', List.map_map]
  rfl

theorem map_zip_zip_lanes {α : Type} (f : Nat × Nat × Nat → α) (x y z w n : Nat) :
    (List.zip (lanes x w n) (List.zip (lanes y w n) (lanes z w n))).map f
      = (List.range n).map fun i => f (at' w x i, at' w y i, at' w z i) := by
  rw [lanes, lanes, lanes, List.zip_map', List.zip_map', List.map_map]
  rfl

section
variable {s : State} {k k1 k2 k3 k4 : Core} {md : Modes} {long : Bool} {d a b e : Reg} {t : Ty} {x y z r n : Nat} {fl : FFlags}
  (hk : k = s.core s.cur) (hmd : md = modesOf k)
include hk hmd

theorem vecBin_completes {f : Modes → Nat → Nat → Nat × FFlags} (hmode : OneMode k long [d, a, b]) (ha : VSource k long a x k1)
    (hb : VSource k1 long b y k2) (hn : n = 8 * vecBytes long / tyBits t)
    (hr : Lanes (tyBits t) n r fun i => (f md (at' (tyBits t) x i) (at' (tyBits t) y i)).1)
    (hfl : AllFlags n (fun i => (f md (at' (tyBits t) x i) (at' (tyBits t) y i)).2) fl) (hd : VDest (k2.orFlags fl) long d r k3) :
    runVec (vecBin f d a b t) s = .next ((s.setCore s.cur k3).flushChain).retire := by
  subst hk hmd hn
  refine runVec_ok ?_
  rw [vecBin, bind_ok (vecMode_ok hmode), bind_ok getModes_ok, bind_ok (getVN_of_vsource ha), bind_ok (getVN_of_vsource hb)]
  rw [map_zip_lanes, vBits_eq]
  exact writeLanes_ok hr hfl hd

theorem vecUn_completes {f : Modes → Nat → Nat × FFlags} (hmode : OneMode k long [d, a]) (ha : VSource k long a x k1)
    (hn : n = 8 * vecBytes long / tyBits t) (hr : Lanes (tyBits t) n r fun i => (f md (at' (tyBits t) x i)).1)
    (hfl : AllFlags n (fun i => (f md (at' (tyBits t) x i)).2) fl) (hd : VDest (k1.orFlags fl) long d r k2) :
    runVec (vecUn f d a t) s = .next ((s.setCore s.cur k2).flushChain).retire := by
  subst hk hmd hn
  refine runVec_ok ?_
  rw [vecUn, bind_ok (vecMode_ok hmode), bind_ok getModes_ok, bind_ok (getVN_of_vsource ha)]
  rw [map_lanes, vBits_eq]
  exact writeLanes_ok hr hfl hd

theorem vecTri_completes {f : Modes → Nat → Nat → Nat → Nat × FFlags} {w : Nat} (hmode : OneMode k long [d, a, b, e])
    (ha : VSource k long a x k1) (hb : VSource k1 long b y k2) (he : VSource k2 long e z k3) (hw : w = tyBits t)
    (hn : n = 8 * vecBytes long / w) (hr : Lanes w n r fun i => (f md (at' w x i) (at' w y i) (at' w z i)).1)
    (hfl : AllFlags n (fun i => (f md (at' w x i) (at' w y i) (at' w z i)).2) fl) (hd : VDest (k3.orFlags fl) long d r k4) :
    runVec (vecTri f d a b e t) s = .next ((s.setCore s.cur k4).flushChain).retire := by
  subst hk hmd hn hw
  refine runVec_ok ?_
  rw [vecTri, bind_ok (vecMode_ok hmode), bind_ok getModes_ok, bind_ok (getVN_of_vsource ha), bind_ok (getVN_of_vsource hb),
    bind_ok (getVN_of_vsource he)]
  rw [map_zip_zip_lanes, vBits_eq]
  exact writeLanes_ok hr hfl hd

end

/-! ### The lane functions, in the words of the tables (R135, R137, R142 to R144) -/

theorem intBits_eq (w : Nat) (v : Int) : intBits w v = wrap w v := by
  rw [intBits, wrap, Nat.cast_pow, Nat.cast_ofNat]

section
variable (t : Ty) (md : Modes) (x y z : Nat)

theorem laneArith_add : laneArith .add t md x y = laneOf .add (fun x y => x + y) t md x y := by
  simp only [laneArith, laneOf, intBits_eq]

theorem laneArith_sub : laneArith .sub t md x y = laneOf .sub (fun x y => x - y) t md x y := by
  simp only [laneArith, laneOf, intBits_eq]

theorem laneArith_mul : laneArith .mul t md x y = laneOf .mul (fun x y => x * y) t md x y := by
  simp only [laneArith, laneOf, intBits_eq]

theorem laneArith_min : laneArith .min t md x y = laneOf .min (fun x y => min x y) t md x y := by
  simp only [laneArith, laneOf, intBits_eq, min_comm (intVal t x), min_def_lt]

theorem laneArith_max : laneArith .max t md x y = laneOf .max (fun x y => max x y) t md x y := by
  simp only [laneArith, laneOf, intBits_eq, max_def_lt]

theorem laneCmp_eq : laneCmp .eq t md x y = laneTruth .eq (fun x y => decide (x = y)) t md x y := by
  simp only [laneCmp, laneTruth, laneMask, beq_eq_decide]

theorem laneCmp_lt : laneCmp .lt t md x y = laneTruth .lt (fun x y => decide (x < y)) t md x y := rfl

theorem laneCmp_le : laneCmp .le t md x y = laneTruth .le (fun x y => decide (x ≤ y)) t md x y := rfl

theorem laneSra_eq (w sh : Nat) : laneSra w x sh = wrap w (sextNat x w / 2 ^ sh) := by
  rw [laneSra, intBits_eq, Nat.cast_pow, Nat.cast_ofNat]

theorem laneSign_eq (neg : Bool) : laneSign neg t md x = laneMinus neg t md x := by
  simp only [laneSign, laneMinus, intBits_eq, Bool.or_eq_true, decide_eq_true_eq]

theorem onesOf_eq (n : Nat) : onesOf x n = ((List.range n).filter fun i => x.testBit i).length := by
  induction n with
  | zero => rfl
  | succ n ih =>
    rw [onesOf, ih, bitsOf_one, List.range_succ, List.filter_append, List.length_append]
    cases h : x.testBit n <;> simp [h]

theorem dot4_eq : dot4 x y z
    = wrap 32 (sextNat z 32 + ((List.range 4).map fun j => sextNat (at' 8 x j) 8 * sextNat (at' 8 y j) 8).sum) := by
  rw [dot4, intBits_eq]
  simp only [List.range_succ, List.range_zero, List.nil_append, List.cons_append, List.map_cons, List.map_nil, List.sum_cons, List.sum_nil,
    add_zero, ← add_assoc]
  rfl

end

/-! ### The tables of instructions: every row computes its lanes with the function of its line -/

theorem exec_laneBin_row : ∀ r ∈ laneBinTable, ∀ d a b t s, exec (r.1 d a b t) s = runVec (vecBin (r.2 t) d a b t) s := by
  have row {f g : Ty → Modes → Nat → Nat → Nat × FFlags} (h : ∀ t md x y, f t md x y = g t md x y) (d a b : Reg) (t : Ty) (s : State) :
      runVec (vecBin (f t) d a b t) s = runVec (vecBin (g t) d a b t) s := by
    rw [funext fun md => funext fun x => funext fun y => h t md x y]
  simp only [laneBinTable, List.forall_mem_cons]
  exact ⟨row laneArith_add, row laneArith_sub, row laneArith_mul, row laneArith_min, row laneArith_max, fun _ _ _ _ _ => rfl,
    fun _ _ _ _ _ => rfl, fun _ _ _ _ _ => rfl, row fun t _ x y => congrArg (·, 0) (bitsOf_zero _ (tyBits t)), fun _ _ _ _ _ => rfl,
    row fun t _ x y => congrArg (·, 0) (laneSra_eq x (tyBits t) _), row laneCmp_eq, row laneCmp_lt, row laneCmp_le, List.forall_mem_nil _⟩

theorem exec_laneUn_row : ∀ r ∈ laneUnTable, ∀ d a t s, exec (r.1 d a t) s = runVec (vecUn (r.2 t) d a t) s := by
  have row {f g : Ty → Modes → Nat → Nat × FFlags} (h : ∀ t md x, f t md x = g t md x) (d a : Reg) (t : Ty) (s : State) :
      runVec (vecUn (f t) d a t) s = runVec (vecUn (g t) d a t) s := by rw [funext fun md => funext fun x => h t md x]
  simp only [laneUnTable, List.forall_mem_cons]
  exact ⟨row fun t md x => laneSign_eq t md x false, row fun t md x => laneSign_eq t md x true,
    row fun t _ x => congrArg (·, 0) (onesOf_eq x (tyBits t)), fun _ _ _ _ => rfl, fun _ _ _ _ => rfl, fun _ _ _ _ => rfl,
    fun _ _ _ _ => rfl, fun _ _ _ _ => rfl, fun _ _ _ _ => rfl, fun _ _ _ _ => rfl, List.forall_mem_nil _⟩

theorem exec_laneTri_row : ∀ r ∈ laneTriTable, ∀ d a b e s, exec (r.1 d a b e) s = runVec (vecTri r.2.2 d a b e r.2.1) s := by
  have hdot : (fun (_ : Modes) x y z => (dot4 x y z, (0 : FFlags))) = fun _ x y z =>
      (wrap 32 (sextNat z 32 + ((List.range 4).map fun j => sextNat (at' 8 x j) 8 * sextNat (at' 8 y j) 8).sum), 0) := by
    funext _ x y z
    rw [dot4_eq]
  simp only [laneTriTable, List.forall_mem_cons, ← hdot]
  exact ⟨fun _ _ _ _ _ => rfl, fun _ _ _ _ _ => rfl, fun _ _ _ _ _ => rfl, fun _ _ _ _ _ => rfl, fun _ _ _ _ _ => rfl,
    fun _ _ _ _ _ => rfl, fun _ _ _ _ _ => rfl, fun _ _ _ _ _ => rfl, List.forall_mem_nil _⟩

/-- Settles O27: a form of lanewise instructions is a list over its lanes, and each row of the tables is its form with the function of its
line. -/
theorem lanewiseResults : Obligations.LanewiseResults :=
  fun s _ _ _ hk hmd => ⟨fun r hr d a b t _ _ _ _ _ _ _ _ hmode ha hb hn hl hfl hd =>
      (exec_laneBin_row r hr d a b t s).trans (vecBin_completes hk hmd hmode ha hb hn hl hfl hd),
    fun r hr d a t _ _ _ _ _ _ hmode ha hn hl hfl hd =>
      (exec_laneUn_row r hr d a t s).trans (vecUn_completes hk hmd hmode ha hn hl hfl hd),
    fun r hr d a b e _ _ _ _ _ _ _ _ _ _ _ hmode ha hb he hw hn hl hfl hd =>
      (exec_laneTri_row r hr d a b e s).trans (vecTri_completes hk hmd hmode ha hb he hw hn hl hfl hd)⟩

end Sys2Proof.Machine

/-! ## The fixed tree of a reduction (04, R85; 06, R139) -/

namespace Sys2Proof.Machine
open Sys2Proof.Safety

theorem flagsOf_append (l m : List (Nat × FFlags)) : flagsOf (l ++ m) = flagsOf l ||| flagsOf m := by
  refine BitVec.eq_of_getLsbD_eq fun j _ => Bool.eq_iff_iff.2 ?_
  rw [BitVec.getLsbD_or, Bool.or_eq_true]
  simp only [flagsOf, getLsbD_foldl_or, List.mem_append, or_and_right, exists_or, BitVec.ofNat_eq_ofNat, BitVec.getLsbD_zero,
    Bool.false_eq_true, false_or]

section
variable (f : Nat → Nat → Nat × FFlags) (u : Nat → Nat)

/-- The fixed tree of R85 over the 2^n leaves `u i`, `u (i + 1)`, and so on. -/
def treeOf : Nat → Nat → Nat × FFlags
  | 0, i => (u i, 0)
  | n + 1, i =>
    let l := treeOf n i
    let r := treeOf n (i + 2 ^ n)
    ((f l.1 r.1).1, l.2 ||| r.2 ||| (f l.1 r.1).2)

theorem fixedTree_eq (w v n i : Nat) : fixedTree f w v n i = treeOf f (at' w v) n i := by
  induction n generalizing i with
  | zero => rfl
  | succ n ih => simp only [fixedTree, treeOf, ih]

/-- The lowest node above the leaves 2j and 2j + 1. -/
def nodeAt (j : Nat) : Nat × FFlags := f (u (2 * j)) (u (2 * j + 1))

/-- The m lowest nodes from node j on. -/
def nodesFrom (j m : Nat) : List (Nat × FFlags) := (List.range m).map fun i => nodeAt f u (j + i)

theorem nodesFrom_add (j m p : Nat) : nodesFrom f u j (m + p) = nodesFrom f u j m ++ nodesFrom f u (j + m) p := by
  simp only [nodesFrom, List.range_add, List.map_append, List.map_map, Function.comp_def, Nat.add_assoc]

/-- A tree is that over its lowest nodes, whose flags are raised beside it. -/
theorem treeOf_succ (n j : Nat) : treeOf f u (n + 1) (2 * j) =
    ((treeOf f (fun i => (nodeAt f u i).1) n j).1,
      flagsOf (nodesFrom f u j (2 ^ n)) ||| (treeOf f (fun i => (nodeAt f u i).1) n j).2) := by
  induction n generalizing j with
  | zero => simp [treeOf, nodesFrom, nodeAt, flagsOf]
  | succ n ih =>
    have hright : 2 * j + 2 ^ (n + 1) = 2 * (j + 2 ^ n) := by rw [Nat.pow_succ']; ring
    have hnodes : nodesFrom f u j (2 ^ (n + 1)) = nodesFrom f u j (2 ^ n) ++ nodesFrom f u (j + 2 ^ n) (2 ^ n) := by
      rw [← nodesFrom_add, Nat.pow_succ, Nat.mul_two]
    calc treeOf f u (n + 1 + 1) (2 * j)
      _ = ((f (treeOf f u (n + 1) (2 * j)).1 (treeOf f u (n + 1) (2 * (j + 2 ^ n))).1).1,
            (treeOf f u (n + 1) (2 * j)).2 ||| (treeOf f u (n + 1) (2 * (j + 2 ^ n))).2
              ||| (f (treeOf f u (n + 1) (2 * j)).1 (treeOf f u (n + 1) (2 * (j + 2 ^ n))).1).2) := by rw [← hright]; rfl
      _ = _ := by
        rw [ih, ih, hnodes, flagsOf_append]
        refine Prod.ext rfl ?_
        dsimp only [treeOf]
        ac_rfl

theorem treeLevel_eq (m : Nat) : treeLevel f ((List.range (2 * m)).map u) = nodesFrom f u 0 m := by
  induction m generalizing u with
  | zero => rfl
  | succ m ih =>
    have hhead : (List.range (2 * (m + 1))).map u = u 0 :: u 1 :: (List.range (2 * m)).map fun i => u (i + 2) := by
      rw [Nat.mul_succ, List.range_succ_eq_map, List.range_succ_eq_map]
      simp [Function.comp_def]
    rw [hhead, treeLevel, ih, nodesFrom, nodesFrom, List.range_succ_eq_map, List.map_cons, List.map_map]
    simp only [nodeAt, Function.comp_def, Nat.zero_add]
    rfl

/-- The levels of the reduction are those of the tree, and the flags of each are raised. -/
theorem treeReduce_eq {n fuel : Nat} (hn : n ≤ fuel) (fl : FFlags) :
    treeReduce f fuel ((List.range (2 ^ n)).map u) fl = ((treeOf f u n 0).1, fl ||| (treeOf f u n 0).2) := by
  induction n generalizing u fuel fl with
  | zero => cases fuel <;> simp [treeReduce, treeOf]
  | succ n ih =>
    obtain ⟨fuel, rfl⟩ : ∃ q, fuel = q + 1 := Nat.exists_eq_succ_of_ne_zero (by omega)
    have hlong : ¬ ((List.range (2 ^ (n + 1))).map u).length ≤ 1 := by
      rw [List.length_map, List.length_range, not_le]
      exact Nat.one_lt_two_pow (Nat.succ_ne_zero n)
    have hlevel : treeLevel f ((List.range (2 ^ (n + 1))).map u) = nodesFrom f u 0 (2 ^ n) := by rw [Nat.pow_succ', treeLevel_eq]
    have hvalues : (nodesFrom f u 0 (2 ^ n)).map Prod.fst = (List.range (2 ^ n)).map fun i => (nodeAt f u i).1 := by
      simp only [nodesFrom, List.map_map, Function.comp_def, Nat.zero_add]
    rw [treeReduce, if_neg hlong, hlevel]
    dsimp only
    rw [hvalues, ih _ (Nat.le_of_succ_le_succ hn), show treeOf f u (n + 1) 0 = treeOf f u (n + 1) (2 * 0) from rfl, treeOf_succ,
      BitVec.or_assoc]

end

/-! ### The reductions -/

theorem exec_reduce_row : ∀ r ∈ reduceTable, ∃ op, (∀ t md, laneArith op t md = r.2 t md)
    ∧ ∀ d a t s, exec (r.1 d a t) s = runVec (vecRed op d a t) s := by
  simp only [reduceTable, List.forall_mem_cons]
  exact ⟨⟨.add, fun t md => funext₂ (laneArith_add t md), fun _ _ _ _ => rfl⟩,
    ⟨.max, fun t md => funext₂ (laneArith_max t md), fun _ _ _ _ => rfl⟩,
    ⟨.min, fun t md => funext₂ (laneArith_min t md), fun _ _ _ _ => rfl⟩, List.forall_mem_nil _⟩

/-- A register has at most 2^8 lanes. -/
theorem le_of_laneCount {n : Nat} {long : Bool} {t : Ty} (h : 2 ^ n = 8 * vecBytes long / tyBits t) : n ≤ 8 := by
  have hle : 8 * vecBytes long / tyBits t ≤ 2 ^ 8 := by cases long <;> cases t <;> decide
  exact (Nat.pow_le_pow_iff_right (by decide)).1 (h ▸ hle)

theorem vecRed_completes {s : State} {k k1 k2 : Core} {long : Bool} {op : FOp} {f : Nat → Nat → Nat × FFlags} {d a : Reg} {t : Ty} {x n : Nat}
    {r : Nat × FFlags} (hk : k = s.core s.cur) (hf : laneArith op t (modesOf k) = f) (hmode : OneMode k long [d, a]) (ha : VSource k long a x k1)
    (hn : 2 ^ n = 8 * vecBytes long / tyBits t) (hr : r = fixedTree f (tyBits t) x n 0) (hd : VDest (k1.orFlags r.2) long d r.1 k2) :
    runVec (vecRed op d a t) s = .next ((s.setCore s.cur k2).flushChain).retire := by
  subst hk hf
  have htree : treeReduce (laneArith op t (modesOf (s.core s.cur))) 9 (lanes x (tyBits t) (vBits long / tyBits t)) 0 = r := by
    have hlanes : lanes x (tyBits t) (vBits long / tyBits t) = (List.range (2 ^ n)).map (at' (tyBits t) x) := by
      rw [hn, vBits_eq]
      rfl
    rw [hlanes, treeReduce_eq _ _ ((le_of_laneCount hn).trans (by decide)), BitVec.ofNat_eq_ofNat, BitVec.zero_or, ← fixedTree_eq, ← hr]
  refine runVec_ok ?_
  rw [vecRed, bind_ok (vecMode_ok hmode), bind_ok getModes_ok, bind_ok (getVN_of_vsource ha)]
  rw [htree, bind_ok (addFlags_ok ..), setVN_of_vdest hd]

/-- Settles O29: the levels of a reduction are those of the fixed tree, for any number of levels. -/
theorem reductionTree : Obligations.ReductionTree := by
  refine ⟨fun r hr s k long d a t x n v k1 k2 hk hmode ha hn hv hd => ?_, by decide, by decide⟩
  obtain ⟨op, hop, hexec⟩ := exec_reduce_row r hr
  exact (hexec d a t s).trans (vecRed_completes hk (hop t (modesOf k)) hmode ha hn hv hd)

end Sys2Proof.Machine

/-! ## Selection, permutation, broadcast, moves, conversion and random lanes (06, R136, R138, R140 to R142, R146) -/

namespace Sys2Proof.Machine
open Sys2Proof.Safety

/-! ### Lane numbers in x registers (R141) -/

section
variable {k k1 : Core} {b : Reg} {j : Word} {n : Nat}

theorem laneIndex_ok (hb : Source k b j k1) (hj : j.toNat < n) : laneIndex b n k = .ok (j.toNat, k1) := by
  rw [laneIndex, bind_ok (getX_of_source hb), bind_ok (trapIf_ok _ _ _ (decide_eq_false (Nat.not_le.2 hj))), pure_ok]

theorem laneIndex_trap (hb : Source k b j k1) (hj : n ≤ j.toNat) : laneIndex b n k = .error (.trap causeBadOp j) := by
  rw [laneIndex, bind_ok (getX_of_source hb), bind_err (trapIf_trap _ _ _ (decide_eq_true hj))]

end

/-- Lane i of a list of lanes with lane j replaced. -/
theorem setAt_map_range (g : Nat → Nat) (n j v : Nat) :
    setAt ((List.range n).map g) j v = (List.range n).map fun i => if i = j then v else g i := by
  induction n generalizing g j with
  | zero => rfl
  | succ n ih =>
    rw [List.range_succ_eq_map, List.map_cons, List.map_cons, List.map_map, List.map_map]
    cases j with
    | zero => simp [setAt, Function.comp_def]
    | succ j => simp [setAt, ih, Function.comp_def]

section
variable {s : State} {k k1 k2 k3 k4 : Core} {long : Bool} {d a b : Reg} {t : Ty} {j v : Word} {m x y r w n : Nat} {fl : FFlags}
  (hk : k = s.core s.cur)
include hk

/-! ### VSEL, VCVT and VPERM -/

theorem vsel_completes (hmode : OneMode k long [d, a, b]) (hm : VSource k long d m k1) (ha : VSource k1 long a x k2)
    (hb : VSource k2 long b y k3) (hw : w = tyBits t) (hn : n = 8 * vecBytes long / w)
    (hr : Lanes w n r fun i => if at' w m i ≠ 0 then at' w x i else at' w y i) (hd : VDest k3 long d r k4) :
    CompletesVec (.vsel d a b t) s k4 := by
  subst hk hw hn
  show execVsel d a b t s = _
  refine runVec_ok ?_
  rw [bind_ok (vecMode_ok hmode), bind_ok (getVN_of_vsource hm), bind_ok (getVN_of_vsource ha), bind_ok (getVN_of_vsource hb), vBits_eq]
  exact setVN_lanes hr hd

theorem vcvt_completes {src dst : Ty} (hmode : OneMode k long [d, a]) (ha : VSource k long a x k1)
    (hn : n = 8 * vecBytes long / max (tyBits src) (tyBits dst))
    (hr : Lanes (tyBits dst) n r fun i => (laneConv src dst (modesOf k) (at' (tyBits src) x i)).1)
    (hfl : AllFlags n (fun i => (laneConv src dst (modesOf k) (at' (tyBits src) x i)).2) fl) (hd : VDest (k1.orFlags fl) long d r k2) :
    CompletesVec (.vcvt d a src dst) s k2 := by
  subst hk hn
  show execVcvt d a src dst s = _
  refine runVec_ok ?_
  rw [bind_ok (vecMode_ok hmode), bind_ok getModes_ok, bind_ok (getVN_of_vsource ha), map_lanes, vBits_eq]
  exact writeLanes_ok hr hfl hd

theorem vperm_completes (hmode : OneMode k long [d, a, b]) (ha : VSource k long a x k1) (hb : VSource k1 long b y k2) (hw : w = tyBits t)
    (hn : n = 8 * vecBytes long / w) (hr : Lanes w n r fun i => if at' w y i < n then at' w x (at' w y i) else 0)
    (hd : VDest k2 long d r k3) : CompletesVec (.vperm d a b t) s k3 := by
  subst hk hw hn
  show execVperm d a b t s = _
  refine runVec_ok ?_
  rw [bind_ok (vecMode_ok hmode), bind_ok (getVN_of_vsource ha), bind_ok (getVN_of_vsource hb), map_lanes, vBits_eq]
  exact setVN_lanes hr hd

/-! ### VBCL, VEXTX and VINSX -/

theorem vbcl_completes (hmode : OneMode k long [d, a]) (ha : VSource k long a x k1) (hb : Source k1 b j k2) (hw : w = tyBits t)
    (hn : n = 8 * vecBytes long / w) (hj : j.toNat < n) (hr : Lanes w n r fun _ => at' w x j.toNat) (hd : VDest k2 long d r k3) :
    CompletesVec (.vbcl d a b t) s k3 := by
  subst hk hw hn
  show execVbcl d a b t s = _
  refine runVec_ok ?_
  rw [bind_ok (vecMode_ok hmode), bind_ok (getVN_of_vsource ha), vBits_eq, bind_ok (laneIndex_ok hb hj)]
  rw [eq_ofLanes_of_lanes hr] at hd
  exact setVN_of_vdest hd

theorem vbcl_traps (hmode : OneMode k long [d, a]) (ha : VSource k long a x k1) (hb : Source k1 b j k2) (hw : w = tyBits t)
    (hn : n = 8 * vecBytes long / w) (hj : n ≤ j.toNat) : Traps (.vbcl d a b t) s causeBadOp j := by
  subst hk hw hn
  show execVbcl d a b t s = _
  refine runVec_stops (e := .trap causeBadOp j) ?_
  rw [bind_ok (vecMode_ok hmode), bind_ok (getVN_of_vsource ha), vBits_eq, bind_err (laneIndex_trap hb hj)]

theorem vextx_completes (hmode : OneMode k long [a]) (ha : VSource k long a x k1) (hb : Source k1 b j k2) (hw : w = tyBits t)
    (hj : j.toNat < 8 * vecBytes long / w)
    (hd : Dest k2 d (if t.isSigned then BitVec.ofInt 64 (sextNat (at' w x j.toNat) w) else BitVec.ofNat 64 (at' w x j.toNat)) k3) :
    CompletesVec (.vextx d a b t) s k3 := by
  subst hk hw
  show execVextx d a b t s = _
  refine runVec_ok ?_
  rw [bind_ok (vecMode_ok hmode), bind_ok (getVN_of_vsource ha), vBits_eq, bind_ok (laneIndex_ok hb hj)]
  exact setX_of_dest hd

theorem vextx_traps (hmode : OneMode k long [a]) (ha : VSource k long a x k1) (hb : Source k1 b j k2) (hw : w = tyBits t)
    (hj : 8 * vecBytes long / w ≤ j.toNat) : Traps (.vextx d a b t) s causeBadOp j := by
  subst hk hw
  show execVextx d a b t s = _
  refine runVec_stops (e := .trap causeBadOp j) ?_
  rw [bind_ok (vecMode_ok hmode), bind_ok (getVN_of_vsource ha), vBits_eq, bind_err (laneIndex_trap hb hj)]

theorem vinsx_completes (hmode : OneMode k long [d]) (ha : Source k a v k1) (hb : Source k1 b j k2) (hx : VSource k2 long d x k3)
    (hw : w = tyBits t) (hn : n = 8 * vecBytes long / w) (hj : j.toNat < n)
    (hr : Lanes w n r fun i => if i = j.toNat then v.toNat % 2 ^ w else at' w x i) (hd : VDest k3 long d r k4) :
    CompletesVec (.vinsx d a b t) s k4 := by
  subst hk hw hn
  show execVinsx d a b t s = _
  refine runVec_ok ?_
  rw [bind_ok (vecMode_ok hmode), bind_ok (getX_of_source ha), vBits_eq, bind_ok (laneIndex_ok hb hj), bind_ok (getVN_of_vsource hx),
    lanes, setAt_map_range, bitsOf_zero]
  exact setVN_lanes hr hd

theorem vinsx_traps (hmode : OneMode k long [d]) (ha : Source k a v k1) (hb : Source k1 b j k2) (hw : w = tyBits t)
    (hj : 8 * vecBytes long / w ≤ j.toNat) : Traps (.vinsx d a b t) s causeBadOp j := by
  subst hk hw
  show execVinsx d a b t s = _
  refine runVec_stops (e := .trap causeBadOp j) ?_
  rw [bind_ok (vecMode_ok hmode), bind_ok (getX_of_source ha), vBits_eq, bind_err (laneIndex_trap hb hj)]

/-! ### VMOV, VZERO and VCNT -/

theorem vmov_completes (hmode : OneMode k long [d, a]) (ha : VSource k long a x k1) (hd : VDest k1 long d x k2) :
    CompletesVec (.vmov d a) s k2 := by
  subst hk
  show execVmov d a s = _
  exact runVec_ok (by rw [bind_ok (vecMode_ok hmode), bind_ok (getVN_of_vsource ha), setVN_of_vdest hd])

theorem vzero_completes (hmode : OneMode k long [d]) (hd : VDest k long d 0 k1) : CompletesVec (.vzero d) s k1 := by
  subst hk
  show execVzero d s = _
  exact runVec_ok (by rw [bind_ok (vecMode_ok hmode), setVN_of_vdest hd])

theorem vcnt_completes (hmode : OneMode k long [d, a]) (ha : VSource k long a x k1) (hw : w = tyBits t)
    (hr : Lanes w (8 * vecBytes long / w) r fun i => ((List.range w).filter fun n => (at' w x i).testBit n).length)
    (hd : VDest k1 long d r k2) : CompletesVec (.vcnt d a t) s k2 := by
  subst hw
  exact vecUn_completes hk rfl hmode ha rfl (by simpa only [onesOf_eq] using hr) (allFlags_zero _) (by rwa [orFlags_zero])

/-! ### VRAND -/

/-- A lane of a random register from a lane of the blocks (R146). -/
def randomLane (t : Ty) (v : Nat) : Nat := if t = .f32 then uniform .f32 (v / 2 ^ 8) 24 else uniform .f64 (v / 2 ^ 11) 53

theorem vrand_completes {c nb : Nat} (hmode : OneMode k long [d]) (hnb : nb = vecBytes long / 16) (hw : w = tyBits t)
    (hc : c = k.u.rngchi.toNat * 2 ^ 64 + k.u.rngclo.toNat)
    (hr : Lanes w (8 * vecBytes long / w) r fun i => randomLane t (at' w (philoxWords c k.u.rngkey.toNat nb) i))
    (hd : VDest { k with u := { k.u with rngclo := BitVec.ofNat 64 (c + nb), rngchi := BitVec.ofNat 64 ((c + nb) / 2 ^ 64) } } long d r k1) :
    CompletesVec (.vrand d t) s k1 := by
  have hblocks : vBits long / 128 = nb := by subst hnb; cases long <;> rfl
  have hlow : BitVec.ofNat 64 ((c + nb) % 2 ^ 128) = BitVec.ofNat 64 (c + nb) := by
    refine BitVec.eq_of_toNat_eq ?_
    rw [BitVec.toNat_ofNat, BitVec.toNat_ofNat, Nat.mod_mod_of_dvd _ (by decide)]
  have hhigh : BitVec.ofNat 64 ((c + nb) % 2 ^ 128 / 2 ^ 64) = BitVec.ofNat 64 ((c + nb) / 2 ^ 64) := by
    refine BitVec.eq_of_toNat_eq ?_
    rw [BitVec.toNat_ofNat, BitVec.toNat_ofNat]
    omega
  subst hk hw
  show execVrand d t s = _
  refine runVec_ok ?_
  rw [bind_ok (vecMode_ok hmode), rd_bind]
  dsimp only
  rw [← hc, hblocks, hlow, hhigh, map_lanes, vBits_eq]
  exact (bind_ok rfl).trans (setVN_lanes hr hd)

end

/-! ### VSEL and VINSX of v14 and v15 (R29) -/

theorem vBoth_queue {d : Nat} (hd : d = 14 ∨ d = 15) : vBoth (BitVec.ofNat 5 d) = false := by
  rcases hd with rfl | rfl <;> rfl

theorem decodeNat_queue_both {w op d : Nat} (hm : bitsOf w 26 6 = 0x32) (ho : op = bitsOf w 0 6) (hop : op = 14 ∨ op = 24)
    (hd : d = bitsOf w 21 5) (hq : d = 14 ∨ d = 15) : decodeNat w = none := by
  have hboth : vBoth (fD w) = false := by
    have h := vBoth_queue hq
    rwa [hd] at h
  refine decodeNat_none fun i hi => ?_
  rw [decodeRaw_veca hm, decVeca, ← ho] at hi
  obtain ⟨t, -, hi⟩ := Option.bind_eq_some_iff.1 hi
  rcases hop with rfl | rfl <;> cases hi <;> simp only [Instr.wf, hboth, Bool.false_and]

/-- Settles O28: a lane selected, moved or converted is that of its list of lanes, and the checks of the lane's number stand behind the
sources and before the destination. -/
theorem laneMoves : Obligations.LaneMoves :=
  fun _ _ _ hk => ⟨fun _ _ _ _ _ _ _ _ _ _ _ _ _ _ => vsel_completes hk, fun _ _ _ _ _ _ _ _ _ _ => vcvt_completes hk,
    fun _ _ _ _ _ _ _ _ _ _ _ _ => vperm_completes hk,
    fun _ _ _ _ _ _ _ _ _ _ _ _ hmode ha hb hw hn => ⟨vbcl_completes hk hmode ha hb hw hn, vbcl_traps hk hmode ha hb hw hn⟩,
    fun _ _ _ _ _ _ _ _ _ => vextx_traps hk, fun _ _ _ _ _ _ _ _ _ => vinsx_traps hk, fun _ _ _ _ _ _ _ _ _ _ => vextx_completes hk,
    fun _ _ _ _ _ _ _ _ _ _ _ _ _ _ => vinsx_completes hk, fun _ _ _ _ _ => vmov_completes hk, fun _ _ => vzero_completes hk,
    fun _ _ _ _ _ _ _ _ => vcnt_completes hk, fun _ _ _ => decodeNat_queue_both, fun _ _ _ _ _ _ _ => vrand_completes hk⟩

end Sys2Proof.Machine

/-! ## Matrix instructions at issue (07, R155, R156, R159 to R167) -/

namespace Sys2Proof.Machine
open Sys2Proof.Safety

/-! ### Reading an operand leaves the tiles, the modes and the matrix unit -/

section
variable {k k' : Core} {r : Reg} {v : Word} (h : Source k r v k')
include h

theorem source_tile (t : Nat) : k'.tile t = k.tile t := by
  rw [source_rest h]
  rfl

theorem source_modesOf : modesOf k' = modesOf k := by
  rw [source_rest h]
  rfl

end

/-! ### The checks of R155 and R156 -/

section
variable {k : Core}

theorem waitMatFree_ok (h : k.mat = none) : waitMatFree k = .ok ((), k) := by
  rw [waitMatFree, h]
  rfl

theorem waitMatFree_wait (h : k.mat ≠ none) : waitMatFree k = .error (.wait id) := if_pos (Option.isSome_iff_ne_none.2 h)

theorem badMat_ok {c : Bool} {code : Nat} (h : c = false) : badMat c code k = .ok ((), k) := trapIf_ok _ _ _ h

theorem badMat_trap {c : Bool} {code : Nat} (h : c = true) : badMat c code k = .error (.trap causeBadOp (BitVec.ofNat 64 code)) :=
  trapIf_trap _ _ _ h

theorem pairBad_eq_false_iff {fa fb : MatFmt} : pairBad fa fb = false ↔ Pairs fa fb := by
  rw [pairBad, Pairs, bne_eq_false_iff_eq, Bool.eq_iff_iff, beq_iff_eq, beq_iff_eq]

theorem pairBad_eq_true_iff {fa fb : MatFmt} : pairBad fa fb = true ↔ ¬ Pairs fa fb := by
  rw [← pairBad_eq_false_iff, Bool.not_eq_false]

/-- The condition of code 2: MMULZ needs no class, and MMUL that of its formats. -/
theorem classBad_eq_false {zero : Bool} {c : TileClass} {fa : MatFmt} (h : zero = true ∨ c = pairClass fa) :
    (!zero && c != pairClass fa) = false := by
  rcases h with rfl | rfl <;> simp

theorem shiftBad_eq_true_iff {y : Word} : (y.toInt < -64 || 63 < y.toInt : Bool) = true ↔ y.toInt < -64 ∨ 63 < y.toInt := by
  rw [Bool.or_eq_true, decide_eq_true_iff, decide_eq_true_iff]

end

/-! ### Instructions of two x operands -/

section
variable {s : State} {k k1 k2 : Core} {a b : Reg} {x y : Word}

section
variable (hfree : k.mat = none) (ha : Source k a x k1) (hb : Source k1 b y k2)
include hfree ha hb

/-- With the unit free both operands are read, and the instruction goes on. -/
theorem matOperands_bind {α : Type} (f : Word → Word → CpuM α) :
    (do waitMatFree; let x ← getX a; let y ← getX b; f x y) k = f x y k2 := by
  rw [bind_ok (waitMatFree_ok hfree), bind_ok (getX_of_source ha), bind_ok (getX_of_source hb)]

theorem mmulSpOp_ok {zero : Bool} {t : BitVec 2} {fa fb : MatFmt} (hpair : Pairs fa fb)
    (hclass : zero = true ∨ (k.tile t.toNat).cls = pairClass fa) (hx : OperandAt x (matBytes fa) 64) (hy : OperandAt y (matBytes fb) 64) :
    mmulSpOp zero t fa a b fb k = .ok ((), { k2 with mat := some (.mmul zero t.toNat fa x.toNat y.toNat fb) }) := by
  rw [← source_tile ha, ← source_tile hb] at hclass
  rw [mmulSpOp, matOperands_bind hfree ha hb, rd_bind, bind_ok (badMat_ok (pairBad_eq_false_iff.2 hpair)),
    bind_ok (badMat_ok (classBad_eq_false hclass)), bind_ok (checkOperand_ok hx), bind_ok (checkOperand_ok hy)]
  rfl

theorem mmulSpOp_badPair {zero : Bool} {t : BitVec 2} {fa fb : MatFmt} (hpair : ¬ Pairs fa fb) :
    mmulSpOp zero t fa a b fb k = .error (.trap causeBadOp 1) := by
  rw [mmulSpOp, matOperands_bind hfree ha hb, rd_bind, bind_err (badMat_trap (pairBad_eq_true_iff.2 hpair))]
  rfl

theorem mmulSpOp_badClass {t : BitVec 2} {fa fb : MatFmt} (hpair : Pairs fa fb) (hclass : (k.tile t.toNat).cls ≠ pairClass fa) :
    mmulSpOp false t fa a b fb k = .error (.trap causeBadOp 2) := by
  rw [← source_tile ha, ← source_tile hb] at hclass
  rw [mmulSpOp, matOperands_bind hfree ha hb, rd_bind, bind_ok (badMat_ok (pairBad_eq_false_iff.2 hpair)),
    Bool.not_false, Bool.true_and, bind_err (badMat_trap (bne_iff_ne.2 hclass))]
  rfl

theorem mmulAccOp_ok {zero : Bool} {t ta : BitVec 2} {fa fb : MatFmt} (hpair : Pairs fa fb)
    (hclass : zero = true ∨ (k.tile t.toNat).cls = pairClass fa) (hsource : (k.tile ta.toNat).cls ≠ .f32) (hshift : y.toNat ≤ 63)
    (hx : OperandAt x (matBytes fb) 64) :
    mmulAccOp zero t fa a b fb ta k = .ok ((), { k2 with mat := some (.mmulAcc zero t.toNat fa ta.toNat y.toNat x.toNat fb) }) := by
  rw [← source_tile ha, ← source_tile hb] at hclass hsource
  rw [mmulAccOp, matOperands_bind hfree ha hb, rd_bind, bind_ok (badMat_ok (pairBad_eq_false_iff.2 hpair)),
    bind_ok (badMat_ok (classBad_eq_false hclass)), bind_ok (badMat_ok (beq_eq_false_iff_ne.2 hsource)),
    bind_ok (badMat_ok (decide_eq_false (Nat.not_lt.2 hshift))), bind_ok (checkOperand_ok hx)]
  rfl

theorem tileOperand_ok {t : Ty} (hlow : -64 ≤ y.toInt) (hhigh : y.toInt ≤ 63) (hx : OperandAt x (4096 * (tyBits t / 8)) 64) :
    tileOperand a b t k = .ok ((x.toNat, y.toInt), k2) := by
  have hshift : (y.toInt < -64 || 63 < y.toInt : Bool) = false := by
    rw [← Bool.not_eq_true, shiftBad_eq_true_iff]
    omega
  rw [tileOperand, matOperands_bind hfree ha hb, bind_ok (badMat_ok hshift), bind_ok (checkOperand_ok hx)]
  rfl

theorem tileOperand_trap {t : Ty} (h : y.toInt < -64 ∨ 63 < y.toInt) : tileOperand a b t k = .error (.trap causeBadOp 4) := by
  rw [tileOperand, matOperands_bind hfree ha hb, bind_err (badMat_trap (shiftBad_eq_true_iff.2 h))]
  rfl

end

variable (hfree : (s.core s.cur).mat = none) (ha : Source (s.core s.cur) a x k1) (hb : Source k1 b y k2)
include hfree ha hb

theorem mload_completes {d : Reg} {t : Ty} (hlow : -64 ≤ y.toInt) (hhigh : y.toInt ≤ 63) (hx : OperandAt x (4096 * (tyBits t / 8)) 64) :
    Completes (.mload d a b t) s { k2 with mat := some (.mload d.toNat x.toNat y.toInt t) } :=
  runCore_ok (by rw [bind_ok (tileOperand_ok hfree ha hb hlow hhigh hx)]; rfl)

theorem mstore_completes {d : Reg} {t : Ty} (hlow : -64 ≤ y.toInt) (hhigh : y.toInt ≤ 63) (hx : OperandAt x (4096 * (tyBits t / 8)) 64) :
    Completes (.mstore d a b t) s { k2 with mat := some (.mstore d.toNat x.toNat y.toInt t (modesOf (s.core s.cur)).sat) } :=
  runCore_ok (by
    rw [bind_ok (tileOperand_ok hfree ha hb hlow hhigh hx), bind_ok getModes_ok, source_modesOf hb, source_modesOf ha]
    rfl)

/-- MSCACC: x is the offset of the row exponents and y that of the column exponents. -/
theorem mscacc_completes {d c : Reg} (hd : ((s.core s.cur).tile d.toNat).cls = .f32) (hc : ((s.core s.cur).tile c.toNat).cls ≠ .f32)
    (hx : OperandAt x 64 64) (hy : OperandAt y 64 64) :
    Completes (.mscacc d c a b) s { k2 with mat := some (.mscacc d.toNat c.toNat x.toNat y.toNat (modesOf (s.core s.cur)).rm
      (modesOf (s.core s.cur)).ftz (modesOf (s.core s.cur)).daz) } := by
  have hclass : ((k2.tile d.toNat).cls != .f32 || (k2.tile c.toNat).cls == .f32) = false := by
    rw [source_tile hb, source_tile ha, source_tile hb, source_tile ha, hd, beq_eq_false_iff_ne.2 hc]
    rfl
  refine runCore_ok ?_
  rw [matOperands_bind hfree ha hb, rd_bind, bind_ok (badMat_ok hclass), bind_ok (checkOperand_ok hx), bind_ok (checkOperand_ok hy),
    bind_ok getModes_ok, source_modesOf hb, source_modesOf ha]
  rfl

theorem mscacc_badClass {d c : Reg} (h : ((s.core s.cur).tile d.toNat).cls ≠ .f32 ∨ ((s.core s.cur).tile c.toNat).cls = .f32) :
    Traps (.mscacc d c a b) s causeBadOp 5 := by
  have hclass : ((k2.tile d.toNat).cls != .f32 || (k2.tile c.toNat).cls == .f32) = true := by
    rw [Bool.or_eq_true, bne_iff_ne, beq_iff_eq, source_tile hb, source_tile ha, source_tile hb, source_tile ha]
    exact h
  refine runCore_trap ?_
  rw [matOperands_bind hfree ha hb, rd_bind, bind_err (badMat_trap hclass)]
  rfl

end

/-! ### Instructions without x operands -/

section
variable {s : State}

section
variable (hfree : (s.core s.cur).mat = none)
include hfree

/-- With the unit free an instruction that has nothing to check enters it. -/
theorem runCore_issueMat (op : MatOp) :
    runCore (do waitMatFree; issueMat op) s = .next (s.setCore s.cur { s.core s.cur with mat := some op }).retire :=
  runCore_ok (bind_ok (waitMatFree_ok hfree))

theorem mflags_completes {d : Reg} {k' : Core} (hd : Dest (s.core s.cur) d (mflagsWord (s.core s.cur)) k') : Completes (.mflags d) s k' :=
  runCore_ok (by rw [bind_ok (waitMatFree_ok hfree), rd_bind, setX_of_dest hd])

end

/-! ### The unit is occupied (R155) -/

section
variable (hbusy : (s.core s.cur).mat ≠ none)
include hbusy

theorem runCore_waitMatFree (f : Unit → CpuM Unit) : runCore (waitMatFree >>= f) s = .next s :=
  runCore_wait (bind_err (waitMatFree_wait hbusy))

theorem runCore_tileOperand_wait (a b : Reg) (t : Ty) (f : Nat × Int → CpuM Unit) : runCore (tileOperand a b t >>= f) s = .next s :=
  runCore_wait (bind_err (bind_err (waitMatFree_wait hbusy)))

end

/-! ### Retirement of an instruction that writes one tile (R155, R161, R166) -/

theorem tile_congr {k q : Core} (h : q.acc = k.acc) (t : Nat) : q.tile t = k.tile t := by rw [Core.tile, Core.tile, h]

/-- The core that has completed an instruction has the tiles, the flags and the matrix unit that the instruction left it. -/
theorem core_retire_setCore_matrix (s : State) (k : Core) : ((s.setCore s.cur k).retire.core s.cur).acc = k.acc
    ∧ ((s.setCore s.cur k).retire.core s.cur).u = k.u ∧ ((s.setCore s.cur k).retire.core s.cur).mat = k.mat := by
  obtain ⟨n, f, hcount⟩ := countIssue_rest (s.setCore s.cur k) k.advance
  rw [Frames.retire_setCore, State.core_setCore_self, hcount]
  simp [Core.advance]

/-- An instruction whose whole effect is to write one tile, from the tiles alone, retires with that tile written, and the other tiles and
every flag as they were at issue. -/
theorem matrixRetire_of_setTile {k : Core} {op : MatOp} {t : Nat} {x : Tile} (hc : s.cur < 1152)
    (heff : ∀ q : Core, q.acc = k.acc → matEffect q op = q.setTile t x) :
    ∃ u, exec (.matrixRetire s.cur) (s.setCore s.cur { k with mat := some op }).retire = .next u
      ∧ (∀ j, (u.core s.cur).tile j = (k.setTile t x).tile j) ∧ (u.core s.cur).u = k.u := by
  obtain ⟨hacc, hu, hmat⟩ := core_retire_setCore_matrix s { k with mat := some op }
  refine ⟨_, matrixRetire_happens hc hmat, fun j => ?_, ?_⟩
  · rw [State.core_setCore_self, heff _ hacc]
    refine tile_congr ?_ j
    rw [Core.setTile, Core.setTile, hacc]
  · rw [State.core_setCore_self, heff _ hacc]
    exact hu

variable (hfree : (s.core s.cur).mat = none) (hc : s.cur < 1152)
include hfree hc

theorem mzero_retired {d : Reg} (c : TileClass) (hd : d.toNat < 4) :
    ∃ t u, exec (.mzero d c) s = .next t ∧ exec (.matrixRetire s.cur) t = .next u
      ∧ ((u.core s.cur).tile d.toNat).cls = c ∧ (∀ j, j < 4096 → ((u.core s.cur).tile d.toNat).at j = 0)
      ∧ (∀ q, q ≠ d.toNat → (u.core s.cur).tile q = (s.core s.cur).tile q) ∧ (u.core s.cur).u = (s.core s.cur).u := by
  obtain ⟨u, hret, htile, hu⟩ := matrixRetire_of_setTile (op := .mzero d.toNat c) (k := s.core s.cur) hc fun _ _ => rfl
  refine ⟨_, u, runCore_issueMat hfree _, hret, ?_, fun j _ => ?_, fun q hq => ?_, hu⟩
  · rw [htile, Core.tile_setTile_self _ _ hd]
    rfl
  · rw [htile, Core.tile_setTile_self _ _ hd, tileOf_at]
    exact List.getD_nil
  · rw [htile, Core.tile_setTile_ne _ _ hq]

theorem mcopy_retired {d : Reg} (a : Reg) (hd : d.toNat < 4) :
    ∃ t u, exec (.mcopy d a) s = .next t ∧ exec (.matrixRetire s.cur) t = .next u
      ∧ (u.core s.cur).tile d.toNat = (s.core s.cur).tile a.toNat
      ∧ (∀ q, q ≠ d.toNat → (u.core s.cur).tile q = (s.core s.cur).tile q) ∧ (u.core s.cur).u = (s.core s.cur).u := by
  obtain ⟨u, hret, htile, hu⟩ := matrixRetire_of_setTile (op := .mcopy d.toNat a.toNat) (k := s.core s.cur) hc
    fun q hq => congrArg (q.setTile d.toNat) (tile_congr hq a.toNat)
  refine ⟨_, u, runCore_issueMat hfree _, hret, ?_, fun q hq => ?_, hu⟩
  · rw [htile, Core.tile_setTile_self _ _ hd]
  · rw [htile, Core.tile_setTile_ne _ _ hq]

end

/-- Settles O31: with the unit free each instruction passes its checks in their order, or stops at the first that fails, and enters the
unit; with the unit occupied each waits before it reads an operand. -/
theorem matrixIssues : Obligations.MatrixIssues := by
  rintro s k rfl
  constructor
  · intro hfree
    refine ⟨fun t fa a b fb x y k1 k2 ha hb hpair hx hy => ⟨?_, fun hcls => ?_, fun hcls => ?_⟩,
      fun t fa a b fb x y k1 k2 ha hb hpair => ⟨?_, ?_⟩,
      fun t fa a b fb ta x y k1 k2 ha hb hpair hta hsh hx => ⟨?_, fun hcls => ?_⟩,
      fun d c => runCore_issueMat hfree _, fun d c => runCore_issueMat hfree _, fun d a => runCore_issueMat hfree _,
      fun d c hc hd => mzero_retired hfree hc c hd, fun d a hc hd _ => mcopy_retired hfree hc a hd,
      fun d a b t x y k1 k2 ha hb => ⟨fun hlow hhigh hx => ⟨?_, ?_⟩, fun hshift => ⟨?_, ?_⟩⟩,
      fun d a b e x y k1 k2 ha hb => ⟨mscacc_completes hfree ha hb, mscacc_badClass hfree ha hb⟩, fun d k' => mflags_completes hfree⟩
    · exact runCore_ok (mmulSpOp_ok hfree ha hb hpair (.inl rfl) hx hy)
    · exact runCore_ok (mmulSpOp_ok hfree ha hb hpair (.inr hcls) hx hy)
    · exact runCore_trap (mmulSpOp_badClass hfree ha hb hpair hcls)
    · exact runCore_trap (mmulSpOp_badPair hfree ha hb hpair)
    · exact runCore_trap (mmulSpOp_badPair hfree ha hb hpair)
    · exact runCore_ok (mmulAccOp_ok hfree ha hb hpair (.inl rfl) hta hsh hx)
    · exact runCore_ok (mmulAccOp_ok hfree ha hb hpair (.inr hcls) hta hsh hx)
    · exact mload_completes hfree ha hb hlow hhigh hx
    · exact mstore_completes hfree ha hb hlow hhigh hx
    · exact runCore_trap (bind_err (tileOperand_trap hfree ha hb hshift))
    · exact runCore_trap (bind_err (tileOperand_trap hfree ha hb hshift))
  · intro hbusy
    exact ⟨fun d c => ⟨runCore_waitMatFree hbusy _, runCore_waitMatFree hbusy _⟩, fun d a => runCore_waitMatFree hbusy _,
      fun d => runCore_waitMatFree hbusy _,
      fun d a b t => ⟨runCore_tileOperand_wait hbusy a b t _, runCore_tileOperand_wait hbusy a b t _⟩,
      fun d a b e => runCore_waitMatFree hbusy _,
      fun t fa a b fb => ⟨runCore_waitMatFree hbusy _, runCore_waitMatFree hbusy _,
        fun ta => ⟨runCore_waitMatFree hbusy _, runCore_waitMatFree hbusy _⟩⟩⟩

end Sys2Proof.Machine

/-! ## Messages that the issuing core sends (08, R191 to R193) -/

namespace Sys2Proof.Machine
open Sys2Proof.Safety

/-! ### The destination and the channel (R192) -/

section
variable {s : State} {k k' : Core} {v : Word} {dst gen : Nat} {ch : BitVec 6}

@[simp] theorem State.logicalCount_setCore (s : State) (c : Nat) (k : Core) : (s.setCore c k).logicalCount = s.logicalCount :=
  State.logicalCount_congr rfl rfl rfl

theorem sendDest_ok (h : Destination s v dst gen) : sendDest v s = .ok ((dst, gen), s) := by
  obtain ⟨h63, h30, h15, rfl, hlt, rfl⟩ := h
  have hzero : (slice v 63 32 != 0 || slice v 30 28 != 0 || slice v 15 12 != 0) = false := by
    have := v.isLt
    simp only [slice, bitsOf, Bool.or_eq_false_iff, bne_eq_false_iff_eq]
    omega
  have hcore : slice v 11 0 = v.toNat % 4096 := by simp [slice, bitsOf]
  rw [sendDest, bind_ok (trapIf_ok _ _ _ hzero), rd_bind, hcore, bind_ok (trapIf_ok _ _ _ (decide_eq_false (Nat.not_le.2 hlt)))]
  rfl

theorem sendDest_reserved (h : v.toNat / 2 ^ 32 ≠ 0) : sendDest v s = .error (.trap causeBadOp v) := by
  have hbits : (slice v 63 32 != 0) = true := by
    have := v.isLt
    simp only [slice, bitsOf, bne_iff_ne]
    omega
  exact bind_err (trapIf_trap _ _ _ (by rw [hbits]; rfl))

theorem sendDest_absent (hv : v.toNat < 4096) (h : s.logicalCount ≤ v.toNat) : sendDest v s = .error (.trap causeMsg 2) := by
  have hzero : (slice v 63 32 != 0 || slice v 30 28 != 0 || slice v 15 12 != 0) = false := by
    simp only [slice, bitsOf, Bool.or_eq_false_iff, bne_eq_false_iff_eq]
    omega
  have hcore : slice v 11 0 = v.toNat := by
    simp only [slice, bitsOf]
    omega
  rw [sendDest, bind_ok (trapIf_ok _ _ _ hzero), rd_bind, hcore, bind_err (trapIf_trap _ _ _ (decide_eq_true h))]

theorem channelBarred_eq_false_iff : channelBarred k.user ch.toNat = false ↔ MayName k ch := by
  cases hu : k.user <;> simp_all [channelBarred, MayName, Core.user]

theorem checkChannel_ok (h : MayName k ch) : checkChannel ch k = .ok ((), k) := trapIf_ok _ _ _ (channelBarred_eq_false_iff.2 h)

theorem checkChannel_trap (h : ¬ MayName k ch) : checkChannel ch k = .error (.trap causeBadOp (ch.setWidth 64)) :=
  trapIf_trap _ _ _ (Bool.eq_true_of_not_eq_false (mt channelBarred_eq_false_iff.1 h))

end

/-! ### The payload (R191) -/

section
variable {k k' : Core} {d : Reg} {n : Nat} {l : List Word}

theorem payloadX_of_payload (h : Payload k d n l k') : payloadX d n k = .ok (l, k') := by
  induction n generalizing l k' with
  | zero =>
    obtain ⟨rfl, rfl⟩ := h
    rfl
  | succ n ih =>
    obtain ⟨l0, v, k1, hl, hv, rfl⟩ := h
    rw [payloadX, bind_ok (ih hl), bind_ok (getX_of_source hv), pure_ok]

theorem payload_rest (h : Payload k d n l k') : k' = { k with qi := k'.qi } := by
  induction n generalizing l k' with
  | zero =>
    obtain ⟨-, rfl⟩ := h
    rfl
  | succ n ih =>
    obtain ⟨l0, v, k1, hl, hv, -⟩ := h
    rw [source_rest hv, ih hl]

/-- A vector operand leaves everything of the core but vqi and the count of its pops. -/
theorem vsource_rest {long : Bool} {r : Reg} {v : Nat} (h : VSource k long r v k') : k' = { k with vqi := k'.vqi, popped := k'.popped } := by
  rcases h with ⟨-, -, rfl⟩ | ⟨-, -, rfl⟩ | ⟨-, -, _, _, -, -, rfl⟩ <;> rfl

/-- SENDV takes a register of 256 bits, or vqi as v14. -/
theorem sendVec_of_vsource {w : Nat} (hmode : OneMode k false [d]) (h : VSource k false d w k') :
    ∃ x : VWord, w = x.toNat ∧ sendVec d k = .ok (x, k') := by
  have hlong : isLong k d = false := hmode d (List.mem_singleton_self d)
  have hget : ∃ x : VWord, w = x.toNat ∧ getV d k = .ok (x, k') := by
    rcases h with ⟨h, -, -⟩ | ⟨-, ⟨x, hx, rfl⟩, rfl⟩ | ⟨-, rfl, x, rest, hq, rfl, rfl⟩
    · cases h
    · obtain ⟨hlt, rfl⟩ := Vector.getElem?_eq_some_iff.1 hx
      exact ⟨_, rfl, by simp only [getV, dif_pos hlt]⟩
    · exact ⟨x, rfl, by simp [getV, popVqi, hq]⟩
  obtain ⟨x, hw, hx⟩ := hget
  exact ⟨x, hw, by rw [sendVec, rd_bind, bind_ok (trapIf_ok _ _ _ hlong), hx]⟩

end

/-! ### The interface (R191, R271) -/

section
variable {s : State} {k : Core} {dst gen kind : Nat} {ch : BitVec 6}

@[simp] theorem State.niRoom_setCore (s : State) (c d : Nat) (k : Core) : (s.setCore c k).niRoom d = s.niRoom d := rfl

theorem netReady_setCore (hk : k.stq = (s.core s.cur).stq) (h : NetReady s) : NetReady (s.setCore s.cur k) := by
  refine ⟨h.1, ?_⟩
  rw [State.nearStores, State.setCore_cur, State.core_setCore_self, hk]
  exact h.2

theorem waitNi_ok (h : NetReady s) : waitNi s = .ok ((), s) := by
  simp only [waitNi, h.2, beq_eq_false_iff_ne.2 h.1, Bool.or_self, Bool.false_eq_true, if_false]

/-- A message is made of the sender's place in the core map, its PTS and its context. -/
theorem messageOf_congr {t : State} (hb : t.plat.l2pbase = s.plat.l2pbase) (hh : t.plat.hmap = s.plat.hmap) (hm : t.mem = s.mem)
    (hcur : t.cur = s.cur) (hpts : (t.core t.cur).pts = (s.core s.cur).pts) (hsv : (t.core t.cur).sv = (s.core s.cur).sv) :
    messageOf t = messageOf s := by
  funext dst gen ch kind l
  rw [messageOf, messageOf, hpts, hsv, State.logical_congr hb hh hm, hcur]

theorem sent_nil (s : State) (k : Core) : sent s k [] = s.setCore s.cur k := by
  rw [sent, List.map_nil, List.append_nil]
  rfl

theorem sendOne_ok (hk : k.stq = (s.core s.cur).stq) (h : NetReady s) (l : List Word) :
    sendOne dst gen ch kind l (s.setCore s.cur k) = .ok ((), sent s k [messageOf (s.setCore s.cur k) dst gen ch kind l]) := by
  rw [sendOne, bind_ok (waitNi_ok (netReady_setCore hk h))]
  rfl

end

/-! ### SEND, RSEND and SENDV -/

section
variable {s : State} {d a : Reg} {ch : BitVec 6} {len : BitVec 4} {v : Word} {dst gen w : Nat} {l : List Word} {k1 k2 : Core}

section
variable (ha : Source (s.core s.cur) a v k1)
include ha

theorem send_completes (hd : Destination (s.setCore s.cur k1) v dst gen) (hl : Payload k1 d len.toNat l k2) (hch : MayName k2 ch)
    (hni : NetReady s) : CompletesAt (.send d a ch len) s (sent s k2 [messageOf (s.setCore s.cur k2) dst gen ch 0 l]) := by
  have hstq : k2.stq = (s.core s.cur).stq := by rw [payload_rest hl, source_rest ha]
  refine runInstr_ok ?_
  rw [bind_ok (onCore_ok (getX_of_source ha)), bind_ok (sendDest_ok hd), bind_ok (onCore_setCore (payloadX_of_payload hl)),
    bind_ok (onCore_setCore (checkChannel_ok hch)), sendOne_ok hstq hni]

theorem sendv_completes (hd : Destination (s.setCore s.cur k1) v dst gen) (hmode : OneMode k1 false [d]) (hw : VSource k1 false d w k2)
    (hch : MayName k2 ch) (hni : NetReady s) :
    CompletesAt (.sendv d a ch) s (sent s k2 [messageOf (s.setCore s.cur k2) dst gen ch 1
      [BitVec.ofNat 64 (bitsOf w 0 64), BitVec.ofNat 64 (bitsOf w 64 64), BitVec.ofNat 64 (bitsOf w 128 64),
       BitVec.ofNat 64 (bitsOf w 192 64)]]).flushChain := by
  have hstq : k2.stq = (s.core s.cur).stq := by rw [vsource_rest hw, source_rest ha]
  obtain ⟨x, rfl, hx⟩ := sendVec_of_vsource hmode hw
  refine runVmem_ok ?_
  rw [bind_ok (onCore_ok (getX_of_source ha)), bind_ok (sendDest_ok hd), bind_ok (onCore_setCore hx),
    bind_ok (onCore_setCore (checkChannel_ok hch)), sendOne_ok hstq hni]
  rfl

theorem send_badDestination {c : Nat} {x : Word} (h : sendDest v (s.setCore s.cur k1) = .error (.trap c x)) :
    Traps (.send d a ch len) s c x := by
  refine runInstr_trap ?_
  rw [bind_ok (onCore_ok (getX_of_source ha)), bind_err h]

theorem send_badChannel (hd : Destination (s.setCore s.cur k1) v dst gen) (hl : Payload k1 d len.toNat l k2) (hch : ¬ MayName k2 ch) :
    Traps (.send d a ch len) s causeBadOp (ch.setWidth 64) := by
  refine runInstr_trap ?_
  rw [bind_ok (onCore_ok (getX_of_source ha)), bind_ok (sendDest_ok hd), bind_ok (onCore_setCore (payloadX_of_payload hl)),
    bind_err (onCore_err (by rw [State.setCore_cur, State.core_setCore_self, checkChannel_trap hch]))]

end

theorem rsend_completes {act : Activation} (h3 : (s.core s.cur).slot3 = .idle) (hact : (s.core s.cur).act = some act) (h0 : act.ahdr ≠ 0)
    (h4 : act.ahdr.toNat / 2 ^ 16 % 8 ≠ 4) (hl : Payload (s.core s.cur) d len.toNat l k2) (hch : MayName k2 ch) (hni : NetReady s) :
    CompletesAt (.rsend d ch len) s
      (sent s k2 [messageOf (s.setCore s.cur k2) (act.ahdr.toNat / 2 ^ 22 % 4096) (s.core s.cur).u.hgen ch 3 l]) := by
  have hstq : k2.stq = (s.core s.cur).stq := by rw [payload_rest hl]
  have hhdr : (s.core s.cur).sendAhdr = act.ahdr := by rw [Core.sendAhdr, Core.onSys_eq_false_iff.2 h3, hact]; rfl
  have hok : (act.ahdr == 0 || slice act.ahdr 18 16 == 4) = false :=
    Bool.or_eq_false_iff.2 ⟨beq_eq_false_iff_ne.2 h0, beq_eq_false_iff_ne.2 h4⟩
  refine runInstr_ok ?_
  rw [bind_ok (onCore_rd s), hhdr, bind_ok (trapIf_ok _ _ _ hok), bind_ok (onCore_setCore (payloadX_of_payload hl)),
    bind_ok (onCore_setCore (checkChannel_ok hch)), sendOne_ok hstq hni]
  rfl

theorem rsend_noMessage (h : (s.core s.cur).slot3 ≠ .idle ∨ ∃ act, (s.core s.cur).act = some act ∧ act.ahdr = 0) :
    Traps (.rsend d ch len) s causeMsg 4 := by
  have hhdr : (s.core s.cur).sendAhdr = 0 := by
    unfold Core.sendAhdr
    rcases h with h | ⟨act, hact, h0⟩
    · rw [if_pos (Core.onSys_iff.2 h)]
    · rw [hact]
      exact ite_eq_left_iff.2 fun _ => h0
  refine runInstr_trap ?_
  rw [bind_ok (onCore_rd s), bind_err (trapIf_trap _ _ _ (by rw [hhdr]; rfl))]

end

/-- Settles O20: each of the three instructions reads its operands, passes its checks and hands its message to the interface, or stops at the
first check that fails. -/
theorem sendsMessageOrTraps : Obligations.SendsMessageOrTraps :=
  ⟨⟨fun _ _ _ _ _ _ _ _ _ _ _ => send_completes, fun _ _ _ _ _ _ _ => rsend_completes, fun _ _ _ _ _ _ _ _ _ _ => sendv_completes⟩,
    fun s _ _ _ _ _ _ ha => ⟨fun h => send_badDestination ha (sendDest_reserved h),
      fun hv h => send_badDestination ha (sendDest_absent hv (by rwa [State.logicalCount_setCore])),
      fun _ _ _ _ => send_badChannel ha⟩,
    fun _ _ _ _ => rsend_noMessage⟩

/-! ### SENDNZ (R193): the lanes that a scan sends -/

section
variable {t : Ty} {v first n : Nat}

/-- The lanes that a scan of n lanes from one on sends, in their order. -/
def scannedLanes (t : Ty) (v first n : Nat) : List Nat := (List.range n).filter fun i => decide (first ≤ i) && laneNonzero t (lane v (tyBits t) i)

/-- The payload of a lane's message. -/
def lanePayload (t : Ty) (v i : Nat) : List Word := [BitVec.ofNat 64 i, laneWord t (lane v (tyBits t) i)]

theorem scanLanes_eq : scanLanes t v first n = (scannedLanes t v first n).map fun i => (i, lanePayload t v i) := by
  rw [scannedLanes, ← List.filterMap_eq_map', List.filterMap_filter]
  rfl

/-- The magnitude of a floating lane is what is left without its sign. -/
theorem laneNonzero_eq (i : Nat) : laneNonzero t (lane v (tyBits t) i)
    = if t.isFloat then decide (bitsOf v (tyBits t * i) (tyBits t - 1) ≠ 0) else decide (bitsOf v (tyBits t * i) (tyBits t) ≠ 0) := by
  have hmag : bitsOf v (tyBits t * i) (tyBits t) % 2 ^ (tyBits t - 1) = bitsOf v (tyBits t * i) (tyBits t - 1) :=
    Nat.mod_mod_of_dvd _ (Nat.pow_dvd_pow 2 (Nat.sub_le ..))
  rw [laneNonzero, lane, hmag]
  split <;> simp [bne, beq_eq_decide]

end

/-! ### SENDNZ: handing over as many messages as there are places -/

section
variable {s : State} {k : Core} {dst gen : Nat} {ch : BitVec 6} {l : List (Nat × List Word)}

/-- The messages of a list of lanes. -/
def laneMsgs (s : State) (dst gen : Nat) (ch : BitVec 6) (l : List (Nat × List Word)) : List Msg := l.map fun p => messageOf s dst gen ch 2 p.2

theorem postAll_eq (s : State) (l : List (Nat × List Word)) : s.postAll dst gen ch 2 l
    = { s with net := s.net ++ (laneMsgs s dst gen ch l).map fun m => ⟨s.cur, m, none⟩ } := by
  induction l generalizing s with
  | nil => rw [laneMsgs, List.map_nil, List.map_nil, List.append_nil]; rfl
  | cons p r ih =>
    have hsame : messageOf (s.post s.cur (s.programMsg dst gen ch 2 p.2)) = messageOf s := messageOf_congr rfl rfl rfl rfl rfl rfl
    rw [State.postAll, ih, laneMsgs, laneMsgs, hsame, List.map_cons, List.map_cons, State.post, List.append_assoc]
    rfl

theorem sendLanes_all (hk : k.stq = (s.core s.cur).stq) (hni : NetReady s) (hl : l.length ≤ s.niRoom s.cur) :
    sendLanes dst gen ch l (s.setCore s.cur k) = .ok ((), sent s k (laneMsgs (s.setCore s.cur k) dst gen ch l)) := by
  rw [sendLanes, bind_ok (waitNi_ok (netReady_setCore hk hni)), rd_bind]
  simp only [State.niRoom_setCore, State.setCore_cur, List.drop_eq_nil_of_le hl, wr, postAll_eq]
  rfl

theorem sendLanes_some (hk : k.stq = (s.core s.cur).stq) (hni : NetReady s) {p : Nat × List Word} (hp : l[s.niRoom s.cur]? = some p) :
    sendLanes dst gen ch l (s.setCore s.cur k) = .error (.wait fun u =>
      (u.postAll dst gen ch 2 (l.take (s.niRoom s.cur))).modCore u.cur fun q => q.setPending (.scan p.1)) := by
  obtain ⟨hlt, rfl⟩ := List.getElem?_eq_some_iff.1 hp
  rw [sendLanes, bind_ok (waitNi_ok (netReady_setCore hk hni)), rd_bind]
  simp only [State.niRoom_setCore, State.setCore_cur, List.drop_eq_getElem_cons hlt, waitFor]

theorem postAll_setPending (p : Pend) : (s.postAll dst gen ch 2 l).modCore s.cur (fun q => q.setPending p)
    = sent s ((s.core s.cur).setPending p) (laneMsgs s dst gen ch l) := by
  rw [postAll_eq]
  rfl

end

section
variable {s : State} {d a : Reg} {ch : BitVec 6} {t : Ty} {long : Bool} {v : Word} {dst gen w : Nat} {k1 k2 : Core}

theorem runVmem_congr {m m' : DevM Unit} (h : m s = m' s) : runVmem m s = runVmem m' s := by
  simp only [runVmem, runInstr, runDev, bind, StateT.bind, h]

theorem runVmem_wait {m : DevM Unit} {p : State → State} (h : m s = .error (.wait p)) : runVmem m s = .next (p s) :=
  runInstr_wait (bind_err h)

variable (ha : Source (s.core s.cur) a v k1) (hd : Destination (s.setCore s.cur k1) v dst gen) (hch : MayName k1 ch)
  (hmode : OneMode k1 long [d]) (hw : VSource k1 long d w k2) {l : List (Nat × List Word)}
  (hl : l = scanLanes t w (s.core s.cur).scanFrom (vBits long / tyBits t))
include ha hd hch hmode hw hl

/-- Past its operands and its checks SENDNZ hands over the lanes that its scan has still to send. -/
theorem exec_sendnz : exec (.sendnz d a ch t) s
    = runVmem (fun _ => (if l.isEmpty then pure () else sendLanes dst gen ch l : DevM Unit) (s.setCore s.cur k2)) s := by
  have hlong : isLong k1 d = long := hmode d (List.mem_singleton_self d)
  have hscan : k1.scanFrom = (s.core s.cur).scanFrom := by rw [source_rest ha]; rfl
  refine runVmem_congr ?_
  rw [bind_ok (onCore_ok (getX_of_source ha)), bind_ok (sendDest_ok hd), bind_ok (onCore_setCore (checkChannel_ok hch)),
    bind_ok (onCore_setCore (a := k1) (q := k1) rfl), hlong, bind_ok (onCore_setCore (getVN_of_vsource hw)), hscan, hl]

variable (hni : NetReady s)
include hni

theorem sendnz_completes (hroom : l.length ≤ s.niRoom s.cur) :
    CompletesAt (.sendnz d a ch t) s (sent s k2 (laneMsgs (s.setCore s.cur k2) dst gen ch l)).flushChain := by
  have hstq : k2.stq = (s.core s.cur).stq := by rw [vsource_rest hw, source_rest ha]
  refine (exec_sendnz ha hd hch hmode hw hl).trans (runVmem_ok ?_)
  cases l with
  | nil => exact congrArg (fun u => Except.ok ((), u)) (sent_nil s k2).symm
  | cons p r => exact sendLanes_all hstq hni hroom

theorem sendnz_continues {p : Nat × List Word} (hp : l[s.niRoom s.cur]? = some p) : exec (.sendnz d a ch t) s
    = .next (sent s ((s.core s.cur).setPending (.scan p.1)) (laneMsgs (s.setCore s.cur k2) dst gen ch (l.take (s.niRoom s.cur)))) := by
  have hsame : messageOf (s.setCore s.cur k2) = messageOf s := by
    refine messageOf_congr rfl rfl rfl rfl ?_ ?_
    all_goals
      rw [State.setCore_cur, State.core_setCore_self, vsource_rest hw, source_rest ha]
  have hstq : k2.stq = (s.core s.cur).stq := by rw [vsource_rest hw, source_rest ha]
  rw [laneMsgs, hsame, ← laneMsgs, ← postAll_setPending]
  have hsend := sendLanes_some (dst := dst) (gen := gen) (ch := ch) hstq hni hp
  refine (exec_sendnz ha hd hch hmode hw hl).trans ?_
  cases l with
  | nil => cases hp
  | cons q r => exact (runVmem_wait (m := fun _ => sendLanes dst gen ch (q :: r) (s.setCore s.cur k2)) hsend :)

end

/-- Settles O21: the lanes of the statement are those of the scan; the interface takes all of them, or as many as it has places. -/
theorem sendsNonzeroLanes : Obligations.SendsNonzeroLanes := by
  intro s d a ch t long v dst gen w k1 k2 l ha hd hch hmode hw hni _ hl
  have hscan : l = (scanLanes t w (s.core s.cur).scanFrom (vBits long / tyBits t)).map
      fun p => (p.1, messageOf (s.setCore s.cur k2) dst gen ch 2 p.2) := by
    rw [hl, scanLanes_eq, scannedLanes, List.map_map, vBits_eq]
    simp only [laneNonzero_eq]
    rfl
  subst hscan
  refine ⟨fun hroom => ?_, fun n hn => ?_⟩
  · rw [List.length_map] at hroom
    rw [List.map_map]
    exact sendnz_completes ha hd hch hmode hw rfl hni hroom
  · rw [List.getElem?_map, Option.map_map] at hn
    obtain ⟨p, hp, rfl⟩ := Option.map_eq_some_iff.1 hn
    rw [← List.map_take, List.map_map]
    exact sendnz_continues ha hd hch hmode hw rfl hni hp

end Sys2Proof.Machine

/-! ## The end of an activation, and the handler table (08, R175, R194 to R197) -/

namespace Sys2Proof.Machine
open Sys2Proof.Safety

/-! ### HRET and HYIELD (R194) -/

section
variable {s t : State} {k : Core} {a : Activation} {e f : HEntry} {ch : Nat}

@[simp] theorem rebound_fifo (e : HEntry) : (rebound e).fifo = e.fifo := by
  unfold rebound
  split <;> rfl

theorem entry_withEntry {e : HEntry} (h : HasEntry k ch f) : (withEntry k ch e).entry ch = e := by
  obtain ⟨hlt, -⟩ := Vector.getElem?_eq_some_iff.1 h
  simp [Core.entry, withEntry, hlt]

/-- Slot 3 has no activation to end. -/
theorem runDev_onSys {f : State → State} (h : (s.core s.cur).slot3 ≠ .idle) :
    runDev (do
      let k ← onCore rd
      trapIf k.onSys causeMsg 5
      onCore takeStreamFault
      wr f) s = .next (s.takeTrap causeMsg 5) :=
  runDev_trap (by rw [bind_ok (onCore_rd s), bind_err (trapIf_trap _ _ _ (Core.onSys_iff.2 h))])

/-- With nothing spilled for the core, a channel has a message waiting when its FIFO holds one. -/
theorem waits_of_noSpilled {c : Nat} (h : t.spilledFor c (t.core c).sv.ctxid.toNat (t.logical c) = []) :
    t.waits c ch = !((t.core c).entry ch).fifo.isEmpty := by
  rw [State.waits, h, List.any_nil, Bool.or_false]

variable (hact : (s.core s.cur).act = some a) (he : HasEntry (s.core s.cur) a.ch e) (hst : e.st ≠ .empty)
include hact he hst

theorem endActivation_noSpilled
    (ht : t = (s.setCore s.cur (ended (s.core s.cur) a.ch (rebound (headGone a e)))).endLeading s.cur)
    (hspill : t.spilledFor s.cur (s.core s.cur).sv.ctxid.toNat (t.logical s.cur) = []) :
    s.ended.endActivation s.cur = (t.modCore s.cur fun q => withEntry q a.ch
      { rebound (headGone a e) with pend := !(headGone a e).fifo.isEmpty }).tryRetire s.cur := by
  have hcore : t.core s.cur = { ended (s.core s.cur) a.ch (rebound (headGone a e)) with
      follow := (ended (s.core s.cur) a.ch (rebound (headGone a e))).follow.without s.cur } := by
    rw [ht, core_endLeading, State.core_setCore_self]
  have hentry : (t.core s.cur).entry a.ch = rebound (headGone a e) := by
    rw [hcore]
    exact entry_withEntry he
  have hwaits : t.waits s.cur a.ch = !(headGone a e).fifo.isEmpty := by
    rw [waits_of_noSpilled (by rw [hcore]; exact hspill), hentry, rebound_fifo]
  rw [endActivation_eq hact he hst ht hspill, State.modCore, State.modCore, hentry, hwaits]
  rfl

end

/-- Settles O22: an activation of slot 0 ends as the model's two ends of an activation say, and slot 3 has none to end. -/
theorem activationEnds : Obligations.ActivationEnds := by
  rintro s k rfl
  refine ⟨fun h => ⟨runDev_onSys h, runDev_onSys h⟩, fun a e h3 hf hact he hst => ⟨fun t ht hspill => ?_, ?_⟩⟩
  · rw [execHret_eq (Core.onSys_eq_false_iff.2 h3) hf, endActivation_noSpilled hact he hst ht hspill]
  · rw [execHyield_eq (Core.onSys_eq_false_iff.2 h3) hf, yieldActivation_eq hact he hst]

/-! ### HBIND (R175, R195) -/

section
variable {s : State} {k : Core} {a : Reg} {ch : BitVec 6} {prio : BitVec 4} {c code : Word} {e e' f : HEntry} {p rgn : Nat} {own waits : Bool}

/-- The table of R175 has one result for each entry. -/
theorem eq_bind_of_binds (h : Binds e c code p rgn own waits e') : e' = e.bind c code p rgn own waits := by
  obtain ⟨hreserve, hnone, hbind, hkept, htaken, hother, hown, hagain⟩ := h
  obtain ⟨st, prio, en, pend, r, code', ncode, nprio, fifo⟩ := e
  cases st with
  | empty =>
    by_cases hc : c = 0
    · exact (hreserve rfl hc).trans (if_pos hc).symm
    · refine Eq.trans ?_ (if_neg hc).symm
      by_cases hz : code = 0
      · exact (hnone rfl hc hz).trans (if_pos hz).symm
      · exact (hbind rfl hz).trans (if_neg hz).symm
  | reserved =>
    by_cases hz : code = 0
    · exact (hkept rfl hz).trans (if_pos hz).symm
    · exact (htaken rfl hz).trans (if_neg hz).symm
  | bound =>
    cases own with
    | true => exact hown rfl rfl
    | false => exact hother rfl rfl
  | rebinding => exact hagain rfl

theorem issuingChannel_eq_some_iff {n : Nat} : k.issuingChannel = some n ↔ k.slot3 = .idle ∧ ∃ q, k.act = some q ∧ q.ch = n := by
  rw [← Core.onSys_eq_false_iff, Core.issuingChannel]
  cases k.onSys <;> simp

theorem user_iff : k.user = true ↔ k.priv = 0 := beq_iff_eq

theorem bindRegion_system (h : k.priv ≠ 0) : k.bindRegion c = c.toNat / 2 ^ 60 := by
  have hu : k.user = false := beq_eq_false_iff_ne.2 h
  have := c.isLt
  simp only [Core.bindRegion, hu, Bool.not_false, if_true, slice, bitsOf]
  omega

theorem bindRegion_user {q : Activation} (h : k.priv = 0) (h3 : k.slot3 = .idle) (hq : k.act = some q) (hf : HasEntry k q.ch f) :
    k.bindRegion c = f.rgn := by
  simp only [Core.bindRegion, user_iff.2 h, Bool.not_true, Bool.false_eq_true, if_false, issuingChannel_eq_some_iff.2 ⟨h3, q, hq, rfl⟩,
    entry_of_hasEntry hf]

/-- HBIND past its checks: the entry takes its binding. -/
theorem hbind_completes (ha : Source (s.core s.cur) a c k) (hch : ch.toNat < 61) (hpriv : (48 ≤ ch.toNat ∨ prio = 7) → k.priv ≠ 0)
    (hal : c.toNat % 4 = 0) (huser : k.priv = 0 → c.toNat < 2 ^ 48) (hsys : k.priv ≠ 0 → c.toNat / 2 ^ 48 % 2 ^ 12 = 0)
    (he : HasEntry k ch.toNat e) :
    Completes (.hbind a ch prio) s (withEntry k ch.toNat (e.bind c (BitVec.ofNat 64 (c.toNat % 2 ^ 48)) prio.toNat (k.bindRegion c)
      (k.issuingChannel == some ch.toNat) ((s.setCore s.cur k).waits s.cur ch.toNat))) := by
  have hneed : bindPriv ch prio ≤ (s.core s.cur).priv := by
    have hp : k.priv = (s.core s.cur).priv := by rw [source_rest ha]; rfl
    unfold bindPriv
    split
    · exact hp ▸ Nat.one_le_iff_ne_zero.2 (hpriv ‹_›)
    · exact Nat.zero_le _
  have hcode : (if k.user then slice c 63 48 != 0 else slice c 59 48 != 0) = false := by
    have := c.isLt
    split
    · have := huser (user_iff.1 ‹_›)
      simp only [slice, bitsOf, bne_eq_false_iff_eq]
      omega
    · have := hsys (mt user_iff.2 ‹_›)
      simpa only [slice, bitsOf, bne_eq_false_iff_eq] using this
  have halign : (slice c 1 0 != 0) = false := by
    simp only [slice, bitsOf, bne_eq_false_iff_eq]
    omega
  refine runInstr_ok (t := s.setCore s.cur _) ?_
  rw [bind_ok (onCore_ok (needPriv_ok hneed)), bind_ok (onCore_setCore (getX_of_source ha)), bind_ok (onCore_setCore (a := k) (q := k) rfl),
    bind_ok (trapIf_ok _ _ _ (decide_eq_false (Nat.not_le.2 hch))), bind_ok (trapIf_ok _ _ _ hcode), bind_ok (trapIf_ok _ _ _ halign)]
  simp only [wr, State.setCore_cur, State.core_setCore_self, State.setCore_setCore, entry_of_hasEntry he]
  simp only [slice, bitsOf, Nat.pow_zero, Nat.div_one]
  rfl

end

/-! ### HUNBIND, HMASK, HUNMASK, HPEND and HQUERY (R175, R182, R196, R197) -/

section
variable {s : State} {ch : BitVec 6} {e : HEntry} {i : Instr} (hch : ch.toNat < 61) (hpriv : 48 ≤ ch.toNat → (s.core s.cur).priv ≠ 0)
  (he : HasEntry (s.core s.cur) ch.toNat e)
include hch hpriv he

theorem channelChecks_eq : channelChecks ch i (s.core s.cur) = trapIf (e.st == .empty) causeMsg 1 (s.core s.cur) := by
  have hneed : (if 48 ≤ ch.toNat then 1 else 0) ≤ (s.core s.cur).priv := by
    split
    · exact Nat.one_le_iff_ne_zero.2 (hpriv ‹_›)
    · exact Nat.zero_le _
  rw [channelChecks, bind_ok (needPriv_ok hneed), bind_ok (trapIf_ok _ _ _ (decide_eq_false (Nat.not_le.2 hch))), rd_bind,
    entry_of_hasEntry he]

theorem channelChecks_ok (hst : e.st ≠ .empty) : channelChecks ch i (s.core s.cur) = .ok ((), s.core s.cur) :=
  (channelChecks_eq hch hpriv he).trans (trapIf_ok _ _ _ (beq_eq_false_iff_ne.2 hst))

theorem channelChecks_empty (hst : e.st = .empty) : channelChecks ch i (s.core s.cur) = .error (.trap causeMsg 1) :=
  (channelChecks_eq hch hpriv he).trans (trapIf_trap _ _ _ (beq_iff_eq.2 hst))

/-- An instruction that changes the entry of a channel. -/
theorem onEntry_completes (hst : e.st ≠ .empty) (f : HEntry → HEntry) :
    runCore (do channelChecks ch i; onEntry ch f) s = .next (s.setCore s.cur (withEntry (s.core s.cur) ch.toNat (f e))).retire := by
  refine runCore_ok ?_
  rw [bind_ok (channelChecks_ok hch hpriv he hst), onEntry, wr, entry_of_hasEntry he]
  rfl

theorem onEntry_traps (hst : e.st = .empty) (f : HEntry → HEntry) :
    runCore (do channelChecks ch i; onEntry ch f) s = .next (s.takeTrap causeMsg 1) :=
  runCore_trap (bind_err (channelChecks_empty hch hpriv he hst))

theorem hunbind_traps (hst : e.st = .empty) : Traps (.hunbind ch) s causeMsg 1 :=
  runInstr_trap (bind_err (onCore_err (channelChecks_empty hch hpriv he hst)))

end

section
variable {s : State} {ch : BitVec 6} {e : HEntry} {n : Nat} {z : State}

/-- The head message of a running activation of the channel stays with it. -/
theorem keepsHead_iff {k : Core} {ch : Nat} : k.keepsHead ch = true ↔ ∃ a, k.act = some a ∧ a.ch = ch ∧ a.hasMsg = true := by
  unfold Core.keepsHead
  cases k.act <;> simp

/-- HUNBIND of an entry: its messages, but for that of the running activation, become orphans, and those spilled after them. -/
theorem hunbind_completes (hch : ch.toNat < 61) (hpriv : 48 ≤ ch.toNat → (s.core s.cur).priv ≠ 0)
    (he : HasEntry (s.core s.cur) ch.toNat e) (hst : e.st ≠ .empty) (hn : n = if (s.core s.cur).keepsHead ch.toNat then 1 else 0)
    (hz : z = (s.setCore s.cur (withEntry (s.core s.cur) ch.toNat
      { e with st := .empty, pend := false, fifo := e.fifo.take n })).orphans s.cur 3 (e.fifo.drop n)) :
    CompletesAt (.hunbind ch) s ((z.orphanSpilled s.cur ch.toNat 3
      (z.spilledFor s.cur (s.core s.cur).sv.ctxid.toNat (z.logical s.cur))).tryRetire s.cur) := by
  subst hn hz
  refine runInstr_ok ?_
  rw [bind_ok (onCore_ok (channelChecks_ok hch hpriv he hst))]
  simp only [wr, State.unbind, State.setCore_cur, State.core_setCore_self, State.setCore_setCore, entry_of_hasEntry he]
  rfl

variable {c ch : Nat} {r : Spilled} {q : QDesc}

theorem orphanSpilled_one (hq : z.spillQ c (z.core c).sv.ctxid.toNat = some q) (hr : r.msg.ch = ch) :
    z.orphanSpilled c ch 3 [r] = (z.consume (dieOf c) (z.core c).sv.ctxid.toNat q r.ix).orphan (dieOf c) r.msg r.dst 3 := by
  rw [State.orphanSpilled, if_pos hr, hq]
  rfl

theorem orphanSpilled_other (hr : r.msg.ch ≠ ch) : z.orphanSpilled c ch 3 [r] = z := by
  rw [State.orphanSpilled, if_neg hr, State.orphanSpilled]

/-- An orphan that finds room in its queue is the queue's next record. -/
theorem orphan_queued {die dst reason : Nat} {m : Msg} {y : Context} (hy : z.ctx? m.ctx = some y)
    (hq : z.qdesc die m.ctx (z.orphQ m.ctx dst y).toNat = some q) (hfull : q.full = false) :
    z.orphan die m dst reason = z.qput die m.ctx q (recordOf m m.time dst reason) := by
  simp only [State.orphan, hy, hq, hfull, Bool.not_false, if_true]

end

theorem hquery_completes {s : State} {d : Reg} {ch : BitVec 6} {k : Core} (hd : Dest (s.core s.cur) d (s.entryWord s.cur ch.toNat) k) :
    Completes (.hquery d ch) s k :=
  runInstr_ok (by rw [rd_bind, onCore_ok (setX_of_dest hd)])

/-- Settles O23: HBIND's result is the table's, which has one for each entry; the others change the entry that their checks have found. -/
theorem channelBindingAndControl : Obligations.ChannelBindingAndControl := by
  constructor
  · intro s a ch prio c k e e' rgn own ha _ hch hpriv hal huser hsys he hown hrgnS hrgnU hact hbinds
    have hown' : own = (k.issuingChannel == some ch.toNat) := by
      rw [Bool.eq_iff_iff, hown, beq_iff_eq, issuingChannel_eq_some_iff]
    have hrgn : rgn = k.bindRegion c := by
      by_cases hp : k.priv = 0
      · obtain ⟨h3, q, f, hq, hf⟩ := hact hp
        rw [hrgnU hp h3 q f hq hf, bindRegion_user hp h3 hq hf]
      · rw [hrgnS hp, bindRegion_system hp]
    rw [eq_bind_of_binds hbinds, hown', hrgn]
    exact hbind_completes ha hch hpriv hal huser hsys he
  · rintro s ch k e rfl hch hpriv he
    refine ⟨fun hst => ⟨onEntry_completes hch hpriv he hst _, onEntry_completes hch hpriv he hst _, onEntry_completes hch hpriv he hst _, ?_⟩,
      fun hst => ⟨onEntry_traps hch hpriv he hst _, onEntry_traps hch hpriv he hst _, onEntry_traps hch hpriv he hst _,
        hunbind_traps hch hpriv he hst⟩, fun d k' => hquery_completes⟩
    rintro n t z x hn rfl rfl hz
    have hdone := hunbind_completes hch hpriv he hst (n := n) (by simpa only [keepsHead_iff] using hn) rfl
    rw [← hz] at hdone
    refine ⟨fun hnil => ?_, fun m y q hm hy hq hfull => ?_, fun hspill => ?_, fun r q hspill hctx hq => ⟨fun hr => ?_, fun hr => ?_⟩⟩
    · rw [hz, hnil]
      rfl
    · rw [hz, hm]
      exact orphan_queued hy hq hfull
    · rwa [hspill] at hdone
    · rwa [hspill, orphanSpilled_one (by rw [hctx]; exact hq) hr, hctx] at hdone
    · rwa [hspill, orphanSpilled_other hr] at hdone

end Sys2Proof.Machine

/-! ## WATCH (08, R198, R199) -/

namespace Sys2Proof.Machine
open Sys2Proof.Safety

/-! ### What comes home with a recalled region (R298, R301) -/

section
variable {s t : State} {home line pa n : Nat} {r : RegionEntry}

theorem cores_fireList (s : State) (tau : Nat) (ws : List Watch) : (s.fireList tau ws).cores = s.cores := by
  induction ws generalizing s with
  | nil => rfl
  | cons w r ih =>
    rw [State.fireList]
    split
    · exact ih _
    · exact ih s

theorem cores_putMem (s : State) (pa n v tau : Nat) : (s.putMem pa n v tau).cores = s.cores := by
  rw [State.putMem, State.fireWatches, cores_fireList, cores_noteWrite]

theorem cores_leaseLog (s : State) (home base size ctx agent code : Nat) : (s.leaseLog home base size ctx agent code).cores = s.cores := by
  have hlog : ∀ u : State, ∀ d f, (u.modDie d f).cores = u.cores := fun u d f => State.setDie_cores ..
  unfold State.leaseLog
  dsimp only
  split
  all_goals
    dsimp only [State.post]
    split
    · simp only [hlog, cores_putMem]
    · rfl

/-- From `s` to `t` no L1 changes. -/
structure SameL1s (s t : State) : Prop where
  l1 : ∀ c, (t.core c).l1 = (s.core c).l1

theorem SameL1s.refl (s : State) : SameL1s s s := ⟨fun _ => rfl⟩

theorem SameL1s.trans {u : State} (h : SameL1s s t) (g : SameL1s t u) : SameL1s s u := ⟨fun c => (g.l1 c).trans (h.l1 c)⟩

theorem SameL1s.same {u : State} (h : SameL1s s t) (hcores : u.cores = t.cores) : SameL1s s u :=
  h.trans ⟨fun c => by rw [core_of_cores hcores]⟩

theorem SameL1s.map {u : State} (h : SameL1s s t) {g : Nat × Core → Nat × Core} (hcores : u.cores = t.cores.map g) (hkey : ∀ p, (g p).1 = p.1)
    (hg : ∀ p, (g p).2.l1 = p.2.l1) : SameL1s s u := by
  refine h.trans ⟨fun c => ?_⟩
  rw [State.core, State.core, hcores, lookupK_map hkey]
  cases lookupK t.cores c with
  | none => rfl
  | some k => exact hg (c, k)

theorem sameL1s_faultNow (s : State) (x code cause core : Nat) : SameL1s s (s.faultNow x code cause core) := by
  unfold State.faultNow
  split
  · exact .refl s
  · split
    · refine SameL1s.map ((SameL1s.refl s).same ((cores_putMem ..).trans (State.setCtx_cores ..))) rfl (fun _ => rfl) fun p => ?_
      dsimp only
      split
      · split <;> rfl
      · rfl
    · exact .refl s

theorem sameL1s_writeBack (s : State) (home line : Nat) (data : Line) (ow or : Nat) : SameL1s s (s.writeBack home line data ow or) := by
  unfold State.writeBack
  split
  · exact ((SameL1s.refl s).same (cores_leaseLog ..)).trans (sameL1s_faultNow ..)
  · dsimp only
    split <;> exact (SameL1s.refl s).same rfl

theorem sameL1s_takeBack (s : State) (home : Nat) (l : List (Nat × Line × Nat × Nat)) : SameL1s s (s.takeBack home l) := by
  induction l generalizing s with
  | nil => exact .refl s
  | cons q rest ih => exact (sameL1s_writeBack ..).trans (ih _)

theorem sameL1s_absorb (s : State) (r : RegionEntry) (qs : List Req) : SameL1s s (s.absorb r qs) := by
  induction qs generalizing s with
  | nil => exact .refl s
  | cons q rest ih =>
    rw [State.absorb]
    split
    · exact (sameL1s_takeBack ..).trans (ih _)
    · exact ih s

theorem sameL1s_absorbRegion (s : State) (r : RegionEntry) : SameL1s s (s.absorbRegion r) := (sameL1s_absorb s r s.reqs).same rfl

/-- Dropped copies are in no L1. -/
theorem not_mem_dropCopies {base size c : Nat} {p : Nat × L1Line} (h : p ∈ ((s.dropCopies home base size).core c).l1) :
    (p.2.home == home && decide (base ≤ p.1 * 64) && decide (p.1 * 64 < base + size)) = false := by
  have hcore := core_of_map (s := s) (t := s.dropCopies home base size) rfl (fun q => by split <;> rfl) (fun _ => rfl) c
  rw [hcore] at h
  split at h
  · rename_i hall
    exact Bool.not_eq_true' _ ▸ List.all_eq_true.1 hall p h
  · exact Bool.not_eq_true' _ ▸ (List.mem_filter.1 h).2

/-- The owned lines of a region written back, every copy of it dropped, and what is on its way home taken in. -/
def State.broughtHome (s : State) (r : RegionEntry) : State :=
  ((s.writeBacks r.home (s.cores.flatMap fun p => heldIn p.2 r.home r.base r.size)).dropCopies r.home r.base r.size).absorbRegion r

theorem recallRegion_kept (h : r.owner.filter (s.ownerLost r.home) = none) :
    (s.recallRegion r).cores = (s.broughtHome r).cores ∧ (s.recallRegion r).mem = (s.broughtHome r).mem := by
  unfold State.recallRegion
  rw [h]
  exact ⟨rfl, rfl⟩

/-- After a region has been brought home no core holds a copy of its lines. -/
theorem no_copy_of_recalled (h : r.owner.filter (s.ownerLost r.home) = none) {c : Nat} {y : L1Line}
    (hy : lookupK ((s.recallRegion r).core c).l1 line = some y) : r.covers y.home (line * 64) = false := by
  rw [core_of_cores (recallRegion_kept h).1, State.broughtHome, (sameL1s_absorbRegion ..).l1] at hy
  have hdrop := not_mem_dropCopies (mem_of_lookupK hy)
  rwa [RegionEntry.covers, Bool.beq_comm]

/-- The one line that is held of a region, and is owned, reaches home storage. -/
theorem mem_recallRegion {l : L1Line} (h : r.owner.filter (s.ownerLost r.home) = none)
    (hheld : (s.cores.flatMap fun p => heldIn p.2 r.home r.base r.size) = [(line, l)]) (hreqs : s.reqs = []) (hx : l.excl = true)
    (hnew : (s.lineTs r.home line).1 ≤ l.wts) (hlim : max l.wts l.rts < 2 ^ 63) :
    (s.recallRegion r).mem = putBytes s.mem (line * 64) 64 l.data.toNat := by
  have hback : s.writeBack r.home line l.data l.wts l.rts = ({ s with mem := putBytes s.mem (line * 64) 64 l.data.toNat }).setTs r.home line
      (max (s.lineTs r.home line).1 l.wts) (max (s.lineTs r.home line).2 l.rts) := by
    simp only [State.writeBack, if_neg (Nat.not_le.2 hlim : ¬ tsLimit ≤ _), if_pos hnew]
  rw [(recallRegion_kept h).2, State.broughtHome, hheld, State.writeBacks, if_pos hx, State.writeBacks, hback, State.absorbRegion]
  simp only [State.dropCopies, State.setTs, hreqs]
  rfl

theorem settle_recalls {c : Nat} {l : L1Line} (hx : s.xHolder (pa / 64) = some (c, l)) (hr : s.region? l.home pa = some r) :
    s.settle pa = s.recallRegion r := by
  simp only [State.settle, State.away, hx, hr]

theorem settle_home (h : s.away (pa / 64) = none) : s.settle pa = s := by rw [State.settle, h]

end

/-! ### Arming (R199) -/

section
variable {s z : State} {home pa n p ch : Nat} {va target : Word} {x : Watch}

/-- A read at a home whose timestamps are below the limit changes, past what comes home, timestamps alone. -/
theorem homeRead_ok {who ctx : Option Nat} (hhome : home < 4096) (hlim : BelowLimit (s.settle pa) home (pa / 64) p) :
    ∃ tau l, s.homeRead home pa p who ctx = (tau, { s.settle pa with lines := l }) := by
  have hgain : (s.settle pa).gain home (pa / 64) false = s.settle pa := if_pos hhome
  have hts : (s.settle pa).tsAt home (pa / 64) = (s.settle pa).lineTs home (pa / 64) := if_neg fun h => Nat.not_lt.2 h.1 hhome
  have hbelow : ¬ tsLimit ≤ max ((s.settle pa).lineTs home (pa / 64)).2 (max p ((s.settle pa).lineTs home (pa / 64)).1) :=
    Nat.not_le.2 (max_lt hlim.2.1 (max_lt hlim.2.2 hlim.1))
  simp only [State.homeRead, hgain, hts, if_neg hbelow]
  exact ⟨_, _, rfl⟩

/-- The watch that the issuing core arms. -/
def State.watchOf (s : State) (home pa : Nat) (va target : Word) (n ch : Nat) : Watch :=
  { home := home, pa := pa, va := va, n := n, target := target, core := s.cur, ch := ch, gen := (s.core s.cur).u.hgen,
    ctx := (s.core s.cur).sv.ctxid.toNat }

theorem arm_eq (hhome : home < 4096) (hlim : BelowLimit (s.settle pa) home (pa / 64) (s.core s.cur).pts)
    (hx : x = s.watchOf home pa va target n ch) :
    ∃ tau l, s.arm home pa va target n ch = { s.settle pa with lines := l, watches := (s.settle pa).watches ++ [x] }.fireList tau [x] := by
  obtain ⟨tau, l, hread⟩ := homeRead_ok (who := some s.cur) (ctx := some (s.core s.cur).sv.ctxid.toNat) hhome hlim
  refine ⟨tau, l, ?_⟩
  simp only [State.arm, hread, hx, State.watchOf]

theorem bytes_withWatches (z : State) (l : List (Nat × Nat × Nat)) (ws : List Watch) (pa n : Nat) :
    ({ z with lines := l, watches := ws } : State).bytes pa n = z.bytes pa n := bytes_congr fun _ _ => rfl

/-- A watch on a word that does not hold its target stays armed. -/
theorem arm_waits (hhome : home < 4096) (hlim : BelowLimit (s.settle pa) home (pa / 64) (s.core s.cur).pts)
    (hx : x = s.watchOf home pa va target n ch) (hne : (s.settle pa).bytes pa n ≠ target.toNat % 2 ^ (8 * n)) :
    ∃ l, s.arm home pa va target n ch = { s.settle pa with lines := l, watches := (s.settle pa).watches ++ [x] } := by
  obtain ⟨tau, l, harm⟩ := arm_eq hhome hlim hx
  refine ⟨l, harm.trans ?_⟩
  rw [State.fireList, bytes_withWatches, if_neg (by rw [hx]; exact hne), State.fireList]

/-- A watch on a word that holds its target fires at once. -/
theorem arm_fires (hhome : home < 4096) (hlim : BelowLimit (s.settle pa) home (pa / 64) (s.core s.cur).pts)
    (hx : x = s.watchOf home pa va target n ch) (hnew : x ∉ (s.settle pa).watches)
    (heq : (s.settle pa).bytes pa n = target.toNat % 2 ^ (8 * n)) :
    ∃ l tau u, s.arm home pa va target n ch = { s.settle pa with lines := l }.post (homeOrigin x.home) (watchMsg u x tau) := by
  obtain ⟨tau, l, harm⟩ := arm_eq hhome hlim hx
  refine ⟨l, tau, { s.settle pa with lines := l, watches := (s.settle pa).watches ++ [x] }, harm.trans ?_⟩
  rw [State.fireList, bytes_withWatches, if_pos (by rw [hx]; exact heq), State.fireList]
  simp only [List.erase_append_right _ hnew, List.erase_cons_head, List.append_nil]

end

/-! ### The instruction -/

section
variable {s v : State} {d a : Reg} {ch : BitVec 6} {w : Width} {va target : Word} {k1 k2 : Core} {t : TlbEntry}

theorem runInstr_congr {m m' : DevM Unit} (h : m s = m' s) : runInstr m s = runInstr m' s := by
  simp only [runInstr, runDev, bind, StateT.bind, h]

theorem watchChannel_iff (n : Nat) : watchChannel n = true ↔ 1 ≤ n ∧ n ≤ 47 ∨ n = 57 := by
  simp [watchChannel]

variable {home pa : Nat} (ha : Source (s.core s.cur) a va k1) (hd : Source k1 d target k2)
  (hch : 1 ≤ ch.toNat ∧ ch.toNat ≤ 47 ∨ ch.toNat = 57) (hal : va.toNat % (amoBits w / 8) = 0)
  (htr : Translates (s.setCore s.cur k2) .read va t v) (hpa : pa = t.pa va.toNat) (hdram : inDram pa = true)
  (hhome : home = t.home (dieOf s.cur) pa)
include ha hd hch hal htr hpa hdram hhome

/-- Past its operands, its checks and its translation WATCH arms an entry, if its home has one. -/
theorem exec_watch : exec (.watch d a ch w) s = runInstr (fun _ => (do
    trapIf (decide (64 ≤ (s.watches.filter fun y => y.home == home).length)) causeMsg 3
    wr fun u => u.arm home pa va (BitVec.ofNat 64 (target.toNat % 2 ^ amoBits w)) (amoBits w / 8) ch.toNat : DevM Unit) v) s := by
  subst hhome hpa
  have hlow : decide (t.pa va.toNat < dramBase) = false := by
    simp only [inDram, Bool.and_eq_true, decide_eq_true_eq] at hdram
    exact decide_eq_false (Nat.not_lt.2 hdram.1)
  have hwatches : v.watches = s.watches := by
    obtain ⟨l, rfl⟩ := setCore_of_translates htr
    rfl
  have hcur : v.cur = s.cur := (cur_of_translates htr).trans (State.setCore_cur ..)
  refine runInstr_congr ?_
  rw [bind_ok (onCore_ok (getX_of_source ha)), bind_ok (onCore_setCore (getX_of_source hd)),
    bind_ok (trapIf_ok _ _ _ (by rw [(watchChannel_iff _).2 hch]; rfl)),
    bind_ok (onCore_setCore (checkAlign_ok (by rwa [widthBytes_eq]) k2)), bind_ok (translate_of_translates htr),
    bind_ok (trapIf_ok _ _ _ hlow), rd_bind, hwatches, hcur, widthBytes_eq, amoBits_eq]
  rfl

theorem watch_full (h : 64 ≤ (s.watches.filter fun y => y.home == home).length) : Traps (.watch d a ch w) s causeMsg 3 :=
  (exec_watch ha hd hch hal htr hpa hdram hhome).trans (runInstr_trap (bind_err (trapIf_trap _ _ _ (decide_eq_true h))))

theorem watch_arms (h : (s.watches.filter fun y => y.home == home).length < 64) : CompletesAt (.watch d a ch w) s
    (v.arm home pa va (BitVec.ofNat 64 (target.toNat % 2 ^ amoBits w)) (amoBits w / 8) ch.toNat) :=
  (exec_watch ha hd hch hal htr hpa hdram hhome).trans (runInstr_ok (bind_ok (trapIf_ok _ _ _ (decide_eq_false (Nat.not_le.2 h)))))

end

/-- A target cut to its width is compared as it stands. -/
theorem toNat_target (target : Word) (w : Width) :
    (BitVec.ofNat 64 (target.toNat % 2 ^ amoBits w)).toNat % 2 ^ (8 * (amoBits w / 8)) = target.toNat % 2 ^ amoBits w := by
  have hle : amoBits w ≤ 64 := by cases w <;> decide
  rw [amoBits_eq, BitVec.toNat_ofNat, Nat.mod_mod_of_dvd _ (Nat.pow_dvd_pow 2 hle), Nat.mod_mod]

/-- Settles O24: a watch of a home with room is armed on the word as it stands once its line has come home, and fires at once or stays. -/
theorem watchArms : Obligations.WatchArms := by
  intro s d a ch w va target k1 k2 t v z home pa x ha hd hch hal htr hpa hdram hhome hlt hz hlim hx
  obtain ⟨tlb, hv⟩ := setCore_of_translates htr
  have hcur : v.cur = s.cur := by rw [hv, State.setCore_cur]
  have hcore : v.core s.cur = { k2 with tlb := tlb } := by rw [hv, State.core_setCore_self]
  have hx' : x = v.watchOf home pa va (BitVec.ofNat 64 (target.toNat % 2 ^ amoBits w)) (amoBits w / 8) ch.toNat := by
    rw [hx, State.watchOf, hcur, hcore]
  have hn : x.n = amoBits w / 8 := by rw [hx]
  subst hz
  rw [← hcur] at hlim
  rw [hn, ← toNat_target]
  refine ⟨fun hroom hne => ?_, fun hroom hnew heq => ?_, watch_full ha hd hch hal htr hpa hdram hhome, fun hhere => ?_,
    fun c l r hxh hr hkept => ⟨fun e y hy => ?_, fun hheld hreqs hexcl hts hmax => ?_⟩⟩
  · obtain ⟨l, harm⟩ := arm_waits hlt hlim hx' hne
    exact ⟨_, watch_arms ha hd hch hal htr hpa hdram hhome hroom, by rw [harm], by rw [harm], by rw [harm], by rw [harm]⟩
  · obtain ⟨l, tau, u, harm⟩ := arm_fires hlt hlim hx' hnew heq
    refine ⟨_, ⟨homeOrigin x.home, watchMsg u x tau, none⟩, watch_arms ha hd hch hal htr hpa hdram hhome hroom, ?_⟩
    rw [harm, hx]
    exact ⟨rfl, rfl, rfl, rfl, rfl, rfl, rfl, rfl⟩
  · have hl1 : k2.l1 = (s.core s.cur).l1 := by rw [source_l1 hd, source_l1 ha]
    rw [hv]
    exact settle_home (State.away_setCore hl1 hhere)
  · rw [settle_recalls hxh hr] at hy
    exact no_copy_of_recalled hkept hy
  · have hrhome : l.home = r.home := by
      have hfound := List.find?_some hr
      simp only [Bool.and_eq_true, beq_iff_eq] at hfound
      exact hfound.1.1.symm
    rw [settle_recalls hxh hr, mem_recallRegion hkept hheld hreqs hexcl (hrhome ▸ hts) hmax, hv, State.setCore_mem]

end Sys2Proof.Machine

/-! ## Jobs and completion words (09, R215, R216; 10, R218, R236, R237) -/

namespace Sys2Proof.Machine
open Sys2Proof.Safety

/-! ### Operands, and the checks of an append -/

section
variable {s t : State} {a b : Reg} {x y : Word} {k1 k2 : Core} {m n : Nat} {l : List Byte}

/-- An instruction of two x operands goes on with their values. -/
theorem twoOperands_bind {f : Word → Word → DevM Unit} (ha : Source (s.core s.cur) a x k1) (hb : Source k1 b y k2) :
    (do
      let c ← onCore (getX a)
      let q ← onCore (getX b)
      f c q) s = f x y (s.setCore s.cur k2) := by
  rw [bind_ok (onCore_ok (getX_of_source ha)), bind_ok (onCore_setCore (getX_of_source hb))]

/-- An address that is a multiple passes its check. -/
theorem trapIf_aligned (h : x.toNat % n = 0) : trapIf (x.toNat % n != 0) causeMisalign x s = .ok ((), s) :=
  trapIf_ok _ _ _ (bne_eq_false_iff_eq.2 h)

theorem trapIf_misaligned (h : x.toNat % n ≠ 0) : trapIf (x.toNat % n != 0) causeMisalign x s = .error (.trap causeMisalign x) :=
  trapIf_trap _ _ _ (bne_iff_ne.2 h)

theorem waitAppend_ok (h : Acked (s.core s.cur)) (hd : (s.core s.cur).drained = true) : waitAppend s = .ok ((), s) := by
  rw [waitAppend, storesDone_iff.2 h, hd]
  rfl

theorem waitDie_ok (h : n = dieOf s.cur ∨ s.bridgeUp = true) : waitDie n s = .ok ((), s) := if_pos h

/-- A read for the issuing core has replaced that core, so that looking at it changes nothing. -/
theorem onCore_rd_of_readAs (h : readAs m n s = .ok (l, t)) : onCore rd t = .ok (t.core t.cur, t) := by
  unfold readAs at h
  dsimp only at h
  split at h
  · cases h
  · obtain ⟨-, rfl⟩ := Prod.mk.inj (Except.ok.inj h)
    rw [onCore_rd, State.modCore, State.setCore_cur, State.core_setCore_self, State.setCore_setCore]

theorem onCore_rd_of_readWordAs {v : Nat} (h : readWordAs m s = .ok (v, t)) : onCore rd t = .ok (t.core t.cur, t) := by
  cases hr : readAs m 8 s with
  | error e =>
    rw [readWordAs, bind_err hr] at h
    cases h
  | ok r =>
    rw [readWordAs, bind_ok hr, pure_ok] at h
    obtain ⟨-, rfl⟩ := Prod.mk.inj (Except.ok.inj h)
    exact onCore_rd_of_readAs hr

end

/-! ### A card that is no multiple of 128 -/

section
variable {s : State} {a b : Reg} {x y : Word} {k1 k2 : Core} (ha : Source (s.core s.cur) a x k1) (hx : x.toNat % 128 ≠ 0)
include ha hx

theorem jabort_misaligned : Traps (.jabort a) s causeMisalign x :=
  runInstr_trap (by rw [bind_ok (onCore_ok (getX_of_source ha)), bind_err (trapIf_misaligned hx)])

variable (hb : Source k1 b y k2)
include hb

theorem japp_misaligned : Traps (.japp a b) s causeMisalign x :=
  runInstr_trap (by rw [twoOperands_bind ha hb, bind_err (trapIf_misaligned hx)])

theorem kapp_misaligned : Traps (.kapp a b) s causeMisalign x :=
  runInstr_trap (by rw [twoOperands_bind ha hb, bind_err (trapIf_misaligned hx)])

end

/-! ### Appends (R215, R218) -/

section
variable {s s1 s2 s3 s4 s5 s6 s7 : State} {a b : Reg} {x y : Word} {k1 k2 : Core} {bytes : List Byte} {w : List Word} {h r ctl : Nat}
  {package : Bool}

theorem waitAppend_setCore (hack : Acked k2) (hd : k2.drained = true) : waitAppend (s.setCore s.cur k2) = .ok ((), s.setCore s.cur k2) :=
  waitAppend_ok (by rwa [State.setCore_cur, State.core_setCore_self]) (by rwa [State.setCore_cur, State.core_setCore_self])

variable (ha : Source (s.core s.cur) a x k1) (hb : Source k1 b y k2) (hx : x.toNat % 128 = 0) (hy : y.toNat % 64 = 0) (hack : Acked k2)
  (hd : k2.drained = true)

section
variable (hread : readAs x.toNat 128 (s.setCore s.cur k2) = .ok (bytes, s1))
  (hpermit : permit (s1.core s1.cur).user .write x.toNat s1 = .ok ((), s2)) (hw : w = wordsOf bytes 16) (hh : h = (wordAt w 1).toNat)
include ha hb hx hy hack hd hread hpermit hw hh

/-- JAPP reads a card that it may write, and then checks what it has read. -/
theorem exec_japp : exec (.japp a b) s = runInstr (fun _ => (do
    trapIf (!jobHeaderOk h (wordAt w 2).toNat) causeJob x
    trapIf (checkpointOp h && !(s1.core s1.cur).onSys) causeJob x
    let ctl ← openQueue y 1 (bitsOf h 8 4)
    permitLink y.toNat
    waitDie (ctlDie ctl)
    wr fun u => u.appendCard (ctlDie ctl) x.toNat y.toNat ctl false w : DevM Unit) s2) s := by
  subst hw hh
  refine runInstr_congr ?_
  rw [twoOperands_bind ha hb, bind_ok (trapIf_aligned hx), bind_ok (trapIf_aligned hy), bind_ok (waitAppend_setCore hack hd),
    bind_ok hread, bind_ok (onCore_rd_of_readAs hread), bind_ok hpermit]

theorem japp_badHeader (hbad : jobHeaderOk h (wordAt w 2).toNat = false) : Traps (.japp a b) s causeJob x :=
  (exec_japp ha hb hx hy hack hd hread hpermit hw hh).trans
    (runInstr_trap (bind_err (trapIf_trap _ _ _ (by rw [hbad]; rfl))))

theorem japp_appends (hok : jobHeaderOk h (wordAt w 2).toNat = true) (hsys : checkpointOp h = true → (s1.core s1.cur).slot3 ≠ .idle)
    (hopen : openQueue y 1 (bitsOf h 8 4) s2 = .ok (ctl, s3)) (hlink : permitLink y.toNat s3 = .ok ((), s4))
    (hdie : ctlDie ctl = dieOf s4.cur ∨ s4.bridgeUp = true) :
    CompletesAt (.japp a b) s (s4.appendCard (ctlDie ctl) x.toNat y.toNat ctl false w) := by
  have hmay : (checkpointOp h && !(s1.core s1.cur).onSys) = false :=
    Bool.and_eq_false_imp.2 fun hc => by rw [Core.onSys_iff.2 (hsys hc)]; rfl
  refine (exec_japp ha hb hx hy hack hd hread hpermit hw hh).trans (runInstr_ok ?_)
  rw [bind_ok (trapIf_ok _ _ _ (by rw [hok]; rfl)), bind_ok (trapIf_ok _ _ _ hmay), bind_ok hopen, bind_ok hlink, bind_ok (waitDie_ok hdie)]
  rfl

end

/-- The schedulers that a launch enters can be reached: that of its queue, and for one that spans the package the other die's. -/
theorem kapp_waitDies {f : DevM Unit} {c : Nat} (hdie : (ctlDie ctl = dieOf s.cur ∧ package = false) ∨ s.bridgeUp = true) :
    (do
      waitDie (ctlDie ctl)
      if package then waitDie (1 - c)
      f) s = f s := by
  rcases hdie with ⟨hdie, rfl⟩ | hup
  · rw [bind_ok (waitDie_ok (.inl hdie))]
    rfl
  · rw [bind_ok (waitDie_ok (.inr hup))]
    cases package
    · rfl
    · exact bind_ok (waitDie_ok (.inr hup))

include ha hb hx hy hack hd

theorem kapp_appends (hhead : readWordAs (x.toNat + 8) (s.setCore s.cur k2) = .ok (h, s1))
    (hpermit : permit (s1.core s1.cur).user .write x.toNat s1 = .ok ((), s2)) (hop : h % 2 ^ 8 = 0x80) (hzero : h / 2 ^ 8 % 2 ^ 48 = 0)
    (hopen : openQueue y 0 0 s2 = .ok (ctl, s3)) (hrec : readWordAs (x.toNat + 0x60) s3 = .ok (r, s4))
    (hlaunch : readLaunch r s4 = .ok (package, s5)) (hlink : permitLink y.toNat s5 = .ok ((), s6))
    (hdie : (ctlDie ctl = dieOf s6.cur ∧ package = false) ∨ s6.bridgeUp = true) (hcard : readAs x.toNat 128 s6 = .ok (bytes, s7)) :
    CompletesAt (.kapp a b) s (s7.appendCard (ctlDie ctl) x.toNat y.toNat ctl package (wordsOf bytes 16)) := by
  have hok : (bitsOf h 0 8 != 0x80 || bitsOf h 8 48 != 0) = false :=
    Bool.or_eq_false_iff.2 ⟨bne_eq_false_iff_eq.2 ((bitsOf_zero ..).trans hop), bne_eq_false_iff_eq.2 hzero⟩
  refine runInstr_ok ?_
  rw [twoOperands_bind ha hb, bind_ok (trapIf_aligned hx), bind_ok (waitAppend_setCore hack hd), bind_ok hhead,
    bind_ok (onCore_rd_of_readWordAs hhead), bind_ok hpermit, bind_ok (trapIf_ok _ _ _ hok), bind_ok (trapIf_aligned hy), bind_ok hopen,
    bind_ok hrec, bind_ok hlaunch, bind_ok hlink, kapp_waitDies hdie, bind_ok hcard]
  rfl

end

/-! ### Completion words (R216, R236) -/

section
variable {s t : State} {a b d : Reg} {x y : Word} {k1 k2 : Core} {v : Nat}

/-- A probe that does not end the wait changes neither the registers of a slot nor memory. -/
theorem hart_probeAgain (s : State) (va : Word) : ((s.probeAgain va.toNat).core s.cur).hart = (s.core s.cur).hart := by
  unfold State.probeAgain
  split
  · rfl
  · dsimp only
    rw [State.modDie, core_of_cores (State.setDie_cores ..), State.modCore, State.core_setCore_self]
    exact Core.hart_setPending ..

theorem mem_probeAgain (s : State) (va : Nat) : (s.probeAgain va).mem = s.mem := by
  unfold State.probeAgain
  split <;> rfl

section
variable (ha : Source (s.core s.cur) a x k1) (hb : Source k1 b y k2) (hx : x.toNat % 8 = 0) (hl : Loads (s.setCore s.cur k2) x 8 v t)
include ha hb hx hl

/-- A wait loads the word, and then compares it with the count. -/
theorem waitWord_eq : waitWord a b s = (if y.toNat ≤ v then pure () else waitFor fun u => u.probeAgain x.toNat : DevM Unit) t := by
  rw [waitWord, twoOperands_bind ha hb, bind_ok (onCore_setCore (checkAlign_ok hx k2)), bind_ok (loadMem_of_loads hl)]

theorem waitWord_reached (hv : y.toNat ≤ v) : runInstr (waitWord a b) s = .next (s.setCore s.cur (t.core s.cur)).retire := by
  obtain ⟨q, rfl⟩ := setCore_of_loads hl
  rw [State.core_setCore_self]
  exact runInstr_ok (by rw [waitWord_eq ha hb hx hl, if_pos hv, pure_ok])

theorem waitWord_probes (hv : v < y.toNat) : runInstr (waitWord a b) s = .next (s.probeAgain x.toNat) :=
  runInstr_wait (p := fun u => u.probeAgain x.toNat) (m := waitWord a b) (by rw [waitWord_eq ha hb hx hl, if_neg (Nat.not_le.2 hv)]; rfl)

end

theorem jpoll_completes (ha : Source (s.core s.cur) a x k1) (hx : x.toNat % 8 = 0) (hl : Loads (s.setCore s.cur k1) x 8 v t)
    (hd : Dest (t.core s.cur) d (BitVec.ofNat 64 v) k2) : Completes (.jpoll d a) s k2 :=
  runLoad_ok (getX_of_source ha) hx hl (setX_of_dest hd)

end

/-! ### JABORT (R237) -/

theorem jabort_completes {s s1 : State} {a : Reg} {x : Word} {k1 : Core} {pa : Nat} (ha : Source (s.core s.cur) a x k1)
    (hx : x.toNat % 128 = 0) (hplace : placeAs k1.user .read x.toNat (s.setCore s.cur k1) = .ok (pa, s1)) (hack : Acked (s1.core s1.cur)) :
    CompletesAt (.jabort a) s (s1.abortCard k1.sv.ctxid.toNat x.toNat) := by
  refine runInstr_ok ?_
  rw [bind_ok (onCore_ok (getX_of_source ha)), bind_ok (trapIf_aligned hx), bind_ok (onCore_setCore (m := rd) rfl), bind_ok hplace,
    bind_ok (waitAcked_ok hack)]
  rfl

/-- Settles O37: the appends read, check and hand over the card; the waits compare the word that a load brings. -/
theorem jobInstructions : Obligations.JobInstructions := by
  intro s a b x y k1 ha
  refine ⟨fun hx => ⟨jabort_misaligned ha hx, fun k2 hb => ⟨japp_misaligned ha hx hb, kapp_misaligned ha hx hb⟩⟩,
    fun k2 bytes w h ctl s1 s2 s3 s4 hb hx hy hack hd hread hpermit hw hh =>
      ⟨japp_badHeader ha hb hx hy hack hd hread hpermit hw hh, japp_appends ha hb hx hy hack hd hread hpermit hw hh⟩,
    fun k2 h r ctl package bytes s1 s2 s3 s4 s5 s6 s7 hb hx hy hack hd => kapp_appends ha hb hx hy hack hd,
    fun k2 v t hb hx hl => ⟨fun hv => ?reached, fun hv => ?probes⟩,
    fun d v t k2 => jpoll_completes ha, fun pa s1 => jabort_completes ha⟩
  case reached => exact ⟨waitWord_reached ha hb hx hl hv, waitWord_reached ha hb hx hl hv⟩
  case probes => exact ⟨_, waitWord_probes ha hb hx hl hv, waitWord_probes ha hb hx hl hv, hart_probeAgain s x, mem_probeAgain ..⟩

end Sys2Proof.Machine

/-! ## Placement and the chain above the core (06, R152; 11, R245) -/

namespace Sys2Proof.Machine
open Sys2Proof.Safety

section
variable {s : State} {c up : Nat}

theorem Core.u_released (k : Core) : k.released.u = k.u := by
  unfold Core.released
  split <;> rfl

/-- The core that a value names depends on the core map alone. -/
theorem stageCore_congr {t : State} {v : Word} (h : s.stageCore v = some c) (hb : t.plat.l2pbase = s.plat.l2pbase)
    (hh : t.plat.hmap = s.plat.hmap) (hm : t.mem = s.mem) : t.stageCore v = some c := by
  rw [← h, State.stageCore, State.stageCore, State.physical_congr hb hh hm]

theorem window_setWindow {f : Nat → Nat} (hdn : s.stageCore (s.core up).u.stagedn = some c) :
    ((s.setWindow up c f).core up).u.window = f (s.core up).u.window := by
  rw [State.setWindow]
  dsimp only
  rw [if_pos (beq_iff_eq.2 hdn), State.core_setCore_self]

/-- The revocation of step 1 of R149 closes the WINDOW of the upstream whose STAGEDN names the core. -/
theorem window_revokeUp (hup : s.stageCore (s.core c).u.stageup = some up) (hdn : s.stageCore (s.core up).u.stagedn = some c) :
    ((s.revokeUp c).core up).u.window = 0 := by
  simp only [State.revokeUp, hup]
  split
  · rw [core_modCore, if_pos rfl, Core.u_released]
    exact window_setWindow (stageCore_congr hdn rfl rfl rfl)
  · exact window_setWindow (stageCore_congr hdn rfl rfl rfl)

theorem cores_running (s : State) (x : Nat) : (s.running x).cores = s.cores := by
  unfold State.running
  split
  · split <;> rfl
  · rfl

/-- A core that holds the context is not taken. -/
theorem take_held {x : Nat} (hown : (s.core c).owned = true) (hctx : (s.core c).sv.ctxid.toNat = x) : s.take c x = s :=
  if_pos (by rw [hown, hctx, beq_self_eq_true]; rfl)

section
variable {e : Dealt} {q : Card} {l : Launch} (hown : (s.core c).owned = true) (hctx : (s.core c).sv.ctxid.toNat = e.ctx) (hne : up ≠ c)
  (hup : s.stageCore (s.core c).u.stageup = some up) (hdn : s.stageCore (s.core up).u.stagedn = some c)
include hown hctx hne hup hdn

/-- Placing a group on a core that holds its context revokes the upstream of the core (R152). -/
theorem window_placeOn {tag rank : Nat} : ((s.placeOn c e q l tag rank).core up).u.window = 0 := by
  rw [State.placeOn]
  dsimp only
  rw [core_modCore, if_neg hne, take_held hown hctx]
  exact window_revokeUp hup hdn

theorem window_place {d : Nat} (hlaunch : s.launchOf e.die e.card = some (q, l)) : ((s.place d e [c]).core up).u.window = 0 := by
  simp only [State.place, hlaunch]
  rw [core_of_cores (cores_running ..), State.placeAll, State.placeAll]
  refine window_placeOn ?_ ?_ hne ?_ ?_
  · exact hown
  · exact hctx
  · exact stageCore_congr hup rfl rfl rfl
  · exact stageCore_congr hdn rfl rfl rfl

end

end

/-! ### A core whose group has retired and that still takes the pushes of another -/

/-- A launch of one single group of context 0. -/
def oneGroup : Launch :=
  { st := .dealing, code := 0x1000, spb := 16, gang := 1, pin := false, groupn := 1, image := [], arg := 0, levels := [], tmpl := [], retired := 0 }

/-- Its card. -/
def oneGroupCard : Card :=
  { id := 0, ord := 0, ctx := 0, addr := 0x50000, queue := none, prio := 0, op := 0x80, cls := 0, flags := 0, fin := 0, fout := 0,
    args := Vector.replicate 4 0, doneVa := 0, seq := 0, fps := [], preds := [], preds2 := [], partner := none, st := .running, status := 0,
    detail := 0, core := none, user := true, hgen := 0, ts := 0, began := none, due := [], launch := some oneGroup }

/-- Its group, dealt to core 0. -/
def oneGroupDealt : Dealt :=
  { die := 0, card := 0, ord := 0, ix := 0, cluster := 0, core := some 0, levelix := 0, bar := 0, pushed := false, dom := (0, 576), since := 0,
    ctx := 0 }

/-- Context 0, which runs. -/
def runningContext : Context :=
  { st := .running, desc := 0, ptbase := 0, hometab := 0, lintab := 0, spillq := 0, orphq := 0, savebase := 0, tvec := 0, slice := 0,
    protomask := 1, prio := 0, qtab := 0, ckseq := 0, fcause := 0, lostHw := [] }

/-- Core 0 is free, holds context 0 and names core 1 in STAGEUP; core 1 names core 0 in STAGEDN, with a WINDOW of 4; a group waits for
core 0. -/
def chained : State := { State.reset with
  ctxs := [(0, runningContext)]
  dies := (Vector.replicate 2 Die.reset).set 0 { Die.reset with cards := [oneGroupCard], dealt := [oneGroupDealt] }
  cores := [(0, { Core.reset with owned := true, u := { USys.reset with stageup := 2 ^ 63 + 1 } }),
    (1, { Core.reset with u := { USys.reset with stagedn := 2 ^ 63, window := 4 } })] }

theorem chained_takes : chained.freeCore 0 = true ∧ chained.gangAt 0 = none ∧ chained.heldByRunner 0 = true ∧ chained.inReserve 0 = false ∧
    chained.nextEntry 0 0 = some oneGroupDealt ∧ chained.launchOf 0 0 = some (oneGroupCard, oneGroup) := by decide +kernel

theorem chained_stages : chained.stageCore (chained.core 0).u.stageup = some 1 ∧ chained.stageCore (chained.core 1).u.stagedn = some 0 := by
  decide +kernel

theorem chained_places : exec (.groupPlacement 0) chained = .next (chained.place 0 oneGroupDealt [0]) := by
  obtain ⟨hfree, hgang, hheld, hreserve, hnext, -⟩ := chained_takes
  have hcore : ¬ (coreCount ≤ 0 ∨ (!chained.freeCore 0) = true) := by rw [hfree]; decide
  have hctx : chained.coreCtx 0 = some 0 := if_pos hheld
  have hruns : chained.runs 0 = true := (Bool.and_eq_true_iff.1 hheld).2
  have hgo : ¬ (chained.inReserve 0 || !chained.runs 0 || (chained.core 0).saved.any fun g => g.grp.ctx == 0) = true := by
    rw [hreserve, hruns]
    decide
  show execGroupPlacement 0 chained = _
  simp only [execGroupPlacement, runEvent, if_neg hcore, hgang, hctx, if_neg hgo, hnext]
  rfl

/-- Refutes O51: a placement does change another core. It revokes the old upstream of the core on which the group is placed (R152, by step 1
of R149): in `chained` the group placed on core 0 takes core 1's WINDOW from 4 to 0, and the statement wants every other core as before. -/
theorem not_launchEvents : ¬ Obligations.LaunchEvents := by
  unfold Obligations.LaunchEvents
  rintro ⟨-, hgroups, -⟩
  obtain ⟨hfree, hgang, hheld, hreserve, hnext, hlaunch⟩ := chained_takes
  obtain ⟨hplace, -⟩ := hgroups chained 0 0 (by decide) hfree hgang hheld rfl hreserve
  obtain ⟨u, hhappens, -, hothers, -⟩ := (hplace fun _ hg => absurd hg List.not_mem_nil).2 oneGroupDealt oneGroupCard oneGroup _ hnext hlaunch rfl
  have hu : u = chained.place 0 oneGroupDealt [0] := Host.Outcome.next.inj (hhappens.symm.trans chained_places)
  have hclosed : (u.core 1).u.window = 0 := by
    rw [hu]
    exact window_place rfl rfl (by decide) chained_stages.1 chained_stages.2 hlaunch
  rw [hothers 1 (by decide)] at hclosed
  exact absurd hclosed (by decide)

end Sys2Proof.Machine

/-! ## Jobs of the engines (10, R217, R224 to R233) -/

namespace Sys2Proof.Machine
open Sys2Proof.Safety

/-! ### Links that carry traffic are not cut (R372, R373) -/

section
variable {s : State} {die p : Nat}

theorem cut_of_active (h : ((s.link p).st == .active) = true) : s.cut p = false := by
  rw [State.cut, LawfulBEq.eq_of_beq h]
  rfl

theorem hostCut_of_ucieUp (h : s.ucieUp die = true) : s.hostCut die = false := by
  rcases Bool.or_eq_true_iff.1 h with h | h
  · rw [State.hostCut, cut_of_active h, Bool.false_and]
  · rw [State.hostCut, cut_of_active h, Bool.and_false]

end

/-! ### A job whose card runs -/

theorem mem_ne_peer (va q x : Nat) : Place.mem va ≠ .peer q x := Place.noConfusion
theorem sp_ne_peer (l off q x : Nat) : Place.sp l off ≠ .peer q x := Place.noConfusion

section
variable {s : State} {die k op : Nat} {c : Card} (h : JobRuns s die k op c)
include h

/-- No place but a peer's is out of reach while the links are up. -/
theorem linkFault_none {p : Place} (hp : ∀ q va, p ≠ .peer q va) (n o : Nat) : s.linkFault die c p n o = none := by
  obtain ⟨-, -, -, -, -, -, hbridge, hucie⟩ := h
  have hcut : s.cut 12 = false := cut_of_active hbridge
  have hhost : s.hostCut die = false := hostCut_of_ucieUp hucie
  cases p with
  | peer q va => exact absurd rfl (hp q va)
  | _ => simp only [State.linkFault, hcut, hhost, Bool.false_and, Bool.false_eq_true, if_false]

theorem linkFaults_none {p q : Place} (hp : ∀ r va, p ≠ .peer r va) (hq : ∀ r va, q ≠ .peer r va) (n m : Nat) :
    s.linkFaults die c p q n m = none := by
  rw [State.linkFaults, linkFault_none h hp, linkFault_none h hq]
  rfl

theorem bridgeWait_eq_false (l : List (Place × Nat)) : s.bridgeWait die c l = false := by
  obtain ⟨-, -, -, -, -, -, hbridge, hucie⟩ := h
  rw [State.bridgeWait, hbridge, hucie]
  rfl

/-- The job runs to its end in one step: its card uses no FIFO, so that it waits for none and has no partner. -/
theorem runJob_eq (f : State → Card → JobEnd) : runJob die k op f s = .next ((f s c).close die k) := by
  obtain ⟨hdie, hcard, hst, hop, hfin, hfout, -, -⟩ := h
  have hproducer : (s.die die).producer c = none := if_pos hfin
  have hconsumer : (s.die die).consumer c = none := if_pos hfout
  have hready : s.fifoReady die c = true := by simp only [State.fifoReady, hproducer]
  have hput : s.hasPut die c = false := by rw [State.hasPut, hfout]; rfl
  have hwhole : s.brokenPair die c = false := by rw [State.brokenPair, Die.partners, hproducer, hconsumer]; rfl
  have hgo : ¬(c.st != .running || c.op != op || !s.fifoReady die c || s.hasPut die c) = true := by
    rw [hst, hop, hready, hput, bne_self_eq_false, bne_self_eq_false]
    decide
  simp only [runJob, runEvent, if_neg (Nat.not_le.2 hdie), hcard, if_neg hgo, hwhole, Bool.false_eq_true, if_false]

/-- The event of a copy engine ends its card as the job does. -/
theorem runCopyJob_close {places : State → Card → List (Place × Nat)} {f : State → Card → JobEnd} {e : JobEnd} (he : f s c = e) :
    runCopyJob die k op places f s = .next (e.close die k) := by
  obtain ⟨-, hcard, -⟩ := id h
  simp only [runCopyJob, hcard, bridgeWait_eq_false h, Bool.false_eq_true, if_false]
  rw [runJob_eq h, he]

/-! ### Operands (R230) -/

section
variable {w : Nat} (hw : op ≠ 1 ∨ bitsOf w 63 1 = 0)
include hw

/-- The operand of a COPY with bit 63 clear, or of another job, names no peer's memory (R374). -/
theorem names_no_peer : ¬(c.op = 1 ∧ bitsOf w 63 1 = 1) := by
  obtain ⟨-, -, -, rfl, -, -, -, -⟩ := h
  omega

theorem srcPlace_mem : srcPlace c w = some (.mem w) := by
  obtain ⟨-, -, -, -, hfin, -, -, -⟩ := id h
  rw [srcPlace, if_neg (not_not.2 hfin), if_neg (names_no_peer h hw)]

theorem dstPlace_near (n : Nat) : dstPlace c w n = if Nat.land c.flags fDSP = 0 then some (.mem w) else spPlace w n := by
  obtain ⟨-, -, -, -, -, hfout, -, -⟩ := id h
  rw [dstPlace, if_neg (not_not.2 hfout), if_neg (names_no_peer h hw)]

theorem dstPlace_mem (hdsp : Nat.land c.flags fDSP = 0) (n : Nat) : dstPlace c w n = some (.mem w) :=
  (dstPlace_near h hw n).trans (if_pos hdsp)

theorem dstPlace_sp (hdsp : Nat.land c.flags fDSP ≠ 0) (n : Nat) : dstPlace c w n = spPlace w n :=
  (dstPlace_near h hw n).trans (if_neg hdsp)

end

theorem inputLen_operand (u : State) (n : Nat) : u.inputLen die c n = n := by
  obtain ⟨-, -, -, -, hfin, -, -, -⟩ := h
  exact if_pos hfin

theorem fifoFull_eq_false (u : State) : u.fifoFull die c = false := by
  obtain ⟨-, -, -, -, -, hfout, -, -⟩ := h
  rw [State.fifoFull, hfout]
  rfl

end

theorem lengthOk_iff {n : Nat} : lengthOk n = true ↔ 1 ≤ n ∧ n < 2 ^ 48 := by
  rw [lengthOk, Bool.and_eq_true_iff, decide_eq_true_iff, decide_eq_true_iff]

/-- Bit 63 of an operand of COPY is 0: it names no peer's memory. -/
theorem bit63_zero {w : Word} (h : w.getLsbD 63 = false) : bitsOf w.toNat 63 1 = 0 := by
  rw [bitsOf_one]
  exact congrArg Bool.toNat h

/-! ### Reading and writing memory and scratchpads -/

section
variable {s s1 u : State} {die va n at_ ts t l off q : Nat} {c : Card} {b : List Byte}

theorem input_mem (hr : JobReads s die c va n b ts s1) : s.input die c (.mem va) n = .ok (b, ts, s1) := by
  unfold JobReads at hr
  simp only [State.input, hr]

theorem output_mem (hw : JobWrites s die c va ts b t u) : s.output die c (.mem va) 0 ts b = (none, t, u) := by
  unfold JobWrites at hw
  simp only [State.output, Nat.add_zero, hw, Option.map_none]

theorem output_sp (hq : s.spHolder c.ctx l = some q) :
    s.output die c (.sp l off) 0 ts b = (none, ts, s.putSp die c.ctx l q off b ts) := by
  simp only [State.output, hq, Nat.add_zero]

/-- A source is read, and then its bytes are written in one piece. -/
theorem moveAll_eq {src dst : Place} (hin : s.input die c src n = .ok (b, ts, s1)) (hout : s1.output die c dst 0 ts b = (none, t, u)) :
    s.moveAll die c src dst n = ⟨1, 0, t, u⟩ := by
  simp only [State.moveAll, hin, hout]

end

/-! ### COPY (R230) -/

section
variable {s s1 u : State} {die k n ts t : Nat} {c : Card} {b : List Byte} (h : JobRuns s die k 1 c)
include h

theorem copy_happens (hbegan : c.began = none) {e : JobEnd} (he : s.jobCopy die c = e) : Happens (.copy die k) s (e.close die k) := by
  have hnew : ((s.card die k).filter fun q => q.st == .running && q.op == 1 && q.began.isSome) = none := by
    obtain ⟨-, hcard, -⟩ := h
    rw [hcard, Option.filter_some, hbegan, Option.isSome_none, Bool.and_false]
    rfl
  show execCopy die k s = _
  simp only [execCopy, hnew]
  exact runCopyJob_close h he

theorem copyLen_eq (hn : n = c.args[2].toNat) : s.copyLen die c = n := (inputLen_operand h s _).trans hn.symm

theorem jobCopy_badLength (hn : n = c.args[2].toNat) (hbad : lengthOk n = false) : s.jobCopy die c = jobStop s c 5 0 := by
  simp only [State.jobCopy, copyLen_eq h hn, hbad, Bool.not_false, or_true, if_true]

variable (hn : n = c.args[2].toNat) (h3 : c.args[3] = 0) (hlen : lengthOk n = true) (h0 : c.args[0].getLsbD 63 = false)
include hn h3 hlen h0

/-- COPY from memory to a place that no link keeps out of reach. -/
theorem jobCopy_eq {dst : Place} (hdst : dstPlace c c.args[1].toNat n = some dst) (hnear : ∀ q va, dst ≠ .peer q va) :
    s.jobCopy die c = if overlaps (.mem c.args[0].toNat) dst n n then jobStop s c 5 0
      else if !s.placeHeld c dst then jobStop s c 8 0
      else s.moveAll die c (.mem c.args[0].toNat) dst n := by
  have hgo : ¬(c.args[3] ≠ 0 ∨ (!lengthOk n) = true) := by rw [h3, hlen]; decide
  simp only [State.jobCopy, copyLen_eq h hn, if_neg hgo, srcPlace_mem h (.inr (bit63_zero h0)), hdst, linkFaults_none h (mem_ne_peer _) hnear]

section
variable (h1 : c.args[1].getLsbD 63 = false) (hdsp : Nat.land c.flags fDSP = 0)
include h1 hdsp

theorem jobCopy_overlap (hmeet : meets c.args[0].toNat n c.args[1].toNat n = true) : s.jobCopy die c = jobStop s c 5 0 := by
  rw [jobCopy_eq h hn h3 hlen h0 (dstPlace_mem h (.inr (bit63_zero h1)) hdsp n) (mem_ne_peer _)]
  exact if_pos hmeet

theorem jobCopy_mem (hmeet : meets c.args[0].toNat n c.args[1].toNat n = false) (hr : JobReads s die c c.args[0].toNat n b ts s1)
    (hw : JobWrites s1 die c c.args[1].toNat ts b t u) : s.jobCopy die c = ⟨1, 0, t, u⟩ := by
  rw [jobCopy_eq h hn h3 hlen h0 (dstPlace_mem h (.inr (bit63_zero h1)) hdsp n) (mem_ne_peer _), overlaps, hmeet]
  exact moveAll_eq (input_mem hr) (output_mem hw)

end

theorem jobCopy_sp {l off q : Nat} (h1 : c.args[1].getLsbD 63 = false) (hdsp : Nat.land c.flags fDSP ≠ 0)
    (hplace : spPlace c.args[1].toNat n = some (.sp l off)) (hq : s.spHolder c.ctx l = some q) (hr : JobReads s die c c.args[0].toNat n b ts s1)
    (hq1 : s1.spHolder c.ctx l = some q) : s.jobCopy die c = ⟨1, 0, ts, s1.putSp die c.ctx l q off b ts⟩ := by
  have hheld : s.placeHeld c (.sp l off) = true := Option.isSome_of_eq_some hq
  rw [jobCopy_eq h hn h3 hlen h0 ((dstPlace_sp h (.inr (bit63_zero h1)) hdsp n).trans hplace) (sp_ne_peer _ _), hheld]
  exact moveAll_eq (input_mem hr) (output_sp hq1)

end

/-! ### COPYT (R230) -/

section
variable {s : State} {die k r n z sp dp : Nat} {c : Card} (h : JobRuns s die k 2 c) (hshape : shapeOf c.args[2] = some (r, n, z))
  (hsp : sp = slice c.args[3] 31 0) (hdp : dp = slice c.args[3] 63 32)
include h hshape hsp hdp

omit h in
theorem jobCopyt_badPitch (hbad : sp < n * z ∨ dp < r * z) : s.jobCopyt die c = jobStop s c 5 0 := by
  subst hsp hdp
  simp only [State.jobCopyt, hshape]
  exact if_pos (hbad.imp_right .inl)

theorem jobCopyt_rows (hs : n * z ≤ sp) (hd : r * z ≤ dp)
    (hapart : ∀ i j, i < r → j < n → meets (c.args[0].toNat + i * sp) (n * z) (c.args[1].toNat + j * dp) (r * z) = false) :
    s.jobCopyt die c = s.moveRows die c c.args[0].toNat c.args[1].toNat sp dp n z c.ts r 0 := by
  subst hsp hdp
  have hshared : ((List.range r).any fun i => (List.range n).any fun j =>
      meets (c.args[0].toNat + i * slice c.args[3] 31 0) (n * z) (c.args[1].toNat + j * slice c.args[3] 63 32) (r * z)) = false :=
    List.any_eq_false.2 fun i hi => Bool.not_eq_true _ ▸ List.any_eq_false.2 fun j hj =>
      Bool.not_eq_true _ ▸ hapart i j (List.mem_range.1 hi) (List.mem_range.1 hj)
  simp only [State.jobCopyt, hshape, hshared, Bool.false_eq_true, or_false,
    if_neg (not_or.2 ⟨Nat.not_lt.2 hs, Nat.not_lt.2 hd⟩), linkFaults_none h (mem_ne_peer _) (mem_ne_peer _)]

end

/-! ### FILL (R230) -/

theorem fill_happens {s u : State} {die k n t : Nat} {c : Card} (h : JobRuns s die k 3 c) (hn : n = c.args[1].toNat) (h3 : c.args[3] = 0)
    (hlen : lengthOk n = true) (hdsp : Nat.land c.flags fDSP = 0) (hw : JobWrites s die c c.args[0].toNat c.ts (patternBytes c.args[2] n) t u) :
    Happens (.fill die k) s (jobClosed die k 1 0 t u) := by
  subst hn
  have hgo : ¬(c.args[3] ≠ 0 ∨ (!lengthOk c.args[1].toNat) = true) := by rw [h3, hlen]; decide
  have hjob : s.jobFill die c = ⟨1, 0, t, u⟩ := by
    simp only [State.jobFill, if_neg hgo, dstPlace_mem h (.inl (by decide)) hdsp, State.placeHeld, Bool.not_true, Bool.false_eq_true,
      if_false, linkFault_none h (mem_ne_peer _), output_mem hw]
  exact show execFill die k s = _ from runCopyJob_close h hjob

/-! ### Words of aux records and results (R230, R233) -/

/-- The A and D bits are no part of the physical page number (R281, R287). -/
theorem leafPpn_leafTouched (acc : Acc) (w : Word) : leafPpn (leafTouched acc w) = leafPpn w := by
  have hor : ∀ v m : Word, m.toNat < 2 ^ 12 → leafPpn (v ||| m) = leafPpn v := fun v m hm => by
    refine Nat.eq_of_testBit_eq fun i => ?_
    have hbit : m.toNat.testBit (12 + i) = false :=
      Nat.testBit_lt_two_pow (hm.trans_le (Nat.pow_le_pow_right (by decide) (Nat.le_add_right ..)))
    rw [leafPpn, leafPpn, slice, slice, testBit_bitsOf, testBit_bitsOf, BitVec.toNat_or, Nat.testBit_or, hbit, Bool.or_false]
  unfold leafTouched
  dsimp only
  split
  · rw [hor _ _ (by decide), hor _ _ (by decide)]
  · rw [hor _ _ (by decide)]

/-- The walk that an access makes finds the physical address that a probe of its page finds. -/
theorem walk_of_walkTouch {s s1 : State} {e : TEnv} {user : Bool} {acc : Acc} {sp : Special} {va q : Nat} {t : TlbEntry}
    (h : s.walkTouch e user acc sp va = .ok (t, q, s1)) : ∃ t0 f, s.walk e user acc sp va = .ok (t0, f) ∧ t0.pa va = t.pa va := by
  unfold State.walkTouch at h
  split at h
  · cases h
  · rename_i t0 f hwalk
    obtain ⟨rfl, -⟩ := Prod.mk.inj (Except.ok.inj h)
    exact ⟨t0, f, hwalk, by rw [TlbEntry.pa, TlbEntry.pa, leafPpn_leafTouched]⟩

/-- A word that can be written passes the probe before it. -/
theorem probe_of_vwrite {s u : State} {e : TEnv} {user : Bool} {sp : Special} {va v p t : Nat} (ha : va % 8 = 0)
    (h : s.vwrite e user sp va 8 v p = .ok (t, u)) : s.probe e user .write sp va 8 1 = none := by
  unfold State.vwrite at h
  split at h
  · cases h
  · rename_i t0 q s1 htouch
    obtain ⟨t1, f, hwalk, hpa⟩ := walk_of_walkTouch htouch
    dsimp only at h
    split at h
    · cases h
    · rename_i hfree
      have hpage : min 8 (4096 - va % 4096) = 8 := by omega
      simp only [State.probe, hwalk, hpage, hpa, true_and, if_neg hfree]
      rfl

section
variable {s u : State} {die k op ts t : Nat} {c : Card} (h : JobRuns s die k op c)
include h

theorem putAuxs_nil (u : State) : u.putAuxs die c ts [] = ⟨1, 0, ts, u⟩ := by
  simp only [State.putAuxs, fifoFull_eq_false h, Bool.false_eq_true, if_false]
  rfl

theorem putAuxs_word {s1 : State} {va v : Nat} (ha : va % 8 = 0)
    (hw : s1.vwrite (s1.ctxEnv die c.ctx) c.user .none va 8 v ts = .ok (t, u)) : s1.putAuxs die c ts [(va, v)] = ⟨1, 0, t, u⟩ := by
  simp only [State.putAuxs, fifoFull_eq_false h, Bool.false_eq_true, if_false, State.putChecked, State.auxFault, probe_of_vwrite ha hw,
    State.putWords, State.putAux, hw]

end

/-! ### CRC (R230) -/

theorem crc_happens {s s1 u : State} {die k n ts t : Nat} {c : Card} {b : List Byte} (h : JobRuns s die k 6 c) (hn : n = c.args[1].toNat)
    (hzero : slice c.args[2] 63 32 = 0) (ha : c.args[3].toNat % 8 = 0) (hlen : lengthOk n = true) (hr : JobReads s die c c.args[0].toNat n b ts s1)
    (hw : s1.vwrite (s1.ctxEnv die c.ctx) c.user .none c.args[3].toNat 8 (crc32c (slice c.args[2] 31 0) b) ts = .ok (t, u)) :
    Happens (.crc die k) s (jobClosed die k 1 0 t u) := by
  subst hn
  have hgo : ¬(slice c.args[2] 63 32 ≠ 0 ∨ c.args[3].toNat % 8 ≠ 0 ∨ (!lengthOk c.args[1].toNat) = true) := by
    rw [hzero, ha, hlen]
    decide
  have hjob : s.jobCrc die c = ⟨1, 0, t, u⟩ := by
    simp only [State.jobCrc, inputLen_operand h, if_neg hgo, srcPlace_mem h (.inl (by decide)), linkFault_none h (mem_ne_peer _),
      input_mem hr, putAuxs_word h ha hw]
  exact show execCrc die k s = _ from runCopyJob_close h hjob

/-! ### LZ4 blocks (R231 to R233) -/

/-- Little-endian bytes read back as the number that they hold. -/
theorem bytesNat_leBytes (n v : Nat) : bytesNat (leBytes n v) = v % 2 ^ (8 * n) := by
  induction n generalizing v with
  | zero => rw [Nat.mul_zero, Nat.pow_zero, Nat.mod_one]; rfl
  | succ n ih =>
    rw [leBytes, bytesNat, ih, BitVec.toNat_ofNat, Nat.mul_succ, Nat.add_comm (8 * n), Nat.pow_add, Nat.mod_mul, Nat.mod_mod]

theorem lz4Stream_nil (limit fuel j done : Nat) :
    lz4Stream limit (fuel + 1) j done [] = ([], if done < limit then some (0xA, j) else none) := rfl

/-- A stream of one raw chunk is its bytes (R231). -/
theorem lz4Stream_raw {m : Nat} {d : List Byte} (hd : d.length = m) (h1 : 1 ≤ m) (hm : m ≤ 65536) (fuel : Nat) :
    lz4Stream m (fuel + 2) 0 0 (leBytes 4 (m + 2 ^ 31) ++ d) = ([d], none) := by
  subst hd
  have hhead : bytesNat ((leBytes 4 (d.length + 2 ^ 31) ++ d).take 4) = d.length + 2 ^ 31 := by
    rw [List.take_left' (length_leBytes ..), bytesNat_leBytes]
    exact Nat.mod_eq_of_lt (by omega)
  have hrest : (leBytes 4 (d.length + 2 ^ 31) ++ d).drop 4 = d := List.drop_left' (length_leBytes ..)
  have hsize : (d.length + 2 ^ 31) % 2 ^ 31 = d.length := by omega
  have hraw : (bitsOf (d.length + 2 ^ 31) 31 1 == 1) = true := by
    rw [beq_iff_eq, bitsOf]
    omega
  have hlen : (leBytes 4 (d.length + 2 ^ 31) ++ d).length = 4 + d.length := by rw [List.length_append, length_leBytes]
  have hne : (leBytes 4 (d.length + 2 ^ 31) ++ d).isEmpty = false := by
    rw [List.isEmpty_eq_false_iff_exists_mem]
    exact List.exists_mem_of_length_pos (by omega)
  have hwhole : ¬(leBytes 4 (d.length + 2 ^ 31) ++ d).length < 4 := by omega
  have hchunk : lz4Chunk true (d.take d.length) = some d := by
    rw [List.take_length, lz4Chunk, if_pos rfl]
    refine if_neg ?_
    rw [Bool.or_eq_true_iff, decide_eq_true_iff, List.isEmpty_iff_length_eq_zero, chunkSize]
    omega
  rw [lz4Stream]
  simp only [hhead, hrest, hsize, hraw, hne, hwhole, hchunk, or_self, List.drop_length, lz4Stream_nil, Nat.zero_add, Nat.lt_irrefl,
    List.isEmpty_nil, Bool.not_true, Bool.false_and, Bool.false_eq_true, if_false]

/-- A block of at most 12 bytes holds them as literals of one sequence (R233). -/
theorem lz4Pack_short {b : List Byte} (hb : b.length ≤ 12) :
    lz4Pack b = leBytes 4 (b.length + 1) ++ BitVec.ofNat 8 (16 * b.length) :: b := by
  have hscan : lz4Scan b.toArray (b.length + 1) 0 0 [] = BitVec.ofNat 8 (16 * b.length) :: b := by
    have hmin : min 15 b.length = b.length := by omega
    have hext : lz4Ext b.length = [] := if_pos (by omega)
    rw [lz4Scan, if_pos (by rw [List.size_toArray]; omega), List.drop_zero, lz4Emit]
    simp only [hmin, hext, List.nil_append]
  rw [lz4Pack, hscan]
  exact if_neg (by rw [List.length_cons, chunkSize]; omega)

/-- The one chunk of a short source that fits the capacity. -/
theorem lz4Packs_short {b : List Byte} {cap : Nat} (h1 : 1 ≤ b.length) (hb : b.length ≤ 12) (hcap : b.length + 5 ≤ cap) :
    lz4Packs cap (b.length / chunkSize + 1) 0 b = ([leBytes 4 (b.length + 1) ++ BitVec.ofNat 8 (16 * b.length) :: b], none) := by
  have hne : b.isEmpty = false := by
    rw [List.isEmpty_eq_false_iff_exists_mem]
    exact List.exists_mem_of_length_pos h1
  have htake : b.take chunkSize = b := List.take_of_length_le (by rw [chunkSize]; omega)
  have hfuel : b.length / chunkSize = 0 := Nat.div_eq_of_lt (by rw [chunkSize]; omega)
  have hfits : ¬cap < (leBytes 4 (b.length + 1) ++ BitVec.ofNat 8 (16 * b.length) :: b).length := by
    rw [List.length_append, length_leBytes, List.length_cons]
    omega
  rw [lz4Packs]
  simp only [hne, htake, lz4Pack_short hb, if_neg hfits, hfuel, Bool.false_eq_true, if_false]
  rfl

/-- One chunk goes to its destination in one piece. -/
theorem outChunks_single {s u : State} {die va ts t : Nat} {c : Card} {b : List Byte} (hw : JobWrites s die c va ts b t u) :
    s.outChunks die c (.mem va) none ts 0 [b] = (none, t, u) := by
  simp only [State.outChunks, chunkPieces, State.outElems, output_mem hw]

theorem land_eq_zero_of_land {x m j : Nat} (hj : Nat.land m j = j) (h : Nat.land x m = 0) : Nat.land x j = 0 := by
  change m &&& j = j at hj
  change x &&& m = 0 at h
  change x &&& j = 0
  rw [← hj, ← Nat.land_assoc, h, Nat.zero_and]

/-- A codec's card without an aux record, whose flags need none (R231). -/
theorem auxBad_eq_false {c : Card} (h3 : c.args[3] = 0) (hflags : Nat.land c.flags (fCRCS + fCRCD + fXPOSE) = 0) : auxBad c = false := by
  simp only [auxBad, h3, hflags]
  rfl

/-- The lengths of a codec's operands have 32 bits. -/
theorem lz4_lengthsOk {w : Word} {n m : Nat} (hn : n = slice w 31 0) (hm : m = slice w 63 32) (h1 : 1 ≤ n) (h2 : 1 ≤ m) :
    lengthOk n = true ∧ lengthOk m = true := by
  subst hn hm
  have hlt : ∀ lo, bitsOf w.toNat lo 32 < 2 ^ 48 := fun lo => (bitsOf_lt ..).trans (by decide)
  exact ⟨lengthOk_iff.2 ⟨h1, hlt 0⟩, lengthOk_iff.2 ⟨h2, hlt 32⟩⟩

section
variable {s s1 u : State} {die k op src dst n m ts t : Nat} {c : Card} {b d : List Byte} (h : JobRuns s die k op c) (hop : op ≠ 1)
  (hsrc : src = c.args[0].toNat) (hdst : dst = c.args[1].toNat) (hn : n = slice c.args[2] 31 0) (hm : m = slice c.args[2] 63 32)
  (h3 : c.args[3] = 0) (hflags : Nat.land c.flags (fCRCS + fCRCD + fXPOSE) = 0) (hdsp : Nat.land c.flags fDSP = 0) (h1 : 1 ≤ n) (h2 : 1 ≤ m)
  (hmeet : meets src n dst m = false) (hr : JobReads s die c src n b ts s1) (hw : JobWrites s1 die c dst ts d t u)

include h hop hsrc hdst hn hm h3 hflags hdsp h1 h2 hmeet hr hw

theorem jobLz4x_eq (hout : lz4Stream m (b.length + 1) 0 0 b = ([d], none)) : s.jobLz4x die c = ⟨1, 0, t, u⟩ := by
  obtain ⟨hlenN, hlenM⟩ := lz4_lengthsOk hn hm h1 h2
  subst hsrc hdst hn hm
  have hcrcs : Nat.land c.flags fCRCS = 0 := land_eq_zero_of_land (by decide) hflags
  have hcrcd : Nat.land c.flags fCRCD = 0 := land_eq_zero_of_land (by decide) hflags
  have hxpose : Nat.land c.flags fXPOSE = 0 := land_eq_zero_of_land (by decide) hflags
  have hshape : s.shapeOp die c (slice c.args[2] 63 32) = .ok (none, s) := if_pos hxpose
  have hfifo : (c.fin == 0) = true := by
    obtain ⟨-, -, -, -, hfin, -, -, -⟩ := h
    exact beq_iff_eq.2 hfin
  have haux : auxBad c = false := auxBad_eq_false h3 hflags
  simp only [State.jobLz4x, haux, inputLen_operand h, hlenN, hlenM, hfifo, Bool.true_or, Bool.not_true, Bool.or_self,
    Bool.false_eq_true, if_false, srcPlace_mem h (.inl hop), dstPlace_mem h (.inl hop) hdsp, overlaps, hmeet, State.placeHeld,
    linkFaults_none h (mem_ne_peer _) (mem_ne_peer _), hshape, State.expand, input_mem hr, hout, outChunks_single hw, fullGranules,
    State.fillPlace, hcrcs, hcrcd, if_true, List.append_nil, putAuxs_nil h]

theorem jobLz4c_eq (hout : lz4Packs m (b.length / chunkSize + 1) 0 b = ([d], none)) : s.jobLz4c die c = ⟨1, 0, t, u⟩ := by
  obtain ⟨hlenN, hlenM⟩ := lz4_lengthsOk hn hm h1 h2
  subst hsrc hdst hn hm
  have hcrcs : Nat.land c.flags fCRCS = 0 := land_eq_zero_of_land (by decide) hflags
  have haux : auxBad c = false := auxBad_eq_false h3 hflags
  have hnone : c.args[3].toNat = 0 := by rw [h3]; rfl
  simp only [State.jobLz4c, haux, inputLen_operand h, hlenN, hlenM, Bool.not_true, Bool.or_self, Bool.false_eq_true,
    if_false, srcPlace_mem h (.inl hop), dstPlace_mem h (.inl hop) hdsp, overlaps, hmeet,
    linkFaults_none h (mem_ne_peer _) (mem_ne_peer _), input_mem hr, hout, outChunks_single hw, hcrcs, hnone, if_true, List.append_nil,
    putAuxs_nil h]

end

/-! ### An engine takes a card (R217, R225) -/

/-- A card that uses no FIFO is chained to none. -/
theorem chain_self {d : Die} {k : Nat} {c : Card} (hcard : d.cards[k]? = some c) (hfin : c.fin = 0) (hfout : c.fout = 0) (fuel : Nat) :
    d.chain fuel [k] = [k] := by
  have hpartners : d.partners c = [] := by
    rw [Die.partners, Die.producer, Die.consumer, if_pos hfin, if_pos hfout]
    rfl
  cases fuel with
  | zero => rfl
  | succ fuel => simp only [Die.chain, List.flatMap_cons, List.flatMap_nil, hcard, hpartners, List.map_nil, List.append_nil, List.foldl_nil, if_true]

theorem bestCard_mem {l : List Card} {c : Card} (h : bestCard l = some c) : c ∈ l := by
  induction l with
  | nil => cases h
  | cons a r ih =>
    rw [bestCard] at h
    split at h
    · cases h
      exact List.mem_cons_self
    · rename_i q hq
      split at h
      · exact List.mem_cons_of_mem _ (ih (hq.trans h))
      · cases h
        exact List.mem_cons_self

/-- Among cards in the order of their numbers, the one of highest PRIO that comes first is the best. -/
theorem bestCard_eq {l : List Card} {c : Card} (hids : l.Pairwise fun a b => a.id < b.id) (hc : c ∈ l)
    (hbest : ∀ q ∈ l, q.prio < c.prio ∨ (q.prio = c.prio ∧ c.id ≤ q.id)) : bestCard l = some c := by
  induction l with
  | nil => cases hc
  | cons a r ih =>
    obtain ⟨hfirst, hrest⟩ := List.pairwise_cons.1 hids
    rw [bestCard]
    rcases List.mem_cons.1 hc with rfl | hc
    · split
      · rfl
      · rename_i q hq
        have hle := hbest q (List.mem_cons_of_mem _ (bestCard_mem hq))
        exact if_neg (by omega)
    · rw [ih hrest hc fun q hq => hbest q (List.mem_cons_of_mem _ hq)]
      have hlt := hfirst c hc
      have ha := hbest a List.mem_cons_self
      exact if_pos (by omega)

/-- The cards of a die stand in the order of their numbers. -/
theorem cards_pairwise {s : State} {die : Nat} (hids : ∀ j q, s.card die j = some q → q.id = j) :
    (s.die die).cards.Pairwise fun a b => a.id < b.id :=
  List.pairwise_iff_getElem.2 fun i j hi hj hij => by
    rw [hids i _ (List.getElem?_eq_getElem hi), hids j _ (List.getElem?_eq_getElem hj)]
    exact hij

theorem execJobStart_eq {s : State} {die cls k : Nat} {c : Card} (hdie : die < 2) (hcard : s.card die k = some c)
    (hids : ∀ j q, s.card die j = some q → q.id = j) (hmay : s.mayStart die cls c = true)
    (hbest : ∀ q ∈ (s.die die).cards, s.mayStart die cls q = true → q.prio < c.prio ∨ (q.prio = c.prio ∧ k ≤ q.id))
    (hfin : c.fin = 0) (hfout : c.fout = 0) :
    execJobStart die cls s = .next (if cls = 2 then (s.setCard die { c with st := .running }).startLineage die k
      else s.setCard die { c with st := .running }) := by
  have hid : c.id = k := hids k c hcard
  have htaken : bestCard ((s.die die).cards.filter (s.mayStart die cls)) = some c := by
    refine bestCard_eq ((cards_pairwise hids).filter _) (List.mem_filter.2 ⟨List.mem_of_getElem? hcard, hmay⟩) fun q hq => ?_
    obtain ⟨hmem, hstarts⟩ := List.mem_filter.1 hq
    rw [hid]
    exact hbest q hmem hstarts
  simp only [execJobStart, runEvent, if_neg (Nat.not_le.2 hdie), htaken, hid, chain_self hcard hfin hfout, State.startAll, hcard]

/-! ### A card that is DONE is retired (R217, R228) -/

theorem execCardRetire_eq {s : State} {die k : Nat} {c : Card} (hdie : die < 2) (hcard : s.card die k = some c) (hdone : c.st = .done)
    (hdiff : s.diffInFlight die c = false)
    (hearlier : ∀ q ∈ (s.die die).cards, q.sameQueue c = true → q.id < c.id → q.st = .retired) :
    execCardRetire die k s = .next (s.retireCard die c) := by
  have hretired : s.earlierRetired die c = true := List.all_eq_true.2 fun q hq => by
    rw [Bool.or_eq_true_iff, Bool.not_eq_true', Bool.and_eq_false_iff, decide_eq_false_iff_not, beq_iff_eq]
    by_cases hsame : q.sameQueue c = true
    · by_cases hlt : q.id < c.id
      · exact .inr (hearlier q hq hsame hlt)
      · exact .inl (.inr hlt)
    · exact .inl (.inl (Bool.eq_false_of_not_eq_true hsame))
  have hgo : (c.st == .done && s.earlierRetired die c && !s.diffInFlight die c) = true := by rw [hdone, hretired, hdiff]; rfl
  simp only [execCardRetire, runEvent, if_neg (Nat.not_le.2 hdie), hcard, if_pos hgo]

/-! ### The statement -/

/-- Settles O49: an engine takes the best card, each job of a copy engine runs to the end that its work gives, and a DONE card is retired. -/
theorem engineJobs : Obligations.EngineJobs := by
  unfold Obligations.EngineJobs
  refine ⟨?start, ?copy, ?copyt, ?fill, ?crc, ?lz4, ?retire⟩
  case start =>
    intro s die cls k c hdie hcard hids hmay hbest hfin hfout
    have hstart := execJobStart_eq hdie hcard hids hmay hbest hfin hfout
    exact ⟨fun hcls => hstart.trans (by rw [if_neg hcls]), fun hcls => hstart.trans (by rw [if_pos hcls])⟩
  case copy =>
    intro s die k c src dst n h hbegan hsrc hdst hn h3 h0 h1
    subst hsrc hdst
    refine ⟨fun hzero _ => ?_, fun hge hlt hdsp hmeet => ?_, fun b ts s1 t u hge hlt hr =>
      ⟨fun hdsp hmeet hw => ?_, fun l off q hdsp hplace hq hq1 => ?_⟩⟩
    · exact copy_happens h hbegan (jobCopy_badLength h hn (by rw [hzero]; rfl))
    · exact copy_happens h hbegan (jobCopy_overlap h hn h3 (lengthOk_iff.2 ⟨hge, hlt⟩) h0 h1 hdsp hmeet)
    · exact copy_happens h hbegan (jobCopy_mem h hn h3 (lengthOk_iff.2 ⟨hge, hlt⟩) h0 h1 hdsp hmeet hr hw)
    · exact copy_happens h hbegan (jobCopy_sp h hn h3 (lengthOk_iff.2 ⟨hge, hlt⟩) h0 h1 hdsp hplace hq hr hq1)
  case copyt =>
    intro s die k c r n z sp dp h hshape hsp hdp
    exact ⟨fun hbad => show execCopyt die k s = _ from runCopyJob_close h (jobCopyt_badPitch hshape hsp hdp hbad),
      fun hs hd hapart => show execCopyt die k s = _ from runCopyJob_close h (jobCopyt_rows h hshape hsp hdp hs hd hapart)⟩
  case fill =>
    intro s die k c n t u h hn h3 hge hlt hdsp hw
    subst hn
    exact fill_happens h rfl h3 (lengthOk_iff.2 ⟨hge, hlt⟩) hdsp hw
  case crc =>
    intro s die k c b n ts t s1 u h hn hzero ha hge hlt hr hw
    exact crc_happens h hn hzero ha (lengthOk_iff.2 ⟨hge, hlt⟩) (hn ▸ hr) hw
  case lz4 =>
    intro s die k c op src dst n m b d ts t s1 u h hsrc hdst hn hm h3 hflags hdsp h1 h2 hmeet hr hw
    refine ⟨?expand, ?compress⟩
    case expand =>
      rintro rfl hd hmax rfl
      have hout : lz4Stream m ((leBytes 4 (m + 2 ^ 31) ++ d).length + 1) 0 0 (leBytes 4 (m + 2 ^ 31) ++ d) = ([d], none) := by
        rw [List.length_append, length_leBytes, Nat.add_assoc, Nat.add_comm]
        exact lz4Stream_raw hd h2 hmax _
      exact show execLz4x die k s = _ from runCopyJob_close h
        (jobLz4x_eq h (by decide) hsrc hdst hn hm h3 hflags hdsp h1 h2 hmeet hr hw hout)
    case compress =>
      rintro rfl hb hmax hcap rfl
      subst hb
      exact show execLz4c die k s = _ from runCopyJob_close h
        (jobLz4c_eq h (by decide) hsrc hdst hn hm h3 hflags hdsp h1 h2 hmeet hr hw (lz4Packs_short h1 hmax hcap))
  case retire =>
    intro s die k c hdie hcard hdone hdiff hearlier
    have hretire := execCardRetire_eq hdie hcard hdone hdiff hearlier
    exact ⟨fun t s1 hw => hretire.trans (by simp only [State.retireCard, hw]), fun e hw => hretire.trans (by simp only [State.retireCard, hw])⟩

end Sys2Proof.Machine

/-! ## A host load of a line whose base two region entries share (15, R292, R295; 19, R377) -/

namespace Sys2Proof.Machine
open Sys2Proof.Safety

/-- A naturally aligned load of the host makes it a sharer of the line's region, and answers with what it has read (R377). -/
theorem hostMemAccess_load {s : State} {pa n : Nat} (hup : s.ucieUp (dramDie pa) = true) (hdram : inDram pa = true)
    (hn : n = 1 ∨ n = 2 ∨ n = 4 ∨ n = 8) (ha : pa % n = 0) :
    exec (.hostMemAccess pa n none) s = .next
      { (s.agentLine 145 (s.ownerOf pa) 0 (s.homeFor pa) pa 0).2.2 with
        toHost := (s.agentLine 145 (s.ownerOf pa) 0 (s.homeFor pa) pa 0).2.2.toHost ++
          [.memAnswer pa (BitVec.ofNat 64 (bitsOf (s.agentLine 145 (s.ownerOf pa) 0 (s.homeFor pa) pa 0).1.toNat (8 * (pa % 64)) (8 * n)))] } := by
  have hsize : (n == 1 || n == 2 || n == 4 || n == 8) = true := by rcases hn with rfl | rfl | rfl | rfl <;> rfl
  have hgo : ¬(!s.ucieUp (dramDie pa) || !inDram pa || !(n == 1 || n == 2 || n == 4 || n == 8) || pa % n != 0) = true := by
    rw [hup, hdram, hsize, ha]
    decide
  show execHostMemAccess pa n none s = _
  simp only [execHostMemAccess, runEvent, if_neg hgo]

/-- A region entry of home 0 at 0x4000010000 in state 0, with its size and EVR. -/
def twin (size evr : Nat) : RegionEntry :=
  { home := 0, base := 0x4000010000, size := size, st := 0, sharers := [], owner := none, pending := none, timer := none, waits := false,
    evr := evr, sel := 0, ctx := 0, recalled := false, last := 0, epoch := 0 }

/-- The second word of the line. -/
def twinWord : Nat := 0x4000010008

/-- The host's link of die 0 is ACTIVE; home 0 lists two entries at one base. The first covers the line's first word and gives the line its
timestamps, (0, 0); the second covers the whole line, with EVR at the limit. -/
def twins : State := { State.reset with
  links := (Vector.replicate 17 Link.reset).set 13 { Link.reset with st := .active }
  regions := [twin 8 0, twin 64 tsLimit] }

theorem twins_reached : twins.ucieUp (dramDie twinWord) = true ∧ inDram twinWord = true ∧ twins.away (twinWord / 64) = none := by decide +kernel

theorem twins_region : twins.homeFor twinWord = 0 ∧ twins.region? 0 twinWord = some (twin 64 tsLimit) ∧
    twins.lineTs 0 (twinWord / 64) = (0, 0) := by
  decide +kernel

/-- The load writes the entry that it found over both, which takes the line's timestamps to the limit: the home reports that and grants
nothing (R292). -/
theorem twins_notShared :
    ((twins.agentLine 145 (twins.ownerOf twinWord) 0 (twins.homeFor twinWord) twinWord 0).2.2.region? 0 twinWord).map RegionEntry.st = some 0 := by
  decide +kernel

/-- Refutes O47: a load of the host need not make it a sharer. The statement asks for the timestamps of the line before the load, and for one
entry that covers the word, but not that the home lists one entry at a base; in `twins` it lists two, and the entry stays in state 0. -/
theorem not_hostAndPlatformEvents : ¬ Obligations.HostAndPlatformEvents := by
  unfold Obligations.HostAndPlatformEvents
  intro h
  obtain ⟨-, hmemory, -⟩ := h twins
  obtain ⟨hup, hdram, haway⟩ := twins_reached
  obtain ⟨hhome, hregion, hts⟩ := twins_region
  obtain ⟨hload, -⟩ := hmemory twinWord 8 hup hdram (by decide) (by decide)
  obtain ⟨⟨u, m, hhappens, -, -, -, -, hentry, hshared, -⟩, -⟩ := hload (twin 64 tsLimit) haway (by rwa [hhome]) (by rw [hhome]; decide) rfl
    (by decide) rfl rfl rfl (by rw [hhome, hts]; decide) (by rw [hhome, hts]; decide)
  have hu := Host.Outcome.next.inj (hhappens.symm.trans (hostMemAccess_load hup hdram (by decide) (by decide)))
  have hstate : (u.region? 0 twinWord).map RegionEntry.st = some 0 := by
    rw [hu]
    exact twins_notShared
  rw [hhome] at hentry
  rw [hentry, Option.map_some, hshared] at hstate
  exact absurd hstate (by decide)

end Sys2Proof.Machine

/-! ## The barrier instructions (12, R256, R263 to R267) -/

namespace Sys2Proof.Machine
open Sys2Proof.Safety

/-! ### The object that an operand names (R239, R256, R382) -/

section
variable {s w : State} {k : Core} {va : Word} {home pa n : Nat}

theorem storeGuard_trap (hg : s.guarded pa n = true) (hp : (s.core s.cur).priv ≠ 3) :
    storeGuard va pa n s = .error (.trap causeProt va) := by
  simp only [storeGuard, hg, Bool.not_true, Bool.false_eq_true, if_false, if_pos hp]

theorem barPlace_misaligned (hal : va.toNat % 64 ≠ 0) (s : State) : barPlace va s = .error (.trap causeMisalign va) :=
  bind_err (onCore_err (checkAlign_trap hal _))

theorem barTarget_misaligned (hal : va.toNat % 64 ≠ 0) (s : State) : barTarget va s = .error (.trap causeMisalign va) :=
  bind_err (barPlace_misaligned hal s)

variable (hat : BarrierAt (s.setCore s.cur k) va home pa w)
include hat

/-- Finding an object changes what the core's TLB holds alone. -/
theorem setCore_of_barrierAt : ∃ l, w = s.setCore s.cur { k with tlb := l } := by
  obtain ⟨t, -, htr, -⟩ := hat
  exact setCore_of_translates htr

theorem barPlace_ok : barPlace va (s.setCore s.cur k) = .ok ((home, pa), w) := by
  obtain ⟨t, hal, htr, rfl, hdram, rfl⟩ := hat
  rw [barPlace, bind_ok (onCore_setCore (checkAlign_ok hal k)), bind_ok (translate_of_translates htr),
    bind_ok (trapIf_ok _ _ _ (by rw [hdram]; rfl)), rd_bind, cur_of_translates htr, pure_ok]

theorem barTarget_ok (hg : w.guarded pa 64 = false) : barTarget va (s.setCore s.cur k) = .ok ((home, pa), w) := by
  rw [barTarget, bind_ok (barPlace_ok hat), bind_ok (storeGuard_ok hg), pure_ok]

theorem barTarget_guarded (hg : w.guarded pa 64 = true) (hp : k.priv ≠ 3) :
    barTarget va (s.setCore s.cur k) = .error (.trap causeProt va) := by
  obtain ⟨l, hw⟩ := setCore_of_barrierAt hat
  have hpriv : (w.core w.cur).priv ≠ 3 := by
    rw [hw, State.setCore_cur, State.core_setCore_self]
    exact hp
  rw [barTarget, bind_ok (barPlace_ok hat), bind_err (storeGuard_trap hg hpriv)]

end

/-! ### What the issuing core sends -/

section
variable {s w : State} {k : Core} {va : Word} {home pa : Nat} {seen barw : Bool}

/-- The state whose issuing core has fenced and sent an arrival (R263, R265). -/
def sentArrival (s : State) (home pa : Nat) (va : Word) : State := (s.modCore s.cur Core.fenced).sendArrival home pa va

/-- The arrival bears the timestamp that the fence leaves. -/
theorem sentArrival_eq {q : Core} (hq : q = s.core s.cur) :
    sentArrival s home pa va = { (s.setCore s.cur ({ q with pts := max q.pts q.sts, sts := max q.pts q.sts }.setPending .sent)) with
      bars := s.bars ++ [.arrival home pa va s.cur q.sv.ctxid.toNat (max q.pts q.sts)] } := by
  subst hq
  simp only [sentArrival, State.sendArrival, State.modCore, State.setCore_cur, State.core_setCore_self, State.setCore_setCore]
  rfl

/-- The fence of the object's scope has nothing to wait for (R263). -/
theorem barFence_ok (hf : k.sfault = none)
    (hb : (s.setCore s.cur k).fenceBusy s.cur (scopeAt (((s.setCore s.cur k).settle pa).barObj pa).scope) = false) :
    barFence pa (s.setCore s.cur k) = .ok ((), s.setCore s.cur k) := by
  rw [barFence, bind_ok (onCore_setCore (takeStreamFault_ok hf)), rd_bind]
  exact waitIf_ok _ hb

/-- A destination that is no queue asks nothing; qs needs a place (R29, R113). -/
theorem roomX_ok {d : Reg} (hf : k.sfault = none) (hq : d = 31 → k.qs.length < 16) : roomX d k = .ok ((), k) := by
  by_cases hd : d = 31
  · exact roomX_of_dest (v := 0) rfl rfl rfl (.inr (.inr ⟨hd, .inr hf, hq hd, rfl⟩))
  · exact if_neg fun h => hd h.1

variable (hat : BarrierAt (s.setCore s.cur k) va home pa w)
include hat

theorem arrive_sends {room : CpuM Unit} (hroom : ∀ l, room { k with tlb := l } = .ok ((), { k with tlb := l })) (hf : k.sfault = none)
    (hg : w.guarded pa 64 = false) (hb : w.fenceBusy s.cur (scopeAt ((w.settle pa).barObj pa).scope) = false) :
    arrive room va (s.setCore s.cur k) = .error (.wait fun u => sentArrival u home pa va) := by
  rw [arrive, bind_ok (barTarget_ok hat hg)]
  obtain ⟨l, rfl⟩ := setCore_of_barrierAt hat
  rw [bind_ok (onCore_setCore (hroom l)), bind_ok (barFence_ok (k := { k with tlb := l }) hf hb)]
  rfl

theorem waitOn_sends : waitOn va seen barw (s.setCore s.cur k) = .error (.wait fun u => u.sendWait home pa seen barw) := by
  rw [waitOn, bind_ok (barPlace_ok hat)]
  rfl

end

/-! ### BARR and BARW (R265, R267) -/

/-- The core that issues is looked at after an operand has left it as `k`. -/
theorem onCore_rd_setCore (s : State) (k : Core) : onCore rd (s.setCore s.cur k) = .ok (k, s.setCore s.cur k) := onCore_setCore rfl

section
variable {s w : State} {a d : Reg} {va v : Word} {k k2 : Core} {home pa c : Nat} {e : Stop} {post : State → State}
  (ha : Source (s.core s.cur) a va k)
include ha

/-- An instruction goes on with the value of its operand and with the issuing core after reading it. -/
theorem operandCore_bind {f : Word → Core → DevM Unit} :
    (do
      let x ← onCore (getX a)
      let q ← onCore rd
      f x q) s = f va k (s.setCore s.cur k) := by
  rw [bind_ok (onCore_ok (getX_of_source ha)), bind_ok (onCore_rd_setCore ..)]

theorem barr_delivers (hp : k.pending = .got v) (hd : Dest k d v k2) : Completes (.barr d a) s k2 := by
  refine runInstr_ok ?_
  rw [operandCore_bind ha]
  simp only [hp]
  exact onCore_setCore (setXDone_of_dest hd)

theorem barr_bad (hp : k.pending = .bad c v) : Traps (.barr d a) s c v := by
  refine runInstr_trap ?_
  rw [operandCore_bind ha]
  simp only [hp]
  rfl

theorem barr_waits (hp : k.pending = .sent) : Waits (.barr d a) s := by
  refine runInstr_wait (p := id) ?_
  rw [operandCore_bind ha]
  simp only [hp]
  rfl

theorem barw_released (hp : k.pending = .released) : Completes (.barw a) s k := by
  refine runInstr_ok ?_
  rw [operandCore_bind ha]
  simp only [hp, pure_ok]

/-- After its reply BARW waits as BWAIT does, with the reply as the seen value. -/
theorem barw_waits (hp : k.pending = .got v) (hat : BarrierAt (s.setCore s.cur k) va home pa w) :
    exec (.barw a) s = .next (s.sendWait home pa (v != 0) true) := by
  refine runInstr_wait (p := fun u => u.sendWait home pa (v != 0) true) ?_
  rw [operandCore_bind ha]
  simp only [hp, waitOn_sends hat]

/-! An instruction that has sent nothing yet arrives. -/

section
variable (hp : k.pending = .none)
include hp

theorem exec_barr_arrives : exec (.barr d a) s = runInstr (fun _ => arrive (roomX d) va (s.setCore s.cur k)) s := by
  refine runInstr_congr ?_
  rw [operandCore_bind ha]
  simp only [hp]

theorem exec_barw_arrives (hh : k.hart.hint = none) : exec (.barw a) s = runInstr (fun _ => arrive (pure ()) va (s.setCore s.cur k)) s := by
  refine runInstr_congr ?_
  rw [operandCore_bind ha]
  simp only [hp, Core.resumedBarw, hh]

/-- Both trap as the check of their object does. -/
theorem arrival_traps (hh : k.hart.hint = none) (h : barTarget va (s.setCore s.cur k) = .error (.trap c v)) :
    Traps (.barw a) s c v ∧ ∀ d, Traps (.barr d a) s c v :=
  ⟨(exec_barw_arrives ha hp hh).trans (runInstr_trap (bind_err h)), fun _ => (exec_barr_arrives ha hp).trans (runInstr_trap (bind_err h))⟩

/-- Both send one arrival when the fence has nothing to wait for. -/
theorem arrival_sends (hh : k.hart.hint = none) (hat : BarrierAt (s.setCore s.cur k) va home pa w) (hf : k.sfault = none)
    (hg : w.guarded pa 64 = false) (hb : w.fenceBusy s.cur (scopeAt ((w.settle pa).barObj pa).scope) = false) :
    exec (.barw a) s = .next (sentArrival s home pa va)
      ∧ ∀ d, (d = 31 → k.qs.length < 16) → exec (.barr d a) s = .next (sentArrival s home pa va) := by
  refine ⟨(exec_barw_arrives ha hp hh).trans (runInstr_wait (p := fun u => sentArrival u home pa va) ?_),
    fun d hq => (exec_barr_arrives ha hp).trans (runInstr_wait (p := fun u => sentArrival u home pa va) ?_)⟩
  · exact arrive_sends hat (fun _ => pure_ok ..) hf hg hb
  · exact arrive_sends hat (fun _ => roomX_ok hf hq) hf hg hb

end
end

/-! ### BWAIT (R266) -/

/-- Of the two pennants, the one that is not 0 is 1. -/
theorem bne_zero_of_le_one {v : Word} (hv : v.toNat ≤ 1) : (v != 0) = (v == 1) := by
  have h : v = 0 ∨ v = 1 := by bv_omega
  rcases h with rfl | rfl <;> rfl

section
variable {s w : State} {a b : Reg} {va v : Word} {k1 k2 : Core} {home pa : Nat} (ha : Source (s.core s.cur) a va k1) (hb : Source k1 b v k2)
include ha hb

theorem bwait_released (hp : k2.pending = .released) : Completes (.bwait a b) s k2 := by
  refine runInstr_ok ?_
  rw [twoOperands_bind ha hb, bind_ok (onCore_rd_setCore ..)]
  simp only [hp, pure_ok]

section
variable (hp : k2.pending = .none) (hat : BarrierAt (s.setCore s.cur k2) va home pa w)
include hp hat

theorem exec_bwait_asks : exec (.bwait a b) s = runInstr (fun _ => (do
    trapIf (decide (1 < v.toNat)) causeBadOp v
    waitFor fun u => u.sendWait home pa (v != 0) false : DevM Unit) w) s := by
  refine runInstr_congr ?_
  rw [twoOperands_bind ha hb, bind_ok (onCore_rd_setCore ..)]
  simp only [hp]
  rw [bind_ok (barPlace_ok hat)]

theorem bwait_noPennant (hv : 1 < v.toNat) : Traps (.bwait a b) s causeBadOp v :=
  (exec_bwait_asks ha hb hp hat).trans (runInstr_trap (bind_err (trapIf_trap _ _ _ (decide_eq_true hv))))

theorem bwait_waits (hv : v.toNat ≤ 1) : exec (.bwait a b) s = .next (s.sendWait home pa (v == 1) false) := by
  refine (exec_bwait_asks ha hb hp hat).trans (runInstr_wait (p := fun u => u.sendWait home pa (v == 1) false) ?_)
  rw [bind_ok (trapIf_ok _ _ _ (decide_eq_false (Nat.not_lt.2 hv))), bne_zero_of_le_one hv]
  rfl

end
end

/-! ### BINIT (R264) -/

section
variable {o c par : Word} {k : Core}

/-- No parent: an address that is misaligned, too large, or the object's own. -/
theorem parentFlaw_iff : (par.toNat % 64 != 0 || slice par 63 48 != 0 || par == o) = true ↔
    par.toNat % 64 ≠ 0 ∨ 2 ^ 48 ≤ par.toNat ∨ par = o := by
  have hpar := par.isLt
  simp only [slice, bitsOf, Bool.or_eq_true, bne_iff_ne, beq_iff_eq]
  rw [or_assoc]
  refine or_congr_right (or_congr_left ?_)
  omega

theorem binitChecks_badCount (hc : countOk c = false) : binitChecks o c par k = .error (.trap causeBadOp c) :=
  bind_err (trapIf_trap _ _ _ (by rw [hc]; rfl))

variable (hc : countOk c = true)
include hc

theorem binitChecks_badParent (h : par.toNat % 64 ≠ 0 ∨ 2 ^ 48 ≤ par.toNat ∨ par = o) :
    binitChecks o c par k = .error (.trap causeBadOp par) := by
  rw [binitChecks, bind_ok (trapIf_ok _ _ _ (by rw [hc]; rfl))]
  exact trapIf_trap _ _ _ (parentFlaw_iff.2 h)

theorem binitChecks_ok (h : ¬ (par.toNat % 64 ≠ 0 ∨ 2 ^ 48 ≤ par.toNat ∨ par = o)) : binitChecks o c par k = .ok ((), k) := by
  rw [binitChecks, bind_ok (trapIf_ok _ _ _ (by rw [hc]; rfl))]
  exact trapIf_ok _ _ _ (Bool.eq_false_iff.2 (mt parentFlaw_iff.1 h))

end

section
variable {s w : State} {a b e : Reg} {va c par : Word} {k1 k2 k3 : Core} {home pa : Nat} {r : Nat × State}
  (ha : Source (s.core s.cur) a va k1) (hb : Source k1 b c k2) (he : Source k2 e par k3)
include ha hb he

theorem binit_guarded (hat : BarrierAt (s.setCore s.cur k3) va home pa w) (hg : w.guarded pa 64 = true) (hp : k1.priv ≠ 3) :
    Traps (.binit a b e) s causeProt va := by
  have hp3 : k3.priv ≠ 3 := by
    rw [source_rest he, source_rest hb]
    exact hp
  refine runInstr_trap ?_
  rw [twoOperands_bind ha hb, bind_ok (onCore_setCore (getX_of_source he)), bind_err (barTarget_guarded hat hg hp3)]

/-! Where the object may be written, `q` is the issuing core when its operands are read and the object is found. -/

variable {q : Core} (hw : w = s.setCore s.cur q) (hat : BarrierAt (s.setCore s.cur k3) va home pa w) (hg : w.guarded pa 64 = false)
include hw hat hg

theorem binit_refused {x : Word} (h : binitChecks va c par q = .error (.trap causeBadOp x)) : Traps (.binit a b e) s causeBadOp x := by
  have hcore : w.core w.cur = q := by rw [hw, State.setCore_cur, State.core_setCore_self]
  refine runInstr_trap ?_
  rw [twoOperands_bind ha hb, bind_ok (onCore_setCore (getX_of_source he)), bind_ok (barTarget_ok hat hg)]
  exact bind_err (onCore_err (hcore ▸ h))

theorem binit_writes (h : binitChecks va c par q = .ok ((), q)) (hack : Acked q)
    (hdie : homeDie w home = dieOf s.cur ∨ s.bridgeUp = true)
    (hr : r = w.binitAt home pa q.pts q.sv.ctxid.toNat (slice c 63 32) (slice c 31 8) (slice c 6 4) par.toNat) (hcur : r.2.cur = s.cur) :
    CompletesAt (.binit a b e) s (r.2.setCore s.cur (ptsFrom r.1 (r.2.core s.cur))) := by
  have hchecks : onCore (binitChecks va c par) w = .ok ((), w) := by rw [hw, onCore_setCore h]
  have hcur' : w.cur = s.cur := by rw [hw, State.setCore_cur]
  have hcore : w.core s.cur = q := by rw [hw, State.core_setCore_self]
  have hgo : (homeDie w home != dieOf s.cur && !w.bridgeUp) = false := by
    have hup : w.bridgeUp = s.bridgeUp := by rw [hw]; rfl
    rcases hdie with hd | hd <;> simp [hd, hup]
  refine runInstr_ok ?_
  rw [twoOperands_bind ha hb, bind_ok (onCore_setCore (getX_of_source he)), bind_ok (barTarget_ok hat hg), bind_ok hchecks,
    bind_ok (waitAcked_ok (by rwa [hcur', hcore])), rd_bind]
  dsimp only
  rw [hcur', bind_ok (waitIf_ok _ hgo)]
  simp only [wr, hcur', hcore, ← hr, hcur]
  rfl

end

/-! ### The statement -/

/-- Settles O41: past the checks of R256 each instruction sends one arrival or one wait, or writes the object, and what its slot has been
answered decides how it goes on. -/
theorem barrierInstructions : Obligations.BarrierInstructions := by
  intro s a va k1 ha
  refine ⟨fun hal hp hh => arrival_traps ha hp hh (barTarget_misaligned hal _), fun d v k2 => barr_delivers ha, fun d c v => barr_bad ha,
    fun d => barr_waits ha, fun home pa w hat hg hpriv hp hh => arrival_traps ha hp hh (barTarget_guarded hat hg hpriv), ?_,
    fun b v k2 hb => ⟨bwait_released ha hb, fun home pa w hp hat => ⟨bwait_noPennant ha hb hp hat, bwait_waits ha hb hp hat⟩⟩,
    barw_released ha, fun v home pa w => barw_waits ha, ?_⟩
  · intro home pa w hp hh hat hf hg hb u q hq hu
    rw [hu, ← sentArrival_eq hq]
    exact arrival_sends ha hp hh hat hf hg hb
  · intro b e c par k2 k3 home pa w r hb he hat
    obtain ⟨l, hw⟩ := setCore_of_barrierAt hat
    refine ⟨binit_guarded ha hb he hat, fun hg hc => binit_refused ha hb he hw hat hg (binitChecks_badCount hc),
      fun hg hc hpar => binit_refused ha hb he hw hat hg (binitChecks_badParent hc hpar), ?_⟩
    intro hg hc hal hlt hne hack hdie hr hcur
    refine binit_writes ha hb he hw hat hg (binitChecks_ok hc ?_) hack hdie hr hcur
    rintro (h | h | h)
    exacts [h hal, absurd h (Nat.not_le.2 hlt), hne h]

end Sys2Proof.Machine
